-- ==== Sys2Proof/Word.lean ====
section
/-! DEFINITION. The bit-vector types of the block and the sparse table; nothing here is an operation. -/

namespace Sys2Proof

/-- A register word of the management space (spec/00 "Registers and fields"). -/
abbrev Word := BitVec 24

/-- A byte. -/
abbrev Byte := BitVec 8

/-- A 48-bit value of two words (R10). -/
abbrev W48 := BitVec 48

/-- A 72-bit counting value of three words (R10); it wraps (R434). -/
abbrev W72 := BitVec 72

/-- One 64 B line of user data, byte 0 in the highest 8 bits. -/
abbrev Line := BitVec 512

/-- One stored half of a line: the 36 symbols of R211, c_0 in the highest 8 bits. -/
abbrev Half := BitVec 288

/-- A sparse table: keys strictly rising, no entry equal to the table's default. An unlisted key holds the default. -/
abbrev Tbl (α : Type) := List (Nat × α)

end Sys2Proof
end

