-- ==== Sys2Proof/Syntax.lean ====
section
/-! DEFINITION. The commands of the block: one constructor of `Instr` per row of spec/opcode_table.json, with the
operands the spec's text gives the row. -/

namespace Sys2Proof

/-- Where a management access arrives and under which tag it is answered (R29, R120): a port's management channel. -/
structure Via where
  port : Nat
  tag  : BitVec 8
  deriving DecidableEq, Repr

/-- What a data-path descriptor carries (R104), with the time within the beat, in ns, at which it passes lookup (R135). -/
structure ReqHdr where
  port     : Nat
  flow     : Nat
  province : Nat
  tag      : BitVec 12
  line     : BitVec 30
  ns       : Nat
  deriving DecidableEq, Repr

/-- What arrives at a port up to the last bit of a flit (R99, R119): the symbols on each lane in use, in ascending lane
order, since the flit before; whether the adapter resends the flit; and the arrival time of its first bit, in ps from the
expected reference edge with the phase of that edge, in ns, to the stack's own. -/
structure Arrival where
  lanes    : List (List (BitVec 10))
  replayed : Bool
  atPs     : Int
  phaseNs  : Int
  deriving DecidableEq, Repr

/-- Channel `ch` at a time in ps since cold reset: what an event of a channel names when entries of its queues take their age
from it (R163). -/
structure ChanAt where
  ch   : Nat
  atPs : Nat
  deriving DecidableEq, Repr

/-- The copy of a row of channel `ch` (R239): what errors flip in the bursts of the row's columns, by column. -/
structure RowCopy where
  ch   : Nat
  errs : List (Nat × Half × Half)
  deriving DecidableEq, Repr

/-- A command whose parity a tier finds wrong (R267): its rank, its number among the channel's commands, and its row, column
and bank as a record gives them (R352). -/
structure FailedCmd where
  rank  : Nat
  cmd   : Nat
  place : Word
  deriving DecidableEq, Repr

/-- An event of a fault source (R334): source number, instance number and detail word (R352). -/
structure FaultEv where
  src    : Nat
  inst   : Nat
  detail : Word
  deriving DecidableEq, Repr

/-- What starts RECOVERY besides a write (R114). -/
inductive RetrainTrigger where
  | naks | fecLoss | signalLoss (lanes : BitVec 4) | symbolRate
  deriving DecidableEq, Repr

/-- The test accesses that pass the gate (R309, R310). -/
inductive TestKind where
  | internalScan | ieee1500 | cipherBist
  deriving DecidableEq, Repr

/-- The taps at which a lane passed a sweep (R388), bit i for tap i, for each direction. -/
structure LaneEye where
  lane : Nat
  rd   : BitVec 128
  wr   : BitVec 128
  deriving DecidableEq, Repr

/-- What a Survey measures: the eyes of lanes 0–85, and those of the spares by group (R384, R388). -/
structure SurveyEyes where
  lanes  : List LaneEye
  spares : List LaneEye
  deriving DecidableEq, Repr

/-- A failure that a BIST found (R398, R402, R407). -/
structure BistFail where
  rank   : Nat
  bg     : Nat
  bank   : Nat
  row    : Nat
  column : Nat
  lane   : Nat
  beat   : Nat
  spare  : Bool
  deriving DecidableEq, Repr

/-- The commands. Every constructor is a row of spec/opcode_table.json. A `Via` operand is the path of a management
access; `data` is the word written; `n`, `c`, `t`, `d`, `e`, `q`, `f` number a port, channel, tier, domain, engine,
queue, flow. -/
inductive Instr where
  | registerWrite (via : Via) (addr data : Word)
  | readClear (via : Via) (addr : Word)
  | snapshotRead (via : Via) (addr : Word)
  | lowerWordWrite (via : Via) (addr data : Word)
  | multiWordCommit (via : Via) (addr data : Word)
  | sidebandCommandPhase (op : Byte) (addr data : Word)
  | sidebandResponsePhase (groups : Nat)
  | sidebandInterfaceReset
  | gazetteerBuild
  | beatEdge
  | referenceEdge (devNs : Int) (widthNs : Nat) (phaseNs : Int)
  | referenceLoss (frequency : Bool)
  | merSourceWrite (via : Via) (data : Word)
  | merArmWrite (via : Via) (data : Word)
  | phaseSlewComplete (phaseNs : Int)
  | holdoverLimit
  | provinceProbe (via : Via) (p : Nat) (data : Word)
  | portDetectSignal (n : Nat) (lanes : BitVec 4)
  | trainingComplete (n : Nat) (lanesOk : BitVec 4)
  | trainingFail (n : Nat)
  | trainingTimeout (n : Nat)
  | trainFlitReceive (n : Nat) (header : BitVec 128) (head ident asks tail : List Byte)
  | recoveryEntry (n : Nat) (why : RetrainTrigger)
  | recoveryComplete (n : Nat) (lanesOk : BitVec 4)
  | recoveryAttemptFail (n : Nat)
  | glkRetrain (via : Via) (n : Nat) (data : Word)
  | glkPortReset (via : Via) (n : Nat) (data : Word)
  | flitReceive (n : Nat) (arrival : Arrival)
  | nakReceive (n : Nat) (seq : BitVec 12)
  | ackReceive (n : Nat) (seq : BitVec 12)
  | creditMessage (n : Nat) (cls : Nat) (count : BitVec 16) (init : Bool)
  | beatMessage (n : Nat) (epoch : Bool) (offset : BitVec 17) (atPs phaseNs : Int)
  | creditReturn (n : Nat) (descs datas : Nat)
  | flitSlot (n : Nat)
  | completionFormed (id : Nat)
  | stackDownEnd (n : Nat)
  | galeOrderedSetEnd (n : Nat)
  | eventRecordSend (q : Nat)
  | read64 (h : ReqHdr)
  | read128 (h : ReqHdr)
  | read256 (h : ReqHdr)
  | write64 (h : ReqHdr) (data : BitVec 512)
  | write128 (h : ReqHdr) (data : BitVec 1024)
  | write256 (h : ReqHdr) (data : BitVec 2048)
  | mwrite64 (h : ReqHdr) (enables : BitVec 64) (data : BitVec 512)
  | fence (h : ReqHdr)
  | flush (h : ReqHdr)
  | engine (h : ReqHdr) (desc : BitVec 512)
  | reservedOpcode (h : ReqHdr) (op : BitVec 4)
  | requestDispatch
  | fenceComplete (id : Nat)
  | flushComplete (id : Nat)
  | flowWindowEdge (f : Nat)
  | budgetRecompute
  | evaluationBoundary
  | commandIssue (c : Nat) (nowPs : Nat)
  | ageCapReached (c : Nat) (entry : Nat) (nowPs : Nat)
  | pageIdleClose (c : Nat) (rank bank : Nat) (nowPs : Nat)
  | lineIdleWriteback (c : ChanAt) (line : Nat)
  | firstTouchFillDone (page : Nat)
  | opTargetWrite (via : Via) (c : Nat) (data : Word)
  | opDrainComplete (c : Nat)
  | pllLock (c : Nat)
  | pllLockTimeout (c : Nat)
  | selfRefreshExitDone (c : Nat)
  | patternCheckDone (c : Nat) (failing : BitVec 19)
  | readDataReturn (c : ChanAt) (errA errB : Half)
  | lullSlotStart (t : Nat)
  | lullReservationEnd (t : Nat)
  | housekeepingConversion (code : Word) (value : Int)
  | housekeepingRoundEnd
  | zephyrRead (c : ChanAt)
  | zephyrConfigWrite (via : Via) (c : Nat) (data : Word)
  | commitPointTimer (c : Nat)
  | remapCommitWrite (via : Via) (c : Nat) (data : Word)
  | repairCommitDone (c : Nat)
  | rowRepairDone (c : RowCopy)
  | nativeFillDone
  | sprRetire (via : Via) (data : Word)
  | migrationStart
  | migrationPointerAdvance
  | rescueSurveyDone (c : Nat) (eyes : SurveyEyes)
  | laneCheckDone (c : Nat) (eyes : List LaneEye) (spareEye : LaneEye) (centreErrors spareErrors : Bool)
  | tsvCheckWrite (via : Via) (c : Nat) (data : Word)
  | laneSteerStart (c : Nat)
  | laneSteerDone (c : Nat)
  | commandParityAlert (c : Nat) (cmd : FailedCmd)
  | clockAlert (c : Nat) (rank : Nat)
  | controlCheckDone (c : Nat) (badLane : Option Nat)
  | engineDescriptorStart (e : Nat)
  | checkUnitClaim (e : Nat)
  | engineLineRequest (e : Nat) (ns : Nat)
  | engineDone (e : Nat)
  | engineReset (via : Via) (e : Nat) (data : Word)
  | contextWrite (via : Via) (u : Nat) (offset : Nat) (data : Word)
  | nonceRead (via : Via)
  | sessionOpen (via : Via) (data : Word)
  | sessionClose (via : Via) (data : Word)
  | wrapWordWrite (via : Via) (i : Nat) (data : Word)
  | slotLoad (via : Via) (data : Word)
  | slotClear (via : Via) (data : Word)
  | slotCommandDone
  | zeroise (via : Via) (data : Word)
  | zeroisationDone (verified : Bool)
  | lcAdvance (via : Via) (data : Word)
  | testAccessRequest (kind : TestKind)
  | testAccessEnd
  | deviceKeyDerived
  | imageStart (via : Via) (data : Word)
  | imageDataWrite (via : Via) (data : Word)
  | imageReceiveTimeout
  | signatureVerified
  | admissionDone
  | imageCommit (via : Via) (data : Word)
  | imageAbort (via : Via) (data : Word)
  | imageSwitch
  | qspiBootLoad (headerA headerB : List Word)
  | faultEvent (evs : List FaultEv)
  | settleEnd (src inst : Nat)
  | faultRingWrite
  | firstFaultRearm (via : Via) (data : Word)
  | aliveToggle
  | domainEnableWrite (via : Via) (d : Nat) (data : Word)
  | domainWakeStart (d : Nat)
  | domainWakeDone (d : Nat)
  | domainParkDone (d : Nat)
  | domainCycleWaitEnd (d : Nat)
  | domainTimeout (d : Nat)
  | powerCapWrite (via : Via) (data : Word)
  | supplyHoldEntry (dram core : Bool)
  | supplyHoldRelease (us : Nat)
  | supplyLost
  | galeWritebackDone
  | galePark
  | surveyRequest (via : Via) (c : Nat) (data : Word)
  | surveyStart (c : Nat)
  | surveyDone (c : Nat) (eyes spareEyes : List LaneEye)
  | bistStart (via : Via) (c : Nat) (data : Word)
  | bistBegin (c : Nat)
  | bistAbort (via : Via) (c : Nat) (data : Word)
  | bistDone (c : Nat) (fails : List BistFail)
  | bistFillDone (c : Nat)
  | bstResultRead (via : Via) (c : Nat)
  | fuseRead (via : Via) (data : Word)
  | fuseProgram (via : Via) (data : Word)
  | fuseSeal (via : Via) (data : Word)
  | fuseLock (via : Via) (data : Word)
  | genSecret (via : Via) (data : Word)
  | fusePulseDone (hi lo : Bool)
  | fuseLoadComplete
  | counterSelect (via : Via) (n : Nat) (data : Word)
  | telemetryDump
  | dumpRecordWritten
  | logbookRecordWrite
  | logbookRotation
  | logClearPages (via : Via) (data : Word)
  | logClearRing (via : Via) (data : Word)
  | logClearJournal (via : Via) (data : Word)
  | logClearTraining (via : Via) (data : Word)
  | logClearSparing (via : Via) (data : Word)
  | logClearDone
  | logDataRead (via : Via)
  | powergoodRise
  | powergoodFall
  | resetNLow (ns : Nat)
  | resetNRise
  | coldResetCommand (via : Via) (data : Word)
  | warmResetCommand (via : Via) (data : Word)
  | channelResetCommand (via : Via) (data : Word)
  | tierResetCommand (via : Via) (data : Word)
  | warmQuiesceDone
  | warmHeldEnd
  | channelResetDone (c : Nat)
  | tierResetDone (t : Nat)
  | stackReady
  | refclkLoss
  | refclkRestored
  | testEnFall
  | glkDisableWrite (via : Via) (n : Nat) (data : Word)
  | qspiCopyReadDone (words : List Word)
  | secPeerSigWrite (via : Via) (offset : Nat) (data : Word)
  | vddAonDrop
  deriving DecidableEq, Repr

end Sys2Proof
end

