-- ==== Sys2Proof/Decode.lean ====
section
/-! DEFINITION. The command that a word spells. The table of operations and events gives no row any bits (each row's
field list is empty), so no word spells a command. -/

namespace Sys2Proof

/-- The command of a word, by the table's bits: none, since no row has bits. -/
def decodeTableWord (_nbits _w : Nat) : Option Instr := none

end Sys2Proof
end

