-- ==== Sys2Proof/Config.lean ====
section
/-! DEFINITION. The free values: what spec leaves open, as constants without a body, so that nothing can be proved of
the value they take. -/

namespace Sys2Proof

/-- What an undefined cell line holds, by loss of contents, rank and place (R361, power-up). Log 5. -/
opaque Config.cells : Nat → Nat → Nat → BitVec 288 × BitVec 288

/-- The 32 random bits of a neighbour-refresh draw, by free index (R179, R181). Log 6. -/
opaque Config.draw : Nat → BitVec 32

/-- A fresh nonce of the true random generator (R303). Log 6. -/
opaque Config.nonce : Nat → BitVec 96

/-- The device secret that GEN_SECRET takes from the true random generator (R418). Log 6. -/
opaque Config.secret : Nat → BitVec 256

/-- Whether a RESET_N pulse of 100 ns to 1 µs is acted on (R448). Log 7. -/
opaque Config.pulseActs : Nat → Bool

/-- The six check bits of the SECDED code of a non-zero data word: the manual names the code's kind, not its matrix
(R409). Log 8. -/
opaque Config.secded : Word → BitVec 6

/-- A trim field of the Trim bank, by the bank's words, class and field number: the manual gives no placement of the
fields in the words (R425). Log 9. -/
opaque Config.trimField : List Word → Nat → Nat → Int

/-- The body of a Logbook record of a kind whose layout the manual does not give, by kind and free index (R440). Log 10. -/
opaque Config.logBody : Nat → Nat → List Word

/-- What LOG_DATA reads at an address past the logical words of the Logbook (R439, R447). Log 153. -/
opaque Config.logPast : Nat → Word

/-- What a register read returns while internal scan is open, which leaves the crown's state undefined (R311). Log 11. -/
opaque Config.scanned : Nat → Word

/-- How the bit whose program pulse a power loss cuts short is sensed afterwards by the two references (R423). Log 18. -/
opaque Config.brokenPulse : Nat → Bool × Bool

/-- Byte i of a sideband response that the manual does not state: to an op byte that is neither read nor write, or past
the first four bytes of a response without a command (R482). Log 19. -/
opaque Config.sbByte : Nat → Nat → Byte

/-- The preset that the receiver of a port asks of the adapter's transmitter in its equalisation, by free index (R97 step 1,
R107): what it finds is not stated. Log 109. -/
opaque Config.preset : Nat → BitVec 4

/-- The training temperature of a Survey that starts while no tier of the channel has a valid reading, by free index
(R384, R387). Log 155. -/
opaque Config.trainTemp : Nat → Int

/-- The fixed receive delay of a port in ps (R119): the manual gives no figure. Log 110. -/
opaque Config.rxDelay : Nat → Int

end Sys2Proof
end

