-- ==== Sys2Proof/Machine/State.lean ====
section
/-! DEFINITION. The state of the block as plain data: everything spec/00 to spec/20 give it, unit by unit, with each
field at the value of cold reset; the queue of waiting commands; the reasons a step may stop. -/

namespace Sys2Proof.Machine

/-- Why a command could stop with a fault. No command of spec/opcode_table.json does: the spec gives each its effect. -/
inductive Fault where
  /-- Raised by nobody: kept so that the type names a reason. Safe. -/
  | unreachable
  deriving DecidableEq, Repr

/-- Why a command could be refused. -/
inductive Refusal where
  /-- Raised by an arm of `exec` whose command has no meaning yet. Safe. -/
  | notModelled (mnemonic : String)
  deriving DecidableEq, Repr

/-- The four variants (R1). -/
inductive Variant where
  | F | E | L | N
  deriving DecidableEq, Repr

/-- Completion status codes, in code order (R13). -/
inductive Status where
  | ok | corrected | poisoned | unwritten | refused | absent | outOfBudget | fenced
  deriving DecidableEq, Repr

/-! ### Access paths (R10, R12) -/

/-- What the stack holds per access path: paths 0–7 are the ports' management channels, path 8 the sideband. -/
structure Path where
  snap    : List Word := []
  held    : Tbl Word := []
  fltSel  : Word := 0
  logAddr : BitVec 18 := 0
  nonce   : Option (BitVec 96) := none
  peer    : Tbl Word := []
  sig     : Tbl Word := []
  wrap    : Tbl Word := []
  session : Option (BitVec 256) := none
  deriving DecidableEq, Repr

/-- A management response (R120). -/
structure MgtRsp where
  write  : Bool
  tag    : BitVec 8
  status : Status
  addr   : Word
  data   : Word
  deriving DecidableEq, Repr

/-- A management access waiting for a WAKING domain (R47). -/
structure HeldAcc where
  via   : Via
  write : Bool
  addr  : Word
  data  : Word
  deriving DecidableEq, Repr

/-- The sideband (R481, R482): the command waiting for its response, and the bytes of the last response. -/
structure Sideband where
  cmd      : Option (Byte × Word × Word) := none
  answered : List Byte := []
  deriving DecidableEq, Repr

/-! ### Reset control (spec/19) -/

/-- RST_STATUS.phase (R462). -/
inductive Phase where
  | fuse | held | quiesce | image | bist | fill | ready
  deriving DecidableEq, Repr

structure Rst where
  phase       : Phase := .fuse
  bistSkipped : Bool := false
  /-- Start-up tests still to request, in order: kind, channel, rank (R453). -/
  bistPlan    : List (Nat × Nat × Nat) := []
  chanBusy    : List Nat := []
  tierBusy    : Option Nat := none
  cause       : BitVec 3 := 0
  warmCount   : BitVec 12 := 0
  readyStamp  : W48 := 0
  readyBeats  : Word := 0
  bootBist    : BitVec 2 := 0
  /-- The elapsed beat of the rise of PWRGOOD or of the warm trigger (R463). -/
  trigger     : Nat := 0
  /-- A warm reset runs, from its trigger to READY (R455). -/
  warm        : Bool := false
  /-- Ranks 5c+k whose fill must end before READY (R234, R401). -/
  fillsDue    : List Nat := []
  /-- The whole fill of R227 or R229 is due. -/
  fillDue     : Bool := true
  /-- The fill of the pages not inked that follows a change to native mode is due (R234). -/
  pagesDue    : Bool := false
  deriving DecidableEq, Repr

/-! ### Meridian (spec/03) -/

/-- MER_STATUS.state (R58). -/
inductive MerSt where
  | free | qualify | locked | holdover
  deriving DecidableEq, Repr

structure Mer where
  count       : W48 := 0
  st          : MerSt := .free
  aligned     : Bool := false
  src         : BitVec 2 := 0
  markPort    : BitVec 3 := 0
  arm         : Bool := false
  epochNext   : W48 := 0
  epochLoaded : W48 := 0
  lossBeats   : Word := 0
  phase       : Word := 0
  qualifying  : Bool := false
  slewing     : Bool := false
  qualFails   : BitVec 6 := 0
  /-- Consecutive good edges of the qualification under way (R53). -/
  good        : Nat := 0
  /-- Consecutive expected edges missing or discarded (R53). -/
  missing     : Nat := 0
  /-- An epoch marker has marked the next beat edge (R55). -/
  marked      : Bool := false
  /-- An edge of the reference has been seen since its qualification began (R53). -/
  seen        : Bool := false
  /-- Fence of the time unit (R61): it stops nothing. -/
  fenced      : Bool := false
  deriving DecidableEq, Repr

/-! ### Garublink ports (spec/05) -/

/-- GLK_STATUS.state (R96, R122). -/
inductive PortSt where
  | off | detect | train | active | recovery | failed | signalDown | down
  deriving DecidableEq, Repr

/-- What a CTRL flit carries in its messages (R110): a CREDIT message, or an event record of a queue, which takes two
EVENT messages (R148). -/
inductive CtrlMsg where
  | credit (cls : Nat) (count : Nat) (init : Bool)
  | event (q : Nat) (record : BitVec 128)
  deriving DecidableEq, Repr

/-- A completion entry with its data lines (R109). -/
structure Cmp where
  status  : Status
  lines   : BitVec 4
  redir   : Bool
  arrPort : Nat
  tag     : BitVec 12
  data    : List Line
  deriving DecidableEq, Repr

/-- A symbol of the link's code (R99). -/
abbrev Sym10 := BitVec 10

/-- A flit as the stack sends it (R102). -/
inductive TxFlit where
  | idle
  | ctrl (ack : Option (BitVec 12)) (nak : Option (BitVec 12)) (msgs : List CtrlMsg)
  | mgt (rsps : List MgtRsp)
  | cmp (entries : List Cmp) (bytes : List Byte)
  | train (port : Nat) (preset : BitVec 4) (width : Nat) (lastGood : BitVec 12)
  deriving DecidableEq, Repr

/-- A descriptor received and not yet past flow lookup (R104), with the stream bytes received for it so far (R106). -/
structure RxDesc where
  flow     : Nat
  province : Nat
  op       : BitVec 4
  tag      : BitVec 12
  line     : BitVec 30
  data     : List Byte := []
  deriving DecidableEq, Repr

/-- A management request received and not yet executed (R120). -/
structure MgtMsg where
  write : Bool
  tag   : BitVec 8
  addr  : Word
  data  : Word
  deriving DecidableEq, Repr

structure Port where
  st         : PortSt := .off
  /-- A reaction has fenced the port; a port reset ends it (R339, R341). -/
  fenced     : Bool := false
  disable    : Bool := false
  width      : BitVec 2 := 0
  pair       : Bool := false
  foreign    : Bool := false
  /-- Consecutive beats in which a BEAT message arrived (R122 markers), and whether one arrived in this beat. -/
  markBeats  : Nat := 0
  markSeen   : Bool := false
  rxSeq      : BitVec 12 := 0
  hostSeen   : Word := 0
  signal     : BitVec 4 := 0
  inUse      : BitVec 4 := 0
  failed     : BitVec 4 := 0
  descFree   : Nat := 0
  dataFree   : Nat := 0
  markerOff  : BitVec 17 := 0
  fecCorr    : W72 := 0
  fecUncorr  : W72 := 0
  replays    : W72 := 0
  recoveries : Word := 0
  cmpDiscard : Word := 0
  /-- A recovery attempt of this RECOVERY has failed (R96). -/
  secondTry  : Bool := false
  /-- Identity step of the training under way (R107): a TRAIN flit has come, link version accepted, preset and width
  asked. -/
  identSeen  : Bool := false
  versionOk  : Bool := true
  preset     : BitVec 4 := 0
  widthAsked : Nat := 0
  lastGood   : BitVec 12 := 0
  txSeq      : BitVec 12 := 0
  /-- A sequenced flit has been received since the sequences started (R110). -/
  rxAny      : Bool := false
  /-- Symbols received on each lane in use and not yet decoded; message bits decoded and not yet a flit, each with
  whether its codeword was uncorrectable (R99, R101). -/
  rxLanes    : List (List Sym10) := []
  rxBits     : List (Bool × Bool) := []
  /-- Message bits of flits sent that do not fill a pair of codewords yet, and the symbols that the last pair put on each
  lane in use (R98, R99). -/
  txBits     : List Bool := []
  txLanes    : List (List Sym10) := []
  replayBuf  : List (BitVec 12 × TxFlit) := []
  resend     : List (BitVec 12 × TxFlit) := []
  nakSeq     : Option (BitVec 12) := none
  nakRun     : Nat := 0
  /-- The receiver discards sequenced flits until the expected one arrives (R112). -/
  discarding : Bool := false
  nakDue     : Bool := false
  ackGap     : Nat := 0
  /-- Credits the adapter holds (REQ descriptors, REQ data) and the stack holds (MGT responses, EVT) (R111). -/
  descCredit : Nat := 0
  dataCredit : Nat := 0
  /-- Descriptors whose buffers have freed and whose credit has not returned, oldest first: the units of a read, 0 for
  others; units of read and write requests whose credits returned in this beat (R369). -/
  freed      : List Nat := []
  retRead    : Nat := 0
  retWrite   : Nat := 0
  mgtInUse   : Nat := 0
  mgtRspCr   : Nat := 0
  evtCr      : Nat := 0
  rxq        : List RxDesc := []
  mgtIn      : List MgtMsg := []
  mgtOut     : List MgtRsp := []
  cmpOut     : List Cmp := []
  /-- The completion whose entry is sent and whose bytes are not all sent, with those bytes (R109). -/
  cmpPart    : Option (Cmp × List Byte) := none
  ctrlOut    : List CtrlMsg := []
  ctrlGap    : Nat := 31
  /-- Slots since the last MGT slot (R103). -/
  mgtGap     : Nat := 142
  /-- The flits of `resend` answer a NAK of the adapter (R126). -/
  resendNak  : Bool := false
  sent       : Option TxFlit := none
  /-- The ordered set sent on every lane in use (R118): none, stack-down (false) or Gale (true). -/
  orderedSet : Option Bool := none
  deriving DecidableEq, Repr

/-! ### Requests and flows (spec/05, spec/06) -/

/-- Request opcodes (R105). -/
inductive Op where
  | read64 | read128 | read256 | write64 | write128 | write256 | mwrite64 | fence | flush | engine | reserved
  deriving DecidableEq, Repr

/-- How far a request has come. -/
inductive Stage where
  /-- Past lookup, waiting for dispatch (R134). -/
  | waiting
  /-- In a channel queue or waiting for a merge read (R160, R173). -/
  | channel
  /-- A FLUSH waiting for the lines it awaits (R177). -/
  | flushing
  /-- Its outcome is known and its completion can be formed (R109). -/
  | done
  deriving DecidableEq, Repr

/-- A request past flow lookup. `id` is its place in lookup order (R117, R175). -/
structure Req where
  id       : Nat
  port     : Nat
  flow     : Nat
  province : Nat
  tag      : BitVec 12
  op       : Op
  /-- Device physical address of its first byte (R72). -/
  dpa      : Nat
  enc      : Bool
  slot     : Nat
  gen      : BitVec 8
  data     : BitVec 2048
  enables  : BitVec 64
  units    : Nat
  /-- The window edge (elapsed beat) after which its charge can no longer be returned (R131). -/
  window   : Nat
  /-- The window in which its units count as offered; none while they wait to count at the next opening (R135). -/
  counted  : Option Nat
  fixed    : Bool
  stage    : Stage
  status   : Status
  /-- Lines that a read found CORRECTED, and POISONED (R109). -/
  linesCorr : BitVec 4
  linesPois : BitVec 4
  /-- Lines that a COPY writes as poison, since their source was poisoned (R285). -/
  poison   : BitVec 4 := 0
  rdata    : List (Nat × Line)
  linesDue : Nat
  /-- The move engine whose request this is (R284). -/
  eng      : Option Nat
  /-- Its arrival port has failed since, so that its completion does not go there (R116). -/
  orphan   : Bool := false
  /-- It arrived in DOWN, so that its completion is formed in Fatal too (R118). -/
  inDown   : Bool := false
  /-- FLUSH: the line-buffer lines (channel, DPA line) and queued bursts it awaits (R177, R489). -/
  awaits   : List (Nat × Nat)
  deriving DecidableEq, Repr

/-- Run-time part of a flow contract (R133–R137, R157, R158). -/
structure FlowRt where
  floor       : Word := 0
  charged     : Word := 0
  offered     : Word := 0
  dispatched  : Word := 0
  lastDisp    : Word := 0
  missCount   : Word := 0
  oobCount    : Word := 0
  unjudged    : Word := 0
  /-- The current span is a whole window and is to be judged (R133). -/
  whole       : Bool := true
  /-- A condition of R136 has overlapped the current window. -/
  spoiled     : Bool := false
  lastMissed  : Bool := false
  lastUnjudged : Bool := false
  oobSince    : Bool := false
  irqUsed     : Bool := false
  /-- Elapsed beat of the last window edge. -/
  edge        : Option Nat := none
  deriving DecidableEq, Repr

/-- Flow engine (R134, R141–R146, R153, R154). -/
structure FlowEng where
  shortfall  : Bool := false
  factor     : BitVec 7 := 64
  shed       : BitVec 5 := 0
  clean      : BitVec 5 := 0
  entries    : Word := 0
  /-- An input of R141 changed, in beat `dueSince`: recompute at the next beat edge. -/
  due        : Bool := false
  dueSince   : Nat := 0
  /-- Every recomputation of the evaluation window under way fitted (R144). -/
  cleanSoFar : Bool := true
  lastEval   : Option Nat := none
  budget     : Tbl Nat := []
  commit     : Tbl Nat := []
  bondBudget : Tbl Nat := []
  bondCommit : Tbl Nat := []
  rr         : Tbl Nat := []
  nextId     : Nat := 0
  /-- Queues that a change found with their record of the window posted: they have it at the next boundary (R144). -/
  heldBack   : List Nat := []
  /-- Queues that have had their SHORTFALL record of this evaluation window, and the values last posted to each. -/
  posted     : List Nat := []
  lastPosted : Tbl Nat := []
  irqUsed    : List Nat := []
  deriving DecidableEq, Repr

/-- An event queue (R148, R149, R155): records oldest first. -/
structure EvQueue where
  recs   : List (BitVec 128) := []
  lostNow : BitVec 5 := 0
  lost   : BitVec 15 := 0
  deriving DecidableEq, Repr

/-! ### The tables of an image (spec/13 R321, R322) -/

structure BondCfg where
  log2 : BitVec 2
  host : Word
  deriving DecidableEq, Repr

/-- A province's layout (R87, R88) and attributes (R89). -/
structure Prov where
  valid    : Bool := false
  kind     : BitVec 2 := 0
  cls      : BitVec 2 := 0
  base     : BitVec 10 := 0
  count    : BitVec 11 := 0
  enabled  : Bool := false
  enc      : Bool := false
  writable : Bool := false
  deriving DecidableEq, Repr

/-- A flow contract (R127, R156, R157, R159). -/
structure FlowCfg where
  valid     : Bool := false
  cls       : BitVec 2 := 0
  bondFirst : BitVec 3 := 0
  bondLog2  : BitVec 2 := 0
  crank     : BitVec 4 := 0
  winM1     : BitVec 12 := 0
  guarantee : Word := 0
  ceiling   : Word := 0
  keySlot   : BitVec 12 := 0
  queue     : BitVec 6 := 0
  ctxV      : Bool := false
  ctx       : BitVec 14 := 0
  provs     : BitVec 1024 := 0
  deriving DecidableEq, Repr

structure QueueCfg where
  valid     : Bool := false
  bondFirst : BitVec 3 := 0
  bondLog2  : BitVec 2 := 0
  irqEn     : Bool := false
  deriving DecidableEq, Repr

/-- Everything an image sets; the values without a record are the defaults of R322. -/
structure Tables where
  bonds    : Tbl BondCfg := []
  provs    : Tbl Prov := []
  policy   : Bool := false
  evalLog2 : BitVec 4 := 10
  queues   : Tbl QueueCfg := []
  flows    : Tbl FlowCfg := []
  mgmtKey  : Option (Nat × Nat) := none
  /-- Slot s assigned to the bond (first, log2). -/
  slots    : Tbl (Nat × Nat) := []
  nrK      : BitVec 4 := 10
  lull     : Tbl (BitVec 7) := []
  limit    : BitVec 8 := 22
  plan     : BitVec 72 := BitVec.allOnes 72
  opMax    : Tbl (BitVec 2) := []
  faults   : Tbl Word := []
  dumpEn   : Bool := false
  dumpProv : BitVec 10 := 0
  dumpPer  : BitVec 16 := 1000
  dumpFirst : BitVec 14 := 0
  dumpCount : BitVec 15 := 0
  selects  : Tbl Word := []
  compat   : Bool := false
  deriving DecidableEq, Repr

/-- IMG_STATUS.phase (R325). -/
inductive LoadPhase where
  | idle | receive | verify | admission | ready | scheduled | switching
  deriving DecidableEq, Repr

structure Img where
  phase      : LoadPhase := .idle
  structural : Bool := false
  kind       : Bool := false
  owner      : Option Nat := none
  reason     : BitVec 5 := 0
  source     : BitVec 2 := 0
  inForce    : Bool := false
  received   : Nat := 0
  /-- Words received, newest first. -/
  words      : List Word := []
  target     : W48 := 0
  detail     : Word := 0
  imageId    : Word := 0
  revision   : Word := 0
  amendSeq   : Word := 0
  switched   : W48 := 0
  loads      : BitVec 12 := 0
  refusals   : BitVec 12 := 0
  shadow     : Option Tables := none
  /-- The elapsed beat of the edge to switch at, when no beat count is the target (R326, R328). -/
  firstEdge  : Option Nat := none
  /-- QSPI copies still to be tried, in order: 1 for A, 2 for B (R328). -/
  copies     : List Nat := []
  /-- The load from QSPI that follows a reset has not started (R328). -/
  bootDue    : Bool := false
  /-- No full image has been loaded since the last warm reset (R324). -/
  reloadOk   : Bool := false
  deriving DecidableEq, Repr

/-! ### Memory path (spec/07, spec/09) -/

/-- A line of the line buffer (R169, R171). -/
structure LbLine where
  dpaLine : Nat
  data    : Line
  dirty   : Bool
  enc     : Bool
  slot    : Nat
  gen     : BitVec 8
  /-- Elapsed beat of the last write (R170). -/
  written : Nat
  deriving DecidableEq, Repr

/-- What a channel-queue entry is for (R162, R216, R217, R251, R222). -/
inductive EKind where
  | hostRead | mergeRead | scrub | verify | migRead | placeRead
  | writeBack | bypassWrite | maskedBurst | corrWb | poisonRw | migWrite
  deriving DecidableEq, Repr

/-- A location in a channel: rank 0–4, bank 0–31 (group × 4 + bank), row, column (R78). -/
structure Loc where
  ch   : Nat
  rank : Nat
  bank : Nat
  row  : Nat
  col  : Nat
  deriving DecidableEq, Repr

/-- An entry of a channel queue (R160). A request of up to 256 B has one entry; `cols` are its columns still to issue. -/
structure Entry where
  id     : Nat
  kind   : EKind
  req    : Option Nat
  fixed  : Bool
  loc    : Loc
  cols   : List Nat
  /-- For writes: the code words per column. -/
  words  : List (Nat × Half × Half)
  /-- Halves that the burst writes (R489). -/
  mask   : Bool × Bool
  /-- DPA line of its first column; for a write of the migration engine the line index in the rank (R253). -/
  dpaLine : Nat
  since  : Nat
  aged   : Bool
  finder : BitVec 2
  /-- A column of the entry has issued. -/
  begun  : Bool
  /-- The line was written after this read issued: what it reads must not enter the line buffer (R175). -/
  stale  : Bool
  /-- Issued reads: the code words that the burst carries (R85, R236). -/
  got    : Half × Half
  /-- Issued reads: a remap entry served it, not the tier. -/
  fromEntry : Bool
  deriving DecidableEq, Repr

/-- A bank as the controller sees it (R166, R167, R179, R180); times in ps. -/
structure Bank where
  openRow : Option Nat := none
  hits    : Nat := 0
  nrf     : List (Nat × Nat) := []
  lastAct : Option Nat := none
  lastPre : Option Nat := none
  lastRd  : Option Nat := none
  lastWr  : Option Nat := none
  lastCol : Option Nat := none
  busyTo  : Nat := 0
  deriving DecidableEq, Repr

/-- CHN_STATUS.state (R186). -/
inductive ChanSt where
  | closed | opened | paused | hold | fenced
  deriving DecidableEq, Repr

/-- CHN_OP.seq (R185). -/
inductive OpSeq where
  | idle | drain | enter | relock | load | exit | check | wait
  deriving DecidableEq, Repr

structure Chan where
  pageIdle  : BitVec 6 := 12
  hitThresh : BitVec 4 := 8
  target    : BitVec 2 := 0
  current   : BitVec 2 := 0
  opMax     : BitVec 2 := 0
  seq       : OpSeq := .idle
  source    : BitVec 3 := 0
  /-- The point the sequence under way goes to, and a target latched meanwhile (R183). -/
  goingTo   : BitVec 2 := 0
  latched   : Option (BitVec 2 × BitVec 3) := none
  st        : ChanSt := .closed
  wmode     : Bool := false
  /-- The mode the bus returns to after Fixed work turned it (R165). -/
  turnedFrom : Option Bool := none
  rdq       : List Entry := []
  wrq       : List Entry := []
  /-- Entries formed while their queue had no free place for their class: they enter it, oldest first, as places free
  (R160, R161). -/
  rdWait    : List Entry := []
  wrWait    : List Entry := []
  /-- Reads issued whose bursts have not returned, oldest first: entry and column. -/
  inflight  : List (Entry × Nat) := []
  banks     : Tbl Bank := []
  nextEntry : Nat := 0
  acts      : Nat := 0
  maxWait   : Word := 0
  maxWaitFx : Word := 0
  lastColPs : Option (Nat × Nat × Bool) := none
  actTimes  : List (Nat × Nat × Nat) := []
  refTimes  : Tbl Nat := []
  /-- Rank to the time before which it takes no command: tXS after it left self-refresh (R167). -/
  wakeAt    : Tbl Nat := []
  lb        : List LbLine := []
  merge     : List Nat := []
  rdBursts  : W72 := 0
  wrBursts  : W72 := 0
  actsCnt   : W72 := 0
  rowHits   : W72 := 0
  rmw       : W72 := 0
  nrfCnt    : W72 := 0
  aged      : W72 := 0
  turns     : W72 := 0
  lbHits    : W72 := 0
  /-- Draws since the last reseed (R181). -/
  draws     : Nat := 0
  deriving DecidableEq, Repr

/-- What the cells of a rank hold: its background (undefined, or the zero fill) and the lines that differ (R19, R227). -/
structure RankMem where
  filled : Bool := false
  lines  : Tbl (Half × Half) := []
  /-- Repair registers: (bank × 16384 + row) to spare-row index (R239). -/
  repair : Tbl Nat := []
  /-- Spare rows that are unusable: bank × 16 + index (R421). -/
  badSpares : List Nat := []
  /-- Which loss of contents the undefined cells date from: it indexes their free values. -/
  lost   : Nat := 0
  deriving DecidableEq, Repr

/-- Remap entry states (R235). -/
inductive RemapSt where
  | pending | committed | rowQueued
  deriving DecidableEq, Repr

/-- A remap entry in use; `recorded` says whether its line record is in the Repair bank. -/
structure Remap where
  st       : RemapSt
  loc      : Loc
  words    : Half × Half
  recorded : Bool
  deriving DecidableEq, Repr

/-- A record a commit point writes (R420, R422). -/
inductive RepairRec where
  | line (loc : Loc)
  | row (rank bank row spare : Nat)
  | lane (sel : Nat) (action : Nat)
  | spareBad (rank bank spare : Nat)
  deriving DecidableEq, Repr

/-- Channel integrity (spec/09 R241–R247). -/
structure Ecc where
  zephyrEn   : Bool := true
  period     : BitVec 6 := 24
  periodDeg  : BitVec 6 := 6
  forceDeg   : Bool := false
  fill       : BitVec 2 := 0
  zRank      : Nat := 0
  /-- Next line of the rank, in CLA[28:6]. -/
  zLine      : Nat := 0
  passes     : Word := 0
  /-- Elapsed beat at which the pass began, and ranks passed over for the rest of it (R223). -/
  passStart  : Nat := 0
  passedOver : List Nat := []
  /-- The pace in force: elapsed beat it was laid down at, lines then left and beats they are spread over; lines read
  since; elapsed beat of the last read; the period it was laid down for, in hours (R223). -/
  zPlan      : Nat × Nat × Nat := (0, 0, 0)
  zDone      : Nat := 0
  zLast      : Option Nat := none
  zHours     : Nat := 0
  /-- The pass has read its last line and waits for the end of the period. -/
  passOver   : Bool := true
  /-- The visit of an idle spare rank under way: one more than its lines still to request (R223). -/
  visit      : Nat := 0
  lastCe     : W48 := 0x0000_0003_FFC0
  lastUe     : W48 := 0x0000_0003_FFC0
  remap      : Tbl Remap := []
  sel        : BitVec 4 := 0
  busy       : Bool := false
  result     : BitVec 3 := 0
  rows       : BitVec 12 := 0
  exhausted  : Bool := false
  ceCount    : W72 := 0
  eraseFix   : W72 := 0
  ueCount    : W72 := 0
  poisonRd   : W72 := 0
  writebacks : W72 := 0
  wbDropped  : W72 := 0
  zreads     : W72 := 0
  unwritten  : W72 := 0
  fillLines  : W72 := 0
  /-- Elapsed beat of the next timed commit point (R238, R266), records due beside the entries, lines awaiting an entry. -/
  commitAt   : Option Nat := none
  due        : List RepairRec := []
  waitLines  : List Loc := []
  /-- Automatic commits stopped by a LIFECYCLE result (R238). -/
  noAuto     : Bool := false
  /-- Rows whose record is committed and whose copy is under way (R239): rank, bank, row, spare. -/
  rowsBusy   : List (Nat × Nat × Nat × Nat) := []
  deriving DecidableEq, Repr

/-! ### Refresh (spec/08) -/

/-- Refresh bands (R190). -/
inductive Band where
  | b1 | b2 | b4
  deriving DecidableEq, Repr

structure Tier where
  band     : Band := .b4
  catchup  : Bool := false
  hot      : Bool := false
  late     : Bool := false
  sensAOk  : Bool := false
  sensBOk  : Bool := false
  forced   : Bool := false
  /-- Last readings in 1/16 °C; none is 0x800. -/
  tempA    : Option Int := none
  tempB    : Option Int := none
  rises    : BitVec 12 := 0
  catchups : BitVec 12 := 0
  peak     : Option Int := none
  /-- Band of the slots, which follows `band` at the next slot (R193). -/
  slotBand : Band := .b4
  inSlot   : Bool := false
  /-- Elapsed beat of the last slot's start (R198). -/
  lastSlot : Option Nat := none
  /-- The array is held until its logic reset ends (R460), contents are undefined after waking (R361). -/
  inReset  : Bool := false
  /-- Fence of the tier: park when its last rank has left (R343). -/
  fencing  : Bool := false
  deriving DecidableEq, Repr

/-- Channel refresh block (R207–R210) and the slot's work on the channel's ranks. -/
structure Rfr where
  inSr     : BitVec 5 := 0
  inSlot   : BitVec 5 := 0
  owedSel  : BitVec 3 := 0
  issued   : W72 := 0
  skipped  : W72 := 0
  repaid   : W72 := 0
  catchup  : W72 := 0
  /-- Owed count per rank × 32 + bank (R199). -/
  owed     : Tbl (BitVec 4) := []
  /-- Commands of the slot under way still to issue, per rank: the remaining bank order (R196). -/
  slotLeft : Tbl (List Nat) := []
  /-- Ranks whose slot under way is skipped whole (R197). -/
  skipping : BitVec 5 := 0
  /-- Rank × 32 + bank to the next of the 512 groups of 32 rows that a refresh covers (R189). -/
  rowPtr   : Tbl Nat := []
  /-- Rank to the bank at which its pass of catch-up goes on (R200). -/
  passNext : Tbl Nat := []
  deriving DecidableEq, Repr

/-! ### Sparing and lanes (spec/10) -/

/-- SPR_CH_STATUS.state (R272). -/
inductive ChSt where
  | normal | laneDegraded | rescue | evacuating | fenced | lost
  deriving DecidableEq, Repr

/-- SPR_CH_RANK.state (R250, R272). -/
inductive RankSt where
  | inService | pending | migrating | retiredSpare | retiredReserve | fenced | spareIdle | spareHolding | spareUnusable
  deriving DecidableEq, Repr

structure RankSp where
  st     : RankSt := .inService
  cause  : BitVec 3 := 0
  why    : BitVec 3 := 0
  holder : BitVec 3 := 0
  /-- Reserve granules taken, in order (R81). -/
  grans  : List Nat := []
  /-- MIGRATING or RETIRED_RESERVE into the reserve rather than rank 4. -/
  toRes  : Bool := false
  /-- Its contents are a fill's zeros: the engine fills the target instead of copying (R398). -/
  fillOnly : Bool := false
  /-- Lines below this were already copied to rank 4 by a stopped migration (R257). -/
  oldPtr : Nat := 0
  deriving DecidableEq, Repr

/-- SPR_STATUS.state (R270). -/
inductive MigSt where
  | idle | start | copy | paused | finish
  deriving DecidableEq, Repr

structure Mig where
  st         : MigSt := .idle
  ch         : Nat := 0
  rank       : Nat := 0
  toRes      : Bool := false
  pointer    : Nat := 0
  /-- The next line to read from the source and the next to write to the target (R253). -/
  readPos    : Nat := 0
  writePos   : Nat := 0
  /-- The staging (R27, R253): line index to its words, from its read to its write. -/
  staged     : Tbl (Half × Half) := []
  /-- The 64-beat window under way and the units of it used (R252). -/
  win        : Nat := 0
  used       : Nat := 0
  order      : List Nat := []
  ceiling    : BitVec 11 := 625
  migrations : Word := 0
  fences     : Word := 0
  copied     : W72 := 0
  poisoned   : W72 := 0
  genSel     : Tbl (BitVec 3) := []
  deriving DecidableEq, Repr

/-- What waits for a check of the channel's lanes (R263, R267): a suspect data lane, a command that failed four issues with
its rank, or a control lane that a clock alert or a request names. -/
inductive CheckWait where
  | data (lane : Nat) | command (rank : Nat) | control (lane : Nat)
  deriving DecidableEq, Repr

/-- TSV_STATUS.action (R274). -/
inductive TsvAct where
  | idle | check | steerWait | steer | rescue
  deriving DecidableEq, Repr

structure Tsv where
  /-- Data groups whose spare is used or bad; the lane each spare stands in (R274). -/
  spareUsed : BitVec 4 := 0
  steered   : Tbl Nat := []
  caLane    : Option Nat := none
  clkPair   : Option Nat := none
  caUsed    : Bool := false
  clkUsed   : Bool := false
  erasedA   : List Nat := []
  erasedB   : List Nat := []
  action    : TsvAct := .idle
  runLane   : BitVec 7 := 0
  runCount  : Nat := 0
  sel       : BitVec 7 := 0
  suspects  : Word := 0
  cleared   : Word := 0
  caRetries : Word := 0
  /-- The lane under check or steer; a lane confirmed bad and waiting for its steer. -/
  lane      : Nat := 0
  /-- Failed issues of one command, with its rank and its number (R267); row, column and bank of it (R352). -/
  fails     : Nat × Nat × Nat := (0, 0, 0)
  failAt    : Word := 0
  /-- Checks that wait until nothing holds the channel, in order (R262, R267). -/
  waits     : List CheckWait := []
  /-- Ranks whose tiers raised a clock alert since the last check began. -/
  clkRanks  : List Nat := []
  /-- What started the control check under way: the rank of a failing command, or the ranks of the clock alerts. -/
  ctlFrom   : Option Nat := none
  ctlRanks  : List Nat := []
  /-- Checks in a row that found no lane, per rank (R267 step 4). -/
  noLane    : Tbl Nat := []
  /-- The check or steer under way is of the control group (R267). -/
  ctlCheck  : Bool := false
  deriving DecidableEq, Repr

structure Spr where
  st  : ChSt := .normal
  sel : BitVec 3 := 0
  deriving DecidableEq, Repr

/-! ### Training and BIST (spec/16) -/

/-- A lane's delays and eye widths in taps (R389, R404). -/
structure LaneSet where
  rdDelay : Nat
  rdWidth : Nat
  wrDelay : Nat
  wrWidth : Nat
  deriving DecidableEq, Repr

/-- A delay set: source (1 trims, 2 Survey, 3 Logbook), training temperature in 1/16 °C, lanes 0–85, and the spares: 86–89 of
the data groups, 90 command/address, 91 clock pair (R384). -/
structure DelaySet where
  source  : BitVec 2
  trained : Int
  lanes   : Tbl LaneSet
  deriving DecidableEq, Repr

/-- TRN_STATUS.action (R403). -/
inductive TrnAct where
  | idle | check | survey | suspended | wait
  deriving DecidableEq, Repr

structure Trn where
  log        : Bool := false
  restore    : Bool := false
  action     : TrnAct := .idle
  /-- Beats of sweep that the Survey has behind it at elapsed beat `since`, from which it sweeps on (R388). -/
  work       : Nat := 0
  since      : Nat := 0
  /-- The byte lane of the last lane check (R263). -/
  byteLane   : BitVec 5 := 0
  /-- A pattern check that a tier reset calls for has not started (R460). -/
  checkDue   : Bool := false
  stale      : Bool := false
  valid      : BitVec 3 := 0
  lastResult : BitVec 2 := 0
  trigger    : BitVec 3 := 0
  sets       : Tbl DelaySet := []
  tCh        : Option Int := none
  eyeLane    : BitVec 7 := 0
  eyeOp      : BitVec 2 := 0
  surveys    : Word := 0
  checkFails : Word := 0
  suspends   : Word := 0
  /-- A Survey wanted with this trigger, not yet started (R386, R392). -/
  wanted     : Option (BitVec 3) := none
  /-- The set loaded for the point has no valid stored set behind it: step 6 runs a Survey (R182). -/
  noSet      : Bool := false
  /-- Channel temperature when the Survey under way started (R384). -/
  startTemp  : Int := 0
  deriving DecidableEq, Repr

/-- BST_STATUS.state (R406). -/
inductive BstSt where
  | idle | wait | setup | run | refill | done
  deriving DecidableEq, Repr

structure Bst where
  st        : BstSt := .idle
  result    : BitVec 3 := 0
  reason    : BitVec 3 := 0
  kind      : BitVec 3 := 0
  rank      : BitVec 3 := 0
  unit      : BitVec 3 := 0
  inst      : BitVec 4 := 0
  fifo      : List W48 := []
  fifoLost  : Bool := false
  runs      : BitVec 12 := 0
  fails     : BitVec 12 := 0
  background : BitVec 2 := 0
  /-- The target to return to (R396). -/
  backTo    : BitVec 2 := 0
  /-- Place in request order (R395). -/
  order     : Nat := 0
  startup   : Bool := false
  deriving DecidableEq, Repr

/-! ### Engines and check units (spec/11) -/

/-- A descriptor in the stack's pool (R278), with where it stands. -/
structure Desc where
  flow    : Nat
  op      : BitVec 4
  order   : Bool
  init    : Bool
  final   : Bool
  alive   : BitVec 4
  tag     : BitVec 12
  srcPrv  : Nat
  srcOff  : Nat
  dstPrv  : Nat
  dstOff  : Nat
  len     : Nat
  pattern : BitVec 64
  /-- Lookup order of the ENGINE request (R285 order). -/
  after   : Nat
  /-- Context it uses, set at its start (R293). -/
  ctx     : Nat
  started : Bool
  /-- Next line to request, lines completed, and for two-step ops whether the write or second read is next. -/
  next    : Nat
  second  : Bool
  done    : Nat
  /-- Lines of the step under way, their source data, and which of them were poisoned (COPY, COMPARE). -/
  group   : Nat
  buf     : List Line
  bad     : BitVec 4
  /-- Stop: result code and index; the first poisoned index of a COPY. -/
  stop    : Option (Nat × Nat)
  poisAt  : Option Nat
  /-- Requests of the descriptor not yet completed. -/
  out     : List Nat
  /-- V and byte count of a CHECKSUM as its check units hold them; they are written back to the context when the
  descriptor parks, stops or ends (R291). -/
  work    : BitVec 64 × W48 := (0, 0)
  /-- It ends ABORTED once its requests under way have completed (R293). -/
  aborting : Bool := false
  /-- The flow's event queue at acceptance, for a record posted after the flow became invalid (R287, R293). -/
  queue   : Nat
  deriving DecidableEq, Repr

/-- A flow's descriptors, oldest first (R283, R295). -/
structure EngQ where
  descs   : List Desc := []
  running : Option Nat := none
  parked  : Bool := false
  lastTag : BitVec 12 := 0
  deriving DecidableEq, Repr

/-- ENG_STATUS.state (R294). -/
inductive EngSt where
  | idle | run | waitUnit | fenced
  deriving DecidableEq, Repr

structure Eng where
  st        : EngSt := .idle
  flow      : Nat := 0
  op        : BitVec 4 := 0
  lines     : Word := 0
  tag       : BitVec 12 := 0
  qSel      : BitVec 14 := 0
  descs     : W72 := 0
  bytesRd   : W72 := 0
  bytesWr   : W72 := 0
  parks     : W72 := 0
  aborts    : Word := 0
  poisonCp  : Word := 0
  /-- Units issued in this beat (R283, R369). -/
  issued    : Nat := 0
  deriving DecidableEq, Repr

/-- Stack-wide engine state (R281, R283, R295). -/
structure EngPool where
  queues  : Tbl EngQ := []
  reason  : BitVec 4 := 0
  refFlow : BitVec 14 := 0
  rr      : Tbl Nat := []
  deriving DecidableEq, Repr

/-- A check-unit context (R289). -/
structure Ctx where
  width   : BitVec 7 := 0
  refin   : Bool := false
  refout  : Bool := false
  poly    : BitVec 64 := 0
  init    : BitVec 64 := 0
  xorout  : BitVec 64 := 0
  value   : BitVec 64 := 0
  count   : W48 := 0
  result  : BitVec 64 := 0
  lastAlive : BitVec 4 := 0
  aliveV  : Bool := false
  busy    : Bool := false
  deriving DecidableEq, Repr

structure Chk where
  busy   : Bool := false
  ctx    : BitVec 14 := 0
  engine : BitVec 2 := 0
  sel    : BitVec 14 := 0
  /-- Taken out of use by CHK_FAULT until warm reset (R335). -/
  out    : Bool := false
  deriving DecidableEq, Repr

/-! ### Cipher and secrets (spec/12) -/

structure KeySlot where
  valid : Bool := false
  gen   : BitVec 8 := 0
  port  : BitVec 3 := 0
  kcv   : Word := 0
  key   : BitVec 512 := 0
  /-- Keys of earlier generations that requests past lookup may still use (R307). -/
  olds  : Tbl (BitVec 512) := []
  deriving DecidableEq, Repr

/-- A slot command under way: the slot, and the key and port it loads, or none for a clear (R307). -/
structure SlotCmd where
  slot : Nat
  load : Option (BitVec 512 × Nat)
  deriving DecidableEq, Repr

structure Cip where
  result  : BitVec 3 := 0
  cmd     : Option SlotCmd := none
  slot    : BitVec 12 := 0
  fenced  : Bool := false
  enc     : W72 := 0
  dec     : W72 := 0
  zero    : W72 := 0
  deriving DecidableEq, Repr

/-- SEC_STATE.zstate (R316). -/
inductive ZSt where
  | idle | clearing | done | failed
  deriving DecidableEq, Repr

structure Sec where
  /-- Life-cycle state, read from the Lock bank at the fuse load (R309). -/
  lc       : BitVec 2 := 0
  zst      : ZSt := .idle
  gate     : Bool := false
  gateKind : BitVec 2 := 0
  /-- The test access that waits for zeroisation. -/
  wanted   : Option TestKind := none
  devkey   : Option Nat := none
  /-- The device key is being derived (R302). -/
  keyDue   : Bool := true
  /-- The zeroisation under way was started by the cipher fence alone (R312). -/
  zKeep    : Bool := false
  devpub   : Nat × Nat := (0, 0)
  zcount   : Word := 0
  deriving DecidableEq, Repr

/-! ### Fault collector (spec/14) -/

/-- Level, count and window of one instance (R338), with its totals (R358). -/
structure SrcInst where
  level  : Nat := 0
  /-- The level is the source's base until counting or a sheet has moved it. -/
  touched : Bool := false
  count  : Nat := 0
  start  : Nat := 0
  events : W72 := 0
  conseq : Word := 0
  deriving DecidableEq, Repr

/-- An event detected and not yet classified; `rescue` marks the starting event of a rescue (R342), `force` the
escalation of R59. -/
structure Detected where
  src    : Nat
  inst   : Nat
  detail : Word
  rescue : Bool := false
  force  : Bool := false
  deriving DecidableEq, Repr

/-- Reactions that reset a block and mask detectors (R341). -/
inductive Reaction where
  | port (n : Nat) | channel (c : Nat) | tierPark (t : Nat) | engine (e : Nat) | cipher | housekeeping | domain (d : Nat)
  deriving DecidableEq, Repr

/-- A settle time running: what masks, the cause, and the elapsed beat at which it ends (R348). `units` are the check
units and the flow that the reaction of an engine named when it acted. -/
structure Mask where
  what  : Reaction
  cause : Nat
  inst  : Nat
  until_ : Nat
  units : List Nat
  flow  : Option Nat
  deriving DecidableEq, Repr

/-- An entry of the fault ring (R352). -/
structure RingEntry where
  source   : Nat
  severity : Nat
  esc      : Bool
  conseq   : Bool
  first    : Bool
  inst     : Nat
  cause    : Nat
  stamp    : W48
  detail   : Word
  /-- The slots it also goes to, one in each first-fault page that was open (R351). -/
  page     : List Nat
  deriving DecidableEq, Repr

structure Flt where
  settle    : BitVec 10 := 50
  irqSev    : BitVec 2 := 1
  irqEn     : Bool := true
  fatal     : Bool := false
  gale      : Bool := false
  irq       : Bool := false
  pagesUsed : Nat := 0
  /-- FLT_FIRST fields (R355). -/
  valid     : Bool := false
  overflow  : Bool := false
  severity  : BitVec 2 := 0
  source    : BitVec 7 := 0
  inst      : BitVec 14 := 0
  later     : BitVec 10 := 0
  stamp     : W48 := 0
  head      : Nat := 256
  queue     : List RingEntry := []
  lost      : Word := 0
  /-- Pages being written and entries already in each (R351). -/
  page      : List (Nat × Nat) := []
  insts     : Tbl SrcInst := []
  detected  : List Detected := []
  masks     : List Mask := []
  /-- Elapsed beat of the last entry written (R353). -/
  lastWrite : Option Nat := none
  deriving DecidableEq, Repr

/-! ### Power, thermal, housekeeping (spec/15) -/

/-- PWR_DOM_STATUS.state (R360, R380). -/
inductive DomSt where
  | off | waking | on | parking | cycling | held
  deriving DecidableEq, Repr

structure Dom where
  st          : DomSt := .off
  enable      : Bool := false
  latched     : Bool := false
  queued      : Bool := false
  transitions : Word := 0
  /-- Held OFF when its park ends, until cold reset (R341, R343). -/
  heldOff     : Bool := false
  /-- CYCLING while the park (false) or the wake (true) that was under way completes; the 20 µs wait has begun. -/
  cycWaking   : Bool := false
  waiting     : Bool := false
  deriving DecidableEq, Repr

structure Pwr where
  limFm      : BitVec 5 := 22
  limEff     : BitVec 5 := 22
  /-- L_therm in 5 W steps (R368). -/
  ltherm     : BitVec 5 := 22
  kp         : BitVec 7 := 64
  floor      : BitVec 5 := 13
  hold       : Bool := false
  floorBound : Bool := false
  power      : BitVec 12 := 0
  dramLow    : Bool := false
  coreLow    : Bool := false
  causeDram  : Bool := false
  causeCore  : Bool := false
  holds      : Word := 0
  holdMax    : Word := 0
  /-- PWR_GALE (R379). -/
  gale       : Bool := false
  galeDone   : Bool := false
  galeKind   : Bool := false
  galeSensor : BitVec 5 := 0
  galeRead   : BitVec 12 := 0
  overRun    : Nat := 0
  cool       : BitVec 4 := 0
  crownHot   : Bool := false
  stepsDown  : BitVec 12 := 0
  stepsUp    : BitVec 12 := 0
  crownMax   : Option Int := none
  peak       : Option Int := none
  /-- Gale's write-back has ended (R375). -/
  galeWb     : Bool := false
  /-- SUPPLY_LOST has been raised for the hold under way (R372). -/
  lost       : Bool := false
  deriving DecidableEq, Repr

/-- One conversion: raw code, full reading (1/16 °C, mV or 0.1 A), and whether the code lay at an end of the range. -/
structure Conv where
  code  : Word := 0
  value : Int := 0
  atEnd : Bool := true
  deriving DecidableEq, Repr

structure Hkp where
  slot   : BitVec 7 := 0
  refOk  : Bool := false
  rounds : Word := 0
  now    : Tbl Conv := []
  last   : Tbl Conv := []
  /-- Results of the last round that failed its reference check are invalid. -/
  lastOk : Bool := false
  fenced : Bool := false
  deriving DecidableEq, Repr

/-! ### Fuses (spec/17) -/

/-- A fuse word as the two references sense it (R410): all check and data bits, data in the highest 24. -/
structure FuseWord where
  hi : BitVec 30 := 0
  lo : BitVec 30 := 0
  deriving DecidableEq, Repr

/-- What a program operation is for. -/
inductive FuseJob where
  | cmd | lifeCycle | commit (c : Nat)
  deriving DecidableEq, Repr

/-- A program operation under way (R413): the word, its target code word, bits still to set, failed tries of the bit,
and the words that follow it. -/
structure FuseOp where
  job   : FuseJob
  bank  : Nat
  word  : Nat
  goal  : BitVec 30
  bits  : List Nat
  tries : Nat
  rest  : List (Nat × Nat × BitVec 30)
  /-- A pulse of the bit is under way or due; false while the operation waits for a supply hold to end (R423). -/
  live  : Bool
  /-- Stops after the verify of the bit in progress (R423). -/
  stopping : Bool
  deriving DecidableEq, Repr

/-- FUS_BANK (R430). -/
structure FuseBank where
  valid     : Bool := false
  locked    : Bool := false
  sealed_   : Bool := false
  sealOk    : Bool := false
  marginal  : BitVec 10 := 0
  corrected : BitVec 10 := 0
  deriving DecidableEq, Repr

structure Fus where
  array   : Tbl FuseWord := []
  wdata   : Word := 0
  busy    : Bool := false
  result  : BitVec 4 := 0
  outcome : BitVec 2 := 0
  corrected : Bool := false
  loaded  : Bool := false
  rdata   : Word := 0
  banks   : Tbl FuseBank := []
  areaSel : BitVec 5 := 0
  redirects : BitVec 6 := 0
  factory : BitVec 5 := 0
  boot    : BitVec 5 := 0
  pulses  : Word := 0
  retries : BitVec 12 := 0
  verifyFails : BitVec 12 := 0
  op      : Option FuseOp := none
  /-- Jobs that wait for the controller, in arrival order (R423). -/
  queue   : List FuseJob := []
  /-- Records of the commit under way still to program, with the first of results 3, 4 met (R238). -/
  recs    : List RepairRec := []
  recRes  : BitVec 3 := 0
  recNow  : Option RepairRec := none
  lcGoal  : BitVec 2 := 0
  /-- The Trim bank's words as the last cold boot loaded them (R426, R427); none where every trim is nominal. -/
  trims   : List Word := []
  deriving DecidableEq, Repr

/-! ### Telemetry and Logbook (spec/18) -/

structure Counter where
  event : BitVec 12 := 0xFFF
  all   : Bool := false
  wrap  : Bool := false
  inst  : BitVec 8 := 0
  value : W72 := 0
  deriving DecidableEq, Repr

structure Tel where
  pause     : Bool := false
  head      : Word := 0
  seq       : Word := 0
  lastStamp : W48 := 0
  skipped   : Word := 0
  busy      : Bool := false
  stopped   : Bool := false
  cnts      : Tbl Counter := []
  /-- The record being written: its body lines still to write, then line 0; values taken at the dump beat (R435). -/
  recLines  : List (Nat × Line) := []
  recSlot   : Nat := 0
  recStamp  : W48 := 0
  /-- Dumps skipped since the last record, supply hold since the last dump. -/
  since     : Nat := 0
  heldSince : Bool := false
  lastDump  : Option Nat := none
  deriving DecidableEq, Repr

/-- The record kinds of R440, with what the model keeps of their content. -/
inductive LogRec where
  | rank (key : Nat) (r : RankSp)
  | survey (key : Nat) (d : DelaySet)
  | line (loc : Loc) (half : Nat) (hard : Bool) (syms : List Nat) (finder : BitVec 2) (prov : Option (Nat × Nat))
  | marginal (bank word : Nat)
  | pattern (c : Nat) (failing : BitVec 19)
  | bist (c : Nat) (f : BistFail)
  | clear
  deriving DecidableEq, Repr

structure Log where
  mem      : Tbl Word := []
  /-- Committed sparing map and Survey sets by key (R261, R391). -/
  map      : Tbl RankSp := []
  sets     : Tbl DelaySet := []
  /-- Logical addresses of the commit words of records outside the fault ring, oldest first (R440). -/
  commits  : List Nat := []
  /-- Records waiting: sparing map; Survey sets and clears; journal (R441). -/
  waitMap  : List (LogRec × W48) := []
  waitSet  : List (LogRec × W48) := []
  waitJrn  : List (LogRec × W48) := []
  credits  : Nat := 6144
  creditFr : Nat := 0
  written  : W48 := 0
  sinceGap : Nat := 0
  gap      : Nat := 340
  lost     : Word := 0
  busy     : Bool := false
  stateOk  : Bool := false
  jHead    : Nat := 32768
  /-- The fault ring's next circular entry, from which FLT_RING.head is rebuilt at boot (R351). -/
  fHead    : Nat := 256
  mHead    : Nat := 24576
  sHead    : Nat := 26624
  /-- Commit words that clears under way are to zero (R443). -/
  clearing : List Nat := []
  deriving DecidableEq, Repr

/-! ### Pins and straps (spec/20) -/

structure Pins where
  bootQspi : Bool := false
  bistSel  : BitVec 2 := 0
  sbAddr   : BitVec 3 := 0
  pwrgood  : Bool := true
  resetN   : Bool := true
  testEn   : Bool := false
  refclk   : Bool := true
  irqN     : Bool := true
  /-- Level of ALIVE while the stack drives it; none when released (R349, R486). -/
  alive    : Option Bool := none
  /-- Elapsed beat of the last toggle. -/
  aliveAt  : Option Nat := none
  thermtripN : Bool := true
  deriving DecidableEq, Repr

/-! ### The whole block -/

structure State where
  variant  : Variant := .F
  pins     : Pins := {}
  /-- Beats since cold reset; windows and settle times run on these (R62). -/
  elapsed  : Nat := 0
  /-- The latest time, in ps since cold reset, that a command has named (log 17). -/
  clock    : Nat := 0
  gazBuilt : Bool := false
  paths    : Tbl Path := []
  heldAcc  : List HeldAcc := []
  sb       : Sideband := {}
  rst      : Rst := {}
  mer      : Mer := {}
  ports    : Tbl Port := []
  reqs     : List Req := []
  flowRt   : Tbl FlowRt := []
  flw      : FlowEng := {}
  queues   : Tbl EvQueue := []
  tables   : Tables := {}
  img      : Img := {}
  probes   : Tbl (Nat × W48) := []
  chans    : Tbl Chan := []
  mem      : Tbl RankMem := []
  ecc      : Tbl Ecc := []
  inkAll   : Bool := false
  ink      : Tbl Bool := []
  filling  : List (Nat × Nat) := []
  tiers    : Tbl Tier := []
  rfr      : Tbl Rfr := []
  spr      : Tbl Spr := []
  ranks    : Tbl RankSp := []
  mig      : Mig := {}
  tsv      : Tbl Tsv := []
  trn      : Tbl Trn := []
  bst      : Tbl Bst := []
  bstNext  : Nat := 0
  engs     : Tbl Eng := []
  pool     : EngPool := {}
  ctxs     : Tbl Ctx := []
  chks     : Tbl Chk := []
  cip      : Cip := {}
  slots    : Tbl KeySlot := []
  sec      : Sec := {}
  flt      : Flt := {}
  pwr      : Pwr := {}
  doms     : Tbl Dom := []
  hkp      : Hkp := {}
  fus      : Fus := {}
  tel      : Tel := {}
  log      : Log := {}
  /-- MODEL's own: how many free values have been taken (log 4). -/
  freeIdx  : Nat := 1
  /-- MODEL's own: the commands that wait, first in first out. -/
  pending  : List Instr := []
  deriving DecidableEq, Repr

/-- The block right after cold reset with PWRGOOD high: every field at the spec's Reset value (R6), fuses blank and
Logbook empty (DESIGN CHOICE, log 3), the variant PX16-F (DESIGN CHOICE, log 1), push boot (DESIGN CHOICE, log 2). -/
def State.reset : State := {}

end Sys2Proof.Machine
end

