-- ==== Sys2Proof/Machine/Ops.lean ====
section
/-! DEFINITION. Named operations over the state: sparse tables, one reader and one writer per unit, the units a variant
has (R1), counting, free values, fault detection, event records, Logbook records and management responses. -/

namespace Sys2Proof.Machine

/-! ### Sparse tables -/

/-- What key `k` holds: the default `d` when unlisted. -/
def tget {α : Type} (d : α) : Tbl α → Nat → α
  | [], _ => d
  | (k', v) :: r, k => if k' = k then v else tget d r k

/-- Insert or replace an entry of a table without a default. -/
def tput {α : Type} : Tbl α → Nat → α → Tbl α
  | [], k, v => [(k, v)]
  | (k', v') :: r, k, v =>
    if k < k' then (k, v) :: (k', v') :: r
    else if k = k' then (k, v) :: r
    else (k', v') :: tput r k v

/-- Remove an entry. -/
def tdel {α : Type} (t : Tbl α) (k : Nat) : Tbl α := t.filter (fun e => e.1 != k)

/-- Set key `k` to `v`, keeping keys rising and the default unlisted. -/
def tset {α : Type} [DecidableEq α] (d : α) (t : Tbl α) (k : Nat) (v : α) : Tbl α :=
  if v = d then tdel t k else tput t k v

/-- Keys strictly rise, all above `lo`, and no entry holds the default. -/
def twfFrom {α : Type} [DecidableEq α] (d : α) : Nat → Tbl α → Bool
  | _, [] => true
  | lo, (k, v) :: r => decide (lo ≤ k) && decide (v ≠ d) && twfFrom d (k + 1) r

/-- The canonical form of a sparse table. -/
def twf {α : Type} [DecidableEq α] (d : α) (t : Tbl α) : Bool := twfFrom d 0 t

/-- An optional entry of a table without a default. -/
def tfind {α : Type} : Tbl α → Nat → Option α
  | [], _ => none
  | (k', v) :: r, k => if k' = k then some v else tfind r k

/-! ### One reader, one writer and one update per unit -/

def State.port (s : State) (i : Nat) : Port := tget {} s.ports i
def State.setPort (s : State) (i : Nat) (v : Port) : State := { s with ports := tset {} s.ports i v }
def State.modPort (s : State) (i : Nat) (g : Port → Port) : State := s.setPort i (g (s.port i))

def State.path (s : State) (i : Nat) : Path := tget {} s.paths i
def State.setPath (s : State) (i : Nat) (v : Path) : State := { s with paths := tset {} s.paths i v }
def State.modPath (s : State) (i : Nat) (g : Path → Path) : State := s.setPath i (g (s.path i))

def State.flowR (s : State) (i : Nat) : FlowRt := tget {} s.flowRt i
def State.setFlowR (s : State) (i : Nat) (v : FlowRt) : State := { s with flowRt := tset {} s.flowRt i v }
def State.modFlowR (s : State) (i : Nat) (g : FlowRt → FlowRt) : State := s.setFlowR i (g (s.flowR i))

def State.evq (s : State) (i : Nat) : EvQueue := tget {} s.queues i
def State.setEvq (s : State) (i : Nat) (v : EvQueue) : State := { s with queues := tset {} s.queues i v }
def State.modEvq (s : State) (i : Nat) (g : EvQueue → EvQueue) : State := s.setEvq i (g (s.evq i))

def State.chan (s : State) (i : Nat) : Chan := tget {} s.chans i
def State.setChan (s : State) (i : Nat) (v : Chan) : State := { s with chans := tset {} s.chans i v }
def State.modChan (s : State) (i : Nat) (g : Chan → Chan) : State := s.setChan i (g (s.chan i))

def State.rmem (s : State) (i : Nat) : RankMem := tget {} s.mem i
def State.setRmem (s : State) (i : Nat) (v : RankMem) : State := { s with mem := tset {} s.mem i v }
def State.modRmem (s : State) (i : Nat) (g : RankMem → RankMem) : State := s.setRmem i (g (s.rmem i))

def State.eccOf (s : State) (i : Nat) : Ecc := tget {} s.ecc i
def State.setEccOf (s : State) (i : Nat) (v : Ecc) : State := { s with ecc := tset {} s.ecc i v }
def State.modEccOf (s : State) (i : Nat) (g : Ecc → Ecc) : State := s.setEccOf i (g (s.eccOf i))

def State.tier (s : State) (i : Nat) : Tier := tget {} s.tiers i
def State.setTier (s : State) (i : Nat) (v : Tier) : State := { s with tiers := tset {} s.tiers i v }
def State.modTier (s : State) (i : Nat) (g : Tier → Tier) : State := s.setTier i (g (s.tier i))

def State.rfrOf (s : State) (i : Nat) : Rfr := tget {} s.rfr i
def State.setRfrOf (s : State) (i : Nat) (v : Rfr) : State := { s with rfr := tset {} s.rfr i v }
def State.modRfrOf (s : State) (i : Nat) (g : Rfr → Rfr) : State := s.setRfrOf i (g (s.rfrOf i))

def State.sprOf (s : State) (i : Nat) : Spr := tget {} s.spr i
def State.setSprOf (s : State) (i : Nat) (v : Spr) : State := { s with spr := tset {} s.spr i v }
def State.modSprOf (s : State) (i : Nat) (g : Spr → Spr) : State := s.setSprOf i (g (s.sprOf i))

def State.tsvOf (s : State) (i : Nat) : Tsv := tget {} s.tsv i
def State.setTsvOf (s : State) (i : Nat) (v : Tsv) : State := { s with tsv := tset {} s.tsv i v }
def State.modTsvOf (s : State) (i : Nat) (g : Tsv → Tsv) : State := s.setTsvOf i (g (s.tsvOf i))

def State.trnOf (s : State) (i : Nat) : Trn := tget {} s.trn i
def State.setTrnOf (s : State) (i : Nat) (v : Trn) : State := { s with trn := tset {} s.trn i v }
def State.modTrnOf (s : State) (i : Nat) (g : Trn → Trn) : State := s.setTrnOf i (g (s.trnOf i))

def State.bstOf (s : State) (i : Nat) : Bst := tget {} s.bst i
def State.setBstOf (s : State) (i : Nat) (v : Bst) : State := { s with bst := tset {} s.bst i v }
def State.modBstOf (s : State) (i : Nat) (g : Bst → Bst) : State := s.setBstOf i (g (s.bstOf i))

def State.eng (s : State) (i : Nat) : Eng := tget {} s.engs i
def State.setEng (s : State) (i : Nat) (v : Eng) : State := { s with engs := tset {} s.engs i v }
def State.modEng (s : State) (i : Nat) (g : Eng → Eng) : State := s.setEng i (g (s.eng i))

def State.ctx (s : State) (i : Nat) : Ctx := tget {} s.ctxs i
def State.setCtx (s : State) (i : Nat) (v : Ctx) : State := { s with ctxs := tset {} s.ctxs i v }
def State.modCtx (s : State) (i : Nat) (g : Ctx → Ctx) : State := s.setCtx i (g (s.ctx i))

def State.chk (s : State) (i : Nat) : Chk := tget {} s.chks i
def State.setChk (s : State) (i : Nat) (v : Chk) : State := { s with chks := tset {} s.chks i v }
def State.modChk (s : State) (i : Nat) (g : Chk → Chk) : State := s.setChk i (g (s.chk i))

def State.slot (s : State) (i : Nat) : KeySlot := tget {} s.slots i
def State.setSlot (s : State) (i : Nat) (v : KeySlot) : State := { s with slots := tset {} s.slots i v }
def State.modSlot (s : State) (i : Nat) (g : KeySlot → KeySlot) : State := s.setSlot i (g (s.slot i))

def State.dom (s : State) (i : Nat) : Dom := tget {} s.doms i
def State.setDom (s : State) (i : Nat) (v : Dom) : State := { s with doms := tset {} s.doms i v }
def State.modDom (s : State) (i : Nat) (g : Dom → Dom) : State := s.setDom i (g (s.dom i))

/-! ### Ranks: rank 4 of a channel starts SPARE_IDLE (R250, R272) -/

/-- The sparing state that rank k of a channel has with nothing recorded. -/
def rankDefault (k : Nat) : RankSp := if k = 4 then { st := .spareIdle } else {}

def rankKey (c k : Nat) : Nat := 5 * c + k

def State.rank (s : State) (c k : Nat) : RankSp := tget (rankDefault k) s.ranks (rankKey c k)

def State.setRankRaw (s : State) (c k : Nat) (v : RankSp) : State :=
  { s with ranks := tset (rankDefault k) s.ranks (rankKey c k) v }

/-! ### Which units a variant has (R1) -/

def hasSpare (v : Variant) : Bool := v = .F || v = .E
def hasCipher (v : Variant) : Bool := v = .F || v = .L
def nPorts (v : Variant) : Nat := if v = .N then 4 else 8
def nEngs (v : Variant) : Nat := match v with | .F | .E => 4 | .L => 2 | .N => 0
def portPresent (v : Variant) (n : Nat) : Bool := n < nPorts v
def tierPresent (v : Variant) (t : Nat) : Bool := t < 20 && (4 ≤ t || hasSpare v)
/-- R277: engines 0–3, 0–1 or none; the 16 check units exist wherever an engine does. -/
def engPresent (v : Variant) (e : Nat) : Bool := e < nEngs v
def chkPresent (v : Variant) (u : Nat) : Bool := u < 16 && v ≠ .N
def rankPresent (v : Variant) (k : Nat) : Bool := k < 4 || (k = 4 && hasSpare v)
def domPresent (v : Variant) (d : Nat) : Bool :=
  d < 72 &&
  match v with
  | .F => true
  | .E => d ≠ 45
  | .L => !(d = 43 || d = 44 || (52 ≤ d && d ≤ 55))
  | .N => !((5 ≤ d && d ≤ 8) || (41 ≤ d && d ≤ 45) || (51 ≤ d && d ≤ 55))

/-- The tier that holds rank k of channel c (R17, R18). -/
def tierOf (c k : Nat) : Nat := if k = 4 then c / 8 else 4 + 4 * k + c / 8

/-- The rank that tier t provides to the channels of its group (R17, R18). -/
def rankOfTier (t : Nat) : Nat := if t < 4 then 4 else (t - 4) / 4

/-- The channels with a rank on tier t, ascending. -/
def chansOfTier (t : Nat) : List Nat :=
  let g := if t < 4 then t else (t - 4) % 4
  (List.range 8).map (8 * g + ·)

/-- The ranks of a channel that the variant has. -/
def ranksOf (v : Variant) : List Nat := if hasSpare v then [0, 1, 2, 3, 4] else [0, 1, 2, 3]

/-- The domain that is ON: its unit can be reached and works (R360). PD0 always is. -/
def domOn (s : State) (d : Nat) : Bool := d = 0 || (s.dom d).st = .on

/-! ### Counting -/

/-- A saturating count (the "saturates" of the register maps). -/
def sat {w : Nat} (x : BitVec w) (k : Nat) : BitVec w :=
  if x.toNat + k < 2 ^ w then BitVec.ofNat w (x.toNat + k) else BitVec.allOnes w

/-- Advance one performance counter that selects the event and instance (R433); it wraps and sets its wrap bit (R434). -/
def Counter.advance (ev inst k : Nat) (c : Counter) : Counter :=
  if c.event.toNat = ev && (c.all || c.inst.toNat = inst) then
    { c with value := c.value + BitVec.ofNat 72 k, wrap := c.wrap || decide (2 ^ 72 ≤ c.value.toNat + k) }
  else c

/-- Count `k` of event `ev` of instance `inst` in every counter that selects it (R433). -/
def perf (s : State) (ev inst k : Nat) : State :=
  { s with tel := { s.tel with cnts := s.tel.cnts.map (fun e => (e.1, Counter.advance ev inst k e.2)) } }

/-! ### Free values -/

/-- Take the next free index (log 4). -/
def takeFree (s : State) : Nat × State := (s.freeIdx, { s with freeIdx := s.freeIdx + 1 })

/-! ### Fault detection: the collector classifies at FAULT_EVENT (R338) -/

/-- A block detects an event of source `src` of instance `inst` (R334). -/
def raise (s : State) (src inst : Nat) (detail : Word := 0) : State :=
  { s with flt := { s.flt with detected := s.flt.detected ++ [{ src := src, inst := inst, detail := detail }] } }

/-- The CHN_LANE_FAIL event that a failing channel raises as it enters RESCUE carries a mark (R342). -/
def raiseRescue (s : State) (c : Nat) : State :=
  { s with flt := { s.flt with detected := s.flt.detected ++ [{ src := 0x09, inst := c, detail := 0, rescue := true }] } }

/-- MERIDIAN_HOLDOVER raised to Fence by R59. -/
def raiseForced (s : State) (src inst : Nat) : State :=
  { s with flt := { s.flt with detected := s.flt.detected ++ [{ src := src, inst := inst, detail := 0, force := true }] } }

/-- Key of an instance of a source. -/
def instKey (src inst : Nat) : Nat := src * 16384 + inst

/-- Levels, counts and window starts of an instance return to base (R339); its totals stay. -/
def resetInst (s : State) (src inst : Nat) : State :=
  let r := tget {} s.flt.insts (instKey src inst)
  let v : SrcInst := { r with level := 0, touched := false, count := 0, start := 0 }
  { s with flt := { s.flt with insts := tset {} s.flt.insts (instKey src inst) v } }

/-! ### Logbook records (R440, R441) -/

/-- Queue a sparing-map record: never lost. -/
def logMap (s : State) (r : LogRec) : State :=
  { s with log := { s.log with waitMap := s.log.waitMap ++ [(r, s.mer.count)] } }

/-- Queue a Survey-set or region-clear record: never lost. -/
def logSet (s : State) (r : LogRec) : State :=
  { s with log := { s.log with waitSet := s.log.waitSet ++ [(r, s.mer.count)] } }

/-- Queue a journal record; a queue of 32 records loses what finds it full (R441). -/
def logJournal (s : State) (r : LogRec) : State :=
  if s.log.waitJrn.length < 32 then
    { s with log := { s.log with waitJrn := s.log.waitJrn ++ [(r, s.mer.count)] } }
  else { s with log := { s.log with lost := sat s.log.lost 1 } }

/-- Change a rank's sparing state; every change of rank state and every fence is recorded in the sparing map (R261). -/
def setRank (s : State) (c k : Nat) (v : RankSp) : State :=
  let s' := s.setRankRaw c k v
  if v.st = (s.rank c k).st then s' else logMap s' (.rank (rankKey c k) v)

/-! ### Event records (R148–R152) -/

/-- Build a record (R150). -/
def mkRecord (ty flow q : Nat) (irq : Bool) (lost : BitVec 5) (stamp : W48) (detail : BitVec 40) : BitVec 128 :=
  (0#18 ++ BitVec.ofNat 4 ty ++ BitVec.ofNat 14 flow ++ BitVec.ofNat 6 q ++ BitVec.ofBool irq ++ lost
    ++ stamp.extractLsb' 0 40 ++ detail : BitVec (18 + 4 + 14 + 6 + 1 + 5 + 40 + 40))

/-- Put a record into a queue that is valid; a full queue of 256 loses it (R149). -/
def pushRecord (s : State) (q ty flow : Nat) (irq : Bool) (detail : BitVec 40) : State :=
  let e := s.evq q
  if e.recs.length < 256 then
    s.setEvq q { e with recs := e.recs ++ [mkRecord ty flow q irq e.lostNow s.mer.count detail], lostNow := 0 }
  else raise (s.setEvq q { e with lostNow := sat e.lostNow 1, lost := sat e.lost 1 }) 0x3A q

def queueCfg (s : State) (q : Nat) : QueueCfg := tget {} s.tables.queues q
def flowCfg (s : State) (f : Nat) : FlowCfg := tget {} s.tables.flows f
def provCfg (s : State) (p : Nat) : Prov := tget {} s.tables.provs p

/-- Post a flow-level record to the flow's own queue (R151); irq on at most one per flow per window (R152). -/
def postFlow (s : State) (f ty : Nat) (detail : BitVec 40) : State :=
  let q := (flowCfg s f).queue.toNat
  if (queueCfg s q).valid then
    let irq := (queueCfg s q).irqEn && !(s.flowR f).irqUsed
    pushRecord (if irq then s.modFlowR f (fun r => { r with irqUsed := true }) else s) q ty f irq detail
  else s

/-- Post a queue-level record; irq on at most one per queue per evaluation window (R152). -/
def postQueue (s : State) (q ty : Nat) (detail : BitVec 40) : State :=
  if (queueCfg s q).valid then
    let irq := (queueCfg s q).irqEn && !s.flw.irqUsed.contains q
    pushRecord (if irq then { s with flw := { s.flw with irqUsed := q :: s.flw.irqUsed } } else s) q ty 0 irq detail
  else s

/-! ### Folding over units -/

/-- Apply `g` for each number of a list in order. -/
def foldS (xs : List Nat) (g : State → Nat → State) (s : State) : State := xs.foldl g s

/-- The flows that are valid, ascending. -/
def validFlows (s : State) : List Nat := (s.tables.flows.filter (fun e => e.2.valid)).map (·.1)

/-- The valid flows that may touch province p. -/
def flowsOfProv (s : State) (p : Nat) : List Nat :=
  (s.tables.flows.filter (fun e => e.2.valid && e.2.provs.getLsbD p)).map (·.1)

/-- An input of the budgets changed (R141). -/
def budgetDue (s : State) : State :=
  { s with flw := { s.flw with due := true, dueSince := if s.flw.due then s.flw.dueSince else s.elapsed } }

/-- Units that a supply hold, Gale or Fatal stops: dispatch and commands (R344, R373, R375). -/
def stackDown (s : State) : Bool := s.flt.fatal

/-! ### What every command ends with -/

/-- Nothing a command does touches the queue of waiting commands or the variant; IRQ_N is low while irq is set and
enabled, and in Fatal (R350). -/
def fin (s t : State) : State :=
  { t with
    pending := s.pending
    variant := s.variant
    pins := { t.pins with irqN := !(t.flt.fatal || (t.flt.irq && t.flt.irqEn)) } }

/-- A command's answer: while PWRGOOD is low the block is without power and only PWRGOOD's rise does anything. -/
def answer (s t : State) : Host.Outcome State Fault Refusal := .next (if s.pins.pwrgood then fin s t else s)

/-! ### Management responses (R120) -/

/-- Answer the oldest access of the port it came from, which leaves the port's queue of requests received (R117). A port
that the access itself put into reset answers nothing. -/
def respond (s : State) (via : Via) (write : Bool) (addr : Word) (st : Status) (data : Word) : State :=
  if s.rst.phase = .fuse || s.rst.phase = .held then s
  else s.modPort via.port (fun p => { p with
    mgtIn := p.mgtIn.drop 1
    mgtOut := p.mgtOut ++ [{ write := write, tag := via.tag, status := st, addr := addr, data := data }] })

end Sys2Proof.Machine
end

