-- ==== Sys2Proof/Machine/Flags.lean ====
section
/-! DEFINITION. Status order, check sums and codes: R13–R15, the CRC-24 of R46, the CRC-64 of R100, the parameterised
CRC of R290, the Reed–Solomon code of R211–R213, the SECDED and parity words of R409–R410. -/

namespace Sys2Proof.Machine

/-! ### Status codes (R13, R15) -/

def Status.code : Status → Nat
  | .ok => 0 | .corrected => 1 | .poisoned => 2 | .unwritten => 3
  | .refused => 4 | .absent => 5 | .outOfBudget => 6 | .fenced => 7

/-- Place in the order of R15; UNWRITTEN stands between OK and CORRECTED (DEDUCED, log 12). -/
def Status.weight : Status → Nat
  | .absent => 7 | .refused => 6 | .fenced => 5 | .outOfBudget => 4
  | .poisoned => 3 | .corrected => 2 | .unwritten => 1 | .ok => 0

/-- The status that R15 reports of two that apply. -/
def Status.first (a b : Status) : Status := if a.weight < b.weight then b else a

/-- A data status: the request keeps its charge (R28). -/
def Status.isData (a : Status) : Bool := a.weight < 4

/-! ### CRC-24 of words (R46) -/

def crc24Bit (crc : Nat) (bit : Nat) : Nat :=
  let top := (crc >>> 23) % 2
  let sh := (crc <<< 1) % 2 ^ 24
  if top ^^^ bit = 1 then sh ^^^ 0x864CFB else sh

def bitsDown (w n : Nat) : List Nat := (List.range n).reverse.map (fun i => (w >>> i) % 2)

/-- CRC-24 over words, each fed bits [23:16] first. -/
def crc24 (ws : List Word) : Word :=
  BitVec.ofNat 24 (ws.foldl (fun c w => (bitsDown w.toNat 24).foldl crc24Bit c) 0xB704CE)

/-! ### CRC-64 of flits (R100) -/

def crc64Bit (crc : Nat) (bit : Nat) : Nat :=
  let top := (crc >>> 63) % 2
  let sh := (crc <<< 1) % 2 ^ 64
  if top ^^^ bit = 1 then sh ^^^ 0x42F0E1EBA9EA3693 else sh

/-- The CRC of a flit: two prefix bytes holding its sequence number, its header, its payload. -/
def flitCrc (seq : BitVec 12) (header : BitVec 128) (payload : List Byte) : BitVec 64 :=
  let bits := bitsDown seq.toNat 16 ++ bitsDown header.toNat 128 ++ payload.flatMap (fun b => bitsDown b.toNat 8)
  BitVec.ofNat 64 (bits.foldl crc64Bit (2 ^ 64 - 1)) ^^^ BitVec.allOnes 64

/-! ### The parameterised CRC of check units (R290) -/

/-- Reverse the low n bits. -/
def reflect (n w : Nat) : Nat := (List.range n).foldl (fun a i => a * 2 + (w >>> i) % 2) 0

/-- One byte enters V most significant bit first, by polynomial division modulo x^w + poly. -/
def Ctx.feed (c : Ctx) (b : Byte) : Ctx :=
  let w := c.width.toNat
  let v0 := if c.refin then reflect 8 b.toNat else b.toNat
  let step := fun (v bit : Nat) =>
    let top := (v >>> (w - 1)) % 2
    let sh := (v <<< 1) % 2 ^ w
    if top ^^^ bit = 1 then sh ^^^ (c.poly.toNat % 2 ^ w) else sh
  { c with value := BitVec.ofNat 64 ((bitsDown v0 8).foldl step c.value.toNat), count := c.count + 1 }

/-- init = 1: V takes init and the byte count returns to 0. -/
def Ctx.start (c : Ctx) : Ctx := { c with value := c.init, count := 0 }

/-- final = 1: the result is R(V) XOR xorout; V stays. -/
def Ctx.finish (c : Ctx) : Ctx :=
  let w := c.width.toNat
  let r := if c.refout then reflect w c.value.toNat else c.value.toNat
  { c with result := BitVec.ofNat 64 (r ^^^ c.xorout.toNat) }

/-! ### GF(2^8) and RS(36,32) (R211–R213) -/

def gdouble (a : Nat) : Nat := if a < 128 then a * 2 else (a * 2) ^^^ 0x11D

/-- Product in GF(2^8) under x^8 + x^4 + x^3 + x^2 + 1. -/
def gmul (a b : Nat) : Nat :=
  ((List.range 8).foldl (fun (st : Nat × Nat) i =>
    (if (b >>> i) % 2 = 1 then st.1 ^^^ st.2 else st.1, gdouble st.2)) (0, a)).1

def gpow (a : Nat) : Nat → Nat
  | 0 => 1
  | n + 1 => gmul (gpow a n) a

/-- Inverse: a^254. -/
def ginv (a : Nat) : Nat :=
  let a2 := gmul a a
  let a4 := gmul a2 a2
  let a8 := gmul a4 a4
  let a16 := gmul a8 a8
  let a32 := gmul a16 a16
  let a64 := gmul a32 a32
  let a128 := gmul a64 a64
  gmul (gmul (gmul a2 a4) (gmul a8 a16)) (gmul (gmul a32 a64) a128)

/-- Symbol c_i of a half. -/
def sym (h : Half) (i : Nat) : Nat := (h.toNat >>> (8 * (35 - i))) % 256

def symsOf (h : Half) : List Nat := (List.range 36).map (sym h)

def halfOf (xs : List Nat) : Half := BitVec.ofNat 288 (xs.foldl (fun a x => a * 256 + x) 0)

/-- The locator of position i: c_i stands at x^(35 − i). -/
def locator (i : Nat) : Nat := gpow 2 (35 - i)

/-- Evaluate the word received at x (Horner). -/
def evalAt (xs : List Nat) (x : Nat) : Nat := xs.foldl (fun a c => gmul a x ^^^ c) 0

/-- The syndromes S_0 to S_3. -/
def syndromes (h : Half) : List Nat := (List.range 4).map (fun i => evalAt (symsOf h) (gpow 2 i))

/-- Coefficients of the generator below x^4, from x^3 down: g(x) = (x − 1)(x − α)(x − α²)(x − α³). -/
def genCoeffs : List Nat :=
  let mulRoot := fun (p : List Nat) (r : Nat) =>
    List.zipWith (· ^^^ ·) (p ++ [0]) (0 :: p.map (gmul r))
  (((List.range 4).map (gpow 2)).foldl mulRoot [1]).drop 1

/-- The four check symbols of 32 data symbols: the remainder of data × x^4 by g(x). -/
def checkSyms (data : List Nat) : List Nat :=
  data.foldl (fun (reg : List Nat) d =>
    match reg with
    | r :: rest =>
      let f := r ^^^ d
      List.zipWith (· ^^^ ·) (rest ++ [0]) (genCoeffs.map (gmul f))
    | [] => []) [0, 0, 0, 0]

/-- Byte i of a line. -/
def lineByte (l : Line) (i : Nat) : Byte := l.extractLsb' (8 * (63 - i)) 8

/-- The bytes of a line. -/
def lineBytes (l : Line) : List Byte := (List.range 64).map (lineByte l)

/-- A line from 64 bytes. -/
def lineOf (bs : List Byte) : Line := BitVec.ofNat 512 (bs.foldl (fun a b => a * 256 + b.toNat) 0)

/-- The two code words of a line: half A holds bytes 0–31, half B bytes 32–63 (R212). -/
def encodeHalf (data : BitVec 256) : Half :=
  let ds := (List.range 32).map (fun i => (data.toNat >>> (8 * (31 - i))) % 256)
  data ++ (BitVec.ofNat 32 ((checkSyms ds).foldl (fun a x => a * 256 + x) 0))

def encodeLine (l : Line) : Half × Half := (encodeHalf (l.extractLsb' 256 256), encodeHalf (l.extractLsb' 0 256))

/-- The data of two halves. -/
def lineOfHalves (w : Half × Half) : Line := w.1.extractLsb' 32 256 ++ w.2.extractLsb' 32 256

/-- The poison word of a half (R218). -/
def poisonHalf : Half := 0x504F4953

def poisonWords : Half × Half := (poisonHalf, poisonHalf)

/-- The zero line of the fill (R211, R227). -/
def zeroWords : Half × Half := (0, 0)

/-- Magnitudes at the given locators that explain the syndromes, or none. -/
def solveAt : List Nat → List Nat → Option (List Nat)
  | ss, [] => if ss.all (· = 0) then some [] else none
  | ss, x :: xs =>
    match solveAt (List.zipWith (fun a b => b ^^^ gmul x a) ss (ss.drop 1)) xs with
    | none => none
    | some zs =>
      let ys := List.zipWith (fun z x' => gmul z (ginv (x' ^^^ x))) zs xs
      some ((ys.foldl (· ^^^ ·) (ss.headD 0)) :: ys)

/-- A half's outcome (R213). -/
inductive HalfOut where
  | poison | clean | erasureFix | corrected | uncorrectable
  deriving DecidableEq, Repr

def applyAt (h : Half) (ps : List (Nat × Nat)) : Half :=
  halfOf ((List.range 36).map (fun i => ps.foldl (fun a p => if p.1 = i then a ^^^ p.2 else a) (sym h i)))

/-- Try the erased positions with the extra positions: the magnitudes, when the syndromes agree. -/
def tryAt (ss erased extra : List Nat) : Option (List (Nat × Nat)) :=
  (solveAt ss ((extra ++ erased).map locator)).map (fun ys => (extra ++ erased).zip ys)

/-- The positions and magnitudes of e erasures and at most t errors with e + 2t ≤ 4 (R213). -/
def findErrors (ss erased : List Nat) : Option (List (Nat × Nat)) :=
  let free := (List.range 36).filter (fun i => !erased.contains i)
  if 4 < erased.length then none
  else match tryAt ss erased [] with
    | some r => some r
    | none =>
      if 2 < erased.length then none
      else match free.findSome? (fun i => tryAt ss erased [i]) with
        | some r => some r
        | none =>
          if 0 < erased.length then none
          else free.findSome? (fun i => free.findSome? (fun j => if i < j then tryAt ss [] [i, j] else none))

/-- Decode one half with its erased positions: the outcome, the corrected word, and the unerased positions changed. -/
def decodeHalf (erased : List Nat) (h : Half) : HalfOut × Half × List Nat :=
  let ss := syndromes h
  if ss = syndromes poisonHalf then (.poison, h, [])
  else if ss.all (· = 0) then (.clean, h, [])
  else match findErrors ss erased with
    | none => (.uncorrectable, h, [])
    | some ps =>
      let changed := (ps.filter (fun p => p.2 ≠ 0)).map (·.1)
      let outside := changed.filter (fun i => !erased.contains i)
      (if outside = [] then .erasureFix else .corrected, applyAt h ps, outside)

/-- A line's outcome (R213). -/
inductive LineOut where
  | clean | corrected | uncorrectable | poison
  deriving DecidableEq, Repr

def lineOut (a b : HalfOut) : LineOut :=
  if a = .poison || b = .poison then .poison
  else if a = .uncorrectable || b = .uncorrectable then .uncorrectable
  else if a = .corrected || b = .corrected then .corrected
  else .clean

/-! ### Fuse words (R409, R410) -/

/-- The code word of an ECC bank: 24 data bits and 6 check bits; the all-zero word is valid. -/
def secdedWord (d : Word) : BitVec 30 := if d = 0 then 0 else d ++ Config.secded d

/-- Decode an ECC word: data and whether a bit was corrected, or none. -/
def secdedDecode (w : BitVec 30) : Option (Word × Bool) :=
  let d := w.extractLsb' 6 24
  if secdedWord d = w then some (d, false)
  else (List.range 30).findSome? (fun i =>
    let w' := w ^^^ BitVec.ofNat 30 (2 ^ i)
    let d' := w'.extractLsb' 6 24
    if secdedWord d' = w' then some (d', true) else none)

/-- Even parity of a Repair word (R408): 24 data bits above one parity bit, in the low 25 bits. -/
def parityBit (d : Word) : Nat := (bitsDown d.toNat 24).foldl (· ^^^ ·) 0

def repairWord (d : Word) : BitVec 30 := BitVec.ofNat 30 (d.toNat * 2 + parityBit d)

def repairDecode (w : BitVec 30) : Option (Word × Bool) :=
  let d := w.extractLsb' 1 24
  if repairWord d = w then some (d, false) else none

/-- The code word that a bank stores for a data word; bank 4 is Repair. -/
def fuseCode (bank : Nat) (d : Word) : BitVec 30 := if bank = 4 then repairWord d else secdedWord d

def fuseDecode (bank : Nat) (w : BitVec 30) : Option (Word × Bool) :=
  if bank = 4 then repairDecode w else secdedDecode w

/-- What one read gives (R410): 0 GOOD, 1 MARGINAL, 2 UNREADABLE; the data; whether corrected. -/
def fuseSense (bank : Nat) (f : FuseWord) : Nat × Word × Bool :=
  if f.hi ≠ f.lo then (1, 0, false)
  else match fuseDecode bank f.lo with
    | some (d, c) => (0, d, c)
    | none => (2, 0, false)

/-- The value a read resolves to (R411): outcome, data, corrected; a MARGINAL Repair word is invalid. -/
def fuseResolve (bank : Nat) (f : FuseWord) : Nat × Word × Bool :=
  match fuseSense bank f with
  | (1, _, _) =>
    if bank = 3 || bank = 4 then (1, 0, false)
    else match fuseDecode bank f.lo with
      | some (d, c) => (1, d, c)
      | none => match fuseDecode bank f.hi with
        | some (d, c) => (1, d, c)
        | none => (2, 0, false)
  | r => r

/-- Programmed: not blank (R409); a Lock word that does not read GOOD counts as programmed (R309, R411). -/
def fuseProgrammed (f : FuseWord) : Bool := f.hi ≠ 0 || f.lo ≠ 0

end Sys2Proof.Machine
end

