-- ==== Sys2Proof/Machine/Flits.lean ====
section
/-! DEFINITION. The bits of the link: flits as 256 bytes (R98, R100, R107, R109, R110, R120), their reading, and the
RS(544,514) code with its interleave and lane distribution (R99). -/

namespace Sys2Proof.Machine

/-! ### Bytes and bits -/

/-- The k bytes of a number, most significant first. -/
def bytesOf (k w : Nat) : List Byte := (List.range k).map (fun i => BitVec.ofNat 8 (w >>> (8 * (k - 1 - i))))

/-- The number that bytes spell, most significant first. -/
def numOf (bs : List Byte) : Nat := bs.foldl (fun a b => a * 256 + b.toNat) 0

/-- The bits of bytes in the order that R98 feeds them. -/
def bitsOf (bs : List Byte) : List Bool := bs.flatMap (fun b => (List.range 8).map (fun i => b.getLsbD (7 - i)))

/-- `n` bytes of a stream of bits. -/
def bytesOfBits : Nat → List Bool → List Byte
  | 0, _ => []
  | n + 1, bs => BitVec.ofNat 8 ((bs.take 8).foldl (fun a b => a * 2 + b.toNat) 0) :: bytesOfBits n (bs.drop 8)

/-! ### Flits sent -/

/-- Messages of 8 B that a control message takes (R110). -/
def CtrlMsg.words : CtrlMsg → List (BitVec 64)
  | .credit cls count init =>
    [0x01#8 ++ BitVec.ofNat 4 cls ++ BitVec.ofNat 16 count ++ BitVec.ofBool init ++ 0#35]
  | .event _ r => [0x03#8 ++ 1#1 ++ r.extractLsb' 55 55, 0x03#8 ++ 0#1 ++ r.extractLsb' 0 55]

/-- A management response (R120). -/
def MgtRsp.word (r : MgtRsp) : BitVec 64 :=
  (if r.write then 4#4 else 3#4) ++ r.tag ++ BitVec.ofNat 3 r.status.code ++ 0#1 ++ r.addr ++ r.data

/-- A completion entry (R109). -/
def Cmp.entry (c : Cmp) : BitVec 24 :=
  1#1 ++ BitVec.ofNat 3 c.status.code ++ c.lines ++ BitVec.ofBool c.redir ++ BitVec.ofNat 3 c.arrPort ++ c.tag

/-- The entry i of a CMP header. -/
def cmpEntry (cs : List Cmp) (i : Nat) : BitVec 24 := match cs[i]? with | some c => c.entry | none => 0

/-- A field with its valid bit above it (R110). -/
def validSeq : Option (BitVec 12) → BitVec 13
  | some x => 1#1 ++ x
  | none => 0

/-- The 128 bits of a flit's header (R102, R107, R109, R110, R120). -/
def TxFlit.header : TxFlit → BitVec 128
  | .idle => 0
  | .cmp cs _ =>
    (2#4 ++ 0#4 ++ cmpEntry cs 0 ++ cmpEntry cs 1 ++ cmpEntry cs 2 ++ cmpEntry cs 3 ++ cmpEntry cs 4 :
      BitVec (4 + 4 + 24 + 24 + 24 + 24 + 24))
  | .ctrl ack nak _ => (3#4 ++ validSeq ack ++ validSeq nak ++ 0#98 : BitVec (4 + 13 + 13 + 98))
  | .mgt _ => (4#4 ++ 0#124 : BitVec (4 + 124))
  | .train _ _ _ _ => (5#4 ++ 0#124 : BitVec (4 + 124))

/-- The bytes that a flit's payload begins with; the rest is 0. -/
def TxFlit.content : TxFlit → List Byte
  | .idle => []
  | .cmp _ bs => bs
  | .ctrl _ _ ms => (ms.flatMap CtrlMsg.words).flatMap (fun w => bytesOf 8 w.toNat)
  | .mgt rs => rs.flatMap (fun r => bytesOf 8 r.word.toNat)
  | .train n preset width lastGood =>
    [0x10, BitVec.ofNat 8 n, 0, 0, 0, preset.zeroExtend 8, BitVec.ofNat 8 width] ++ bytesOf 2 lastGood.toNat

/-- The 232 bytes of a flit's payload. -/
def TxFlit.payload (f : TxFlit) : List Byte := (f.content ++ List.replicate 232 0).take 232

/-- The 256 bytes of a flit under a sequence number: header, payload, CRC (R98, R100, R101). -/
def TxFlit.bytes (f : TxFlit) (seq : BitVec 12) : List Byte :=
  bytesOf 16 f.header.toNat ++ f.payload ++ bytesOf 8 (flitCrc seq f.header f.payload).toNat

/-! ### Flits received -/

/-- A flit as 256 bytes received give it, and whether it overlaps an uncorrectable codeword (R98, R101). -/
structure RxFlit where
  header  : BitVec 128
  payload : List Byte
  crc     : BitVec 64
  bad     : Bool
  deriving DecidableEq, Repr

def rxFlitOf (bs : List Byte) (bad : Bool) : RxFlit :=
  { header := BitVec.ofNat 128 (numOf (bs.take 16)), payload := (bs.drop 16).take 232,
    crc := BitVec.ofNat 64 (numOf ((bs.drop 248).take 8)), bad := bad }

/-- The flit passes its CRC at a sequence number (R100). -/
def RxFlit.passes (f : RxFlit) (seq : BitVec 12) : Bool := f.crc = flitCrc seq f.header f.payload

/-- The next flit of the bits decoded: flits follow each other without gaps (R99). -/
def takeFlit (bits : List (Bool × Bool)) : Option (RxFlit × List (Bool × Bool)) :=
  let b := bits.take 2048
  if b.length = 2048 then some (rxFlitOf (bytesOfBits 256 (b.map (·.1))) (b.any (·.2)), bits.drop 2048) else none

/-- The messages of 8 B of a payload. -/
def messagesOf (payload : List Byte) : List (BitVec 64) :=
  (List.range 29).map (fun i => BitVec.ofNat 64 (numOf ((payload.drop (8 * i)).take 8)))

/-! ### GF(2^10) and RS(544,514) (R99); polynomial and generator as IEEE 802.3 gives them (PRESUMED, log 111) -/

def kdouble (a : Nat) : Nat := if a < 512 then a * 2 else (a * 2) ^^^ 0x409

/-- Product in GF(2^10) under x^10 + x^3 + 1. -/
def kmul (a b : Nat) : Nat :=
  ((List.range 10).foldl (fun (st : Nat × Nat) i =>
    (if (b >>> i) % 2 = 1 then st.1 ^^^ st.2 else st.1, kdouble st.2)) (0, a)).1

/-- α^n, α the element x. -/
def kalpha (n : Nat) : Nat := (List.range (n % 1023)).foldl (fun a _ => kdouble a) 1

/-- Inverse: a^1022, by squaring. -/
def kinv (a : Nat) : Nat :=
  ((List.range 9).foldl (fun (st : Nat × Nat) _ => let q := kmul st.2 st.2; (kmul st.1 q, q)) (1, a)).1

/-- Coefficients of the generator below x^30, from x^29 down: the product of (x − α^j), j from 0 to 29. -/
def kgen : List Nat :=
  let mulRoot := fun (p : List Nat) (r : Nat) =>
    List.zipWith (· ^^^ ·) (p ++ [0]) (0 :: p.map (kmul r))
  (((List.range 30).map kalpha).foldl mulRoot [1]).drop 1

/-- The 30 check symbols of 514 message symbols. -/
def kchecks (msg : List Sym10) : List Nat :=
  let g := kgen
  msg.foldl (fun (reg : List Nat) d =>
    match reg with
    | r :: rest =>
      let f := r ^^^ d.toNat
      List.zipWith (· ^^^ ·) (rest ++ [0]) (g.map (kmul f))
    | [] => []) (List.replicate 30 0)

def kencode (msg : List Sym10) : List Sym10 := msg ++ (kchecks msg).map (BitVec.ofNat 10)

/-- The word at x (Horner). -/
def keval (xs : List Nat) (x : Nat) : Nat := xs.foldl (fun a c => kmul a x ^^^ c) 0

def ksyndromes (w : List Nat) : List Nat := (List.range 30).map (fun j => keval w (kalpha j))

/-- Sum of two polynomials, lowest power first. -/
def kadd : List Nat → List Nat → List Nat
  | [], q => q
  | p, [] => p
  | a :: p, b :: q => (a ^^^ b) :: kadd p q

/-- The state of Berlekamp's algorithm: connection polynomial, the one before, length, steps since, discrepancy then. -/
structure BmSt where
  c : List Nat
  b : List Nat
  l : Nat
  m : Nat
  d : Nat

/-- The error locator of the syndromes, lowest power first, and the number of errors. -/
def klocator (ss : List Nat) : List Nat × Nat :=
  let r := (List.range 30).foldl (fun (st : BmSt) n =>
    let d := (List.range (st.l + 1)).foldl (fun a i => a ^^^ kmul ((st.c[i]?).getD 0) ((ss[n - i]?).getD 0)) 0
    if d = 0 then { st with m := st.m + 1 }
    else
      let k := kmul d (kinv st.d)
      let c := kadd st.c (List.replicate st.m 0 ++ st.b.map (kmul k))
      if 2 * st.l ≤ n then { c := c, b := st.c, l := n + 1 - st.l, m := 1, d := d }
      else { st with c := c, m := st.m + 1 }) { c := [1], b := [1], l := 0, m := 1, d := 1 }
  (r.c, r.l)

/-- The polynomial at x, lowest power first. -/
def kpoly (p : List Nat) (x : Nat) : Nat := keval p.reverse x

/-- Decode a codeword of 544 symbols: the corrected word and how many symbols it corrects, at most 15; none where it is
uncorrectable. -/
def kdecode (w : List Sym10) : Option (List Sym10 × Nat) :=
  let ss := ksyndromes (w.map BitVec.toNat)
  if ss.all (· = 0) then some (w, 0)
  else
    let loc := klocator ss
    let omega := (List.range 30).map (fun i =>
      (List.range (i + 1)).foldl (fun a j => a ^^^ kmul ((loc.1[j]?).getD 0) ((ss[i - j]?).getD 0)) 0)
    let deriv := (List.range loc.1.length).map (fun i => if i % 2 = 0 then (loc.1[i + 1]?).getD 0 else 0)
    let fixed := ((List.range 544).zip w).map (fun e =>
      let x := kalpha (1023 - (543 - e.1))
      if kpoly loc.1 x = 0 then
        (e.2 ^^^ BitVec.ofNat 10 (kmul (kmul (kalpha (543 - e.1)) (kpoly omega x)) (kinv (kpoly deriv x))), 1)
      else (e.2, 0))
    let v := fixed.map (·.1)
    let roots := (fixed.map (·.2)).foldl (· + ·) 0
    if loc.2 ≤ 15 && roots = loc.2 && (ksyndromes (v.map BitVec.toNat)).all (· = 0) then some (v, roots) else none

/-! ### Interleave and lanes (R99; order of the bits in a symbol and of the symbols, log 111) -/

/-- Every second element, the first among them. -/
def evens {α : Type} : List α → List α
  | [] => []
  | [a] => [a]
  | a :: _ :: r => a :: evens r

/-- Two words symbol by symbol. -/
def weave {α : Type} : List α → List α → List α
  | [], _ => []
  | _, [] => []
  | a :: p, b :: q => a :: b :: weave p q

/-- Symbols of ten bits, the first bit in bit 0. -/
def symsOfBits : Nat → List Bool → List Sym10
  | 0, _ => []
  | n + 1, bs => BitVec.ofNat 10 ((bs.take 10).foldr (fun b a => 2 * a + b.toNat) 0) :: symsOfBits n (bs.drop 10)

def bitsOfSym (x : Sym10) : List Bool := (List.range 10).map x.getLsbD

/-- The symbols that a pair of codewords puts on each of `w` lanes, round robin, for 10,280 message bits. -/
def encodePair (w : Nat) (bits : List Bool) : List (List Sym10) :=
  let ms := symsOfBits 1028 bits
  let out := weave (kencode (evens ms)) (kencode (evens (ms.drop 1)))
  (List.range w).map (fun i => (((List.range out.length).zip out).filter (fun e => e.1 % w = i)).map (·.2))

/-- The symbols of a pair in order, from what the lanes carried. -/
def mergeLanes (w : Nat) (lanes : List (List Sym10)) : List Sym10 :=
  (List.range 1088).map (fun k => ((lanes[k % w]?).bind (fun l => l[k / w]?)).getD 0)

/-- What a pair gives: its message bits, each with whether its codeword is uncorrectable; symbols corrected; codewords
uncorrectable. -/
def decodePair (out : List Sym10) : List (Bool × Bool) × Nat × Nat :=
  let one := fun (w : List Sym10) => match kdecode w with
    | some (v, k) => ((v.take 514).map (fun x => (x, false)), k, 0)
    | none => ((w.take 514).map (fun x => (x, true)), 0, 1)
  let a := one (evens out)
  let b := one (evens (out.drop 1))
  ((weave a.1 b.1).flatMap (fun e => (bitsOfSym e.1).map (fun x => (x, e.2))), a.2.1 + b.2.1, a.2.2 + b.2.2)

/-- Symbols arrive on the lanes: they are added to what each lane holds. -/
def joinLanes : List (List Sym10) → List (List Sym10) → List (List Sym10)
  | [], ys => ys
  | xs, [] => xs
  | x :: xs, y :: ys => (x ++ y) :: joinLanes xs ys

/-- Decode the pairs that the lanes hold whole, at most `fuel` of them: lanes left, bits, corrections, uncorrectable. -/
def decodePairs (w : Nat) : Nat → List (List Sym10) → List (List Sym10) × List (Bool × Bool) × Nat × Nat
  | 0, lanes => (lanes, [], 0, 0)
  | fuel + 1, lanes =>
    if w ≠ 0 && lanes.length = w && lanes.all (fun l => 1088 / w ≤ l.length) then
      let d := decodePair (mergeLanes w lanes)
      let r := decodePairs w fuel (lanes.map (·.drop (1088 / w)))
      (r.1, d.1 ++ r.2.1, d.2.1 + r.2.2.1, d.2.2 + r.2.2.2)
    else (lanes, [], 0, 0)

end Sys2Proof.Machine
end

