-- ==== Sys2Proof/Machine/Operands.lean ====
section
/-! DEFINITION. Operand forms: from a province and offset to a cell (R70–R72, R77, R78, R81, R82, R85, R86, R254), the
way back (R224), and the reads and writes of stored code words. -/

namespace Sys2Proof.Machine

/-! ### Granules, blocks and classes -/

/-- Granule g lies in the run of a valid province. -/
def Prov.holds (p : Prov) (g : Nat) : Bool :=
  p.valid && decide (p.base.toNat ≤ g) && decide (g < p.base.toNat + p.count.toNat)

/-- The province that holds granule g. -/
def provOfGran (provs : Tbl Prov) (g : Nat) : Option (Nat × Prov) := provs.find? (fun e => e.2.holds g)

/-- The class of block b: that of the provinces with granules in it, I32 with none (R71): 0 I32, 1 I8, 2 I4. -/
def blockClass (provs : Tbl Prov) (b : Nat) : Nat :=
  match provs.find? (fun e => e.2.valid && decide (e.2.base.toNat < 32 * b + 32) &&
      decide (32 * b < e.2.base.toNat + e.2.count.toNat)) with
  | some e => e.2.cls.toNat
  | none => 0

/-- The channel set that granule g selects under a class (R77). -/
def chanSet (cls g : Nat) : List Nat :=
  let j := g % 32
  if cls = 1 then (List.range 8).map (8 * (j / 8) + ·)
  else if cls = 2 then (List.range 4).map (4 * (j / 4) + ·)
  else List.range 32

/-- Channel and channel-local address of a DPA under a class (R77). -/
def decodeDpa (cls dpa : Nat) : Nat × Nat :=
  let b := dpa / 2 ^ 31
  let o := dpa % 2 ^ 31
  let lo := o % 256
  if cls = 1 then (8 * (o / 2 ^ 29) + o / 256 % 8, b * 2 ^ 26 + (o / 2 ^ 11 % 2 ^ 18) * 256 + lo)
  else if cls = 2 then (4 * (o / 2 ^ 28) + o / 256 % 4, b * 2 ^ 26 + (o / 2 ^ 10 % 2 ^ 18) * 256 + lo)
  else (o / 256 % 32, b * 2 ^ 26 + (o / 2 ^ 13) * 256 + lo)

/-- The DPA that a class decodes to a channel and CLA. -/
def encodeDpa (cls ch cla : Nat) : Nat :=
  let b := cla / 2 ^ 26
  let x := cla % 2 ^ 26
  let hi := x / 256
  let lo := x % 256
  if cls = 1 then b * 2 ^ 31 + (ch / 8) * 2 ^ 29 + hi * 2 ^ 11 + (ch % 8) * 256 + lo
  else if cls = 2 then b * 2 ^ 31 + (ch / 4) * 2 ^ 28 + hi * 2 ^ 10 + (ch % 4) * 256 + lo
  else b * 2 ^ 31 + hi * 2 ^ 13 + ch * 256 + lo

/-- The location of a CLA (R78). -/
def locOfCla (ch cla : Nat) : Loc :=
  let row := cla / 2 ^ 15 % 2 ^ 14
  let bg := (cla / 2 ^ 10 % 8) ^^^ (row % 8)
  { ch := ch, rank := cla / 2 ^ 29 % 4, bank := 4 * bg + cla / 2 ^ 13 % 4, row := row, col := cla / 64 % 16 }

/-- The line index CLA[28:6] of a location. -/
def Loc.index (l : Loc) : Nat :=
  l.row * 512 + (l.bank % 4) * 128 + ((l.bank / 4) ^^^ (l.row % 8)) * 16 + l.col

/-- The CLA of a location of ranks 0–3. -/
def Loc.cla (l : Loc) : Nat := l.rank * 2 ^ 29 + l.index * 64

/-- The location of line index i of rank k of a channel. -/
def locOfIndex (ch k i : Nat) : Loc := { locOfCla ch (i * 64) with rank := k }

/-! ### Redirection (R81, R254) -/

/-- What a retired or migrating rank's line is served from: rank 4, or a reserve granule. -/
def targetOf (s : State) (l : Loc) (toRes : Bool) : Option Loc :=
  if toRes then
    match (s.rank l.ch l.rank).grans[l.index / 2 ^ 20]? with
    | none => none
    | some g =>
      let dpa := g * 2 ^ 26 + (l.index % 2 ^ 20) * 64
      let cc := decodeDpa (blockClass s.tables.provs (dpa / 2 ^ 31)) dpa
      some (locOfCla cc.1 cc.2)
  else some { l with rank := 4 }

/-- One redirection of a location. -/
inductive Hop where
  | stay | go (l : Loc) | fenced
  deriving DecidableEq, Repr

def hopTo (s : State) (l : Loc) (toRes : Bool) : Hop :=
  match targetOf s l toRes with
  | some l' => .go l'
  | none => .fenced

/-- Line i of rank 4 of a channel holds what a stopped migration copied there (R257), whatever its state has become. -/
def oldCopy (s : State) (c i : Nat) : Bool := (List.range 4).any (fun k => decide (i < (s.rank c k).oldPtr))

/-- The next redirection by the sparing state; a MIGRATING rank is split by the pointer (R254), and lines below the
old pointer of a stopped migration are in rank 4 (R257). -/
def hop (s : State) (l : Loc) : Hop :=
  let r := s.rank l.ch l.rank
  match r.st with
  | .inService | .spareIdle | .spareHolding => .stay
  | .pending => if l.index < r.oldPtr then .go { l with rank := 4 } else .stay
  | .migrating =>
    if l.index < s.mig.pointer then hopTo s l r.toRes
    else if l.index < r.oldPtr then .go { l with rank := 4 } else .stay
  | .retiredSpare => .go { l with rank := 4 }
  | .retiredReserve => hopTo s l true
  | .spareUnusable => if r.grans ≠ [] then hopTo s l true else if oldCopy s l.ch l.index then .stay else .fenced
  | .fenced => .fenced

/-- Follow redirections; `none` where the line lies on a fenced rank. -/
def route (s : State) : Nat → Loc → Option Loc
  | 0, _ => none
  | n + 1, l =>
    match hop s l with
    | .stay => some l
    | .go l' => route s n l'
    | .fenced => none

/-- Redirections never chain further than this: each taken granule is used once. -/
def routeFuel : Nat := 160

/-- The location of a DPA before any redirection, under the tables in force. A DPA reaches ranks 0–3 alone: rank 4, the
migration staging and the remap store have none (R25, R69). -/
def homeLoc (s : State) (dpa : Nat) : Loc :=
  let cc := decodeDpa (blockClass s.tables.provs (dpa / 2 ^ 31)) dpa
  locOfCla cc.1 cc.2

/-- The location that serves a read of a DPA. -/
def locate (s : State) (dpa : Nat) : Option Loc := route s routeFuel (homeLoc s dpa)

/-- The second place that a write to a line of a MIGRATING rank goes to, at or above the pointer (R254). -/
def mirrorOf (s : State) (l : Loc) : Option Loc :=
  let r := s.rank l.ch l.rank
  if r.st = .migrating && s.mig.ch = l.ch && s.mig.rank = l.rank && s.mig.pointer ≤ l.index then
    match targetOf s l r.toRes with
    | some l' => route s routeFuel l'
    | none => none
  else
    -- the line below an old pointer is written where rank 4 holds it, and to the new target at or above the pointer
    if l.rank = 4 && (r.st = .spareIdle || r.st = .spareUnusable) && s.mig.ch = l.ch && s.mig.pointer ≤ l.index then
      let src := { l with rank := s.mig.rank }
      let rs := s.rank l.ch s.mig.rank
      if rs.st = .migrating && l.index < rs.oldPtr then
        match targetOf s src rs.toRes with
        | some l' => route s routeFuel l'
        | none => none
      else none
    else none

/-- The domain of the array of tier t is PARKING, OFF, CYCLING or HELD (R76, R380). -/
def tierDown (s : State) (t : Nat) : Bool :=
  let d := (s.dom (52 + t)).st
  !(d = .on || d = .waking)

/-- Rank k of channel c is under MBIST of kind 0, from its start to the end of its fill (R397, R401). -/
def mbistOn (s : State) (c k : Nat) : Bool :=
  let b := s.bstOf c
  b.kind = 0 && b.rank.toNat = k && (b.st = .setup || b.st = .run || b.st = .refill)

/-- Unit `u` of R406, instance i, is under logic BIST (R400); the controller of a channel goes by the channel. -/
def underLogic (s : State) (u i : Nat) : Bool :=
  s.bst.any (fun e => e.2.st = .run && e.2.kind = 3 && e.2.unit.toNat = u && (if u = 0 then e.1 else e.2.inst.toNat) = i)

/-- The location lies on a fenced channel, on a tier whose array domain is PARKING or OFF (R76), or on a rank under
MBIST (R397). -/
def unreachable (s : State) (l : Loc) : Bool :=
  (s.sprOf l.ch).st = .fenced || (s.sprOf l.ch).st = .lost || tierDown s (tierOf l.ch l.rank) || mbistOn s l.ch l.rank

/-! ### Holed granules (R82) -/

/-- Some line of an aligned run of `len` bytes of DPA, len a power of two, lies on a fenced rank after every redirection. A
channel of the run's set holds an aligned run of line indexes of one rank, and each redirection maps it as one. -/
def runHoled (provs : Tbl Prov) (s : State) : Nat → Nat → Nat → Bool
  | 0, _, _ => true
  | n + 1, dpa, len =>
    let cls := blockClass provs (dpa / 2 ^ 31)
    let m := if cls = 1 then 8 else if cls = 2 then 4 else 32
    let part := max 256 (len / m)
    (List.range (min m (max 1 (len / 256)))).any (fun j =>
      let cc := decodeDpa cls (dpa + 256 * j)
      let l := locOfCla cc.1 cc.2
      let i := l.index
      let viaRes := fun (r : RankSp) =>
        match r.grans[i / 2 ^ 20]? with
        | some g => runHoled provs s n (g * 2 ^ 26 + i % 2 ^ 20 * 64) part
        | none => true
      let r := s.rank cc.1 l.rank
      let r4 := s.rank cc.1 4
      match r.st with
      | .fenced => true
      | .retiredReserve => viaRes r
      | .retiredSpare =>
        (match r4.st with
        | .fenced => true
        | .retiredReserve | .spareUnusable => viaRes r4
        | _ => false)
      | .pending | .migrating => r4.st = .fenced && decide (i < r.oldPtr)
      | _ => false)

/-- A granule is holed when any location it holds, after every redirection, lies on a fenced rank (R82), under the given
layout. -/
def granHoled (provs : Tbl Prov) (s : State) (fuel g : Nat) : Bool := runHoled provs s fuel (g * 2 ^ 26) (2 ^ 26)

def holed (s : State) (g : Nat) : Bool := granHoled s.tables.provs s routeFuel g

/-- The granules of a province. -/
def granules (p : Prov) : List Nat := (List.range p.count.toNat).map (p.base.toNat + ·)

/-! ### Back from a cell to its DPA (R224, R233) -/

/-- The rank, as key, and the position, whose taken list holds granule g. -/
def takerOf (s : State) (g : Nat) : Option (Nat × Nat) :=
  s.ranks.findSome? (fun e => (e.2.grans.findIdx? (· = g)).map (fun p => (e.1, p)))

/-- The DPA of the data that a location holds; none for an idle rank 4. -/
def dpaOfLoc (s : State) : Nat → Loc → Option Nat
  | 0, _ => none
  | n + 1, l =>
    if l.rank = 4 then
      match (s.rank l.ch 4).st with
      | .spareIdle | .spareUnusable =>
        if s.mig.st ≠ .idle && !s.mig.toRes && s.mig.ch = l.ch && l.index < s.mig.pointer then
          dpaOfLoc s n { l with rank := s.mig.rank }
        else match (List.range 4).find? (fun k => decide (l.index < (s.rank l.ch k).oldPtr)) with
          | some k => dpaOfLoc s n { l with rank := k }
          | none => none
      | _ => dpaOfLoc s n { l with rank := (s.rank l.ch 4).holder.toNat }
    else
      let dpa := encodeDpa (blockClass s.tables.provs (l.cla / 2 ^ 26)) l.ch l.cla
      match takerOf s (dpa / 2 ^ 26) with
      | none => some dpa
      | some (key, p) =>
        dpaOfLoc s n (locOfIndex (key / 5) (key % 5) (p * 2 ^ 20 + dpa % 2 ^ 26 / 64))

/-- The province and line offset of a DPA in a DATA or TELEMETRY province (R224). -/
def provOfDpa (s : State) (dpa : Nat) : Option (Nat × Nat) :=
  match provOfGran s.tables.provs (dpa / 2 ^ 26) with
  | some (p, c) => if c.kind = 1 then none else some (p, dpa / 64 - c.base.toNat * 2 ^ 20)
  | none => none

/-! ### The ink map (R86, R229) -/

def inked (s : State) (page : Nat) : Bool := !s.tables.compat || tget s.inkAll s.ink page

/-- The ink of the data a location holds; a line with no DPA counts as inked (R233). -/
def locInked (s : State) (l : Loc) : Bool :=
  match dpaOfLoc s routeFuel l with
  | some dpa => inked s (dpa / 4096)
  | none => true

/-! ### Stored code words -/

/-- Key of a line in its rank, with the spare row that answers for its row (R239). -/
def RankMem.key (m : RankMem) (l : Loc) : Nat :=
  let row := match tfind m.repair (l.bank * 16384 + l.row) with
    | some i => 16384 + i
    | none => l.row
  (l.bank * 16400 + row) * 16 + l.col

def RankMem.get (m : RankMem) (rk key : Nat) : Half × Half :=
  match tfind m.lines key with
  | some w => w
  | none => if m.filled then zeroWords else Config.cells m.lost rk key

def RankMem.set (m : RankMem) (key : Nat) (w : Half × Half) : RankMem :=
  { m with lines := if m.filled && w = zeroWords then tdel m.lines key else tput m.lines key w }

/-- The tier's own words of a line. -/
def memRead (s : State) (l : Loc) : Half × Half :=
  let rk := rankKey l.ch l.rank
  (s.rmem rk).get rk ((s.rmem rk).key l)

def memWrite (s : State) (l : Loc) (w : Half × Half) : State :=
  s.modRmem (rankKey l.ch l.rank) (fun m => m.set (m.key l) w)

/-- The remap entry that serves a location (R85, R236). -/
def remapAt (s : State) (l : Loc) : Option Nat :=
  ((s.eccOf l.ch).remap.find? (fun e => e.2.loc = l)).map (·.1)

/-- Read a line through the remap store: the words, and the entry that served it. -/
def cellRead (s : State) (l : Loc) : Half × Half :=
  match remapAt s l with
  | some i => match tfind (s.eccOf l.ch).remap i with
    | some r => r.words
    | none => memRead s l
  | none => memRead s l

/-- Write a line through the remap store. -/
def cellWrite (s : State) (l : Loc) (w : Half × Half) : State :=
  match remapAt s l with
  | some i => s.modEccOf l.ch (fun e => { e with
      remap := match tfind e.remap i with
        | some r => tput e.remap i { r with words := w }
        | none => e.remap })
  | none => memWrite s l w

/-- Fill a rank: every line two all-zero halves, through the remap store (R227). -/
def fillRank (s : State) (c k : Nat) : State :=
  let s := s.modRmem (rankKey c k) (fun m => { m with filled := true, lines := [] })
  s.modEccOf c (fun e => { e with
    remap := e.remap.map (fun r => (r.1, if r.2.loc.rank = k then { r.2 with words := zeroWords } else r.2)) })

/-- A rank loses its contents: they are undefined until the next fill (R361, R448). -/
def loseRank (s : State) (c k : Nat) : State :=
  let f := takeFree s
  f.2.modRmem (rankKey c k) (fun m => { m with filled := false, lines := [], lost := f.1 })

end Sys2Proof.Machine
end

