-- ==== Sys2Proof/Machine/Budget.lean ====
section
/-! DEFINITION. The capacity budget, commitments, shortfall and effective floors (R138–R147). Budgets and commitments of
channels are kept in 64ths of a unit per beat, those of bonds as floors and ceilings of whole units. -/

namespace Sys2Proof.Machine

/-! ### Budgets (R138, R139) -/

/-- U of an operating point, units per beat. -/
def unitsAt (op : Nat) : Nat := if op = 0 then 1100 else if op = 1 then 800 else 400

/-- Refresh share of a band, in hundredths (R190). -/
def Band.share : Band → Nat
  | .b1 => 4 | .b2 => 8 | .b4 => 16

/-- k_p of a limit in 5 W steps (R138). -/
def kpOf (steps : Nat) : Nat := if 22 ≤ steps then 64 else 64 - 4 * (22 - steps)

/-- A channel's shares summed over ranks 0–3, in hundredths: a rank in the spare counts with its spare tier. -/
def shareSum (s : State) (c : Nat) : Nat :=
  ((List.range 4).map (fun k =>
    let t := if (s.rank c k).st = .retiredSpare then tierOf c 4 else tierOf c k
    (s.tier t).band.share)).foldl (· + ·) 0

/-- The channel is out of the budget and of the commitments (R138, R140). -/
def chanFenced (s : State) (c : Nat) : Bool := (s.sprOf c).st = .fenced || (s.sprOf c).st = .lost

/-- The channels that the running migration writes (R138): those of the granule it is filling, or its own. -/
def migTargets (s : State) : List Nat :=
  if s.mig.toRes then
    match (s.rank s.mig.ch s.mig.rank).grans[s.mig.pointer / 2 ^ 20]? with
    | some g => chanSet (blockClass s.tables.provs (g / 32)) g
    | none => []
  else [s.mig.ch]

/-- What a running migration takes from a channel, in 64ths. -/
def migLoss (s : State) (c : Nat) : Nat :=
  if s.mig.st = .idle then 0
  else
    let ts := migTargets s
    (if s.mig.ch = c then 313 * 64 else 0) + (if ts.contains c then 313 * 64 / ts.length else 0)

/-- Live budget of channel c in 64ths (R138). -/
def chanBudget (s : State) (c : Nat) : Nat :=
  if chanFenced s c then 0
  else unitsAt (s.chan c).current.toNat * (400 - shareSum s c) * s.pwr.kp.toNat / (400 * 64) * 64 - migLoss s c

/-- The bond that holds port n, by its lowest port. -/
def bondOf (t : Tables) (n : Nat) : Option (Nat × BondCfg) :=
  t.bonds.find? (fun e => decide (e.1 ≤ n) && decide (n < e.1 + 2 ^ e.2.log2.toNat))

def bondPorts (first log2 : Nat) : List Nat := (List.range (2 ^ log2)).map (first + ·)

/-- Halves of U_port that a port brings (R139). -/
def portHalves (s : State) (n : Nat) : Nat :=
  let p := s.port n
  if (p.st = .active || p.st = .down) && !p.foreign then p.width.toNat else 0

/-- CHN_ACT_CAP of a channel: activates per beat, 0xFFF where every cap is lifted (R168, R369). -/
def actCap (s : State) (c : Nat) : Nat :=
  if s.pwr.kp.toNat < 64 then (unitsAt (s.chan c).current.toNat * s.pwr.kp.toNat + 63) / 64 else 0xFFF

/-- Live budget of a bond, whole units (R139): U_port is 87,500/64. -/
def bondBudget (s : State) (first log2 : Nat) : Nat :=
  s.pwr.kp.toNat * ((bondPorts first log2).map (portHalves s)).foldl (· + ·) 0 * 87500 / (64 * 64 * 2)

/-! ### Commitments (R140) -/

def ceilDiv (a b : Nat) : Nat := if b = 0 then 0 else (a + b - 1) / b

/-- The channel set of a province (R72). -/
def provChans (p : Prov) : List Nat :=
  let cls := p.cls.toNat
  if cls = 0 then List.range 32
  else (List.range 32).filter (fun c => (granules p).any (fun g => (chanSet cls g).contains c))

/-- The flow commits: valid and Fixed or Guaranteed. -/
def FlowCfg.commits (f : FlowCfg) : Bool := f.valid && f.cls.toNat < 2

def FlowCfg.window (f : FlowCfg) : Nat := f.winM1.toNat + 1

/-- The valid provinces that a flow may touch. -/
def flowProvs (t : Tables) (f : FlowCfg) : List (Nat × Prov) :=
  t.provs.filter (fun e => e.2.valid && f.provs.getLsbD e.1)

/-- The share of a flow on channel c, in 64ths: the largest over its provinces. -/
def flowShare (t : Tables) (f : FlowCfg) (c : Nat) : Nat :=
  ((flowProvs t f).map (fun e =>
    let cs := provChans e.2
    if cs.contains c then ceilDiv (64 * f.guarantee.toNat) (f.window * cs.length) else 0)).foldl max 0

/-- What the flows that `sel` picks commit on channel c, retirements left out, in 64ths. -/
def chanBase (t : Tables) (sel : FlowCfg → Bool) (c : Nat) : Nat :=
  ((t.flows.filter (fun e => e.2.commits && sel e.2)).map (fun e => flowShare t e.2 c)).foldl (· + ·) 0

/-- The ranks whose data lies in the reserve, with their channels and granules (R140). -/
def reserveRanks (s : State) : List (Nat × List Nat) :=
  (s.ranks.filter (fun e => e.2.st = .retiredReserve || (e.2.st = .spareUnusable && e.2.grans ≠ []))).map
    (fun e => (e.1 / 5, e.2.grans))

/-- What retired ranks' granules add to channel c, in 64ths; a fence of the retired rank's own channel leaves them (DEDUCED,
log 130). -/
def reserveAdd (s : State) (base : Nat → Nat) (c : Nat) : Nat :=
  ((reserveRanks s).map (fun e =>
    (e.2.map (fun g =>
      let cs := chanSet (blockClass s.tables.provs (g / 32)) g
      if cs.contains c then ceilDiv (base e.1) (8 * cs.length) else 0)).foldl (· + ·) 0)).foldl (· + ·) 0

/-- Commitment of channel c from the flows that `sel` picks, in 64ths; a fenced channel's is ignored. -/
def chanCommit (s : State) (sel : FlowCfg → Bool) (c : Nat) : Nat :=
  if chanFenced s c then 0
  else
    let base := chanBase s.tables sel
    base c + reserveAdd s base c

/-- An exact sum of fractions, as numerator and denominator. -/
def addFrac (a b : Nat × Nat) : Nat × Nat := if a.2 = b.2 then (a.1 + b.1, a.2) else (a.1 * b.2 + b.1 * a.2, a.2 * b.2)

/-- What the flows that `sel` picks commit on a bond, exactly. -/
def bondCommit (t : Tables) (sel : FlowCfg → Bool) (first log2 : Nat) : Nat × Nat :=
  ((t.flows.filter (fun e => e.2.commits && sel e.2 && e.2.bondFirst.toNat = first && e.2.bondLog2.toNat = log2)).map
    (fun e => (e.2.guarantee.toNat, e.2.window))).foldl addFrac (0, 1)

def isFixed (f : FlowCfg) : Bool := f.cls = 0
def isGuar (f : FlowCfg) : Bool := f.cls = 1

/-- A bond's Fixed and scaled Guaranteed commitments fit: fixed + (k/64) guar ≤ budget. -/
def fracFits (fx gu : Nat × Nat) (k budget : Nat) : Bool :=
  64 * fx.1 * gu.2 + k * gu.1 * fx.2 ≤ 64 * budget * (fx.2 * gu.2)

/-- Every channel and bond holds Fixed + (k/64) Guaranteed commitments, of Guaranteed flows of rank v or more. -/
def fitsAt (s : State) (k v : Nat) : Bool :=
  let g := fun f => isGuar f && v ≤ f.crank.toNat
  (List.range 32).all (fun c => 64 * chanCommit s isFixed c + k * chanCommit s g c ≤ 64 * chanBudget s c) &&
  s.tables.bonds.all (fun e =>
    fracFits (bondCommit s.tables isFixed e.1 e.2.log2.toNat) (bondCommit s.tables g e.1 e.2.log2.toNat) k
      (bondBudget s e.1 e.2.log2.toNat))

/-- The full commitments of every channel and bond fit their live budgets, every share rounded once (R140, R144). -/
def fullFits (s : State) : Bool :=
  (List.range 32).all (fun c => chanCommit s (fun _ => true) c ≤ chanBudget s c) &&
  s.tables.bonds.all (fun e =>
    fracFits (bondCommit s.tables (fun _ => true) e.1 e.2.log2.toNat) (0, 1) 0 (bondBudget s e.1 e.2.log2.toNat))

/-- k of R145: the largest that fits, 0 with none. -/
def scaleFactor (s : State) : Nat := (((List.range 65).reverse).find? (fun k => fitsAt s k 0)).getD 0

/-- v of R146: the smallest that fits, 16 with none. -/
def shedLevel (s : State) : Nat := ((List.range 17).find? (fun v => fitsAt s 64 v)).getD 16

/-! ### Shortfall (R144) -/

/-- The effective floor of a flow at the factor and level in force. -/
def floorOf (s : State) (f : FlowCfg) : Word :=
  if isGuar f && s.flw.shortfall then
    if s.tables.policy then (if f.crank.toNat < s.flw.shed.toNat then 0 else f.guarantee)
    else BitVec.ofNat 24 (f.guarantee.toNat * s.flw.factor.toNat / 64)
  else f.guarantee

/-- Set every valid flow's effective floor. -/
def setFloors (s : State) : State :=
  foldS (validFlows s) (fun s f => s.modFlowR f (fun r => { r with floor := floorOf s (flowCfg s f) })) s

/-- Every window now open goes unjudged (R136). -/
def spoilAll (s : State) : State := foldS (validFlows s) (fun s f => s.modFlowR f (fun r => { r with spoiled := true })) s

/-- The valid queues that valid Fixed or Guaranteed flows name. -/
def shortQueues (s : State) : List Nat :=
  (List.range 64).filter (fun q => (queueCfg s q).valid &&
    s.tables.flows.any (fun e => e.2.commits && e.2.queue.toNat = q))

/-- Detail of SHORTFALL_ENTER and SHORTFALL_CHANGE (R151). -/
def shortDetail (s : State) : BitVec 40 :=
  (BitVec.ofBool s.tables.policy ++ s.flw.factor ++ s.flw.shed ++ 0#27 : BitVec (1 + 7 + 5 + 27))

def markPosted (s : State) (q : Nat) : State :=
  { s with flw := { s.flw with lastPosted := tput s.flw.lastPosted q (shortDetail s).toNat } }

/-- Post a SHORTFALL_CHANGE as the queue's record of this evaluation window. -/
def postChange (s : State) (q : Nat) : State :=
  let s := postQueue s q 3 (shortDetail s)
  markPosted { s with flw := { s.flw with posted := q :: s.flw.posted } } q

/-- The factor and level that the live budgets now call for, in shortfall; the one that the policy does not use reads 64 or 0
(DEDUCED, log 132). -/
def levelsNow (s : State) : BitVec 7 × BitVec 5 :=
  if s.tables.policy then (64, BitVec.ofNat 5 (shedLevel s)) else (BitVec.ofNat 7 (scaleFactor s), 0)

/-- Write the live budgets and commitments that the registers show. -/
def storeBudgets (s : State) : State :=
  { s with flw := { s.flw with
      budget := (List.range 32).map (fun c => (c, chanBudget s c)),
      commit := (List.range 32).map (fun c => (c, chanCommit s (fun _ => true) c)),
      bondBudget := s.tables.bonds.map (fun e => (e.1, bondBudget s e.1 e.2.log2.toNat)),
      bondCommit := s.tables.bonds.map (fun e =>
        let c := bondCommit s.tables (fun _ => true) e.1 e.2.log2.toNat
        (e.1, ceilDiv c.1 c.2)) } }

/-- Enter SHORTFALL (R144). -/
def enterShortfall (s : State) : State :=
  let l := levelsNow s
  let s := { s with flw := { s.flw with
    shortfall := true, factor := l.1, shed := l.2, clean := 0, entries := sat s.flw.entries 1 } }
  let s := spoilAll (setFloors s)
  let s := raise s 0x39 0
  foldS (shortQueues s) (fun s q => markPosted (postQueue s q 2 (shortDetail s)) q) s

/-- Leave SHORTFALL (R144); the clean count reads 0 from then on (DEDUCED, log 131). -/
def leaveShortfall (s : State) : State :=
  let s := setFloors { s with flw := { s.flw with shortfall := false, factor := 64, shed := 0, clean := 0, heldBack := [] } }
  foldS (shortQueues s) (fun s q => postQueue s q 4 0) s

/-- Recompute every budget, commitment and floor (R141, R144). -/
def recompute (s : State) : State :=
  let s := storeBudgets { s with flw := { s.flw with due := false } }
  let fits := fullFits s
  let s := { s with flw := { s.flw with cleanSoFar := s.flw.cleanSoFar && fits } }
  if s.flw.shortfall then
    let l := levelsNow s
    if l = (s.flw.factor, s.flw.shed) then s
    else
      let s := setFloors { s with flw := { s.flw with
        factor := l.1
        shed := l.2
        heldBack := (shortQueues s).filter (fun q => s.flw.posted.contains q) } }
      foldS ((shortQueues s).filter (fun q => !s.flw.posted.contains q)) postChange s
  else if fits then setFloors s
  else enterShortfall s

/-- Close an evaluation window and open the next (R144, R152): the recomputation at the boundary belongs to the window
it opens (DEDUCED from the worked example, log 16). -/
def closeEvaluation (s : State) : State :=
  let s := { s with flw := { s.flw with lastEval := some s.elapsed, irqUsed := [], posted := [] } }
  let s :=
    if s.flw.shortfall then
      if s.flw.cleanSoFar then
        let s := { s with flw := { s.flw with clean := s.flw.clean + 1 } }
        if s.flw.clean = 16 then leaveShortfall s else s
      else { s with flw := { s.flw with clean := 0 } }
    else s
  let held := s.flw.heldBack
  let s := recompute { s with flw := { s.flw with cleanSoFar := true, heldBack := [] } }
  if s.flw.shortfall then
    foldS ((shortQueues s).filter (fun q => held.contains q && !s.flw.posted.contains q &&
      decide (tfind s.flw.lastPosted q ≠ some (shortDetail s).toNat))) postChange s
  else s

end Sys2Proof.Machine
end

