-- ==== Sys2Proof/Machine/Crypto.lean ====
section
/-! DEFINITION. The standard functions the spec names: AES-256 and XTS (R299), RFC 3394 key unwrap (R306), SHA-384,
HMAC and HKDF (R302, R303), P-384 and ECDSA (R303, R320). Their constants are those of the standards (PRESUMED, log 13). -/

namespace Sys2Proof.Machine

/-! ### AES-256 -/

def xtime (a : Nat) : Nat := if a < 128 then a * 2 else (a * 2) ^^^ 0x11B

def amul (a b : Nat) : Nat :=
  ((List.range 8).foldl (fun (st : Nat × Nat) i =>
    (if (b >>> i) % 2 = 1 then st.1 ^^^ st.2 else st.1, xtime st.2)) (0, a)).1

def ainv (a : Nat) : Nat :=
  (List.range 7).foldl (fun (st : Nat × Nat) _ => let sq := amul st.2 st.2; (amul st.1 sq, sq)) (1, a) |>.1

def rotl8 (a k : Nat) : Nat := ((a <<< k) ||| (a >>> (8 - k))) % 256

def sbox (a : Nat) : Nat :=
  let b := ainv a
  b ^^^ rotl8 b 1 ^^^ rotl8 b 2 ^^^ rotl8 b 3 ^^^ rotl8 b 4 ^^^ 0x63

def invSbox (a : Nat) : Nat := ainv (rotl8 a 1 ^^^ rotl8 a 3 ^^^ rotl8 a 6 ^^^ 0x05)

/-- The 60 words of the key schedule, newest first, as lists of four bytes. -/
def aesWords (key : List Nat) : List (List Nat) :=
  let ks := (List.range 8).map (fun i => (key.drop (4 * i)).take 4)
  (List.range 52).foldl (fun (ws : List (List Nat)) i =>
    let prev := ws.headD []
    let back := ws.getD 7 []
    let t := if i % 8 = 0 then
        List.zipWith (· ^^^ ·) (((prev.drop 1) ++ prev.take 1).map sbox) [gpow2 (i / 8), 0, 0, 0]
      else if i % 8 = 4 then prev.map sbox else prev
    (List.zipWith (· ^^^ ·) back t) :: ws) ks.reverse
where
  gpow2 (n : Nat) : Nat := 2 ^ n

/-- The 15 round keys of 16 bytes. -/
def aesKeys (key : List Nat) : List (List Nat) :=
  let ws := (aesWords key).reverse
  (List.range 15).map (fun r => ((ws.drop (4 * r)).take 4).flatten)

def xorBytes (a b : List Nat) : List Nat := List.zipWith (· ^^^ ·) a b

def shiftRows (st : List Nat) : List Nat :=
  (List.range 16).map (fun i => st.getD ((i % 4 + 4 * ((i / 4 + i % 4) % 4)) % 16) 0)

def invShiftRows (st : List Nat) : List Nat :=
  (List.range 16).map (fun i => st.getD ((i % 4 + 4 * ((i / 4 + 4 - i % 4) % 4)) % 16) 0)

def mixWith (m : List Nat) (st : List Nat) : List Nat :=
  (List.range 16).map (fun i =>
    let col := (st.drop (4 * (i / 4))).take 4
    let r := i % 4
    (List.range 4).foldl (fun a j => a ^^^ amul (m.getD ((j + 4 - r) % 4) 0) (col.getD j 0)) 0)

/-- One block under a 32-byte key. -/
def aesEnc (key block : List Nat) : List Nat :=
  let rk := aesKeys key
  let s0 := xorBytes block (rk.headD [])
  let s := (List.range 13).foldl (fun st r =>
    xorBytes (mixWith [2, 3, 1, 1] (shiftRows (st.map sbox))) (rk.getD (r + 1) [])) s0
  xorBytes (shiftRows (s.map sbox)) (rk.getD 14 [])

def aesDec (key block : List Nat) : List Nat :=
  let rk := aesKeys key
  let s0 := xorBytes block (rk.getD 14 [])
  let s := (List.range 13).foldl (fun st r =>
    mixWith [14, 11, 13, 9] (xorBytes ((invShiftRows st).map invSbox) (rk.getD (13 - r) []))) s0
  xorBytes ((invShiftRows s).map invSbox) (rk.headD [])

/-- Big-endian bytes of a number. -/
def toBytes (n x : Nat) : List Nat := (List.range n).reverse.map (fun i => (x >>> (8 * i)) % 256)

def ofBytes (bs : List Nat) : Nat := bs.foldl (fun a b => a * 256 + b) 0

/-- The tweak times α in GF(2^128), little-endian (IEEE 1619). -/
def xtsDouble (t : List Nat) : List Nat :=
  let x := ofBytes t.reverse
  let y := (x * 2) % 2 ^ 128
  (toBytes 16 (if x < 2 ^ 127 then y else y ^^^ 0x87)).reverse

/-- XTS over the four blocks of a line; `f` is the block function under key 1 (R299). -/
def xts (f : List Nat → List Nat) (key2 : List Nat) (dpa : Nat) (l : Line) : Line :=
  let t0 := aesEnc key2 (toBytes 16 dpa).reverse
  let bs := (lineBytes l).map BitVec.toNat
  let r := (List.range 4).foldl (fun (st : List Nat × List Nat) i =>
    let blk := (bs.drop (16 * i)).take 16
    (st.1 ++ xorBytes (f (xorBytes blk st.2)) st.2, xtsDouble st.2)) ([], t0)
  BitVec.ofNat 512 (ofBytes r.1)

def keyHalves (k : BitVec 512) : List Nat × List Nat := (toBytes 32 (k.toNat >>> 256), toBytes 32 (k.toNat % 2 ^ 256))

/-- Encrypt a line under a slot key with the DPA of its first byte as tweak (R299). -/
def encryptLine (k : BitVec 512) (dpa : Nat) (l : Line) : Line :=
  let ks := keyHalves k
  xts (aesEnc ks.1) ks.2 dpa l

def decryptLine (k : BitVec 512) (dpa : Nat) (l : Line) : Line :=
  let ks := keyHalves k
  xts (aesDec ks.1) ks.2 dpa l

/-- RFC 3394 unwrap of 576 bits under a 256-bit key: the 512-bit key, or none when the integrity check fails (R306). -/
def unwrapKey (kek : BitVec 256) (c : BitVec 576) : Option (BitVec 512) :=
  let key := toBytes 32 kek.toNat
  let cs := (List.range 9).map (fun i => (c.toNat >>> (64 * (8 - i))) % 2 ^ 64)
  let r := ((List.range 48).reverse).foldl (fun (st : Nat × List Nat) t =>
    let i := t % 8
    let b := aesDec key (toBytes 8 (st.1 ^^^ (t + 1)) ++ toBytes 8 (st.2.getD i 0))
    (ofBytes (b.take 8), st.2.set i (ofBytes (b.drop 8)))) (cs.headD 0, cs.drop 1)
  if r.1 = 0xA6A6A6A6A6A6A6A6 then some (BitVec.ofNat 512 (r.2.foldl (fun a x => a * 2 ^ 64 + x) 0)) else none

/-- Bits [127:104] of AES-256 under key 1 of the all-zero block (R315). -/
def keyCheck (k : BitVec 512) : Word :=
  BitVec.ofNat 24 (ofBytes ((aesEnc (keyHalves k).1 (List.replicate 16 0)).take 3))

/-! ### SHA-384 -/

/-- The largest r below 2^n with r^e ≤ x. -/
def rootUpTo (e x : Nat) : Nat → Nat → Nat
  | 0, r => r
  | n + 1, r => let r' := r + 2 ^ n; rootUpTo e x n (if r' ^ e ≤ x then r' else r)

def isPrime (n : Nat) : Bool := 2 ≤ n && (List.range n).all (fun d => d < 2 || n % d ≠ 0)

def primes80 : List Nat := (List.range 410).filter isPrime

/-- Fractional parts of cube roots of the first 80 primes. -/
def shaK : List Nat := primes80.map (fun p => rootUpTo 3 (p * 2 ^ 192) 70 0 % 2 ^ 64)

/-- Fractional parts of square roots of the ninth to sixteenth primes. -/
def sha384Iv : List Nat := ((primes80.drop 8).take 8).map (fun p => rootUpTo 2 (p * 2 ^ 128) 72 0 % 2 ^ 64)

def ror64 (x k : Nat) : Nat := ((x >>> k) ||| (x <<< (64 - k))) % 2 ^ 64

def m64 (x : Nat) : Nat := x % 2 ^ 64

def shaSchedule (blk : List Nat) : List Nat :=
  ((List.range 64).foldl (fun (ws : List Nat) _ =>
    let s0 := let x := ws.getD 14 0; ror64 x 1 ^^^ ror64 x 8 ^^^ (x >>> 7)
    let s1 := let x := ws.getD 1 0; ror64 x 19 ^^^ ror64 x 61 ^^^ (x >>> 6)
    m64 (ws.getD 15 0 + s0 + ws.getD 6 0 + s1) :: ws) blk.reverse).reverse

def shaRound (st : List Nat) (kw : Nat × Nat) : List Nat :=
  match st with
  | [a, b, c, d, e, f, g, h] =>
    let s1 := ror64 e 14 ^^^ ror64 e 18 ^^^ ror64 e 41
    let ch := (e &&& f) ^^^ ((2 ^ 64 - 1 - e) &&& g)
    let t1 := h + s1 + ch + kw.1 + kw.2
    let s0 := ror64 a 28 ^^^ ror64 a 34 ^^^ ror64 a 39
    let mj := (a &&& b) ^^^ (a &&& c) ^^^ (b &&& c)
    [m64 (t1 + s0 + mj), a, b, c, m64 (d + t1), e, f, g]
  | _ => st

def shaBlock (ks : List Nat) (st : List Nat) (bytes : List Nat) : List Nat :=
  let blk := (List.range 16).map (fun i => ofBytes ((bytes.drop (8 * i)).take 8))
  List.zipWith (fun a b => m64 (a + b)) st ((ks.zip (shaSchedule blk)).foldl shaRound st)

def shaPad (msg : List Nat) : List Nat :=
  let n := msg.length
  msg ++ [0x80] ++ List.replicate ((239 - n % 128) % 128) 0 ++ toBytes 16 (8 * n)

def shaBlocks (ks : List Nat) : Nat → List Nat → List Nat → List Nat
  | 0, _, st => st
  | n + 1, bytes, st => shaBlocks ks n (bytes.drop 128) (shaBlock ks st (bytes.take 128))

/-- SHA-384 of a byte string. -/
def sha384 (msg : List Nat) : List Nat :=
  let p := shaPad msg
  ((shaBlocks shaK (p.length / 128) p sha384Iv).take 6).flatMap (toBytes 8)

def hmac384 (key msg : List Nat) : List Nat :=
  let k0 := if 128 < key.length then sha384 key else key
  let k := k0 ++ List.replicate (128 - k0.length) 0
  sha384 (k.map (· ^^^ 0x5C) ++ sha384 (k.map (· ^^^ 0x36) ++ msg))

/-- HKDF (RFC 5869) for at most 96 bytes. -/
def hkdf384 (salt ikm info : List Nat) (n : Nat) : List Nat :=
  let prk := hmac384 salt ikm
  let t1 := hmac384 prk (info ++ [1])
  let t2 := hmac384 prk (t1 ++ info ++ [2])
  (t1 ++ t2).take n

/-! ### P-384 and ECDSA -/

def p384P : Nat := 2 ^ 384 - 2 ^ 128 - 2 ^ 96 + 2 ^ 32 - 1
def p384N : Nat := 0xFFFFFFFFFFFFFFFFFFFFFFFFFFFFFFFFFFFFFFFFFFFFFFFFC7634D81F4372DDF581A0DB248B0A77AECEC196ACCC52973
def p384B : Nat := 0xB3312FA7E23EE7E4988E056BE3F82D19181D9C6EFE8141120314088F5013875AC656398D8A2ED19D2A85C8EDD3EC2AEF
def p384Gx : Nat := 0xAA87CA22BE8B05378EB1C71EF320AD746E1D3B628BA79B9859F741E082542A385502F25DBF55296C3A545E3872760AB7
def p384Gy : Nat := 0x3617DE4A96262C6F5D9E98BF9292DC29F8F41DBD289A147CE9DA3113B5F0B8C00A60B1CE1D7E819D7A431D7C90EA0E5F

/-- a^e mod m over the low n bits of e. -/
def powMod (m a e : Nat) : Nat → Nat
  | 0 => 1 % m
  | n + 1 => let h := powMod m a (e / 2) n; let q := h * h % m; if e % 2 = 1 then q * a % m else q

def invMod (m a : Nat) : Nat := powMod m a (m - 2) 384

/-- A point, or none for infinity. -/
abbrev Pt := Option (Nat × Nat)

/-- A valid P-384 point (R320). -/
def validPoint (x y : Nat) : Bool :=
  x < p384P && y < p384P && (y * y) % p384P = (x * x * x + (p384P - 3) * x + p384B) % p384P

def ptAdd (a b : Pt) : Pt :=
  match a, b with
  | none, _ => b
  | _, none => a
  | some (x1, y1), some (x2, y2) =>
    let p := p384P
    if x1 = x2 && (y1 + y2) % p = 0 then none
    else
      let l := if x1 = x2 then (3 * x1 * x1 + (p - 3)) * invMod p (2 * y1 % p) % p
        else (y2 + p - y1) * invMod p ((x2 + p - x1) % p) % p
      let x3 := (l * l + 2 * p - x1 - x2) % p
      some (x3, (l * (x1 + p - x3) + p - y1) % p)

/-- k · P over the low n bits of k. -/
def ptMul (k : Nat) (q : Pt) : Nat → Pt
  | 0 => none
  | n + 1 => let r := ptMul (k / 2) q n; let d := ptAdd r r; if k % 2 = 1 then ptAdd d q else d

/-- ECDSA P-384 verification of a SHA-384 digest (R320). -/
def ecdsaVerify (qx qy r s : Nat) (digest : List Nat) : Bool :=
  validPoint qx qy && 0 < r && r < p384N && 0 < s && s < p384N &&
  let w := invMod p384N s
  let u1 := ofBytes digest * w % p384N
  let u2 := r * w % p384N
  match ptAdd (ptMul u1 (some (p384Gx, p384Gy)) 384) (ptMul u2 (some (qx, qy)) 384) with
  | none => false
  | some (x, _) => x % p384N = r

def strBytes (s : String) : List Nat := s.toList.map Char.toNat

/-- The device key from the device secret: HKDF with info "DEVKEY" and extra random bits (R302). The salt, which the
manual does not name, is RFC 5869's default (PRESUMED, log 13). -/
def deviceKey (secret : BitVec 256) : Nat :=
  ofBytes (hkdf384 (List.replicate 48 0) (toBytes 32 secret.toNat) (strBytes "DEVKEY") 56) % (p384N - 1) + 1

/-- The session wrap key (R303). -/
def wrapKey (z : Nat) (nonce : BitVec 96) (port : Nat) : BitVec 256 :=
  BitVec.ofNat 256 (ofBytes (hkdf384 (toBytes 12 nonce.toNat) (toBytes 48 z) (strBytes "KWRAP" ++ [port]) 32))

end Sys2Proof.Machine
end

