-- ==== Sys2Proof/Machine/LineBuffer.lean ====
section
/-! DEFINITION. Requests past lookup, channel queues and the line buffer (R28, R130, R131, R135, R160–R162, R169–R172,
R175, R177, R299–R301): what the data-path commands share. -/

namespace Sys2Proof.Machine

/-! ### Requests -/

/-- 64 B lines of a request (R105). -/
def Op.lines : Op → Nat
  | .read64 | .write64 | .mwrite64 => 1
  | .read128 | .write128 => 2
  | .read256 | .write256 => 4
  | .fence | .flush | .engine | .reserved => 0

/-- Units charged (R130). -/
def Op.units : Op → Nat
  | .mwrite64 => 2
  | o => o.lines

def Op.isRead : Op → Bool
  | .read64 | .read128 | .read256 => true
  | _ => false

def Op.isWrite : Op → Bool
  | .write64 | .write128 | .write256 | .mwrite64 => true
  | _ => false

def findReq (s : State) (id : Nat) : Option Req := s.reqs.find? (fun r => r.id = id)

def modReq (s : State) (id : Nat) (g : Req → Req) : State :=
  { s with reqs := s.reqs.map (fun r => if r.id = id then g r else r) }

/-- The window that a flow is in, as a number that every window edge changes. -/
def windowNo (r : FlowRt) : Nat := match r.edge with | some e => e + 1 | none => 0

def wsub {w : Nat} (a : BitVec w) (k : Nat) : BitVec w := BitVec.ofNat w (a.toNat - k)

/-- A reservation is returned to the window in which the request arrived, and its units leave offered (R28, R131, R135). -/
def returnCharge (s : State) (r : Req) : State :=
  s.modFlowR r.flow (fun f =>
    let f := if windowNo f = r.window then { f with charged := wsub f.charged r.units } else f
    if r.counted = some (windowNo f) then { f with offered := wsub f.offered r.units } else f)

/-- The request's outcome is known and its completion can be formed. -/
def endReq (s : State) (id : Nat) (st : Status) : State :=
  modReq s id (fun r => { r with stage := .done, status := Status.first r.status st, linesDue := 0 })

/-- The request completes REFUSED, ABSENT or FENCED after lookup: its charge is returned, once. -/
def failReq (s : State) (id : Nat) (st : Status) : State :=
  match findReq s id with
  | some r => if r.stage = .done then s else endReq (returnCharge s r) id st
  | none => s

/-- Line i of the request is settled with a status; the request ends with its last line. -/
def lineDone (s : State) (id i : Nat) (st : Status) (data : Option Line) : State :=
  modReq s id (fun r =>
    if r.stage = .done then r
    else
      let bit := BitVec.ofNat 4 (2 ^ i)
      { r with
        status := Status.first r.status st,
        linesCorr := if st = .corrected then r.linesCorr ||| bit else r.linesCorr,
        linesPois := if st = .poisoned then r.linesPois ||| bit else r.linesPois,
        rdata := match data with | some d => tput r.rdata i d | none => r.rdata,
        linesDue := r.linesDue - 1,
        stage := if r.linesDue ≤ 1 then .done else r.stage })

/-! ### Channel queues (R160–R162) -/

/-- The time now in ps: the latest that a command of this beat has named, and else the start of the beat (log 17). -/
def nowPs (s : State) : Nat := max s.clock (s.elapsed * 1000000)

/-- The time lies in the beat under way. -/
def inBeat (s : State) (now : Nat) : Bool := now / 1000000 = s.elapsed

/-- A command names its time: within the beat under way time only moves on (log 17). -/
def atPs (s : State) (now : Nat) : State := if inBeat s now then { s with clock := max s.clock now } else s

/-- Entries a queue has free for a class: `res` are reserved for Fixed-class work, `shared` may be used by any. -/
def roomFor (q : List Entry) (res shared : Nat) (fixed : Bool) : Bool :=
  let f := (q.filter (·.fixed)).length
  let o := q.length - f
  (fixed && f < res) || o + (f - res) < shared

def canRead (s : State) (c : Nat) (fixed : Bool) : Bool := (s.chan c).rdWait = [] && roomFor (s.chan c).rdq 8 56 fixed
def canWrite (s : State) (c : Nat) (fixed : Bool) : Bool := (s.chan c).wrWait = [] && roomFor (s.chan c).wrq 6 42 fixed

/-- Every read, and every write, that waits in a channel: in its queue, or for a place there (DEDUCED, log 56). -/
def Chan.reads (ch : Chan) : List Entry := ch.rdq ++ ch.rdWait
def Chan.writes (ch : Chan) : List Entry := ch.wrq ++ ch.wrWait

/-- Change every entry that waits in a channel. -/
def Chan.mapEntries (g : Entry → Entry) (ch : Chan) : Chan :=
  { ch with rdq := ch.rdq.map g, wrq := ch.wrq.map g, rdWait := ch.rdWait.map g, wrWait := ch.wrWait.map g }

/-- Keep the entries that wait in a channel and satisfy `g`. -/
def Chan.keepEntries (g : Entry → Bool) (ch : Chan) : Chan :=
  { ch with
    rdq := ch.rdq.filter g, wrq := ch.wrq.filter g, rdWait := ch.rdWait.filter g, wrWait := ch.wrWait.filter g }

/-- A new queue entry of a kind. -/
def mkEntry (s : State) (kind : EKind) (fixed : Bool) (loc : Loc) (cols : List Nat) (dpaLine : Nat) : Entry :=
  { id := (s.chan loc.ch).nextEntry, kind := kind, req := none, fixed := fixed, loc := loc, cols := cols, words := [],
    mask := (true, true), dpaLine := dpaLine, since := nowPs s, aged := false, finder := 0,
    begun := false, stale := false, got := zeroWords, fromEntry := false }

/-- Two entries have a line of a rank in common. -/
def Entry.meets (e x : Entry) : Bool :=
  x.loc.rank = e.loc.rank && x.loc.bank = e.loc.bank && x.loc.row = e.loc.row && x.cols.any (fun k => e.cols.contains k)

/-- The queue after waiting entries have taken its free places, and those that still wait: an entry takes a place of its
class unless an earlier entry of one of its lines waits too. Its age runs from then (R163). -/
def admitAux (res shared now : Nat) : List Entry → List Entry → List Entry → List Entry × List Entry
  | [], q, left => (q, left)
  | e :: r, q, left =>
    if roomFor q res shared e.fixed && !left.any (fun x => x.meets e) then
      admitAux res shared now r (q ++ [{ e with since := now }]) left
    else admitAux res shared now r q (left ++ [e])

/-- While its controller is in reset, the queues of a channel are empty and take nothing (R459). -/
def admitReads (s : State) (c : Nat) : State :=
  if s.rst.chanBusy.contains c then s else
  let ch := s.chan c
  let r := admitAux 8 56 (nowPs s) ch.rdWait ch.rdq []
  s.setChan c { ch with rdq := r.1, rdWait := r.2 }

/-- A host write whose completion waits for its entry to enter the queue is done as it enters (R172, R489). -/
def admitWrites (s : State) (c : Nat) : State :=
  if s.rst.chanBusy.contains c then s else
  let ch := s.chan c
  let r := admitAux 6 42 (nowPs s) ch.wrWait ch.wrq []
  let done := r.1.filterMap (·.req)
  foldS done (fun s id => endReq s id .ok)
    (s.setChan c { ch with wrq := r.1.map (fun e => { e with req := none }), wrWait := r.2 })

/-- An entry joins the reads, or the writes, of its channel. -/
def pushRead (s : State) (e : Entry) : State :=
  admitReads (s.modChan e.loc.ch (fun c => { c with
    rdWait := c.rdWait ++ [{ e with id := c.nextEntry }], nextEntry := c.nextEntry + 1 })) e.loc.ch

def pushWrite (s : State) (e : Entry) : State :=
  admitWrites (s.modChan e.loc.ch (fun c => { c with
    wrWait := c.wrWait ++ [{ e with id := c.nextEntry }], nextEntry := c.nextEntry + 1 })) e.loc.ch

/-- The mark of an entry whose line has no DPA. -/
def dpaNone : Nat := 2 ^ 36

/-- The DPA line of an entry's column. -/
def entryLine (e : Entry) (col : Nat) : Nat :=
  if e.dpaLine = dpaNone then dpaNone else e.dpaLine + (col - e.loc.col)

def isRewrite (e : Entry) : Bool := e.kind = .corrWb || e.kind = .poisonRw

/-- The entry writes new data to a DPA line: no rewrite, and no copy of a migration. -/
def Entry.writesLine (e : Entry) (line : Nat) : Bool :=
  !isRewrite e && e.kind ≠ .migWrite && e.cols.any (fun k => entryLine e k = line)

/-! ### FLUSH (R177) -/

/-- A write of the line waits in some channel (R175, R177). -/
def lineQueued (s : State) (dpaLine : Nat) : Bool :=
  (List.range 32).any (fun q => (s.chan q).writes.any (fun e => e.writesLine dpaLine))

def lbFind (s : State) (c dpaLine : Nat) : Option LbLine := (s.chan c).lb.find? (fun l => l.dpaLine = dpaLine)

/-- A write of the line has reached the tier: flushes await it no longer once no other write of it waits and the buffered
line is clean. -/
def flushed (s : State) (c dpaLine : Nat) : State :=
  if lineQueued s dpaLine || (match lbFind s c dpaLine with | some l => l.dirty | none => false) then s
  else { s with reqs := s.reqs.map (fun r => { r with awaits := r.awaits.filter (fun a => a ≠ (c, dpaLine)) }) }

/-- A write of flow f that passed lookup as `id` has put a line into the buffer or a write queue: later flushes of the
flow await it. -/
def awaitLine (s : State) (f id c dpaLine : Nat) : State :=
  { s with reqs := s.reqs.map (fun r =>
      if r.stage = .flushing && r.flow = f && id < r.id && !r.awaits.contains (c, dpaLine) then
        { r with awaits := r.awaits ++ [(c, dpaLine)] }
      else r) }

/-- A write-back that flushes await met a fenced channel or rank. -/
def flushFenced (s : State) (c dpaLine : Nat) : State :=
  { s with reqs := s.reqs.map (fun r =>
      if r.awaits.contains (c, dpaLine) then
        { r with status := .fenced, awaits := r.awaits.filter (fun a => a ≠ (c, dpaLine)) }
      else r) }

/-! ### The line buffer (R169–R172) -/

/-- The quarter is parked or under test: requests pass it by (R172, R400). -/
def bypass (s : State) (c : Nat) : Bool := !domOn s (46 + c / 8) || underLogic s 5 (c / 8)

/-- Home channel and set of a line (R169). -/
def homeChan (s : State) (dpaLine : Nat) : Nat := (homeLoc s (dpaLine * 64)).ch
def lbSet (s : State) (dpaLine : Nat) : Nat := (homeLoc s (dpaLine * 64)).index % 1024

/-- Tags agree (R171). -/
def lbMatches (s : State) (l : LbLine) (enc : Bool) (slot : Nat) : Bool :=
  l.enc = enc && (!enc || (l.slot = slot && l.gen = (s.slot slot).gen))

def lbDrop (s : State) (c dpaLine : Nat) : State :=
  s.modChan c (fun ch => { ch with lb := ch.lb.filter (fun l => l.dpaLine ≠ dpaLine) })

/-- The key of a slot at a generation: the slot's own, or the one it had then (R307). -/
def keyOf (s : State) (slot : Nat) (gen : BitVec 8) : BitVec 512 :=
  if (s.slot slot).gen = gen then (s.slot slot).key else tget 0 (s.slot slot).olds gen.toNat

/-- Ciphertext of a line of an encrypted province (R299, R300). -/
def storedForm (s : State) (enc : Bool) (slot : Nat) (gen : BitVec 8) (dpaLine : Nat) (d : Line) : Line :=
  if enc then encryptLine (keyOf s slot gen) (dpaLine * 64) d else d

/-- Plaintext of a line of an encrypted province. -/
def plainForm (s : State) (enc : Bool) (slot : Nat) (gen : BitVec 8) (dpaLine : Nat) (d : Line) : Line :=
  if enc then decryptLine (keyOf s slot gen) (dpaLine * 64) d else d

/-- A line is encrypted (R314, R433). -/
def countEnc (s : State) (enc : Bool) : State :=
  if enc then perf { s with cip := { s.cip with enc := s.cip.enc + 1 } } 0x480 0 1 else s

/-- A write burst of channel c issues (R188, R433). -/
def countWr (s : State) (c : Nat) : State :=
  perf (s.modChan c (fun ch => { ch with wrBursts := ch.wrBursts + 1 })) 0x201 c 1

/-! ### Bursts into a tier (R175, R216, R254) -/

/-- Reads and rewrites of a line that a write to it has overtaken. -/
def markStale (s : State) (l : Loc) (me : Nat) : State :=
  let hits := fun (e : Entry) (col : Nat) => e.id ≠ me && e.loc.rank = l.rank && e.loc.bank = l.bank &&
    e.loc.row = l.row && col = l.col
  let old := fun (e : Entry) => if isRewrite e && e.cols.any (hits e) then { e with stale := true } else e
  s.modChan l.ch (fun ch => { ch with
    inflight := ch.inflight.map (fun x => if hits x.1 x.2 then ({ x.1 with stale := true }, x.2) else x)
    wrq := ch.wrq.map old
    wrWait := ch.wrWait.map old })

/-- The words of a line in one place, masked by halves. -/
def burstAt (s : State) (l : Loc) (mask : Bool × Bool) (w : Half × Half) (me : Nat) : State :=
  let old := cellRead s l
  countWr (markStale (cellWrite s l (if mask.1 then w.1 else old.1, if mask.2 then w.2 else old.2)) l me) l.ch

/-- A write burst of a line: at its place, and for a line of the migrating rank at or above the pointer at its target and
in the staging too. -/
def burst (s : State) (l : Loc) (mask : Bool × Bool) (w : Half × Half) (me : Nat) : State :=
  let s := burstAt s l mask w me
  match mirrorOf s l with
  | some m =>
    let s := if (tfind s.mig.staged l.index).isSome then
        { s with mig := { s.mig with staged := tput s.mig.staged l.index (cellRead s l) } }
      else s
    burstAt s m mask w me
  | none => s

/-- A correction write-back or poison rewrite is dropped when a newer write has issued or is queued (R216). -/
def dropped (s : State) (c : Nat) (e : Entry) (col : Nat) : Bool :=
  e.stale || (s.chan c).writes.any (fun x => x.id ≠ e.id && !isRewrite x && x.meets { e with cols := [col] })

/-- The words that an entry writes to a column: a migration's come from the staging. -/
def Entry.wordsAt (e : Entry) (s : State) (col : Nat) : Half × Half :=
  if e.kind = .migWrite then (tfind s.mig.staged (e.dpaLine + (col - e.loc.col))).getD zeroWords
  else ((e.words.find? (fun w => w.1 = col)).map (·.2)).getD zeroWords

/-- A line has been copied to the target (R256, R271). -/
def countCopied (s : State) (i : Nat) (w : Half × Half) : State :=
  perf { s with mig := { s.mig with
    staged := tdel s.mig.staged i
    copied := s.mig.copied + 1
    poisoned := if w = poisonWords then s.mig.poisoned + 1 else s.mig.poisoned } } 0x380 0 1

/-- What the write of one column of an entry does in the tiers. The entry has left its queue, or its other columns wait. -/
def applyCol (s : State) (c : Nat) (e : Entry) (col : Nat) : State :=
  let l := { e.loc with col := col }
  let w := e.wordsAt s col
  if e.kind = .migWrite then countCopied (burstAt s l (true, true) w e.id) (e.dpaLine + (col - e.loc.col)) w
  else
    let s := burst s l e.mask w e.id
    if isRewrite e then s.modEccOf c (fun x => { x with writebacks := x.writebacks + 1 })
    else if e.dpaLine = dpaNone then s
    else flushed s (homeChan s (entryLine e col)) (entryLine e col)

/-- Queue a write-back of a buffered line where its DPA now lies; on a fenced place it is lost. -/
def queueWb (s : State) (c : Nat) (l : LbLine) : State :=
  match locate s (l.dpaLine * 64) with
  | none => flushFenced s c l.dpaLine
  | some loc =>
    if unreachable s loc then flushFenced s c l.dpaLine
    else
      let w := encodeLine (storedForm s l.enc l.slot l.gen l.dpaLine l.data)
      pushWrite (perf (countEnc s l.enc) 0x206 c 1)
        { mkEntry s .writeBack false loc [loc.col] l.dpaLine with words := [(loc.col, w.1, w.2)] }

/-- Write a dirty line back and keep it clean. -/
def cleanLine (s : State) (c : Nat) (l : LbLine) : State :=
  let s := queueWb s c l
  s.modChan c (fun ch => { ch with
    lb := ch.lb.map (fun x => if x.dpaLine = l.dpaLine then { x with dirty := false } else x) })

/-- The line that a new line of the same set would replace: the least recently used of 16. -/
def lbVictim (s : State) (c dpaLine : Nat) : Option LbLine :=
  let st := lbSet s dpaLine
  let set := (s.chan c).lb.filter (fun l => lbSet s l.dpaLine = st && l.dpaLine ≠ dpaLine)
  if 16 ≤ set.length then set.head? else none

/-- Room for a line: nothing to replace, a clean victim, or a write entry for a dirty one. -/
def lbRoom (s : State) (c dpaLine : Nat) : Bool :=
  match lbVictim s c dpaLine with
  | some v => !v.dirty || canWrite s c false
  | none => true

/-- Put a line as most recently used, replacing the victim of its set. -/
def lbPut (s : State) (c : Nat) (l : LbLine) : State :=
  let s := match lbVictim s c l.dpaLine with
    | some v => lbDrop (if v.dirty then queueWb s c v else s) c v.dpaLine
    | none => s
  s.modChan c (fun ch => { ch with lb := ch.lb.filter (fun x => x.dpaLine ≠ l.dpaLine) ++ [l] })

/-- A line used by a hit becomes most recently used. -/
def lbTouch (s : State) (c dpaLine : Nat) : State :=
  s.modChan c (fun ch => { ch with
    lb := ch.lb.filter (fun l => l.dpaLine ≠ dpaLine) ++ ch.lb.filter (fun l => l.dpaLine = dpaLine) })

def dirtyLines (s : State) (c : Nat) : List LbLine := (s.chan c).lb.filter (·.dirty)

/-- Lines that a FLUSH, a parking quarter, a slot change or the dirty limit wants written back (R170, R177). -/
def wantedWb (s : State) (c : Nat) : List LbLine :=
  let ds := dirtyLines s c
  let parking := bypass s c
  let surplus := ds.length - 12288
  ((ds.zipIdx).filter (fun (l, i) => parking || decide (i < surplus) ||
    s.reqs.any (fun r => r.stage = .flushing && r.awaits.contains (c, l.dpaLine)))).map (·.1)

/-- Move wanted write-backs into the write queue while it has room (R161). -/
def refillWbAux (c : Nat) : Nat → State → State
  | 0, s => s
  | n + 1, s =>
    if canWrite s c false then
      match (wantedWb s c).head? with
      | some l => refillWbAux c n (cleanLine s c l)
      | none => s
    else s

def refillWb (s : State) (c : Nat) : State := refillWbAux c 48 s

/-- The writes of a channel that wait, in order, issue now, those of `sel` alone: rewrites that newer writes have overtaken
drop. Nothing disturbs a cell meanwhile, so that a verify read would find what was written (R216, R217). -/
def drainEntries (sel : Entry → Nat → Bool) (s : State) (c : Nat) : State :=
  (s.chan c).writes.foldl (fun s e0 =>
    e0.cols.foldl (fun s col =>
      match (s.chan c).writes.find? (fun e => e.id = e0.id) with
      | none => s
      | some e =>
        if !sel e col then s
        else
          let left := { e with cols := e.cols.filter (· ≠ col) }
          let put := fun (q : List Entry) => (q.map (fun x => if x.id = e.id then left else x)).filter (fun x => x.cols ≠ [])
          let out := isRewrite e && dropped s c e col
          let s := s.modChan c (fun ch => { ch with wrq := put ch.wrq, wrWait := put ch.wrWait })
          let s := match e.req with | some id => endReq s id .ok | none => s
          if out then s.modEccOf c (fun x => { x with wbDropped := x.wbDropped + 1 }) else applyCol s c e col) s) s

def drainWrites (s : State) (c : Nat) : State := drainEntries (fun _ _ => true) s c

/-- Write back a dirty line at once, into the tier, after the writes of it that wait (R178, R307, R310, R375): the step's
end is the end of the write-back. -/
def drainLine (s : State) (c : Nat) (l : LbLine) : State :=
  let clean := fun (s : State) => s.modChan c (fun ch => { ch with
    lb := ch.lb.map (fun x => if x.dpaLine = l.dpaLine then { x with dirty := false } else x) })
  match locate s (l.dpaLine * 64) with
  | none => flushFenced s c l.dpaLine
  | some loc =>
    if unreachable s loc then flushFenced s c l.dpaLine
    else
      let w := encodeLine (storedForm s l.enc l.slot l.gen l.dpaLine l.data)
      let s := drainEntries (fun e col => entryLine e col = l.dpaLine) s loc.ch
      let s := perf (countEnc s l.enc) 0x206 c 1
      flushed (clean (burst s loc (true, true) w (s.chan loc.ch).nextEntry)) c l.dpaLine

def drainIf (sel : LbLine → Bool) (s : State) (c : Nat) : State :=
  ((dirtyLines s c).filter sel).foldl (fun s l => drainLine s c l) s

/-- Every write that waits, then every dirty line, is in the tiers (R178). -/
def drainAll (s : State) : State :=
  foldS (List.range 32) (fun s c => drainIf (fun _ => true) s c) (foldS (List.range 32) drainWrites s)

/-- Drop the lines that `sel` picks. -/
def dropIf (sel : LbLine → Bool) (s : State) (c : Nat) : State :=
  s.modChan c (fun ch => { ch with lb := ch.lb.filter (fun l => !sel l) })

/-! ### Queued work that meets a fence or a moved rank (R83, R254) -/

/-- The entry moved to the place where its first line now lies. -/
def Entry.moved (e : Entry) (loc : Loc) : Entry :=
  let put := fun (x : Nat) => x + loc.col - e.loc.col
  { e with loc := loc, cols := e.cols.map put, words := e.words.map (fun w => (put w.1, w.2)) }

/-- Put an entry where its line now lies, or end it FENCED. Work on a cell without a DPA, and that of the migration engine,
keeps its place. -/
def rerouteOne (wr : Bool) (s : State) (e : Entry) : State :=
  let back := fun (s : State) (e : Entry) => s.modChan e.loc.ch (fun ch =>
    if wr then { ch with wrWait := ch.wrWait ++ [e] } else { ch with rdWait := ch.rdWait ++ [e] })
  let gone := fun (s : State) =>
    match e.req with
    | some id => failReq s id .fenced
    | none =>
      if wr && !isRewrite e then
        foldS (e.cols.map (entryLine e)) (fun s line => flushFenced s (homeChan s line) line) s
      else s
  if e.dpaLine = dpaNone || e.kind = .migRead || e.kind = .migWrite then
    if (s.rank e.loc.ch e.loc.rank).st = .fenced || unreachable s e.loc then s else back s e
  else
    match locate s (e.dpaLine * 64) with
    | none => gone s
    | some loc =>
      if unreachable s loc then gone s
      else if loc.ch = e.loc.ch then back s (e.moved loc)
      else if wr then pushWrite s (e.moved loc) else pushRead s (e.moved loc)

/-- Entries that were in a queue go back to it, with their age. -/
def keepPlaces (s : State) (c : Nat) (rd wr : List Nat) : State :=
  s.modChan c (fun ch => { ch with
    rdq := ch.rdWait.filter (fun e => rd.contains e.id) ++ ch.rdq
    rdWait := ch.rdWait.filter (fun e => !rd.contains e.id)
    wrq := ch.wrWait.filter (fun e => wr.contains e.id) ++ ch.wrq
    wrWait := ch.wrWait.filter (fun e => !wr.contains e.id) })

/-- Judge a channel's queue again against the sparing state. -/
def reroute (s : State) (c : Nat) : State :=
  let ch := s.chan c
  let s := s.modChan c (fun ch => { ch with rdq := [], wrq := [], rdWait := [], wrWait := [] })
  let s := ch.writes.foldl (rerouteOne true) (ch.reads.foldl (rerouteOne false) s)
  admitWrites (admitReads (keepPlaces s c (ch.rdq.map (·.id)) (ch.wrq.map (·.id))) c) c

def rerouteAll (s : State) : State := foldS (List.range 32) reroute s

end Sys2Proof.Machine
end

