-- ==== Sys2Proof/Machine/DataPath.lean ====
section
/-! DEFINITION. Flow lookup of every request opcode (R76, R95, R105, R129–R131, R135, R301), dispatch (R134, R161,
R170–R173, R230–R232, R489), fences and flushes (R176, R177), and completions (R109, R116). -/

namespace Sys2Proof.Machine

/-! ### Flow lookup -/

def Op.code : Op → Nat
  | .read64 => 1 | .read128 => 2 | .read256 => 3 | .write64 => 4 | .write128 => 5 | .write256 => 6
  | .mwrite64 => 7 | .fence => 8 | .flush => 9 | .engine => 10 | .reserved => 11

/-- Payload bytes and data credits that an opcode takes (R105). -/
def opBytes (op : Nat) : Nat := match op with | 4 => 64 | 5 => 128 | 6 => 256 | 7 => 72 | 10 => 64 | _ => 0
def opCredits (op : Nat) : Nat := match op with | 4 => 1 | 5 => 2 | 6 => 4 | 7 => 2 | 10 => 1 | _ => 0

/-- The descriptor of `h` with this opcode is the oldest that its port received and has not looked up, and exactly these
stream bytes have come for it (R105, R106, R117). -/
def heads (s : State) (op : Nat) (h : ReqHdr) (bytes : List Byte) : Bool :=
  match (s.port h.port).rxq with
  | d :: _ => d.op.toNat = op && d.flow = h.flow && d.province = h.province && d.tag = h.tag && d.line = h.line &&
      d.data = bytes
  | [] => false

/-- The oldest descriptor leaves the port's buffer; its entries are free (R111, R125). -/
def popDesc (s : State) (n : Nat) : State :=
  s.modPort n (fun p => match p.rxq with
    | d :: r =>
      { p with
        rxq := r
        descFree := p.descFree + 1
        dataFree := p.dataFree + opCredits d.op.toNat
        freed := p.freed ++ [match d.op.toNat with | 1 => 1 | 2 => 2 | 3 => 4 | _ => 0] }
    | [] => p)

/-- R95: bound, not foreign, and the flow owned by the port's bond. -/
def portOwns (s : State) (n : Nat) (f : FlowCfg) : Bool :=
  match bondOf s.tables n with
  | some (first, b) => (s.port n).hostSeen = b.host && f.bondFirst.toNat = first && f.bondLog2 = b.log2
  | none => false

/-- The alignment of an access (R76). -/
def Op.align : Op → Nat
  | .mwrite64 => 64
  | o => 64 * o.lines

/-- R76, under the tables in force at lookup (R74), for an access of `len` bytes at offset `off` of province p. -/
def provJudge (s : State) (p off len align : Nat) (wr : Bool) : Status :=
  let c := provCfg s p
  if !c.valid || !c.enabled then .refused
  else if c.count.toNat * 2 ^ 26 < off + len || off % align ≠ 0 then .refused
  else if c.kind = 1 then .refused
  else if wr && (c.kind = 2 || !c.writable) then .refused
  else
    let dpa := c.base.toNat * 2 ^ 26 + off
    if holed s (dpa / 2 ^ 26) then .fenced
    else match locate s dpa with
      | none => .fenced
      | some l => if unreachable s l then .fenced else .ok

/-- R301 for a request of flow f to province p, and the data path in RETIRED (R309). -/
def cipherJudge (s : State) (p : Nat) (f : FlowCfg) : Status :=
  if (provCfg s p).enc then
    if !(s.slot f.keySlot.toNat).valid then .refused
    else if s.cip.fenced || !domOn s 45 || s.sec.zst = .clearing then .fenced
    else .ok
  else .ok

/-- The charge of u units passes (R131). -/
def chargePasses (f : FlowCfg) (r : FlowRt) (u : Nat) : Bool :=
  u = 0 || (f.cls ≠ 0 && f.ceiling = 0xFFFFFF) ||
    r.charged.toNat + u ≤ (if f.cls = 0 then f.guarantee.toNat else f.ceiling.toNat)

/-- The status a request has after lookup and the checks that follow it: the first of R15 that applies. An ENGINE request's
descriptor is judged before the fence (R280). -/
def lookupStatus (s : State) (op : Op) (port : Option Nat) (flow prov off : Nat) : Status :=
  let f := flowCfg s flow
  let down : Status := if (stackDown s || s.sec.lc = 3) && op ≠ .engine then .fenced else .ok
  let noUnit : Status := if op = .engine && nEngs s.variant = 0 then .absent else .ok
  let data := op.isRead || op.isWrite
  let flowOk := f.valid && (match port with | some n => portOwns s n f | none => true) && (!data || f.provs.getLsbD prov)
  let judged : Status :=
    if op = .reserved || !flowOk then .refused
    else if data then
      let a := provJudge s prov off (64 * op.lines) op.align op.isWrite
      let b := if (provCfg s prov).valid then cipherJudge s prov f else .ok
      let c : Status := if chargePasses f (s.flowR flow) op.units then .ok else .outOfBudget
      Status.first (Status.first a b) c
    else .ok
  Status.first noUnit (Status.first judged down)

/-- The last 200 ns of the flow's window (R135): the beat under way is its last and `ns` lies past 800. -/
def lateNs (s : State) (f : FlowCfg) (ns : Nat) : Bool :=
  800 < ns && (s.mer.count.toNat + 1) % 2 ^ 48 % f.window = 0

/-- Charge a request that passes, and count it as offered (R131, R135). -/
def charge (s : State) (flow u ns : Nat) : State :=
  let f := flowCfg s flow
  let late := lateNs s f ns
  s.modFlowR flow (fun r =>
    let r := { r with charged := sat r.charged u }
    if late then r else { r with offered := sat r.offered u })

/-- A request as lookup leaves it. -/
def mkReq (s : State) (op : Op) (port flow prov : Nat) (tag : BitVec 12) (off ns : Nat) (data : BitVec 2048)
    (en : BitVec 64) : Req :=
  let f := flowCfg s flow
  let p := provCfg s prov
  { id := s.flw.nextId, port := port, flow := flow, province := prov, tag := tag, op := op,
    dpa := p.base.toNat * 2 ^ 26 + off, enc := p.enc && op.lines ≠ 0, slot := f.keySlot.toNat, gen := (s.slot f.keySlot.toNat).gen,
    data := data, enables := en, units := op.units, window := windowNo (s.flowR flow),
    counted := if lateNs s f ns then none else some (windowNo (s.flowR flow)), fixed := f.cls = 0, stage := .waiting, status := .ok,
    linesCorr := 0, linesPois := 0, rdata := [],
    linesDue := op.lines, eng := none, awaits := [] }

def addReq (s : State) (r : Req) : State :=
  { s with reqs := s.reqs ++ [r], flw := { s.flw with nextId := s.flw.nextId + 1 } }

/-- Counts of the flow engine (R433 events 0x100–0x103) and FLW_OOB_COUNT (R131, R158). -/
def countOutcome (s : State) (flow : Nat) (st : Status) : State :=
  match st with
  | .outOfBudget => perf (s.modFlowR flow (fun r => { r with oobCount := sat r.oobCount 1, oobSince := true })) 0x101 0 1
  | .refused => perf s 0x102 0 1
  | .fenced => perf s 0x103 0 1
  | .absent => s
  | _ => perf s 0x100 0 1

/-- The port takes requests: ACTIVE, or DOWN with the restrictions of R118, and lookup has not stopped (R455). -/
def takesReqs (s : State) (n : Nat) : Bool :=
  ((s.port n).st = .active || (s.port n).st = .down) && portPresent s.variant n && s.rst.phase ≠ .quiesce

/-- The oldest descriptor of a port passes flow lookup (R117, R129): opcode `code`, with these stream bytes. `g` changes a
request that goes on. -/
def lookup (s : State) (op : Op) (code : Nat) (h : ReqHdr) (bytes : List Byte) (data : BitVec 2048) (en : BitVec 64)
    (g : State → Req → State) : State :=
  if !takesReqs s h.port || !heads s code h bytes then s
  else
    let s := popDesc (atPs s (s.elapsed * 1000000 + h.ns * 1000)) h.port
    let st := lookupStatus s op (some h.port) h.flow h.province (h.line.toNat * 64)
    let r := { mkReq s op h.port h.flow h.province h.tag (h.line.toNat * 64) h.ns data en with
      inDown := (s.port h.port).st = .down }
    let s := countOutcome s h.flow st
    if st = .ok then g (charge s h.flow op.units h.ns) r
    else addReq s { r with stage := .done, status := st, linesDue := 0, units := 0 }

def plain (s : State) (r : Req) : State := addReq s r

/-- The stream bytes of a masked write: the enables, byte 0's in the lowest bit of the first, then the data (R105). -/
def maskedBytes (enables : BitVec 64) (data : BitVec 512) : List Byte :=
  (List.range 8).map (fun k => enables.extractLsb' (8 * k) 8) ++ bytesOf 64 data.toNat

def execRead64 (h : ReqHdr) (s : State) : Host.Outcome State Fault Refusal := answer s (lookup s .read64 1 h [] 0 0 plain)
def execRead128 (h : ReqHdr) (s : State) : Host.Outcome State Fault Refusal := answer s (lookup s .read128 2 h [] 0 0 plain)
def execRead256 (h : ReqHdr) (s : State) : Host.Outcome State Fault Refusal := answer s (lookup s .read256 3 h [] 0 0 plain)

def execWrite64 (h : ReqHdr) (data : BitVec 512) (s : State) : Host.Outcome State Fault Refusal :=
  answer s (lookup s .write64 4 h (bytesOf 64 data.toNat) (data ++ (0 : BitVec 1536)) 0 plain)

def execWrite128 (h : ReqHdr) (data : BitVec 1024) (s : State) : Host.Outcome State Fault Refusal :=
  answer s (lookup s .write128 5 h (bytesOf 128 data.toNat) (data ++ (0 : BitVec 1024)) 0 plain)

def execWrite256 (h : ReqHdr) (data : BitVec 2048) (s : State) : Host.Outcome State Fault Refusal :=
  answer s (lookup s .write256 6 h (bytesOf 256 data.toNat) data 0 plain)

/-- MWRITE64 (R173): `enables` holds byte 0's enable in its bit 0. -/
def execMwrite64 (h : ReqHdr) (enables : BitVec 64) (data : BitVec 512) (s : State) : Host.Outcome State Fault Refusal :=
  answer s (lookup s .mwrite64 7 h (maskedBytes enables data) (data ++ (0 : BitVec 1536)) enables plain)

/-- FENCE (R176): it waits; FENCE_COMPLETE ends it. -/
def execFence (h : ReqHdr) (s : State) : Host.Outcome State Fault Refusal := answer s (lookup s .fence 8 h [] 0 0 plain)

/-- The channels whose quarters serve a province the flow may touch (R177). -/
def flushChans (s : State) (f : FlowCfg) : List Nat :=
  let cs := ((flowProvs s.tables f).map (fun e => provChans e.2)).flatten
  (List.range 32).filter (fun c => cs.any (fun x => x / 8 = c / 8))

/-- Dirty lines of those quarters, and the lines of writes still queued (R489). -/
def flushAwaits (s : State) (f : FlowCfg) : List (Nat × Nat) :=
  let cs := flushChans s f
  let dirty := (cs.map (fun c => (dirtyLines s c).map (fun l => (c, l.dpaLine)))).flatten
  let lines := ((List.range 32).map (fun q => ((s.chan q).writes.filter (fun e =>
    !isRewrite e && e.kind ≠ .migWrite && e.dpaLine ≠ dpaNone)).map (fun e => e.cols.map (entryLine e)))).flatten.flatten
  let queued := (lines.map (fun x => (homeChan s x, x))).filter (fun a => cs.contains a.1)
  (dirty ++ queued).eraseDups

/-- FLUSH (R177): it awaits what is dirty or queued as it passes lookup, and its write-backs begin; an earlier write of the
flow that is still on its way adds its lines as it lands. -/
def execFlush (h : ReqHdr) (s : State) : Host.Outcome State Fault Refusal :=
  answer s (lookup s .flush 9 h [] 0 0 (fun s r =>
    let f := flowCfg s h.flow
    let s := addReq s { r with stage := .flushing, awaits := flushAwaits s f }
    foldS (flushChans s f) refillWb s))

/-- A reserved opcode completes REFUSED (R105). -/
def execReservedOpcode (h : ReqHdr) (op : BitVec 4) (s : State) : Host.Outcome State Fault Refusal :=
  answer s (if 11 ≤ op.toNat then lookup s .reserved op.toNat h [] 0 0 plain else s)

/-! ### Dispatch (R134, R161) -/

def reqLine (r : Req) (i : Nat) : Nat := r.dpa / 64 + i

/-- Data of line i of a write. -/
def reqData (r : Req) (i : Nat) : Line := r.data.extractLsb' (512 * (3 - i)) 512

/-- The page of a request (R86). -/
def Req.page (r : Req) : Nat := r.dpa / 4096

def isFilling (s : State) (page : Nat) : Bool := s.filling.any (fun e => e.1 = page)

/-- Enables in the byte order of a line: byte i of the line is enabled by bit i. -/
def halfEnables (en : BitVec 64) : BitVec 32 × BitVec 32 := (en.extractLsb' 0 32, en.extractLsb' 32 32)

/-- A half needs the old line: its enables are neither all set nor all clear (R173). -/
def partSet (e : BitVec 32) : Bool := e ≠ 0 && e ≠ BitVec.allOnes 32

def needsMerge (en : BitVec 64) : Bool := partSet (halfEnables en).1 || partSet (halfEnables en).2

/-- Merge enabled bytes of `new` into `old`. -/
def mergeLine (en : BitVec 64) (old new : Line) : Line :=
  lineOf ((List.range 64).map (fun i => if en.getLsbD i then lineByte new i else lineByte old i))

/-- A merge read of the line is under way, or a merge waits in the register (R173, R175). -/
def mergePending (s : State) (c dpaLine : Nat) : Bool :=
  s.reqs.any (fun r => r.op = .mwrite64 && r.stage = .channel && r.dpa / 64 = dpaLine) && (s.chan c).merge.contains dpaLine

/-- The newest write of the line that waits in the channel queue, when it is a full one made in bypass (R172): behind a
masked burst, a write-back or a poisoned line the read waits in the queue (R489). -/
def queuedWrite (s : State) (loc : Loc) : Option Entry :=
  match ((s.chan loc.ch).writes.filter (fun e => !isRewrite e && e.kind ≠ .migWrite && e.loc.rank = loc.rank &&
      e.loc.bank = loc.bank && e.loc.row = loc.row && e.cols.contains loc.col)).getLast? with
  | some e => if e.kind = .bypassWrite && e.wordsAt s loc.col ≠ poisonWords then some e else none
  | none => none

/-- A buffered copy that the request may use. -/
def hitLine (s : State) (c : Nat) (r : Req) (i : Nat) : Option LbLine :=
  if bypass s c then none
  else match lbFind s c (reqLine r i) with
    | some l => if lbMatches s l r.enc r.slot then some l else none
    | none => none

/-- Lines of the request that miss. -/
def missLines (s : State) (c : Nat) (r : Req) : List Nat :=
  (List.range r.op.lines).filter (fun i => (hitLine s c r i).isNone)

/-- The request reads zeros: its page is not inked (R230). -/
def unwrittenRead (s : State) (r : Req) : Bool := r.op.isRead && !inked s r.page

/-- A read of a line forwarded from the write queue in bypass (R172). -/
def forwardable (s : State) (loc : Loc) (r : Req) (i : Nat) : Bool :=
  bypass s (homeChan s (reqLine r 0)) && r.op.isRead && (queuedWrite s { loc with col := loc.col + i }).isSome

/-- Logic BIST of the channel controller drains the queues (R400). -/
def bstDrains (s : State) (c : Nat) : Bool :=
  let b := s.bstOf c
  b.kind = 3 && b.unit = 0 && b.st = .setup

/-- Logic BIST of the channel controller stops dispatch from its start to its end (R400). -/
def bstStops (s : State) (c : Nat) : Bool :=
  let b := s.bstOf c
  b.kind = 3 && b.unit = 0 && (b.st = .setup || b.st = .run)

/-- Dispatch to channel c runs: a change of point, a rescue, a channel reset and a test of its controller stop it, while a
pause only makes queued requests wait (R182, R258, R388, R400, R459). -/
def takesDispatch (s : State) (c : Nat) : Bool :=
  (s.chan c).st ≠ .closed && ((s.chan c).seq = .idle || (s.chan c).seq = .wait) && !bstStops s c &&
  (s.sprOf c).st ≠ .rescue && !s.rst.chanBusy.contains c

/-- Nothing keeps the request from dispatch (R161, R172, R176, R231, R301, R310, R373, R182). -/
def canDispatch (s : State) (r : Req) : Bool :=
  let c := homeChan s (reqLine r 0)
  let held := stackDown s || s.pwr.hold || (r.enc && s.sec.zst = .clearing) || isFilling s r.page ||
    s.reqs.any (fun x => x.op = .fence && x.stage = .waiting && x.flow = r.flow && x.id < r.id)
  if held then false
  else if unwrittenRead s r then true
  else match locate s r.dpa with
    | none => true
    | some loc =>
      if unreachable s loc then true
      else
        let ms := missLines s c r
        let need := ms.filter (fun i => !forwardable s loc r i)
        let merging := (List.range r.op.lines).any (fun i => mergePending s c (reqLine r i))
        let open_ := takesDispatch s loc.ch
        let leaving := bypass s c && (List.range r.op.lines).any (fun i => (dirtyLines s c).any (fun l => l.dpaLine = reqLine r i))
        if merging || leaving then false
        else if r.op.isRead then need = [] || (open_ && canRead s loc.ch r.fixed)
        else if r.op = .mwrite64 && (r.enables = 0 || ms = []) then true
        else if r.op = .mwrite64 && inked s r.page then
          if needsMerge r.enables then
            open_ && canRead s loc.ch r.fixed && (!bypass s c || (s.chan c).merge.length < 16)
          else open_ && canWrite s loc.ch r.fixed
        else if bypass s c then open_ && canWrite s loc.ch r.fixed
        else ms.all (fun i => lbRoom s c (reqLine r i))

/-- Dispatch group of R134 by class (R128); a flow that an amendment deleted has class 0 (DESIGN CHOICE, log 129). -/
def group (s : State) (r : Req) : Nat :=
  let f := flowCfg s r.flow
  let shed := isGuar f && s.flw.shortfall && s.tables.policy && f.crank.toNat < s.flw.shed.toNat
  if f.cls = 0 then 0
  else if f.cls = 1 && !shed && (s.flowR r.flow).dispatched < (s.flowR r.flow).floor then 1 else 2

/-- The request of each flow that is next in lookup order. -/
def headReqs (s : State) : List Req :=
  s.reqs.filter (fun r => r.stage = .waiting && r.op.lines ≠ 0 &&
    !s.reqs.any (fun x => x.stage = .waiting && x.op.lines ≠ 0 && x.flow = r.flow && x.id < r.id))

/-- The next flow after the last served, round robin. -/
def nextRound (last : Nat) (rs : List Req) : Option Req :=
  let best := fun (xs : List Req) => xs.foldl (fun (b : Option Req) r =>
    match b with | none => some r | some x => if r.flow < x.flow then some r else some x) none
  match best (rs.filter (fun r => last < r.flow)) with
  | some r => some r
  | none => best rs

/-- The request that dispatch serves now (R134): the first group with one that can go, round robin among its flows. -/
def pickReq (s : State) : Option Req :=
  let hs := (headReqs s).filter (canDispatch s)
  (List.range 3).findSome? (fun g => nextRound ((tfind s.flw.rr g).getD 16384) (hs.filter (fun r => group s r = g)))

/-- A buffered line whose tags differ is written back when dirty, and dropped (R171). -/
def dropMismatch (s : State) (c : Nat) (r : Req) (i : Nat) : State :=
  match lbFind s c (reqLine r i) with
  | some l =>
    if lbMatches s l r.enc r.slot then s
    else lbDrop (if l.dirty then queueWb s c l else s) c (reqLine r i)
  | none => s

/-- A request that the buffer serves whole counts once (R188; DEDUCED, log 139). -/
def countHit (s : State) (c : Nat) (r : Req) : State :=
  if missLines s c r = [] then perf (s.modChan c (fun ch => { ch with lbHits := ch.lbHits + 1 })) 0x205 c 1 else s

/-- A line served by the buffer. -/
def serveHit (s : State) (c : Nat) (r : Req) (i : Nat) (l : LbLine) : State :=
  lineDone (lbTouch s c l.dpaLine) r.id i .ok (some l.data)

/-- The buffer's line for a write of the request. -/
def dirtyLine (s : State) (r : Req) (i : Nat) (d : Line) : LbLine :=
  { dpaLine := reqLine r i, data := d, dirty := true, enc := r.enc, slot := r.slot, gen := r.gen,
    written := s.elapsed }

/-- Dispatch a read that passes its checks. -/
def dispatchRead (s : State) (r : Req) (c : Nat) (loc : Loc) : State :=
  let one := fun (s : State) (i : Nat) =>
    match hitLine s c r i with
    | some l => serveHit s c r i l
    | none =>
      match (if bypass s c then queuedWrite s { loc with col := loc.col + i } else none) with
      | some e =>
        let d := lineOfHalves (e.wordsAt s (loc.col + i))
        lineDone s r.id i .ok (some (plainForm s r.enc r.slot r.gen (reqLine r i) d))
      | none => s
  let need := (missLines s c r).filter (fun i => !forwardable s loc r i)
  let s := foldS need (fun s i => dropMismatch s c r i) (countHit s c r)
  let s := foldS (List.range r.op.lines) one s
  if need = [] then s
  else
    let e := mkEntry s .hostRead r.fixed loc (need.map (fun i => loc.col + i)) (r.dpa / 64)
    modReq (pushRead s { e with req := some r.id }) r.id (fun x => { x with stage := if x.stage = .done then .done else .channel })

/-- The lines of a write, now in the buffer or a write queue, are awaited by later flushes of its flow (R177). -/
def awaitWrite (s : State) (r : Req) (c : Nat) : State :=
  foldS ((List.range r.op.lines).map (reqLine r)) (fun s x => awaitLine s r.flow r.id c x) s

/-- The words that line i of a write stores: a COPY's poisoned lines are poison (R285). -/
def storedWords (s : State) (r : Req) (i : Nat) (d : Line) : Half × Half :=
  if r.poison.getLsbD i then poisonWords else encodeLine (storedForm s r.enc r.slot r.gen (reqLine r i) d)

/-- The cipher encrypts the line. -/
def countEncLine (s : State) (r : Req) (i : Nat) : State := countEnc s (r.enc && !r.poison.getLsbD i)

/-- A write entry for consecutive lines of a request, in a channel in bypass. -/
def bypassEntry (s : State) (r : Req) (loc : Loc) (is : List Nat) (data : Nat → Line) : Entry :=
  { mkEntry s .bypassWrite r.fixed { loc with col := loc.col + is.headD 0 } (is.map (loc.col + ·)) (reqLine r (is.headD 0)) with
    words := is.map (fun i => (loc.col + i, storedWords s r i (data i))) }

/-- Lines that a write stores as poison never enter the buffer: each goes to the write queue as one burst (R285). -/
def writePoisoned (s : State) (r : Req) (c : Nat) (loc : Loc) (i : Nat) : State :=
  pushWrite (lbDrop s c (reqLine r i)) (bypassEntry s r loc [i] (fun _ => 0))

/-- Dispatch a full write with these lines. -/
def writeLines (s : State) (r : Req) (c : Nat) (loc : Loc) (data : Nat → Line) : State :=
  let is := List.range r.op.lines
  let s :=
    if bypass s c then
      let s := foldS is (fun s i => countEncLine s r i) s
      pushWrite s { bypassEntry s r loc is data with req := some r.id }
    else
      let s := foldS is (fun s i =>
        if r.poison.getLsbD i then writePoisoned s r c loc i
        else lbPut (dropMismatch s c r i) c (dirtyLine s r i (data i))) (countHit s c r)
      endReq s r.id .ok
  refillWb (awaitWrite s r c) c

def dispatchWrite (s : State) (r : Req) (c : Nat) (loc : Loc) : State := writeLines s r c loc (reqData r)

/-- Dispatch a masked write (R173, R489). -/
def dispatchMasked (s : State) (r : Req) (c : Nat) (loc : Loc) : State :=
  let d := reqData r 0
  let he := halfEnables r.enables
  if r.enables = 0 then endReq s r.id .ok
  else match hitLine s c r 0 with
    | some l => writeLines s r c loc (fun _ => mergeLine r.enables l.data d)
    | none =>
      let s := dropMismatch s c r 0
      if needsMerge r.enables then
        let s := perf (s.modChan loc.ch (fun ch => { ch with rmw := ch.rmw + 1 })) 0x204 loc.ch 1
        let s := s.modChan c (fun ch => { ch with merge := ch.merge ++ [reqLine r 0] })
        modReq (pushRead s { mkEntry s .mergeRead r.fixed loc [loc.col] (reqLine r 0) with req := some r.id }) r.id
          (fun x => { x with stage := .channel })
      else
        let w := encodeLine (storedForm s r.enc r.slot r.gen (reqLine r 0) (mergeLine r.enables 0 d))
        let e := { mkEntry s .maskedBurst r.fixed loc [loc.col] (reqLine r 0) with
          words := [(loc.col, w.1, w.2)], mask := (he.1 ≠ 0, he.2 ≠ 0), req := some r.id }
        awaitWrite (pushWrite (countEnc (modReq s r.id (fun x => { x with stage := .channel })) r.enc) e) r c

/-- The write that finds its page not inked starts the first-touch fill: the page is filling, and the write waits for it
(R231 steps 1 and 2). -/
def startFill (s : State) (r : Req) : State :=
  modReq { s with filling := s.filling ++ [(r.page, r.id)] } r.id (fun x => { x with stage := .channel })

/-- Write zero lines from a line on: four lie in one row of one channel (R77, R78). They enter the line buffer as dirty
lines, or the write queue of a channel in bypass; on a fenced place they are lost. -/
def zeroLines (s : State) (line : Nat) : State :=
  let c := homeChan s line
  let s := s.modEccOf c (fun e => { e with fillLines := e.fillLines + 4 })
  if bypass s c then
    match locate s (line * 64) with
    | none => s
    | some l =>
      if unreachable s l then s
      else
        let cols := (List.range 4).map (l.col + ·)
        pushWrite s { mkEntry s .bypassWrite false l cols line with words := cols.map (fun k => (k, zeroWords)) }
  else
    refillWb (foldS (List.range 4) (fun s i => lbPut s c
      { dpaLine := line + i, data := 0, dirty := true, enc := false, slot := 0, gen := 0, written := s.elapsed }) s) c

/-- The triggering write of a fill is performed: a masked write merges into zeros (R231 step 4). -/
def triggerWrite (s : State) (r : Req) : State :=
  let c := homeChan s (reqLine r 0)
  match locate s r.dpa with
  | none => failReq s r.id .fenced
  | some loc =>
    if unreachable s loc || (r.enc && (s.cip.fenced || !domOn s 45)) then failReq s r.id .fenced
    else writeLines s r c loc (fun i => if r.op = .mwrite64 then mergeLine r.enables 0 (reqData r 0) else reqData r i)

/-- What dispatch does with the request it serves: its lines are judged by the place they lie in now, whatever became of the
rest of its granule (R83; DEDUCED, log 128). -/
def serveReq (s : State) (r : Req) : State :=
  let c := homeChan s (reqLine r 0)
  if r.enc && (s.cip.fenced || !domOn s 45) then failReq s r.id .fenced
  else if unwrittenRead s r then
    let s := s.modEccOf c (fun e => { e with unwritten := e.unwritten + BitVec.ofNat 72 r.op.lines })
    let s := perf s 0x304 c r.op.lines
    modReq s r.id (fun x => { x with
      stage := .done, status := .unwritten, linesDue := 0,
      rdata := (List.range r.op.lines).map (fun i => (i, 0)) })
  else match locate s r.dpa with
    | none => failReq s r.id .fenced
    | some loc =>
      if unreachable s loc then failReq s r.id .fenced
      else if r.op.isRead then dispatchRead s r c loc
      else if !inked s r.page && !(r.op = .mwrite64 && r.enables = 0) then startFill s r
      else if r.op = .mwrite64 then dispatchMasked s r c loc
      else dispatchWrite s r c loc

/-- FIRST_TOUCH_FILL_DONE (R231): the page's zero lines are written, then the triggering write; the ink bit is set and the
page's requests are released. -/
def execFirstTouchFillDone (page : Nat) (s : State) : Host.Outcome State Fault Refusal :=
  answer s (match s.filling.find? (fun e => e.1 = page) with
    | none => s
    | some (_, id) =>
      let s := foldS ((List.range 16).map (fun j => page * 64 + 4 * j)) zeroLines s
      let s := match findReq s id with
        | some r => triggerWrite s r
        | none => s
      { s with filling := s.filling.filter (fun e => e.1 ≠ page), ink := tset s.inkAll s.ink page true })

/-- FENCE_COMPLETE (R176): every earlier host request of the flow has had its completion formed. -/
def execFenceComplete (id : Nat) (s : State) : Host.Outcome State Fault Refusal :=
  answer s (match findReq s id with
    | some r =>
      if r.op = .fence && r.stage = .waiting &&
          !s.reqs.any (fun x => x.flow = r.flow && x.id < id && x.eng.isNone) then endReq s id .ok
      else s
    | none => s)

/-- FLUSH_COMPLETE (R177): nothing it awaits is left; FENCED if a write-back met a fence. -/
def execFlushComplete (id : Nat) (s : State) : Host.Outcome State Fault Refusal :=
  answer s (match findReq s id with
    | some r => if r.stage = .flushing && r.awaits = [] then endReq s id .ok else s
    | none => s)

/-- LINE_IDLE_WRITEBACK (R170): a dirty line not written for 100 µs is written back. -/
def execLineIdleWriteback (w : ChanAt) (line : Nat) (s : State) : Host.Outcome State Fault Refusal :=
  answer s (
    let c := w.ch
    let s := atPs s w.atPs
    match lbFind s c line with
    | some l => if l.dirty && l.written + 100 ≤ s.elapsed && canWrite s c false && !s.pwr.hold && !stackDown s then
        cleanLine s c l else s
    | none => s)

/-! ### Completions (R109, R116) -/

/-- Data lines of a completion: zeros for poisoned lines. -/
def cmpData (r : Req) : List Line :=
  if r.op.isRead && r.status.isData then
    (List.range r.op.lines).map (fun i => (tfind r.rdata i).getD 0)
  else []

def mkCmp (r : Req) : Cmp :=
  { status := r.status, lines := if r.status = .poisoned then r.linesPois else if r.status = .corrected then r.linesCorr else 0, redir := false,
    arrPort := r.port, tag := r.tag, data := cmpData r }

/-- The lowest ACTIVE port of the bond other than n (R116). -/
def otherPort (s : State) (n : Nat) : Option Nat :=
  match bondOf s.tables n with
  | some (first, b) => (bondPorts first b.log2.toNat).find? (fun m => m ≠ n && (s.port m).st = .active)
  | none => none

/-- Queue a completion on its port, on another of the bond where its port has failed, or discard and count it (R116). -/
def sendCmp (s : State) (n : Nat) (orphan : Bool) (c : Cmp) : State :=
  let st := (s.port n).st
  if !orphan && (st = .active || st = .recovery || st = .down) then s.modPort n (fun p => { p with cmpOut := p.cmpOut ++ [c] })
  else match otherPort s n with
    | some m => s.modPort m (fun p => { p with cmpOut := p.cmpOut ++ [{ c with redir := true }] })
    | none => raise (s.modPort n (fun p => { p with cmpDiscard := sat p.cmpDiscard 1 })) 0x05 n

/-- Bits of REFUSED, ABSENT, OUT_OF_BUDGET and FENCED requests leave no trace; the request itself ends. -/
def dropReq (s : State) (id : Nat) : State := { s with reqs := s.reqs.filter (fun r => r.id ≠ id) }

end Sys2Proof.Machine
end

