-- ==== Sys2Proof/Machine/Sources.lean ====
section
/-! DEFINITION. The tables of fault sources (R334–R336), of events (R433), and the Gazetteer built from the units that a
variant has (R34–R46). -/

namespace Sys2Proof.Machine

/-! ### Fault sources -/

inductive Scope where
  | stack | port | channel | rank | tier | flow | queue | engine | checkUnit | domain
  deriving DecidableEq, Repr

/-- A row of R335: the window is m × 2^s beats; N and m are 0 where the table has a dash. -/
structure Source where
  group : Nat
  scope : Scope
  base  : Nat
  cap   : Nat
  n     : Nat := 0
  m     : Nat := 0
  s     : Nat := 0
  fixed : Bool := false
  deriving DecidableEq, Repr

def sourcesA : List (Nat × Source) :=
  [(0x00, { group := 0, scope := .port, base := 1, cap := 2, n := 4, m := 1, s := 30 }),
   (0x01, { group := 0, scope := .port, base := 2, cap := 2 }),
   (0x02, { group := 0, scope := .port, base := 0, cap := 2, n := 64, m := 1, s := 20 }),
   (0x03, { group := 0, scope := .port, base := 0, cap := 1, n := 16, m := 1, s := 26 }),
   (0x04, { group := 0, scope := .port, base := 0, cap := 0 }),
   (0x05, { group := 0, scope := .port, base := 0, cap := 0 }),
   (0x06, { group := 0, scope := .port, base := 2, cap := 2 }),
   (0x08, { group := 1, scope := .rank, base := 0, cap := 1, n := 3, m := 1, s := 30 }),
   (0x09, { group := 1, scope := .channel, base := 2, cap := 2 }),
   (0x0A, { group := 1, scope := .channel, base := 2, cap := 2 }),
   (0x0B, { group := 1, scope := .channel, base := 2, cap := 2 }),
   (0x0C, { group := 1, scope := .channel, base := 0, cap := 0 }),
   (0x0D, { group := 1, scope := .rank, base := 0, cap := 0 }),
   (0x0E, { group := 1, scope := .channel, base := 1, cap := 2, n := 2, m := 1, s := 26 }),
   (0x10, { group := 2, scope := .tier, base := 0, cap := 1, n := 16, m := 1, s := 26 }),
   (0x11, { group := 2, scope := .tier, base := 2, cap := 2, fixed := true }),
   (0x12, { group := 2, scope := .channel, base := 0, cap := 0 }),
   (0x13, { group := 2, scope := .channel, base := 1, cap := 1 }),
   (0x14, { group := 2, scope := .rank, base := 1, cap := 1 }),
   (0x18, { group := 3, scope := .rank, base := 0, cap := 0 }),
   (0x19, { group := 3, scope := .rank, base := 0, cap := 1, n := 2, m := 81, s := 30 }),
   (0x1A, { group := 3, scope := .rank, base := 0, cap := 0 }),
   (0x1B, { group := 3, scope := .channel, base := 0, cap := 1, n := 4, m := 1, s := 30 })]

def sourcesB : List (Nat × Source) :=
  [(0x20, { group := 4, scope := .stack, base := 0, cap := 1, n := 8, m := 1, s := 26 }),
   (0x21, { group := 4, scope := .stack, base := 0, cap := 1, n := 8, m := 1, s := 26 }),
   (0x22, { group := 4, scope := .stack, base := 3, cap := 3, fixed := true }),
   (0x23, { group := 4, scope := .domain, base := 2, cap := 2 }),
   (0x24, { group := 4, scope := .stack, base := 0, cap := 1, n := 4, m := 1, s := 26 }),
   (0x25, { group := 4, scope := .stack, base := 0, cap := 1, n := 16, m := 1, s := 20 }),
   (0x26, { group := 4, scope := .stack, base := 1, cap := 3, n := 64, m := 1, s := 20 }),
   (0x28, { group := 5, scope := .stack, base := 3, cap := 3, fixed := true }),
   (0x29, { group := 5, scope := .stack, base := 0, cap := 0 }),
   (0x2A, { group := 5, scope := .stack, base := 0, cap := 1, n := 16, m := 1, s := 26 }),
   (0x2B, { group := 5, scope := .tier, base := 0, cap := 0 }),
   (0x30, { group := 6, scope := .stack, base := 1, cap := 1 }),
   (0x31, { group := 6, scope := .stack, base := 1, cap := 1 }),
   (0x32, { group := 6, scope := .stack, base := 0, cap := 0 }),
   (0x33, { group := 6, scope := .stack, base := 0, cap := 0 }),
   (0x34, { group := 6, scope := .stack, base := 0, cap := 0 }),
   (0x38, { group := 7, scope := .flow, base := 0, cap := 1, n := 16, m := 1, s := 26 }),
   (0x39, { group := 7, scope := .stack, base := 0, cap := 1, n := 4, m := 1, s := 30 }),
   (0x3A, { group := 7, scope := .queue, base := 0, cap := 0 }),
   (0x3B, { group := 7, scope := .stack, base := 1, cap := 2, fixed := true }),
   (0x3C, { group := 7, scope := .stack, base := 3, cap := 3, fixed := true }),
   (0x3D, { group := 7, scope := .stack, base := 2, cap := 2 }),
   (0x3E, { group := 7, scope := .engine, base := 2, cap := 2 }),
   (0x3F, { group := 7, scope := .checkUnit, base := 1, cap := 1 }),
   (0x40, { group := 7, scope := .stack, base := 0, cap := 0 }),
   (0x41, { group := 7, scope := .stack, base := 3, cap := 3, fixed := true }),
   (0x42, { group := 7, scope := .stack, base := 1, cap := 1 })]

/-- The sources of R335, ascending. -/
def sources : List (Nat × Source) := sourcesA ++ sourcesB

def sourceOf (n : Nat) : Option Source := (sources.find? (fun e => e.1 = n)).map (·.2)

/-- The variant has the source (R336). -/
def sourcePresent (v : Variant) (n : Nat) : Bool :=
  (sourceOf n).isSome && !(n = 0x3D && !hasCipher v) && !((n = 0x3E || n = 0x3F) && nEngs v = 0)

/-- The instance exists on the variant (R334, R336). -/
def instPresent (v : Variant) (sc : Scope) (i : Nat) : Bool :=
  match sc with
  | .stack => i = 0
  | .port => portPresent v i
  | .channel => i < 32
  | .rank => i < 160 && rankPresent v (i % 5)
  | .tier => tierPresent v i
  | .flow => i < 16384
  | .queue => i < 64
  | .engine => engPresent v i
  | .checkUnit => chkPresent v i
  | .domain => domPresent v i

/-! ### Events (R433) -/

/-- First event, count, owner type, scope. -/
def eventRuns : List (Nat × Nat × Nat × Scope) :=
  [(0x000, 1, 0x06, .stack), (0x010, 7, 0x14, .port), (0x100, 5, 0x1D, .stack), (0x200, 9, 0x16, .channel),
   (0x280, 3, 0x17, .channel), (0x300, 5, 0x18, .channel), (0x380, 1, 0x13, .stack), (0x400, 2, 0x12, .engine),
   (0x480, 2, 0x0F, .stack), (0x500, 1, 0x11, .checkUnit), (0x580, 3, 0x07, .stack)]

def eventRunOf (e : Nat) : Option (Nat × Nat × Nat × Scope) :=
  eventRuns.find? (fun r => decide (r.1 ≤ e) && decide (e < r.1 + r.2.1))

/-- The owner of an event run is on the variant (R44). -/
def ownerPresent (v : Variant) (ty : Nat) : Bool :=
  if ty = 0x0F then hasCipher v else if ty = 0x11 || ty = 0x12 then nEngs v ≠ 0 else true

/-! ### The Gazetteer (R37–R46) -/

/-- A unit type of R41: code, instances on PX16-F, base, stride log2, sideband subset. -/
structure UnitType where
  code   : Nat
  count  : Nat
  base   : Nat
  stride : Nat
  sb     : Bool
  deriving DecidableEq, Repr

def unitTypes : List UnitType :=
  [⟨0x01, 1, 0x00F000, 0, true⟩, ⟨0x02, 1, 0x010000, 0, true⟩, ⟨0x03, 1, 0x020000, 0, false⟩,
   ⟨0x04, 1, 0x030000, 0, false⟩, ⟨0x05, 1, 0x040000, 0, true⟩, ⟨0x06, 1, 0x050000, 0, false⟩,
   ⟨0x07, 1, 0x060000, 0, true⟩, ⟨0x08, 72, 0x060100, 4, true⟩, ⟨0x09, 1, 0x070000, 0, true⟩,
   ⟨0x0A, 1, 0x080000, 0, true⟩, ⟨0x0B, 1, 0x090000, 0, true⟩, ⟨0x0C, 1, 0x0A0000, 0, false⟩,
   ⟨0x0D, 1, 0x0B0000, 0, false⟩, ⟨0x0E, 256, 0x0B0100, 2, false⟩, ⟨0x0F, 1, 0x0C0000, 0, false⟩,
   ⟨0x10, 4096, 0x0C4000, 2, false⟩, ⟨0x11, 16, 0x0D0000, 8, false⟩, ⟨0x12, 4, 0x0E0000, 12, false⟩,
   ⟨0x13, 1, 0x0F0000, 0, false⟩, ⟨0x14, 8, 0x100000, 16, false⟩, ⟨0x15, 20, 0x180000, 8, true⟩,
   ⟨0x16, 32, 0x200000, 16, false⟩, ⟨0x17, 32, 0x201000, 16, false⟩, ⟨0x18, 32, 0x202000, 16, false⟩,
   ⟨0x19, 32, 0x203000, 16, false⟩, ⟨0x1A, 32, 0x204000, 16, false⟩, ⟨0x1B, 32, 0x205000, 16, false⟩,
   ⟨0x1C, 32, 0x206000, 16, false⟩, ⟨0x1D, 1, 0x410000, 0, false⟩, ⟨0x1E, 16384, 0x800000, 6, false⟩,
   ⟨0x1F, 1024, 0x400000, 6, false⟩]

def typeInstPresent (v : Variant) (code i : Nat) : Bool :=
  if code = 0x08 then domPresent v i
  else if code = 0x0F || code = 0x10 then hasCipher v
  else if code = 0x11 then chkPresent v i
  else if code = 0x12 then engPresent v i
  else if code = 0x14 then portPresent v i
  else if code = 0x15 then tierPresent v i
  else true

/-- cap of R42. -/
def capOf (v : Variant) (code i : Nat) : Nat :=
  if code = 0x0F then 1 else if code = 0x14 then 4 else if code = 0x15 then (if i < 4 then 1 else 0)
  else if code = 0x16 then (if hasSpare v then 0x1F else 0x0F) else 0

/-- Runs of one type: first and count, newest first, over instances below n (R38). -/
def typeRuns (v : Variant) (code : Nat) : Nat → List (Nat × Nat)
  | 0 => []
  | n + 1 =>
    let rs := typeRuns v code n
    if typeInstPresent v code n then
      match rs with
      | (f, k) :: r => if f + k = n && capOf v code f = capOf v code n then (f, k + 1) :: r else (n, 1) :: (f, k) :: r
      | [] => [(n, 1)]
    else rs

/-- Runs of a type; types whose instances never differ take one. -/
def runsOf (v : Variant) (t : UnitType) : List (Nat × Nat) :=
  if t.code = 0x0E || t.code = 0x10 || t.code = 0x1E || t.code = 0x1F then
    (if typeInstPresent v t.code 0 then [(0, t.count)] else [])
  else (typeRuns v t.code t.count).reverse

def unitEntry (v : Variant) (t : UnitType) (r : Nat × Nat) : List Nat :=
  [t.code * 65536 + r.1, t.base + r.1 * 2 ^ t.stride, 0x100000 + r.2,
   t.stride * 2 ^ 19 + (if t.sb then 2 ^ 18 else 0) + capOf v t.code r.1]

def eventEntry (r : Nat × Nat × Nat × Scope) : List Nat := [0xE00000 + r.1, r.2.2.1, 0x100000 + r.2.1, 0]

/-- Runs of fault sources: first, count, group, newest first (R336). -/
def sourceRuns (v : Variant) : List (Nat × Nat × Nat) :=
  (sources.filter (fun e => sourcePresent v e.1)).foldl (fun rs e =>
    match rs with
    | (f, k, g) :: r => if f + k = e.1 && g = e.2.group then (f, k + 1, g) :: r else (e.1, 1, e.2.group) :: (f, k, g) :: r
    | [] => [(e.1, 1, e.2.group)]) []

def sourceEntry (r : Nat × Nat × Nat) : List Nat := [0xF00000 + r.1, r.2.2, 0x100000 + r.2.1, 0]

/-- The entries before END, four words each (R39). -/
def gazBody (v : Variant) : List Nat :=
  (unitTypes.map (fun t => ((runsOf v t).map (unitEntry v t)).flatten)).flatten ++
  ((eventRuns.filter (fun r => ownerPresent v r.2.2.1)).map eventEntry).flatten ++
  ((sourceRuns v).reverse.map sourceEntry).flatten

/-- Total entries, END included (R45). -/
def gazEntries (v : Variant) : Nat := (gazBody v).length / 4 + 1

/-- The whole table with its check word (R34, R45, R46). -/
def gazTable (v : Variant) : List Word :=
  let body := gazBody v
  let n := body.length / 4 + 1
  let ws := (body ++ [0xFF0000, 4 * n, n, 0]).map (BitVec.ofNat 24)
  ws ++ [crc24 ws]

end Sys2Proof.Machine
end

