-- ==== Sys2Proof/Machine/Access.lean ====
section
/-! DEFINITION. Management accesses: the units and their extents (R41, R47), which accesses are served (R5, R36, R47,
R118, R305, R309, R457), and the wrapper around every management write and read (R29, R117, R120). -/

namespace Sys2Proof.Machine

/-- A unit instance of R41. -/
inductive UnitId where
  | table | gaz | rst | img | sec | flt | mer | pwr | dom (d : Nat) | thm | hkp | fus | log | tel | cnt (n : Nat)
  | cip | slot (i : Nat) | chk (u : Nat) | eng (e : Nat) | mig | glk (n : Nat) | tier (t : Nat)
  | chn (c : Nat) | rfr (c : Nat) | ecc (c : Nat) | spr (c : Nat) | tsv (c : Nat) | trn (c : Nat) | bst (c : Nat)
  | flw | flow (f : Nat) | prv (p : Nat)
  deriving DecidableEq, Repr

/-- Base of a unit instance on the PX16-F layout of R41. -/
def UnitId.base : UnitId → Nat
  | .table => 0x000000 | .gaz => 0x00F000 | .rst => 0x010000 | .img => 0x020000 | .sec => 0x030000 | .flt => 0x040000
  | .mer => 0x050000 | .pwr => 0x060000 | .dom d => 0x060100 + 0x10 * d | .thm => 0x070000 | .hkp => 0x080000
  | .fus => 0x090000 | .log => 0x0A0000 | .tel => 0x0B0000 | .cnt n => 0x0B0100 + 4 * n | .cip => 0x0C0000
  | .slot i => 0x0C4000 + 4 * i | .chk u => 0x0D0000 + 0x100 * u | .eng e => 0x0E0000 + 0x1000 * e | .mig => 0x0F0000
  | .glk n => 0x100000 + 0x10000 * n | .tier t => 0x180000 + 0x100 * t
  | .chn c => 0x200000 + 0x10000 * c | .rfr c => 0x201000 + 0x10000 * c | .ecc c => 0x202000 + 0x10000 * c
  | .spr c => 0x203000 + 0x10000 * c | .tsv c => 0x204000 + 0x10000 * c | .trn c => 0x205000 + 0x10000 * c
  | .bst c => 0x206000 + 0x10000 * c | .flw => 0x410000 | .flow f => 0x800000 + 0x40 * f | .prv p => 0x400000 + 0x40 * p

/-- Instance `i` of an array of units from `lo`, and the offset in it; the last instance extends to the end. -/
def arrayAt (o lo stride n : Nat) : Nat × Nat :=
  let i := min ((o - lo) / stride) (n - 1)
  (i, o - lo - i * stride)

/-- The unit instance in whose extent an address lies, and the offset in it (R47). -/
def unitAt (addr : Nat) : Option (UnitId × Nat) :=
  let pg := addr / 65536
  let o := addr % 65536
  let arr := fun (mk : Nat → UnitId) (lo stride n : Nat) => let r := arrayAt o lo stride n; some (mk r.1, r.2)
  if pg = 0x00 then (if o < 0xF000 then some (.table, o) else some (.gaz, o - 0xF000))
  else if pg = 0x01 then some (.rst, o) else if pg = 0x02 then some (.img, o) else if pg = 0x03 then some (.sec, o)
  else if pg = 0x04 then some (.flt, o) else if pg = 0x05 then some (.mer, o)
  else if pg = 0x06 then (if o < 0x100 then some (.pwr, o) else arr .dom 0x100 0x10 72)
  else if pg = 0x07 then some (.thm, o) else if pg = 0x08 then some (.hkp, o) else if pg = 0x09 then some (.fus, o)
  else if pg = 0x0A then some (.log, o)
  else if pg = 0x0B then (if o < 0x100 then some (.tel, o) else arr .cnt 0x100 4 256)
  else if pg = 0x0C then (if o < 0x4000 then some (.cip, o) else arr .slot 0x4000 4 4096)
  else if pg = 0x0D then arr .chk 0 0x100 16
  else if pg = 0x0E then arr .eng 0 0x1000 4
  else if pg = 0x0F then some (.mig, o)
  else if 0x10 ≤ pg && pg < 0x18 then some (.glk (pg - 0x10), o)
  else if pg = 0x18 then arr .tier 0 0x100 20
  else if 0x20 ≤ pg && pg < 0x40 then
    let c := pg - 0x20
    match o / 0x1000 with
    | 0 => some (.chn c, o) | 1 => some (.rfr c, o - 0x1000) | 2 => some (.ecc c, o - 0x2000)
    | 3 => some (.spr c, o - 0x3000) | 4 => some (.tsv c, o - 0x4000) | 5 => some (.trn c, o - 0x5000)
    | _ => some (.bst c, o - 0x6000)
  else if pg = 0x40 then arr .prv 0 0x40 1024
  else if pg = 0x41 then some (.flw, o)
  else if 0x80 ≤ pg && pg < 0x90 then let k := (pg - 0x80) * 65536 + o; some (.flow (k / 0x40), k % 0x40)
  else none

/-- The last register offset of each unit; `tableWords` is the length of the variant's Gazetteer table (R45). -/
def lastOffset (tableWords : Nat) : UnitId → Nat
  | .table => tableWords - 1 | .gaz => 0 | .rst => 6 | .img => 0xC | .sec => 0x70 | .flt => 0xE | .mer => 9 | .pwr => 6
  | .dom _ => 0xF | .thm => 0x1B | .hkp => 0x25F | .fus => 0x22 | .log => 8 | .tel => 0xFF | .cnt _ => 3 | .cip => 0x38
  | .slot _ => 3 | .chk _ => 0x22 | .eng _ => 0x1D | .mig => 0x15 | .glk _ => 0x1A | .tier _ => 4 | .chn _ => 0x2A
  | .rfr _ => 0x1B | .ecc _ => 0x2A | .spr _ => 0xA | .tsv _ => 9 | .trn _ => 0x12 | .bst _ => 4 | .flw => 0x27F
  | .flow _ => 0x3F | .prv _ => 0x3F

/-- The variant has the instance (R1, R3). -/
def unitPresent (v : Variant) : UnitId → Bool
  | .dom d => domPresent v d
  | .cip | .slot _ => hasCipher v
  | .chk u => chkPresent v u
  | .eng e => engPresent v e
  | .glk n => portPresent v n
  | .tier t => tierPresent v t
  | _ => true

/-- The power domain of a unit's registers; none in the crown core (R26, R47). -/
def unitDomain : UnitId → Option Nat
  | .table | .gaz | .rst | .img | .sec | .flt | .mer | .pwr | .dom _ | .thm | .hkp | .fus | .log => some 0
  | .tel | .cnt _ | .slot _ | .tier _ | .spr _ | .flw | .flow _ | .prv _ => none
  | .cip => some 45
  | .chk _ => some 51
  | .eng e => some (41 + e)
  | .mig => some 50
  | .glk n => some (1 + n)
  | .chn c | .rfr c | .ecc c | .tsv c | .trn c | .bst c => some (9 + c)

/-- What becomes of an access. -/
inductive Acc where
  | ok | held | ended (st : Status)
  deriving DecidableEq, Repr

/-- Units whose writes RETIRED still serves (R309). -/
def retiredWrites : UnitId → Bool
  | .rst | .bst _ | .trn _ | .tel | .cnt _ => true
  | _ => false

/-- A session is OPEN on the port. -/
def sessionOpen (s : State) (n : Nat) : Bool := (s.path n).session.isSome

/-- Every word of the unit is a protected register (R305); single bits are judged where they are written. -/
def protectedWord (s : State) (u : UnitId) (off : Nat) : Bool :=
  match u with
  | .cip | .slot _ => true
  | .sec => off = 1 && s.sec.lc ≠ 0
  | .log => off = 0
  | _ => false

/-- Step 3 of a warm reset holds the crown core in reset (R47, R455, R457). -/
def warmHeld (s : State) : Bool := s.rst.phase = .held && s.rst.warm

/-- Whether the unit's domain lets the access through (R47, R457). -/
def domainAcc (s : State) (u : UnitId) : Acc :=
  match unitDomain u with
  | some 0 => .ok
  | none => if warmHeld s then .ended .fenced else .ok
  | some d =>
    if warmHeld s then .ended .fenced
    else match (s.dom d).st with
      | .on => .ok
      | .waking => .held
      | _ => .ended .fenced

/-- What the address alone ends an access with: no Gazetteer yet, an absent unit, an offset past the unit's last register
(R5, R36, R47). -/
def judgeAddr (tw : Nat) (s : State) (u : UnitId) (off : Nat) : Option Status :=
  if !s.gazBuilt then some .refused
  else if !unitPresent s.variant u then some .absent
  else if lastOffset tw u < off then some .refused
  else none

/-- The fate of an access to a unit that the address names (R5, R36, R47). -/
def judgeAcc (tw : Nat) (s : State) (u : UnitId) (off : Nat) : Acc :=
  match judgeAddr tw s u off with
  | some st => .ended st
  | none => domainAcc s u

/-- A write of a port that the life-cycle state or a missing session refuses (R305, R309). -/
def writeRefused (s : State) (n : Nat) (u : UnitId) (off : Nat) : Bool :=
  (s.sec.lc = 3 && !retiredWrites u) || (protectedWord s u off && !sessionOpen s n)

/-- The fate of an access of a port: ABSENT, REFUSED, then FENCED (R15, R118, R305, R309). -/
def portAcc (tw : Nat) (s : State) (n : Nat) (write : Bool) (u : UnitId) (off : Nat) : Acc :=
  match judgeAddr tw s u off with
  | some st => .ended st
  | none =>
    let pd := unitDomain u
    if write && writeRefused s n u off then .ended .refused
    else if (s.port n).st = .down && pd ≠ some 0 && pd ≠ none then .ended .fenced
    else domainAcc s u

/-- The port's management channel carries accesses. -/
def mgtLive (s : State) (n : Nat) : Bool :=
  portPresent s.variant n && ((s.port n).st = .active || (s.port n).st = .recovery || (s.port n).st = .down)

/-- The access's word address. -/
def addrOf (u : UnitId) (off : Nat) : Word := BitVec.ofNat 24 (u.base + off)

/-! ### Multi-word values (R10, R12) -/

/-- Hold a lower word on the path until the highest word commits. -/
def holdWord (s : State) (n : Nat) (addr data : Word) : State :=
  s.modPath n (fun p => { p with held := tput p.held addr.toNat data })

/-- The value that a commit writes: words held on the path, the current ones elsewhere, the highest as written. -/
def commitValue (s : State) (n : Nat) (addr : Word) (words cur : Nat) (top : Word) : Nat :=
  let lo := addr.toNat + 1 - words
  (List.range words).foldl (fun a i =>
    let w := if i + 1 = words then top else (tfind (s.path n).held (lo + i)).getD (BitVec.ofNat 24 (cur / 2 ^ (24 * i)))
    a + w.toNat * 2 ^ (24 * i)) 0

/-- The held words of a value are used up by its commit. -/
def dropHeld (s : State) (n : Nat) (addr : Word) (words : Nat) : State :=
  let lo := addr.toNat + 1 - words
  s.modPath n (fun p => { p with held := p.held.filter (fun e => e.1 < lo || addr.toNat < e.1) })

/-- An access of a port waits behind an earlier one of the port that is held (R117). -/
def portHeld (s : State) (n : Nat) : Bool := s.heldAcc.any (fun a => a.via.port = n)

/-- The access is the oldest of its port's requests that is neither answered nor held (R117, R120; DESIGN CHOICE, log 137). -/
def mgtTurn (s : State) (via : Via) (write : Bool) (addr data : Word) : Bool :=
  match (s.port via.port).mgtIn.drop (s.heldAcc.filter (fun a => a.via.port = via.port)).length with
  | m :: _ => m.write = write && m.tag = via.tag && m.addr = addr && (!write || m.data = data)
  | [] => false

/-- Run a management write of a port through the checks and answer it. -/
def mgmtWrite (s : State) (via : Via) (u : UnitId) (off : Nat) (data : Word) (h : State → Status × State) : State :=
  if !mgtLive s via.port || !mgtTurn s via true (addrOf u off) data then s
  else if portHeld s via.port then
    { s with heldAcc := s.heldAcc ++ [{ via := via, write := true, addr := addrOf u off, data := data }] }
  else match portAcc (gazTable s.variant).length s via.port true u off with
    | .ended st => respond s via true (addrOf u off) st 0
    | .held => { s with heldAcc := s.heldAcc ++ [{ via := via, write := true, addr := addrOf u off, data := data }] }
    | .ok => let r := h s; respond r.2 via true (addrOf u off) r.1 0

/-- Internal scan leaves the crown's state undefined (R311): while its gate is open a read returns a free value. -/
def scanned (s : State) (w : Word) : Word × State :=
  if s.sec.gate && s.sec.gateKind = 1 then
    let f := takeFree s
    (Config.scanned f.1, f.2)
  else (w, s)

/-- Run a management read of a port: the handler gives status, data and what the read clears. -/
def mgmtRead (s : State) (via : Via) (u : UnitId) (off : Nat) (h : State → Status × Word × State) : State :=
  if !mgtLive s via.port || !mgtTurn s via false (addrOf u off) 0 then s
  else if portHeld s via.port then
    { s with heldAcc := s.heldAcc ++ [{ via := via, write := false, addr := addrOf u off, data := 0 }] }
  else match portAcc (gazTable s.variant).length s via.port false u off with
    | .ended st => respond s via false (addrOf u off) st 0
    | .held => { s with heldAcc := s.heldAcc ++ [{ via := via, write := false, addr := addrOf u off, data := 0 }] }
    | .ok =>
      let r := h s
      let d := scanned r.2.2 (if r.1 = .ok then r.2.1 else 0)
      respond d.2 via false (addrOf u off) r.1 d.1

end Sys2Proof.Machine
end

