-- ==== Sys2Proof/Machine/Meridian.lean ====
section
/-! DEFINITION. The time unit's reference: qualification, loss, holdover and slewing (R51–R61, R65, R66). -/

namespace Sys2Proof.Machine

def State.setMer (s : State) (m : Mer) : State := { s with mer := m }

/-- The count of a qualification restarts and qual_fails advances (R58). -/
def Mer.restart (m : Mer) : Mer := { m with good := 0, missing := 0, slewing := false, qualFails := sat m.qualFails 1 }

/-- LOCKED to HOLDOVER: MERIDIAN_HOLDOVER is raised; `k` beats have passed since the last edge accepted. -/
def merHoldover (s : State) (k : Nat) : State :=
  raise (s.setMer { s.mer with
    st := .holdover
    lossBeats := BitVec.ofNat 24 k
    qualifying := false
    slewing := false
    good := 0
    missing := 0
    seen := false }) 0x3B 0

/-- The reference is lost (R53): LOCKED goes to HOLDOVER; a qualification under way restarts. -/
def merRefLost (s : State) (k : Nat) : State :=
  match s.mer.st with
  | .free => s
  | .qualify => s.setMer { s.mer.restart with seen := false }
  | .locked => merHoldover s k
  | .holdover => if s.mer.qualifying then s.setMer { s.mer.restart with seen := false } else s

/-- A port reset, fence or park on the marker port is a loss of its markers (R54); a qualification under way restarts at
once and counts once (DEDUCED, log 125). -/
def merPortLost (s : State) (n : Nat) : State :=
  if s.mer.src = 3 && s.mer.markPort.toNat = n then merRefLost s 0 else s

/-- The time unit enters LOCKED; with aligned set, MERIDIAN_HOLDOVER returns to base (R339). -/
def merLock (s : State) : State :=
  let s := s.setMer { s.mer with
    st := .locked
    qualifying := false
    slewing := false
    good := 0
    missing := 0
    fenced := false }
  if s.mer.aligned then resetInst s 0x3B 0 else s

/-- An edge within 1 µs ± 2 %. -/
def goodEdge (dev : Int) : Bool := decide (-20 ≤ dev) && decide (dev ≤ 20)

/-- An edge of the selected reference, `dev` ns from where the one before puts it (R53, R58, R60). MER_PHASE is written at
the edge that requalifies it (DEDUCED, log 124). -/
def merEdge (s : State) (dev phase : Int) : State :=
  let m := s.mer
  match m.st with
  | .free => s
  | .locked =>
    if goodEdge dev then s.setMer { m with missing := 0 }
    else if m.missing = 0 then s.setMer { m with missing := 1 }
    else merHoldover s 2
  | .qualify =>
    if !m.seen then s.setMer { m with seen := true, good := 0 }
    else if !goodEdge dev then s.setMer m.restart
    else if m.good + 1 = 1024 then merLock s
    else s.setMer { m with good := m.good + 1 }
  | .holdover =>
    if !m.qualifying then s.setMer { m with qualifying := true, seen := true, good := 0 }
    else if !m.seen then s.setMer { m with seen := true, good := 0 }
    else if !goodEdge dev then s.setMer m.restart
    else if m.slewing then s
    else if m.good + 1 = 1024 then s.setMer { m with good := 0, slewing := true, phase := BitVec.ofInt 24 phase }
    else s.setMer { m with good := m.good + 1 }

/-- The edge is one that the reference does not accept. -/
def edgeDiscarded (s : State) (dev : Int) : Bool := s.mer.st = .locked && !goodEdge dev

/-- An epoch marker marks the next beat edge when a load is armed (R55). -/
def merMark (s : State) : State := if s.mer.arm then s.setMer { s.mer with marked := true } else s

/-- REFERENCE_EDGE (R52, R53): an edge on MER_P/N; under src 2 a pulse of 600–900 ns is an epoch marker. -/
def execReferenceEdge (devNs : Int) (widthNs : Nat) (phaseNs : Int) (s : State) : Host.Outcome State Fault Refusal :=
  answer s (
    if s.mer.src = 1 then merEdge s devNs phaseNs
    else if s.mer.src = 2 then
      let t := merEdge s devNs phaseNs
      if 600 ≤ widthNs && widthNs ≤ 900 && !edgeDiscarded s devNs then merMark t else t
    else s)

/-- REFERENCE_LOSS (R53): two expected edges are missing, or the frequency test fails. -/
def execReferenceLoss (frequency : Bool) (s : State) : Host.Outcome State Fault Refusal :=
  answer s (merRefLost s (if frequency then 0 else 2))

/-- PHASE_SLEW_COMPLETE (R60): the error is within ±4 ns and the unit enters LOCKED. -/
def execPhaseSlewComplete (phaseNs : Int) (s : State) : Host.Outcome State Fault Refusal :=
  answer s (
    if s.mer.st = .holdover && s.mer.slewing && decide (-4 ≤ phaseNs) && decide (phaseNs ≤ 4) then
      merLock (s.setMer { s.mer with phase := BitVec.ofInt 24 phaseNs })
    else s)

/-- HOLDOVER_LIMIT (R58, R59): aligned clears and MERIDIAN_HOLDOVER is raised to Fence, once per holdover. -/
def execHoldoverLimit (s : State) : Host.Outcome State Fault Refusal :=
  answer s (
    if s.mer.st = .holdover && 100000 ≤ s.mer.lossBeats.toNat && !s.mer.fenced then
      raiseForced (s.setMer { s.mer with aligned := false, fenced := true }) 0x3B 0
    else s)

/-- MER_CTRL.src or mark_port changes so that qualification restarts (R54, R58). A marker that waits for the beat edge is
dropped, and arm stays (DEDUCED, log 126). -/
def merSource (s : State) (src : BitVec 2) (mp : BitVec 3) : State :=
  let m := s.mer
  let moved := src ≠ m.src || (mp ≠ m.markPort && (m.src = 1 || m.src = 3))
  let s := if moved && src ≠ 0 && m.st = .locked then merHoldover s 0 else s
  let s := s.setMer { s.mer with src := src, markPort := mp }
  if !moved then s
  else if src = 0 then
    s.setMer { s.mer with
      st := .free
      aligned := false
      qualifying := false
      slewing := false
      good := 0
      missing := 0
      seen := false
      qualFails := 0
      marked := false
      fenced := false }
  else
    s.setMer { s.mer with
      st := if s.mer.st = .free then .qualify else s.mer.st
      qualifying := false
      slewing := false
      good := 0
      missing := 0
      seen := false
      qualFails := 0
      marked := false }

/-- A write of MER_CTRL (R54, R55, R57, R65): an absent mark_port completes ABSENT; arm is refused while an image
switch-over is pending. -/
def merCtrlWrite (data : Word) (s : State) : Status × State :=
  let src := data.extractLsb' 22 2
  let mp := data.extractLsb' 19 3
  let arm := data.getLsbD 18
  if !portPresent s.variant mp.toNat then (.absent, s)
  else if arm && (s.img.phase = .scheduled || s.img.phase = .switching) then (.refused, s)
  else
    let s := merSource s src mp
    (.ok, s.setMer { s.mer with arm := arm, marked := s.mer.marked && arm })

/-- MER_SOURCE_WRITE. -/
def execMerSourceWrite (via : Via) (data : Word) (s : State) : Host.Outcome State Fault Refusal :=
  answer s (mgmtWrite s via .mer 0 data (merCtrlWrite data))

/-- MER_ARM_WRITE. -/
def execMerArmWrite (via : Via) (data : Word) (s : State) : Host.Outcome State Fault Refusal :=
  answer s (mgmtWrite s via .mer 0 data (merCtrlWrite data))

end Sys2Proof.Machine
end

