-- ==== Sys2Proof/Machine/Cipher.lean ====
section
/-! DEFINITION. Sessions, key slots, zeroisation and test access (R302–R307, R310–R313, R316, R317). -/

namespace Sys2Proof.Machine

/-! ### Sessions -/

/-- The session of port n closes; its wrap key and wrap buffer are zeroised (R304). -/
def closeSession (s : State) (n : Nat) : State := s.modPath n (fun p => { p with session := none, wrap := [] })

/-- What a port reset, a warm or a cold reset empties on an access path (R10, R12). -/
def emptyPath (s : State) (n : Nat) : State :=
  s.modPath n (fun p => { p with snap := [], held := [], peer := [], sig := [], nonce := none })

/-- A value of `n` words held word by word from index `i`, least significant word first. -/
def heldValue (t : Tbl Word) (i n : Nat) : Nat :=
  (List.range n).foldl (fun a k => a + (tget 0 t (i + k)).toNat * 2 ^ (24 * k)) 0

/-- NONCE_READ (R303): a fresh nonce for the path, snapshotted (R10). -/
def nonceRead (n : Nat) (s : State) : Status × Word × State :=
  let f := takeFree s
  let v := Config.nonce f.1
  let ws := (List.range 4).map (fun i => v.extractLsb' (24 * i) 24)
  (.ok, v.extractLsb' 0 24, f.2.modPath n (fun p => { p with nonce := some v, snap := ws }))

def execNonceRead (via : Via) (s : State) : Host.Outcome State Fault Refusal :=
  answer s (mgmtRead s via .sec 3 (nonceRead via.port))

/-- A word of SEC_PEER or SEC_SIG is held on the path (R317). -/
def peerSigWrite (n off : Nat) (data : Word) (s : State) : Status × State :=
  (.ok, s.modPath n (fun p =>
    if off < 0x30 then { p with peer := tset 0 p.peer (off - 0x10) data }
    else { p with sig := tset 0 p.sig (off - 0x30) data }))

def execSecPeerSigWrite (via : Via) (offset : Nat) (data : Word) (s : State) : Host.Outcome State Fault Refusal :=
  answer s (if 0x10 ≤ offset && offset < 0x50 then mgmtWrite s via .sec offset data (peerSigWrite via.port offset data)
    else s)

/-- What the holder of the management key signs for a session (R303). -/
def sessionMessage (nonce : BitVec 96) (n x y : Nat) : List Nat :=
  toBytes 12 nonce.toNat ++ [n] ++ toBytes 48 x ++ toBytes 48 y

/-- The wrap key of a session of port n, when every check of R303 passes. -/
def sessionKey (s : State) (n : Nat) : Option (BitVec 256) :=
  let p := s.path n
  match p.nonce, s.sec.devkey, s.tables.mgmtKey with
  | some nonce, some d, some (qx, qy) =>
    let x := heldValue p.peer 0 16
    let y := heldValue p.peer 16 16
    let r := heldValue p.sig 0 16
    let ss := heldValue p.sig 16 16
    if s.img.inForce && validPoint x y && ecdsaVerify qx qy r ss (sha384 (sessionMessage nonce n x y)) then
      match ptMul d (some (x, y)) 384 with
      | some (z, _) => some (wrapKey z nonce n)
      | none => none
    else none
  | _, _, _ => none

/-- SEC_SESSION.open on port n: the nonce is consumed whatever the outcome. -/
def sessionTry (n : Nat) (s : State) : Status × State :=
  let k := sessionKey s n
  let s := s.modPath n (fun p => { p with nonce := none })
  match k with
  | some key => (.ok, s.modPath n (fun p => { p with session := some key }))
  | none => (.refused, s)

/-- A write of SEC_SESSION (R316): close is protected (R305); with both bits set open acts first. -/
def secSessionWrite (n : Nat) (data : Word) (s : State) : Status × State :=
  if data.getLsbD 22 && !sessionOpen s n then (.refused, s)
  else
    let r := if data.getLsbD 23 then sessionTry n s else (.ok, s)
    (r.1, if data.getLsbD 22 then closeSession r.2 n else r.2)

def execSessionOpen (via : Via) (data : Word) (s : State) : Host.Outcome State Fault Refusal :=
  answer s (mgmtWrite s via .sec 2 data (secSessionWrite via.port data))

def execSessionClose (via : Via) (data : Word) (s : State) : Host.Outcome State Fault Refusal :=
  answer s (mgmtWrite s via .sec 2 data (secSessionWrite via.port data))

/-! ### Key slots -/

/-- A word of CIP_WRAP is held on the path (R306). -/
def wrapWrite (n i : Nat) (data : Word) (s : State) : Status × State :=
  (.ok, s.modPath n (fun p => { p with wrap := tset 0 p.wrap i data }))

def execWrapWordWrite (via : Via) (i : Nat) (data : Word) (s : State) : Host.Outcome State Fault Refusal :=
  answer s (if i < 24 then mgmtWrite s via .cip (0x10 + i) data (wrapWrite via.port i data) else s)

/-- The wrapped key: 24 words, first word first. -/
def wrapBuffer (p : Path) : BitVec 576 :=
  BitVec.ofNat 576 ((List.range 24).foldl (fun a i => a * 2 ^ 24 + (tget 0 p.wrap i).toNat) 0)

/-- Port n belongs to the bond that slot i is assigned to (R306). -/
def slotBond (s : State) (i n : Nat) : Bool :=
  match tfind s.tables.slots i with
  | some (first, log2) => decide (first ≤ n) && decide (n < first + 2 ^ log2)
  | none => false

def setCipResult (s : State) (r : Nat) : State := { s with cip := { s.cip with result := BitVec.ofNat 3 r } }

/-- What a load of slot i from port n comes to: result code of R306 and the key. -/
def loadOutcome (s : State) (i n : Nat) : Nat × BitVec 512 :=
  match (s.path n).session with
  | none => (2, 0)
  | some kek =>
    match unwrapKey kek (wrapBuffer (s.path n)) with
    | none => (2, 0)
    | some k =>
      if k.extractLsb' 256 256 = k.extractLsb' 0 256 then (3, 0)
      else if slotBond s i n then (1, k) else (4, 0)

/-- CIP_SLOT_CMD.load (R306): the wrap buffer is zeroised whatever the outcome. A fenced cipher takes no key: REFUSED comes
before its FENCED (R15). -/
def slotLoad (n i : Nat) (s : State) : Status × State :=
  let o := loadOutcome s i n
  let z := s.modPath n (fun p => { p with wrap := [] })
  if s.cip.cmd.isSome then (.refused, setCipResult z 5)
  else
    let z := { z with cip := { z.cip with slot := BitVec.ofNat 12 i } }
    if o.1 ≠ 1 then (.refused, setCipResult z o.1)
    else if s.cip.fenced then (.fenced, z)
    else (.ok, { z with cip := { z.cip with cmd := some { slot := i, load := some (o.2, n) } } })

/-- CIP_SLOT_CMD.clear. -/
def slotClear (i : Nat) (s : State) : Status × State :=
  if s.cip.cmd.isSome then (.refused, setCipResult s 5)
  else (.ok, { s with cip := { s.cip with slot := BitVec.ofNat 12 i, cmd := some { slot := i, load := none } } })

/-- A write of CIP_SLOT_CMD; with both bits set the load comes first and the clear finds it running. -/
def slotCmdWrite (n : Nat) (data : Word) (s : State) : Status × State :=
  let i := (data.extractLsb' 10 12).toNat
  let r := if data.getLsbD 23 then slotLoad n i s else (.ok, s)
  if data.getLsbD 22 then
    let c := slotClear i r.2
    (Status.first r.1 c.1, c.2)
  else r

def execSlotLoad (via : Via) (data : Word) (s : State) : Host.Outcome State Fault Refusal :=
  answer s (mgmtWrite s via .cip 0 data (slotCmdWrite via.port data))

def execSlotClear (via : Via) (data : Word) (s : State) : Host.Outcome State Fault Refusal :=
  answer s (mgmtWrite s via .cip 0 data (slotCmdWrite via.port data))

/-- Write back, under their keys, the dirty lines that `sel` picks in every channel, and drop all it picks. -/
def purgeLines (sel : LbLine → Bool) (s : State) : State :=
  foldS (List.range 32) (fun s c => dropIf sel (drainIf sel s c) c) s

/-- A request that passed lookup uses generation g of slot i, or a dirty line that such a request wrote. -/
def genInUse (s : State) (i g : Nat) : Bool :=
  s.reqs.any (fun r => r.enc && r.slot = i && r.gen.toNat = g) ||
  s.chans.any (fun e => e.2.lb.any (fun l => l.enc && l.dirty && l.slot = i && l.gen.toNat = g))

/-- The keys of a slot that requests past lookup still use as it leaves its generation (R307). -/
def oldKeys (s : State) (i : Nat) (k : KeySlot) : Tbl (BitVec 512) :=
  (tset 0 k.olds k.gen.toNat k.key).filter (fun e => genInUse s i e.1)

/-- A slot takes a new state: loaded, or EMPTY; its generation advances (R306, R307). -/
def setSlotState (s : State) (i : Nat) (load : Option (BitVec 512 × Nat)) : State :=
  s.modSlot i (fun k => match load with
    | some (key, n) =>
      { valid := true, gen := k.gen + 1, port := BitVec.ofNat 3 n, kcv := keyCheck key, key := key, olds := oldKeys s i k }
    | none => { valid := false, gen := k.gen + 1, port := 0, kcv := 0, key := 0, olds := oldKeys s i k })

/-- SLOT_COMMAND_DONE (R307). -/
def execSlotCommandDone (s : State) : Host.Outcome State Fault Refusal :=
  answer s (match s.cip.cmd with
    | none => s
    | some c =>
      let s := if (s.slot c.slot).valid then purgeLines (fun l => l.enc && l.slot = c.slot) s else s
      let s := setSlotState s c.slot c.load
      { s with cip := { s.cip with cmd := none, result := 1 } })

/-- A key-sheet amendment that takes a slot from its bond clears it under R307 (R308). -/
def clearSlotNow (s : State) (i : Nat) : State :=
  if (s.slot i).valid then setSlotState (purgeLines (fun l => l.enc && l.slot = i) s) i none else s

/-! ### Zeroisation (R310) -/

/-- Zeroisation starts; `keep` when the cipher fence started it, whose device key and sessions stay (R312). -/
def startZeroise (s : State) (keep : Bool) : State :=
  let k := if s.sec.zst = .clearing then s.sec.zKeep && keep else keep
  { s with sec := { s.sec with zst := .clearing, zKeep := k } }

/-- Every key slot is zeroised and EMPTY. -/
def wipeSlots (s : State) : State := { s with slots := [], cip := { s.cip with cmd := none } }

/-- Device key, sessions, wrap buffers and nonces are overwritten. -/
def wipeSecrets (s : State) : State :=
  let s := { s with sec := { s.sec with devkey := none, devpub := (0, 0), keyDue := false } }
  foldS (List.range 9) (fun s n => (closeSession s n).modPath n (fun p => { p with nonce := none })) s

/-- Encrypted requests whose reads are under way: zeroisation ends after them. -/
def encBusy (s : State) : Bool := s.reqs.any (fun r => r.enc && r.stage = .channel)

/-- Encrypted requests that waited are judged against the emptied slots and complete REFUSED (R310 step 5). -/
def judgeWaiting (s : State) : State :=
  (s.reqs.filter (fun r => r.enc && r.stage = .waiting)).foldl (fun s r =>
    failReq s r.id (if s.cip.fenced || !domOn s 45 then Status.first .refused .fenced else .refused)) s

def kindCode : TestKind → BitVec 2
  | .internalScan => 1
  | .ieee1500 => 2
  | .cipherBist => 3

/-- ZEROISATION_DONE (R310): secrets are overwritten; a verified end opens the gate that waits. -/
def execZeroisationDone (verified : Bool) (s : State) : Host.Outcome State Fault Refusal :=
  answer s (
    if s.sec.zst = .clearing && !encBusy s then
      let s := purgeLines (fun l => l.enc) s
      let s := wipeSlots s
      let s := if s.sec.zKeep then s else wipeSecrets s
      let s := foldS (List.range 32) (fun s c => s.modChan c (fun ch => { ch with draws := 0 })) s
      let s :=
        if verified then
          let g := s.sec.wanted
          { s with sec := { s.sec with
              zst := .done
              zcount := sat s.sec.zcount 1
              wanted := none
              gate := s.sec.gate || g.isSome
              gateKind := match g with | some k => kindCode k | none => s.sec.gateKind } }
        else raise { s with sec := { s.sec with zst := .failed, wanted := none } } 0x3C 0
      judgeWaiting s
    else s)

/-- The gate closes and the device key is derived again (R311). -/
def closeGate (s : State) : State :=
  { s with sec := { s.sec with gate := false, gateKind := 0, keyDue := true } }

/-- TEST_ACCESS_REQUEST (R309, R310): what the life-cycle state permits starts zeroisation. -/
def execTestAccessRequest (kind : TestKind) (s : State) : Host.Outcome State Fault Refusal :=
  answer s (
    if (kind = .cipherBist || s.sec.lc = 0) && !(s.sec.gate && s.sec.gateKind = 1) then
      let s := if s.sec.gate then closeGate s else s
      startZeroise { s with sec := { s.sec with wanted := some kind } } false
    else s)

/-- TEST_ACCESS_END (R311): an internal-scan gate closes only at cold reset. -/
def execTestAccessEnd (s : State) : Host.Outcome State Fault Refusal :=
  answer s (
    if s.sec.gate then (if s.sec.gateKind = 1 then s else closeGate s)
    else { s with sec := { s.sec with wanted := none } })

/-- PD45 parks: dirty lines tagged with a slot are written back under their keys and every such line is dropped, as in any
zeroisation (R310); then the slots are zeroised and EMPTY (R312). -/
def cipherParked (s : State) : State := wipeSlots (purgeLines (fun l => l.enc) s)

/-- Fence: cipher (R312, R341). -/
def fenceCipher (s : State) : State :=
  if s.cip.fenced then s else startZeroise { s with cip := { s.cip with fenced := true } } true

end Sys2Proof.Machine
end

