-- ==== Sys2Proof/Machine/Pauses.lean ====
section
/-! DEFINITION. What pauses a channel (R186), the checks that wait for it (R262, R263, R267, R460), and the lane monitor
(R262). -/

namespace Sys2Proof.Machine

/-- The controller of channel c has power. -/
def chanOn (s : State) (c : Nat) : Bool := c < 32 && domOn s (9 + c)

/-! ### Flows a channel concerns (R136) -/

/-- Province p has a granule on channel c. -/
def provOn (p : Prov) (c : Nat) : Bool := p.valid && (provChans p).contains c

/-- Valid flows permitted on a province with a granule on channel c. -/
def flowsOnChan (s : State) (c : Nat) : List Nat :=
  (s.tables.flows.filter (fun e => e.2.valid && (flowProvs s.tables e.2).any (fun q => provOn q.2 c))).map (·.1)

/-- A Survey, check or steer on channel c leaves the windows it overlaps unjudged. -/
def spoilChan (s : State) (c : Nat) : State :=
  foldS (flowsOnChan s c) (fun s f => s.modFlowR f (fun r => { r with spoiled := true })) s

/-! ### Pauses (R186) -/

/-- The channel is in steps 2 to 5 of R182. -/
def opSwitching (s : State) (c : Nat) : Bool :=
  let q := (s.chan c).seq
  q = .enter || q = .relock || q = .load || q = .exit

/-- A Survey or pattern check of the channel is under way (R385, R388). -/
def trnBusy (s : State) (c : Nat) : Bool :=
  let a := (s.trnOf c).action
  a = .check || a = .survey || a = .suspended

/-- A lane check or steer is under way, the wait for a Lull slot between them included (R263, R264, R267). -/
def laneBusy (s : State) (c : Nat) : Bool :=
  let a := (s.tsvOf c).action
  a = .check || a = .steerWait || a = .steer

/-- A lane test, or logic BIST of the controller, has the channel (R393, R400). -/
def bstPauses (s : State) (c : Nat) : Bool :=
  let b := s.bstOf c
  b.st = .run && (b.kind = 2 || (b.kind = 3 && b.unit = 0))

/-- A Survey must run before the channel opens (R182, R386). -/
def surveyFirst (s : State) (c : Nat) : Bool :=
  match (s.trnOf c).wanted with
  | some t => t = 1 || t = 4 || t = 5
  | none => false

def pausedNow (s : State) (c : Nat) : Bool :=
  let q := (s.chan c).seq
  opSwitching s c || q = .check || trnBusy s c || laneBusy s c || bstPauses s c || surveyFirst s c ||
  s.rst.chanBusy.contains c || ((s.sprOf c).st = .rescue)

/-! ### Checks that wait -/

/-- A check of the channel can start: nothing that pauses it is under way or due. -/
def checkFree (s : State) (c : Nat) : Bool :=
  chanOn s c && !chanFenced s c && !pausedNow s c && (s.chan c).st ≠ .closed && (s.tsvOf c).action = .idle && !s.flt.fatal

/-- The pattern check of channel c starts (R385). -/
def startPattern (s : State) (c : Nat) : State := s.modTrnOf c (fun t => { t with action := .check, checkDue := false })

/-- A check of the channel's lanes starts: of a data lane with its byte lane (R263), or of the control group (R267). -/
def startCheckOf (s : State) (c : Nat) (w : CheckWait) : State :=
  let s := spoilChan s c
  match w with
  | .data l =>
    let s := s.modTrnOf c (fun t => { t with trigger := 6, byteLane := BitVec.ofNat 5 (l / 4) })
    s.modTsvOf c (fun t => { t with action := .check, ctlCheck := false, lane := l })
  | .command k =>
    s.modTsvOf c (fun t => { t with action := .check, ctlCheck := true, lane := 72, ctlFrom := some k, ctlRanks := [], clkRanks := [] })
  | .control l =>
    s.modTsvOf c (fun t => { t with
      action := .check, ctlCheck := true, lane := l, ctlFrom := none, ctlRanks := t.clkRanks, clkRanks := [] })

/-- The first check that waits starts once nothing holds the channel; a pattern check goes first. -/
def startWaiting (s : State) (c : Nat) : State :=
  if !checkFree s c then s
  else if (s.trnOf c).checkDue then spoilChan (startPattern s c) c
  else match (s.tsvOf c).waits with
    | [] => s
    | w :: r => startCheckOf (s.modTsvOf c (fun t => { t with waits := r })) c w

/-- A check of the lanes is asked for: it waits for its turn, once. -/
def askCheck (s : State) (c : Nat) (w : CheckWait) : State :=
  s.modTsvOf c (fun t => { t with waits := if t.waits.contains w then t.waits else t.waits ++ [w] })

/-- CHN_STATUS.state follows what holds the channel, after a check that waited has started; a channel that has not opened
yet stays CLOSED. -/
def settleChan (s : State) (c : Nat) : State :=
  let s := startWaiting s c
  let st := (s.chan c).st
  let v :=
    if chanFenced s c then ChanSt.fenced
    else if st = .closed then .closed
    else if pausedNow s c then .paused
    else if s.pwr.hold then .hold
    else .opened
  s.modChan c (fun ch => { ch with st := v })

/-! ### The lane monitor (R262) -/

def countSuspect (s : State) (c : Nat) : State := s.modTsvOf c (fun t => { t with suspects := sat t.suspects 1 })

/-- A Survey under way judges lanes itself, and no separate check follows (R392). -/
def surveying (s : State) (c : Nat) : Bool :=
  let a := (s.trnOf c).action
  a = .survey || a = .suspended

/-- A lane is suspect: it counts, and its check follows (R262, R268). -/
def suspect (s : State) (c : Nat) (w : CheckWait) : State :=
  let s := countSuspect s c
  if surveying s c then s else askCheck s c w

/-- One corrected half names lanes, ascending: the run goes on or starts again, and 16 in a row make a suspect. -/
def monitorHalf (s : State) (c : Nat) (lanes : List Nat) : State :=
  match lanes with
  | [] => s
  | l :: _ =>
    let t := s.tsvOf c
    let go := lanes.contains t.runLane.toNat
    let lane := if go then t.runLane.toNat else l
    let n := if go then t.runCount + 1 else 1
    if n < 16 then s.modTsvOf c (fun t => { t with runLane := BitVec.ofNat 7 lane, runCount := n })
    else suspect (s.modTsvOf c (fun t => { t with runLane := BitVec.ofNat 7 lane, runCount := 0 })) c (.data lane)

end Sys2Proof.Machine
end

