-- ==== Sys2Proof/Machine/Fuses.lean ====
section
/-! DEFINITION. The fuse controller: reads, programs, seals and locks (R408–R418, R423, R428), the records of commit
points (R238, R419–R422), the life cycle (R309) and the device key (R302). -/

namespace Sys2Proof.Machine

def State.setFus (s : State) (f : Fus) : State := { s with fus := f }
def State.modFus (s : State) (g : Fus → Fus) : State := { s with fus := g s.fus }

/-! ### Words -/

/-- Words of a bank that a command can address; the spare rows of Repair are reached only by redirection (R408, R419). -/
def bankWords (b : Nat) : Nat :=
  match b with
  | 0 => 171 | 1 => 342 | 2 => 171 | 3 => 86 | 4 => 10944 | _ => 0

def rawWord (f : Fus) (b w : Nat) : FuseWord := tget {} f.array (b * 32768 + w)

def bankOf (f : Fus) (b : Nat) : FuseBank := tget {} f.banks b

/-- The Repair bank is locked and failed its judgement (R416). -/
def bankBad (f : Fus) (b : Nat) : Bool := f.loaded && (bankOf f b).locked && !(bankOf f b).valid

/-- The spare row that stands for a row of Repair: the lowest valid redirection entry that names it (R419). -/
def redirected (f : Fus) (row : Nat) : Nat :=
  if row = 0 || bankBad f 4 then row
  else
    let hit := fun (i : Nat) =>
      match fuseSense 4 (rawWord f 4 i) with
      | (0, d, _) => if d.getLsbD 23 && (d.extractLsb' 14 9).toNat = row then some (342 + (d.extractLsb' 9 5).toNat) else none
      | _ => none
    ((List.range 32).findSome? hit).getD row

/-- Where a word of a bank lies, in the key of the array. -/
def physKey (f : Fus) (b w : Nat) : Nat :=
  if b = 4 then b * 32768 + redirected f (w / 32) * 32 + w % 32 else b * 32768 + w

def fuseAt (f : Fus) (b w : Nat) : FuseWord := tget {} f.array (physKey f b w)

/-- A word as a read resolves it: outcome, data, corrected (R411, R412). -/
def fuseValue (f : Fus) (b w : Nat) : Nat × Word × Bool := fuseResolve b (fuseAt f b w)

/-- A marginal read is counted and logged (R411). -/
def noteMarginal (s : State) (b w : Nat) : State :=
  if (fuseSense b (fuseAt s.fus b w)).1 = 1 then logJournal (raise s 0x32 0) (.marginal b w) else s

/-- Data values of the first n words of a bank. -/
def bankData (f : Fus) (b n : Nat) : List Word := (List.range n).map (fun w => (fuseValue f b w).2.1)

/-! ### Seals and locks (R415) -/

/-- The seal word of a bank: its sealed region lies below it. -/
def sealWord (b : Nat) : Nat :=
  match b with
  | 0 => 170 | 1 => 341 | 2 => 75 | _ => 703

/-- The lock word of a bank in the Lock bank. -/
def lockWord (b : Nat) : Nat :=
  match b with
  | 0 => 3 | 1 => 4 | 2 => 5 | _ => 6

def bankLocked (f : Fus) (b : Nat) : Bool := b ≠ 3 && fuseProgrammed (fuseAt f 3 (lockWord b))

def sealCrc (f : Fus) (b : Nat) : Word := crc24 (bankData f b (sealWord b))

/-- What LOCK asks of the seal (R415). -/
def sealHolds (f : Fus) (b : Nat) : Bool :=
  fuseProgrammed (fuseAt f b (sealWord b)) &&
  (List.range (sealWord b + 1)).all (fun w => (fuseSense b (fuseAt f b w)).1 = 0) &&
  (fuseValue f b (sealWord b)).2.1 = sealCrc f b

/-- FUS_BANK.locked and sealed follow the array (R430). -/
def refreshBanks (f : Fus) : Fus :=
  { f with banks := (List.range 5).foldl (fun t b =>
      let e := tget {} t b
      tset {} t b { e with
        locked := bankLocked f b
        sealed_ := b ≠ 3 && fuseProgrammed (fuseAt f b (sealWord b)) }) f.banks }

/-! ### The life cycle (R309) -/

/-- Life-cycle words programmed; a damaged word counts. -/
def lcWords (f : Fus) : Nat := ((List.range 3).filter (fun w => fuseProgrammed (fuseAt f 3 w))).length

/-- A commit of channel c cannot be made in this life-cycle state or bank: it ends with result 2 (R238). -/
def refuseCommit (s : State) (c : Nat) : State :=
  s.modEccOf c (fun e => { e with busy := false, result := 2, noAuto := true, commitAt := none })

/-- Commits that wait for the controller end: none starts in RETIRED (R238). -/
def refuseCommits (s : State) : State :=
  let s := s.fus.queue.foldl (fun s j => match j with | .commit c => refuseCommit s c | _ => s) s
  s.modFus (fun f => { f with queue := f.queue.filter (fun j => match j with | .commit _ => false | _ => true) })

/-- The state follows the Lock bank; entry to RETIRED starts zeroisation (R309, R310). -/
def lcFollow (s : State) : State :=
  let n := BitVec.ofNat 2 (lcWords s.fus)
  let entering := n = 3 && s.sec.lc ≠ 3
  let s := { s with sec := { s.sec with lc := n } }
  if entering then refuseCommits (startZeroise s false) else s

/-! ### Records (R420) -/

/-- The three words of a record of channel c. -/
def recordWords (c : Nat) (r : RepairRec) : List Word :=
  let w0w1 : Nat × Nat :=
    match r with
    | .line l => (2 ^ 20 + l.rank * 2 ^ 17 + l.bank * 2 ^ 12 + c * 2 ^ 7, l.row * 2 ^ 10 + l.col * 2 ^ 6)
    | .row k b w i => (2 * 2 ^ 20 + k * 2 ^ 17 + b * 2 ^ 12 + c * 2 ^ 7, w * 2 ^ 10 + i * 2 ^ 2)
    | .lane sel act => (3 * 2 ^ 20 + sel * 2 ^ 13 + act * 2 ^ 11 + c * 2 ^ 2, 0)
    | .spareBad k b i => (4 * 2 ^ 20 + k * 2 ^ 17 + b * 2 ^ 12 + c * 2 ^ 7, i * 2 ^ 2)
  let close := 0x96 * 2 ^ 16 + ((w0w1.1 / 2 ^ 8) ^^^ (w0w1.2 / 2 ^ 8))
  [BitVec.ofNat 24 w0w1.1, BitVec.ofNat 24 w0w1.2, BitVec.ofNat 24 close]

/-- First word of slot i of channel c's area (R419). -/
def slotAddr (c i : Nat) : Nat := 704 + 320 * c + 3 * i

def slotBlank (f : Fus) (c i : Nat) : Bool :=
  (List.range 3).all (fun j => !fuseProgrammed (fuseAt f 4 (slotAddr c i + j)))

/-- First blank slot of a channel's area. -/
def firstBlank (f : Fus) (c : Nat) : Option Nat := (List.range 106).find? (slotBlank f c)

/-- The record a slot holds, when R421 lets it apply: GOOD words, a matching close word, a valid type; the channel it
names is the second component. -/
def parseRecord (f : Fus) (addr : Nat) : Option (RepairRec × Nat) :=
  let good := (List.range 3).all (fun j => (fuseSense 4 (fuseAt f 4 (addr + j))).1 = 0)
  let w := fun (j : Nat) => (fuseValue f 4 (addr + j)).2.1.toNat
  let a := w 0
  let b := w 1
  if good && w 2 = 0x96 * 2 ^ 16 + ((a / 2 ^ 8) ^^^ (b / 2 ^ 8)) then
    let k := a / 2 ^ 17 % 8
    let bank := a / 2 ^ 12 % 32
    let c := a / 2 ^ 7 % 32
    let row := b / 2 ^ 10
    let i := b / 4 % 16
    match a / 2 ^ 20 with
    | 1 => some (.line { ch := c, rank := k, bank := bank, row := row, col := b / 2 ^ 6 % 16 }, c)
    | 2 => some (.row k bank row i, c)
    | 3 => some (.lane (a / 2 ^ 13 % 128) (a / 2 ^ 11 % 4), a / 4 % 32)
    | 4 => some (.spareBad k bank i, c)
    | _ => none
  else none

/-! ### Program operations (R413) -/

def bitOf (w : BitVec 30) (i : Nat) : Bool := w.getLsbD i

/-- Bits of a goal that the array does not yet hold, ascending. -/
def bitsToSet (cur goal : BitVec 30) : List Nat := (List.range 30).filter (fun i => goal.getLsbD i && !cur.getLsbD i)

/-- R413's condition on a word: bits already set are in the code word, and it reads GOOD without correction. -/
def programmable (f : Fus) (b w : Nat) (goal : BitVec 30) : Bool :=
  let cur := fuseAt f b w
  let r := fuseSense b cur
  (cur.lo &&& goal) = cur.lo && r.1 = 0 && !r.2.2

def mkOp (s : State) (job : FuseJob) (b w : Nat) (goal : BitVec 30) (rest : List (Nat × Nat × BitVec 30)) : FuseOp :=
  { job := job, bank := b, word := w, goal := goal, bits := bitsToSet (fuseAt s.fus b w).lo goal, tries := 0,
    rest := rest, live := !s.pwr.hold, stopping := false }

/-- The operation is out of the controller. -/
def clearOp (s : State) : State := s.modFus (fun f => { f with op := none, busy := false })

def startOp (s : State) (o : FuseOp) : State := s.modFus (fun f => { f with op := some o, busy := true })

/-! ### Commit points (R238, R422) -/

/-- Spare rows of a bank that are free (R239). -/
def freeSpares (m : RankMem) (b : Nat) : List Nat :=
  (List.range 16).filter (fun i => !m.badSpares.contains (b * 16 + i) &&
    !m.repair.any (fun e => e.1 / 16384 = b && e.2 = i))

/-- Rows with ROW_QUEUED entries, as (rank, bank, row), without repeats. -/
def queuedRows (e : Ecc) : List (Nat × Nat × Nat) :=
  ((e.remap.filter (fun r => r.2.st = .rowQueued)).map (fun r => (r.2.loc.rank, r.2.loc.bank, r.2.loc.row))).eraseDups

/-- Rows that this commit repairs, with their spare rows. -/
def rowRepairs (s : State) (c : Nat) : List (Nat × Nat × Nat × Nat) :=
  (queuedRows (s.eccOf c)).foldl (fun done r =>
    let used := done.filter (fun d => d.1 = r.1 && d.2.1 = r.2.1)
    match ((freeSpares (s.rmem (rankKey c r.1)) r.2.1).filter (fun i => !used.any (fun d => d.2.2.2 = i))).head? with
    | some i => done ++ [(r.1, r.2.1, r.2.2, i)]
    | none => done) []

def rowOf (l : Loc) : Nat × Nat × Nat := (l.rank, l.bank, l.row)

/-- Start a commit of channel c: rows without a spare row leave ROW_QUEUED, and the records of R422 are drawn up. -/
def beginCommit (s : State) (c : Nat) : State :=
  let e := s.eccOf c
  let rows := rowRepairs s c
  let repaired := fun (l : Loc) => rows.any (fun r => (r.1, r.2.1, r.2.2.1) = rowOf l)
  let stuck := (queuedRows e).any (fun r => !rows.any (fun d => (d.1, d.2.1, d.2.2.1) = r))
  let fix := fun (r : Remap) =>
    if r.st = .rowQueued && !repaired r.loc then { r with st := if r.recorded then .committed else .pending } else r
  let remap := e.remap.map (fun r => (r.1, fix r.2))
  let lines := (remap.filter (fun r => !r.2.recorded && !repaired r.2.loc)).map (fun r => RepairRec.line r.2.loc)
  let recs := rows.map (fun r => RepairRec.row r.1 r.2.1 r.2.2.1 r.2.2.2) ++ lines ++ e.due
  let s := s.setEccOf c { e with remap := remap, exhausted := e.exhausted || stuck, commitAt := none }
  s.modFus (fun f => { f with
    recs := recs
    recRes := 0
    recNow := none
    busy := true
    op := some (mkOp s (.commit c) 4 (slotAddr c 0) 0 []) })

/-- Note one of results 3 and 4; 3 is reported first (R238). -/
def noteRes (f : Fus) (r : BitVec 3) : Fus := { f with recRes := if f.recRes = 0 || r < f.recRes then r else f.recRes }

/-- A record has been programmed and verified (R422); an entry whose row has come to await repair meanwhile goes on to
(R235). -/
def recordDone (s : State) (c : Nat) (r : RepairRec) : State :=
  s.modEccOf c (fun e =>
    match r with
    | .line l => { e with remap := e.remap.map (fun x =>
        (x.1, if x.2.loc = l then
            { x.2 with recorded := true, st := if x.2.st = .rowQueued then .rowQueued else .committed }
          else x.2)) }
    | .row k b w i =>
      if e.due.contains r then { e with due := e.due.filter (fun x => x ≠ r) }
      else { e with rowsBusy := e.rowsBusy ++ [(k, b, w, i)] }
    | r => { e with due := e.due.filter (fun x => x ≠ r) })

/-- Take the next record of a commit into the next blank slot, or end the programming. -/
def nextRecord (s : State) (c : Nat) : State :=
  match s.fus.recs with
  | [] => s.modFus (fun f => { f with recNow := none, op := some (mkOp s (.commit c) 4 (slotAddr c 0) 0 []) })
  | r :: rest =>
    match firstBlank s.fus c with
    | none => s.modFus (fun f => { noteRes f 3 with
        recs := []
        recNow := none
        op := some (mkOp s (.commit c) 4 (slotAddr c 0) 0 []) })
    | some i =>
      let ws := (recordWords c r).map repairWord
      let a := slotAddr c i
      s.modFus (fun f => { f with
        recs := rest
        recNow := some r
        op := some (mkOp s (.commit c) 4 a (ws.headD 0) [(4, a + 1, ws.getD 1 0), (4, a + 2, ws.getD 2 0)]) })

/-! ### Running the controller (R423) -/

/-- Start a job that the controller takes up. -/
def startJob (s : State) : FuseJob → State
  | .cmd => s
  | .lifeCycle =>
    let ws := (List.range 3).filter (fun w => lcWords s.fus ≤ w && w < s.fus.lcGoal.toNat)
    match ws with
    | [] => s
    | w :: rest => startOp s (mkOp s .lifeCycle 3 w (secdedWord 0xFFFFFF) (rest.map (fun x => (3, x, secdedWord 0xFFFFFF))))
  | .commit c => nextRecord (beginCommit s c) c

/-- A job may start now: commits wait out supply hold and Gale, and nothing starts in Fatal. -/
def jobReady (s : State) : FuseJob → Bool
  | .commit _ => !s.pwr.hold && !s.flt.gale && !s.flt.fatal
  | _ => !s.flt.fatal

/-- The controller is free and takes the first job that may start. -/
def startNext (s : State) : State :=
  if s.fus.op.isSome then s
  else match s.fus.queue.find? (jobReady s) with
    | none => s
    | some j => startJob (s.modFus (fun f => { f with queue := f.queue.filter (fun x => x ≠ j) })) j

/-- Put a job in the queue: commits in ascending channel order, the rest in arrival order. -/
def queueJob (q : List FuseJob) (j : FuseJob) : List FuseJob :=
  match j with
  | .commit c =>
    let before := fun (x : FuseJob) => match x with | .commit d => decide (d < c) | _ => true
    q.takeWhile before ++ [j] ++ q.dropWhile before
  | _ => q ++ [j]

/-- A commit point of channel c occurs (R238): in RETIRED, or with the Repair bank invalid, it ends at once with 2. -/
def requestCommit (s : State) (c : Nat) : State :=
  if (s.eccOf c).busy then s
  else if s.sec.lc = 3 || bankBad s.fus 4 then
    refuseCommit s c
  else
    let s := s.modEccOf c (fun e => { e with busy := true })
    startNext (s.modFus (fun f => { f with queue := queueJob f.queue (.commit c) }))

/-- A program operation has ended OK or with VERIFY_FAIL. -/
def endOp (s : State) (o : FuseOp) (ok : Bool) : State :=
  let s := s.modFus refreshBanks
  match o.job with
  | .cmd =>
    let s := (clearOp s).modFus (fun f => { f with result := if ok then 1 else 5 })
    startNext s
  | .lifeCycle => startNext (lcFollow (clearOp s))
  | .commit c =>
    match s.fus.recNow with
    | none => s
    | some r => nextRecord (if ok then recordDone s c r else s.modFus (fun f => noteRes f 4)) c

/-- Words whose bits are all set are passed over; the operation ends with its last word. -/
def settleOp (s : State) : Nat → FuseOp → State
  | 0, _ => s
  | n + 1, o =>
    if o.bits ≠ [] then s.modFus (fun f => { f with op := some o, busy := true })
    else match o.rest with
      | [] => endOp s o true
      | (b, w, g) :: rest =>
        let s := if o.job = .lifeCycle then lcFollow s else s
        settleOp s n { o with word := w, bank := b, goal := g, rest := rest, tries := 0,
                              bits := bitsToSet (fuseAt s.fus b w).lo g }

/-- An operation that stops under R423 ends; its commit, if it is one, writes no more. -/
def stopOp (s : State) : State :=
  match s.fus.op with
  | none => s
  | some o =>
    let s := match o.job with
      | .commit c => s.modEccOf c (fun e => { e with busy := false })
      | _ => s
    (clearOp (lcFollow s)).modFus (fun f => refreshBanks { f with recs := [], recNow := none })

/-- Gale, Fatal or warm reset meet the controller: the bit in progress completes, then the work stops; queued jobs go. -/
def haltFuses (s : State) : State :=
  let s := s.fus.queue.foldl (fun s j => match j with
    | .commit c => s.modEccOf c (fun e => { e with busy := false })
    | _ => s) s
  let s := s.modFus (fun f => { f with queue := [] })
  match s.fus.op with
  | none => s
  | some o =>
    if o.live && o.bits ≠ [] then s.modFus (fun f => { f with op := some { o with stopping := true } })
    else stopOp s

/-- A supply hold has ended: the operation that waits resumes. -/
def resumeFuses (s : State) : State :=
  startNext (s.modFus (fun f => { f with op := f.op.map (fun o => { o with live := true }) }))

/-- FUSE_PULSE_DONE (R413): one pulse of the current bit and its verify; `hi` and `lo` are how the bit then senses. -/
def pulseDone (s : State) (o : FuseOp) (i : Nat) (hi lo : Bool) : State :=
  let k := physKey s.fus o.bank o.word
  let w := tget {} s.fus.array k
  let m := BitVec.ofNat 30 (2 ^ i)
  let w' : FuseWord := { hi := if hi then w.hi ||| m else w.hi, lo := if lo then w.lo ||| m else w.lo }
  let s := s.modFus (fun f => { f with
    array := tset {} f.array k w'
    pulses := sat f.pulses 1
    retries := if o.tries = 0 then f.retries else sat f.retries 1 })
  if hi && lo then
    let o := { o with bits := o.bits.drop 1, tries := 0, live := !s.pwr.hold }
    if o.stopping then stopOp s else settleOp s 16 o
  else if o.tries < 3 then s.modFus (fun f => { f with op := some { o with tries := o.tries + 1 } })
  else
    let s := s.modFus (fun f => { f with verifyFails := sat f.verifyFails 1 })
    if o.stopping then stopOp s else endOp s o false

def execFusePulseDone (hi lo : Bool) (s : State) : Host.Outcome State Fault Refusal :=
  answer s (match s.fus.op with
    | some o => match o.bits with
      | i :: _ => if o.live then pulseDone s o i hi lo else s
      | [] => s
    | none => s)

/-! ### Commands (R428) -/

def fuseResult (s : State) (r : Nat) : State := s.modFus (fun f => { f with result := BitVec.ofNat 4 r })

/-- A refused command: its reason is recorded. -/
def fuseRefuse (s : State) (r : Nat) : Status × State := (.refused, fuseResult s r)

/-- R414 for PROGRAM, SEAL and LOCK of a word: 0 permitted, else the reason. -/
def programPermit (s : State) (b w : Nat) (viaLock : Bool) : Nat :=
  let early := s.sec.lc.toNat < 2
  let sealed_ := if early then (if bankLocked s.fus b then 3 else 0) else 2
  match b with
  | 0 | 1 => sealed_
  | 2 => if w ≤ 75 then sealed_ else if w ≤ 142 then (if s.sec.lc.toNat < 3 then 0 else 2) else 2
  | 3 => if viaLock && early then 0 else 2
  | _ => if w ≤ 703 then sealed_ else 2

/-- Program words that are permitted and programmable. -/
def programWord (s : State) (b w : Nat) (goal : BitVec 30) (rest : List (Nat × Nat × BitVec 30)) : Status × State :=
  if programmable s.fus b w goal then (.ok, settleOp s 16 (mkOp s .cmd b w goal rest)) else fuseRefuse s 4

/-- READ (R410, R411, R418). -/
def fuseReadCmd (s : State) (b w : Nat) : Status × State :=
  if bankWords b ≤ w then fuseRefuse s 8
  else if b = 2 && w ≤ 10 then
    let r := fuseRefuse s 8
    (r.1, r.2.modFus (fun f => { f with rdata := 0 }))
  else
    let v := fuseValue s.fus b w
    let s := noteMarginal s b w
    (.ok, s.modFus (fun f => { f with
      result := 1
      outcome := BitVec.ofNat 2 v.1
      corrected := v.2.2
      rdata := v.2.1 }))

def fuseProgramCmd (s : State) (b w : Nat) : Status × State :=
  if bankWords b ≤ w then fuseRefuse s 8
  else
    let p := programPermit s b w false
    if p ≠ 0 then fuseRefuse s p else programWord s b w (fuseCode b s.fus.wdata) []

def fuseSealCmd (s : State) (b : Nat) : Status × State :=
  if b = 3 || 4 < b then fuseRefuse s 8
  else
    let p := programPermit s b (sealWord b) false
    if p ≠ 0 then fuseRefuse s p
    else
      let s := foldS (List.range (sealWord b)) (fun s w => noteMarginal s b w) s
      programWord s b (sealWord b) (fuseCode b (sealCrc s.fus b)) []

def fuseLockCmd (s : State) (b : Nat) : Status × State :=
  if b = 3 || 4 < b then fuseRefuse s 8
  else
    let p := programPermit s 3 (lockWord b) true
    if p ≠ 0 then fuseRefuse s p
    else
      let s := foldS (List.range (sealWord b + 1)) (fun s w => noteMarginal s b w) s
      if sealHolds s.fus b then programWord s 3 (lockWord b) (secdedWord 0xFFFFFF) [] else fuseRefuse s 6

/-- The eleven words of a device secret (R418). -/
def secretWords (x : BitVec 256) : List Word := (List.range 11).map (fun i => BitVec.ofNat 24 (x.toNat >>> (24 * i)))

def genSecretCmd (s : State) : Status × State :=
  let p := programPermit s 2 0 false
  if p ≠ 0 then fuseRefuse s p
  else if (List.range 11).any (fun w => fuseProgrammed (fuseAt s.fus 2 w)) then fuseRefuse s 4
  else
    let f := takeFree s
    let ws := (secretWords (Config.secret f.1)).map secdedWord
    programWord f.2 2 0 (ws.headD 0) (((List.range 11).drop 1).map (fun i => (2, i, ws.getD i 0)))

/-- A write of FUS_CMD on port n: programming commands are protected outside MANUFACTURE (R305), one runs at a time
(R423), and reads go between pulses. -/
def fuseCmdWrite (n : Nat) (data : Word) (s : State) : Status × State :=
  let op := (data.extractLsb' 21 3).toNat
  let b := (data.extractLsb' 18 3).toNat
  let w := (data.extractLsb' 4 14).toNat
  if 2 ≤ op && op ≤ 5 && s.sec.lc ≠ 0 && !sessionOpen s n then (.refused, s)
  else if op = 1 then fuseReadCmd s b w
  else if 2 ≤ op && op ≤ 5 && s.fus.op.isSome then fuseRefuse s 7
  else if op = 2 then fuseProgramCmd s b w
  else if op = 3 then fuseSealCmd s b
  else if op = 4 then fuseLockCmd s b
  else if op = 5 then genSecretCmd s
  else fuseRefuse s 8

def execFuseRead (via : Via) (data : Word) (s : State) : Host.Outcome State Fault Refusal :=
  answer s (mgmtWrite s via .fus 0 data (fuseCmdWrite via.port data))

def execFuseProgram (via : Via) (data : Word) (s : State) : Host.Outcome State Fault Refusal :=
  answer s (mgmtWrite s via .fus 0 data (fuseCmdWrite via.port data))

def execFuseSeal (via : Via) (data : Word) (s : State) : Host.Outcome State Fault Refusal :=
  answer s (mgmtWrite s via .fus 0 data (fuseCmdWrite via.port data))

def execFuseLock (via : Via) (data : Word) (s : State) : Host.Outcome State Fault Refusal :=
  answer s (mgmtWrite s via .fus 0 data (fuseCmdWrite via.port data))

def execGenSecret (via : Via) (data : Word) (s : State) : Host.Outcome State Fault Refusal :=
  answer s (mgmtWrite s via .fus 0 data (fuseCmdWrite via.port data))

/-! ### SEC_CTRL (R309, R310, R316) -/

/-- lc_advance to a target above lc: the life-cycle words are programmed once the controller is free. -/
def lcAdvance (s : State) (target : BitVec 2) : State :=
  startNext (s.modFus (fun f => { f with
    lcGoal := if f.lcGoal < target then target else f.lcGoal
    queue := if f.queue.contains .lifeCycle then f.queue else queueJob f.queue .lifeCycle }))

/-- A write of SEC_CTRL: a target not above lc refuses the write. -/
def secCtrlWrite (data : Word) (s : State) : Status × State :=
  let target := data.extractLsb' 20 2
  if data.getLsbD 22 && target ≤ s.sec.lc then (.refused, s)
  else
    let s := if data.getLsbD 23 then startZeroise s false else s
    (.ok, if data.getLsbD 22 then lcAdvance s target else s)

def execZeroise (via : Via) (data : Word) (s : State) : Host.Outcome State Fault Refusal :=
  answer s (mgmtWrite s via .sec 1 data (secCtrlWrite data))

def execLcAdvance (via : Via) (data : Word) (s : State) : Host.Outcome State Fault Refusal :=
  answer s (mgmtWrite s via .sec 1 data (secCtrlWrite data))

/-- The device secret that the Root bank holds (R418). -/
def rootSecret (f : Fus) : BitVec 256 :=
  BitVec.ofNat 256 ((bankData f 2 11).foldr (fun w a => a * 2 ^ 24 + w.toNat) 0)

/-- DEVICE_KEY_DERIVED (R302): after the fuse load, and when a gate closes; an invalid Root bank has no secret (R416). -/
def execDeviceKeyDerived (s : State) : Host.Outcome State Fault Refusal :=
  answer s (
    if s.fus.loaded && s.sec.keyDue && !s.sec.gate && s.sec.zst ≠ .clearing && !bankBad s.fus 2 then
      let d := deviceKey (rootSecret s.fus)
      let q := (ptMul d (some (p384Gx, p384Gy)) 384).getD (0, 0)
      { s with sec := { s.sec with devkey := some d, devpub := q, keyDue := false } }
    else s)

end Sys2Proof.Machine
end

