-- ==== Sys2Proof/Machine/Remap.lean ====
section
/-! DEFINITION. What a decode finds and counts (R213, R215, R219, R221, R226, R247), the remap store, commit points and row
repair (R235–R239, R244). -/

namespace Sys2Proof.Machine

/-! ### Words that describe a location -/

/-- Detail word of a rank-scope event (R352). -/
def locDetail (l : Loc) : Word :=
  (0#1 ++ BitVec.ofNat 14 l.row ++ BitVec.ofNat 4 l.col ++ BitVec.ofNat 2 (l.bank % 4) ++ BitVec.ofNat 3 (l.bank / 4) :
    BitVec (1 + 14 + 4 + 2 + 3))

/-- ECC_LAST_CE and ECC_LAST_UE (R243). -/
def lastWord (l : Loc) (half : Nat) (finder : BitVec 2) (a b : Nat) : W48 :=
  (1#1 ++ BitVec.ofNat 3 l.rank ++ BitVec.ofNat 3 (l.bank / 4) ++ BitVec.ofNat 2 (l.bank % 4) ++ BitVec.ofNat 14 l.row ++
    BitVec.ofNat 4 l.col ++ BitVec.ofNat 1 half ++ finder ++ BitVec.ofNat 6 a ++ BitVec.ofNat 6 b ++ 0#6 :
    BitVec (1 + 3 + 3 + 2 + 14 + 4 + 1 + 2 + 6 + 6 + 6))

/-! ### A decoded line -/

/-- The symbols of each half that the channel's erased lanes blank (R212, R213). -/
def erasedOf (s : State) (c : Nat) : List Nat × List Nat := ((s.tsvOf c).erasedA, (s.tsvOf c).erasedB)

/-- What the decoder makes of the two halves a burst carries (R213). -/
structure Decoded where
  a     : HalfOut
  b     : HalfOut
  words : Half × Half
  symsA : List Nat
  symsB : List Nat
  deriving DecidableEq, Repr

def decodeLine (s : State) (c : Nat) (w : Half × Half) : Decoded :=
  let e := erasedOf s c
  let a := decodeHalf e.1 w.1
  let b := decodeHalf e.2 w.2
  { a := a.1, b := b.1, words := (a.2.1, b.2.1), symsA := a.2.2, symsB := b.2.2 }

def Decoded.out (d : Decoded) : LineOut := lineOut d.a d.b

/-- The half that a record names: the lower with the outcome. -/
def Decoded.half (d : Decoded) (o : HalfOut) : Nat := if d.a = o then 0 else 1

/-- The symbol positions corrected in that half. -/
def Decoded.syms (d : Decoded) : List Nat := if d.a = .corrected then d.symsA else d.symsB

/-! ### Counting (R215, R219, R221, R247) -/

/-- ERASURE_FIX halves. -/
def countErase (s : State) (c : Nat) (d : Decoded) : State :=
  let n := (if d.a = .erasureFix then 1 else 0) + (if d.b = .erasureFix then 1 else 0)
  s.modEccOf c (fun e => { e with eraseFix := e.eraseFix + BitVec.ofNat 72 n })

/-- A line found CORRECTED. -/
def countCe (s : State) (l : Loc) (d : Decoded) (finder : BitVec 2) : State :=
  let ys := d.syms
  let s := s.modEccOf l.ch (fun e => { e with
    ceCount := e.ceCount + 1
    lastCe := lastWord l (d.half .corrected) finder (ys.getD 0 0x3F) (ys.getD 1 0x3F) })
  perf (raise s 0x18 (rankKey l.ch l.rank) (locDetail l)) 0x300 l.ch 1

/-- A line found uncorrectable, with its Logbook record (R219, R226). -/
def countUe (s : State) (l : Loc) (d : Decoded) (finder : BitVec 2) (prov : Option (Nat × Nat)) : State :=
  let h := d.half .uncorrectable
  let s := s.modEccOf l.ch (fun e => { e with
    ueCount := e.ueCount + 1
    lastUe := lastWord l h finder 0x3F 0x3F })
  let s := perf (raise s 0x19 (rankKey l.ch l.rank) (locDetail l)) 0x301 l.ch 1
  logJournal s (.line l h false [] finder prov)

/-- A read that met a poisoned line. -/
def countPoison (s : State) (c : Nat) : State :=
  perf (s.modEccOf c (fun e => { e with poisonRd := e.poisonRd + 1 })) 0x302 c 1

/-- The lane monitor sees every CORRECTED half read from a tier (R262). -/
def monitorLine (s : State) (c : Nat) (d : Decoded) : State :=
  let s := if d.a = .corrected then monitorHalf s c d.symsA else s
  if d.b = .corrected then monitorHalf s c (d.symsB.map (36 + ·)) else s

/-! ### The remap store -/

/-- Rows with two entries, or every row once 12 entries are in use, await repair (R237). -/
def markRows (t : Tbl Remap) : Tbl Remap :=
  t.map (fun e =>
    let n := (t.filter (fun x => rowOf x.2.loc = rowOf e.2.loc)).length
    (e.1, if 2 ≤ n || 12 ≤ t.length then { e.2 with st := .rowQueued } else e.2))

/-- The lowest FREE entry of a channel. -/
def freeEntry (e : Ecc) : Option Nat := (List.range 16).find? (fun i => (tfind e.remap i).isNone)

/-- A commit point is due at an elapsed beat; one already due earlier for lane records stays (R238, R266). -/
def setCommitAt (e : Ecc) (t : Nat) : Ecc :=
  match e.commitAt with
  | some u => if e.due ≠ [] && u ≤ t then e else { e with commitAt := some t }
  | none => { e with commitAt := some t }

/-- Give a location entry i, with the corrected words: it is PENDING (R237 step 1). -/
def takeEntry (s : State) (l : Loc) (i : Nat) (w : Half × Half) : State :=
  s.modEccOf l.ch (fun e =>
    setCommitAt { e with remap := markRows (tput e.remap i { st := .pending, loc := l, words := w, recorded := false }) }
      (s.elapsed + 2 ^ 20))

/-- No entry can be had for the line (R237 step 3). -/
def remapFull (s : State) (c : Nat) : State := raise s 0x0C c

/-- A line with a hard error goes to the remap store (R237). -/
def hardError (s : State) (l : Loc) (w : Half × Half) : State :=
  let e := s.eccOf l.ch
  if (remapAt s l).isSome || e.waitLines.contains l then s
  else match freeEntry e with
    | some i => takeEntry s l i w
    | none =>
      if e.busy || e.rowsBusy ≠ [] then s.modEccOf l.ch (fun e => { e with waitLines := e.waitLines ++ [l] })
      else if queuedRows e ≠ [] && !e.noAuto && s.sec.lc ≠ 3 && !bankBad s.fus 4 then
        requestCommit (s.modEccOf l.ch (fun e => { e with waitLines := e.waitLines ++ [l] })) l.ch
      else remapFull s l.ch

/-- Lines that waited for a commit are read again for the entries it freed; the rest count CHN_REMAP_FULL. -/
def placeWaiting (s : State) (c : Nat) : State :=
  let e := s.eccOf c
  let free := 16 - e.remap.length
  let s := s.modEccOf c (fun e => { e with waitLines := [] })
  let s := (e.waitLines.take free).foldl (fun s l =>
    pushRead s (mkEntry s .placeRead true l [l.col] dpaNone)) s
  (e.waitLines.drop free).foldl (fun s _ => remapFull s c) s

/-- COMMIT_POINT_TIMER (R238, R266): the commit point that is due occurs, once no row of the channel is in repair. -/
def execCommitPointTimer (c : Nat) (s : State) : Host.Outcome State Fault Refusal :=
  answer s (match (s.eccOf c).commitAt with
    | some t => if t ≤ s.elapsed && !(s.eccOf c).noAuto && (s.eccOf c).rowsBusy = [] then requestCommit s c else s
    | none => s)

/-- A write of ECC_REMAP_CTRL (R244): commit is ignored while a commit or row repair is in progress. -/
def remapCtrlWrite (c : Nat) (data : Word) (s : State) : Status × State :=
  let s := s.modEccOf c (fun e => { e with sel := data.extractLsb' 19 4 })
  (.ok, if data.getLsbD 23 && (s.eccOf c).rowsBusy = [] then requestCommit s c else s)

def execRemapCommitWrite (via : Via) (c : Nat) (data : Word) (s : State) : Host.Outcome State Fault Refusal :=
  answer s (if c < 32 then mgmtWrite s via (.ecc c) 9 data (remapCtrlWrite c data) else s)

/-- The controller has no more to program for channel c's commit. -/
def commitFinished (s : State) (c : Nat) : Bool :=
  match s.fus.op with
  | some o => o.job = .commit c && o.bits = [] && o.rest = [] && s.fus.recs = [] && s.fus.recNow.isNone
  | none => false

/-- REPAIR_COMMIT_DONE (R238): the result is set, results 3 and 4 count REPAIR_COMMIT, and the next job starts. -/
def execRepairCommitDone (c : Nat) (s : State) : Host.Outcome State Fault Refusal :=
  answer s (
    if commitFinished s c then
      let r := if s.fus.recRes = 0 then 1 else s.fus.recRes
      let s := s.modEccOf c (fun e => { e with busy := false, result := r })
      let s := if r = 1 then s else raise s 0x1B c
      let s := if (s.eccOf c).rowsBusy = [] then placeWaiting s c else s
      startNext (clearOp s)
    else s)

/-- One line of a row under repair (R239 step 3): as its entry holds it, or as the tier's burst decodes, whose errors are
counted as those of any reader; uncorrectable and poisoned lines become poison. The finder shows 0 (log 120). -/
def repairLine (s : State) (l : Loc) (err : Half × Half) : State × (Half × Half) :=
  let w := cellRead s l
  if (remapAt s l).isSome then (s, w)
  else
    let d := decodeLine s l.ch (w.1 ^^^ err.1, w.2 ^^^ err.2)
    let s := monitorLine (countErase s l.ch d) l.ch d
    match d.out with
    | .clean => (s, d.words)
    | .corrected => (countCe s l d 0, d.words)
    | .uncorrectable => (countUe s l d 0 none, poisonWords)
    | .poison => (countPoison s l.ch, poisonWords)

/-- Copy a row into a spare row and let the spare row answer for it (R239 steps 3 to 5). -/
def repairRow (s : State) (c k b row i : Nat) (errs : List (Nat × Half × Half)) : State :=
  let loc := fun (col : Nat) => ({ ch := c, rank := k, bank := b, row := row, col := col } : Loc)
  let r := (List.range 16).foldl (fun (acc : State × List (Half × Half)) col =>
    let x := repairLine acc.1 (loc col) ((tfind errs col).getD (0, 0))
    (x.1, acc.2 ++ [x.2])) (s, [])
  let s := r.1.modEccOf c (fun e => { e with
    remap := e.remap.filter (fun r => rowOf r.2.loc ≠ (k, b, row))
    rows := sat e.rows 1
    rowsBusy := e.rowsBusy.drop 1 })
  let s := s.modRmem (rankKey c k) (fun m => { m with repair := tput m.repair (b * 16384 + row) i })
  (List.range 16).foldl (fun s col => memWrite s (loc col) (r.2.getD col poisonWords)) s

/-- ROW_REPAIR_DONE (R239): the row under repair is copied, and its spare row answers for it. -/
def execRowRepairDone (x : RowCopy) (s : State) : Host.Outcome State Fault Refusal :=
  let c := x.ch
  answer s (match (s.eccOf c).rowsBusy with
    | [] => s
    | (k, b, row, i) :: _ =>
      let s := repairRow s c k b row i x.errs
      settleChan (if (s.eccOf c).rowsBusy = [] && !(s.eccOf c).busy then placeWaiting s c else s) c)

end Sys2Proof.Machine
end

