-- ==== Sys2Proof/Machine/Refresh.lean ====
section
/-! DEFINITION. Refresh bands, Lull slots, owed refreshes and catch-up (R189–R204). -/

namespace Sys2Proof.Machine

/-! ### Timing parameters (R167) -/

structure Timing where
  burst : Nat
  rcd   : Nat
  rp    : Nat
  ras   : Nat
  rc    : Nat
  cl    : Nat
  cwl   : Nat
  ccdS  : Nat
  ccdL  : Nat
  rrdS  : Nat
  rrdL  : Nat
  faw   : Nat
  rtw   : Nat
  wtrS  : Nat
  wtrL  : Nat
  wr    : Nat
  rtp   : Nat
  rrk   : Nat
  nrf   : Nat
  deriving DecidableEq, Repr

/-- The columns of R167; tRFCpb is 120 ns and tLREF 75 ns (R196) at every point. -/
def timing (op : Nat) : Timing :=
  if op = 0 then ⟨910, 14000, 14000, 29000, 43000, 15000, 12000, 910, 1820, 1800, 2500, 12000, 3900, 2500, 7500, 15000,
    3750, 1800, 43000⟩
  else if op = 1 then ⟨1250, 14000, 14000, 29000, 43000, 15600, 12500, 1250, 2500, 2500, 3100, 12000, 4400, 2500, 7500,
    15000, 3750, 2500, 43000⟩
  else ⟨2500, 15000, 15000, 30000, 45000, 17500, 15000, 2500, 5000, 5000, 5000, 15000, 6000, 3000, 7500, 15000,
    5000, 5000, 45000⟩

def tRFC : Nat := 120000
def tLREF : Nat := 75000

def bankKey (k b : Nat) : Nat := k * 32 + b
def Chan.bank (ch : Chan) (k b : Nat) : Bank := tget {} ch.banks (bankKey k b)
def setBank (s : State) (c k b : Nat) (v : Bank) : State :=
  s.modChan c (fun ch => { ch with banks := tset {} ch.banks (bankKey k b) v })

/-- At least `d` after an earlier time, if there was one. -/
def after (t : Option Nat) (d now : Nat) : Bool := match t with | some x => decide (x + d ≤ now) | none => true

/-- The parameters of a channel's point. -/
def chTiming (ch : Chan) : Timing := timing ch.current.toNat

/-- The earliest time at which a bank's precharge keeps tRAS, tRTP and tWR (R166). -/
def Bank.preAt (tm : Timing) (x : Bank) (now : Nat) : Nat :=
  max now (max ((x.lastAct.map (· + tm.ras)).getD 0)
    (max ((x.lastRd.map (· + tm.rtp)).getD 0) ((x.lastWr.map (· + tm.cwl + tm.burst + tm.wr)).getD 0)))

/-- The bank's row closes as soon as its precharge is legal; the hit counter stays (R166). -/
def Bank.close (tm : Timing) (now : Nat) (x : Bank) : Bank :=
  if x.openRow.isSome then { x with openRow := none, lastPre := some (x.preAt tm now) } else x

/-- Close the rows of a channel in the banks that `sel` picks by key (R166). -/
def closeBanks (sel : Nat → Bool) (s : State) (c : Nat) : State :=
  let now := nowPs s
  s.modChan c (fun ch => { ch with
    banks := ch.banks.map (fun e => (e.1, if sel e.1 then e.2.close (chTiming ch) now else e.2)) })

/-- What the reset of a controller leaves of its banks: neighbour refreshes are never dropped (R180). -/
def keepNrf (banks : Tbl Bank) : Tbl Bank :=
  (banks.filter (fun e => e.2.nrf ≠ [])).map (fun e => (e.1, { nrf := e.2.nrf }))

/-- Close all rows of a channel, or of a rank. -/
def closeRows (s : State) (c : Nat) : State := closeBanks (fun _ => true) s c
def closeRank (s : State) (c k : Nat) : State := closeBanks (fun key => key / 32 = k) s c

/-! ### Bands -/

/-- Commands per bank in a slot, and the reservation in beats (R190). -/
def Band.cmds : Band → Nat
  | .b1 => 2 | .b2 => 4 | .b4 => 8

def Band.reserve : Band → Nat
  | .b1 => 5 | .b2 => 10 | .b4 => 20

def Band.level : Band → Nat
  | .b1 => 0 | .b2 => 1 | .b4 => 2

/-- The band that a temperature, in 1/16 °C, calls for (R192). -/
def Band.next (b : Band) (t : Int) : Band :=
  match b with
  | .b1 => if 93 * 16 ≤ t then .b4 else if 83 * 16 ≤ t then .b2 else .b1
  | .b2 => if 93 * 16 ≤ t then .b4 else if t ≤ 80 * 16 then .b1 else .b2
  | .b4 => if t ≤ 80 * 16 then .b1 else if t ≤ 90 * 16 then .b2 else .b4

/-! ### Which ranks are refreshed -/

/-- RFR_CH_RANK.stopped: fenced, under MBIST, or in a domain that is not ON (R197, R208). -/
def rankStopped (s : State) (c k : Nat) : Bool :=
  (s.rank c k).st = .fenced || chanFenced s c || mbistOn s c k || !domOn s (52 + tierOf c k)

/-- The rank receives no slots: stopped, or retired (R250). -/
def rankGone (s : State) (c k : Nat) : Bool :=
  rankStopped s c k || (s.rank c k).st = .retiredSpare || (s.rank c k).st = .retiredReserve

/-- A test of the channel's block is under way. -/
def bstBusy (s : State) (c : Nat) : Bool :=
  let b := (s.bstOf c).st
  b = .setup || b = .run || b = .refill

/-- The running migration writes rank k of channel c (R257). -/
def migUses (s : State) (c k : Nat) : Bool :=
  s.mig.st ≠ .idle &&
  (if s.mig.toRes then (s.rank s.mig.ch s.mig.rank).grans.any (fun g =>
      g / 256 = k && (chanSet (blockClass s.tables.provs (g / 32)) g).contains c)
   else k = 4 && s.mig.ch = c)

/-- Rank 4 still holds lines that a stopped migration copied there (R257). -/
def holdsOld (s : State) (c : Nat) : Bool := (List.range 4).any (fun k => (s.rank c k).oldPtr ≠ 0)

/-- The rank rests in self-refresh while its channel is open (R203, R250). -/
def rankRests (s : State) (c k : Nat) : Bool :=
  match (s.rank c k).st with
  | .retiredSpare | .retiredReserve | .fenced => !mbistOn s c k
  | .spareUnusable => !mbistOn s c k && !holdsOld s c
  | .spareIdle => !migUses s c k && !holdsOld s c && (s.eccOf c).visit = 0 &&
      !(bstBusy s c && (s.bstOf c).rank.toNat = k && (s.bstOf c).kind.toNat < 2)
  | _ => false

/-- The rank rests in self-refresh, where slots are not issued and nothing is owed (R203, R204). -/
def inSelfRefresh (s : State) (c k : Nat) : Bool := (s.rfrOf c).inSr.getLsbD k

/-- The rank cannot accept commands (R197): the channel is switching or being reset, or the tier's logic is in reset. -/
def rankDeaf (s : State) (c k : Nat) : Bool :=
  opSwitching s c || s.rst.chanBusy.contains c || (s.tier (tierOf c k)).inReset

/-! ### Owed counts (R199, R201) -/

def owedKey (k b : Nat) : Nat := k * 32 + b

def owed (s : State) (c k b : Nat) : Nat := (tget 0 (s.rfrOf c).owed (owedKey k b)).toNat

def setOwed (s : State) (c k b n : Nat) : State :=
  s.modRfrOf c (fun r => { r with owed := tset 0 r.owed (owedKey k b) (BitVec.ofNat 4 (min n 15)) })

def rankMaxOwed (s : State) (c k : Nat) : Nat := ((List.range 32).map (owed s c k)).foldl max 0

def tierMaxOwed (s : State) (t : Nat) : Nat :=
  ((chansOfTier t).map (fun c => rankMaxOwed s c (rankOfTier t))).foldl max 0


/-- Catch-up ends when every bank of the tier owes 4 or fewer (R200). -/
def catchupExit (s : State) (t : Nat) : State :=
  if (s.tier t).catchup && tierMaxOwed s t ≤ 4 then s.modTier t (fun x => { x with catchup := false }) else s

/-- The owed counts of a rank clear (R197). -/
def clearOwed (s : State) (c k : Nat) : State :=
  catchupExit (s.modRfrOf c (fun r => { r with owed := r.owed.filter (fun e => e.1 / 32 ≠ k) })) (tierOf c k)

/-- The tier enters catch-up, and leaves it at once where nothing is owed above 4. -/
def catchupEnter (s : State) (t : Nat) : State :=
  if (s.tier t).catchup then s
  else catchupExit (s.modTier t (fun x => { x with catchup := true, catchups := sat x.catchups 1 })) t

/-- A bank owes `n` more; at 9 or more the deadline is missed (R201). -/
def addOwed (s : State) (c k b n : Nat) : State :=
  let old := owed s c k b
  let s := setOwed s c k b (old + n)
  let t := tierOf c k
  if old < 9 && 9 ≤ owed s c k b then
    let s := raise s 0x11 t
    let s := s.modTier t (fun x => { x with late := true })
    if (s.tier t).catchup then s else s.modTier t (fun x => { x with catchup := true, catchups := sat x.catchups 1 })
  else s

/-- Refresh commands of a slot that did not issue become owed by their banks (R197). -/
def oweAll (s : State) (c k : Nat) (banks : List Nat) : State :=
  let s := foldS (List.range 32) (fun s b =>
    let n := (banks.filter (· = b)).length
    if n = 0 then s else addOwed s c k b n) s
  s.modRfrOf c (fun r => { r with skipped := r.skipped + BitVec.ofNat 72 banks.length })

/-- Remaining commands of a slot: passes over banks 0 to 31 (R196). -/
def slotCmds (b : Band) : List Nat := (List.replicate b.cmds (List.range 32)).flatten

/-- tXS in ps (R167). -/
def tXS : Nat := 200000

/-- One rank enters self-refresh, its rows closed, or leaves it and takes commands after tXS (R167, R203). -/
def setSr (s : State) (c k : Nat) (v : Bool) : State :=
  let b : BitVec 5 := BitVec.ofNat 5 (2 ^ k)
  if v then (closeRank s c k).modRfrOf c (fun r => { r with inSr := r.inSr ||| b })
  else if inSelfRefresh s c k then
    let s := s.modChan c (fun ch => { ch with wakeAt := tput ch.wakeAt k (nowPs s + tXS) })
    s.modRfrOf c (fun r => { r with inSr := r.inSr &&& ~~~ b })
  else s

/-! ### Lull slots (R195–R198) -/

/-- o(t). -/
def lullOff (s : State) (t : Nat) : Nat := (tget 0 s.tables.lull t).toNat

/-- A refresh sheet is in force: no image can leave every offset at 0 (R195, R198). -/
def sheetInForce (s : State) : Bool := s.tables.lull ≠ []

/-- A slot of the rank is neither issued nor owed: it receives none, it rests (R203), or it is in self-refresh for a reset
of the stack, Gale, a lost supply (R197, R204) or a logic BIST (DEDUCED, log 142). -/
def noSlot (s : State) (c k : Nat) : Bool :=
  rankGone s c k || rankRests s c k ||
  (inSelfRefresh s c k && !opSwitching s c && !s.rst.chanBusy.contains c && !(s.tier (tierOf c k)).inReset)

/-- The Survey of channel c stops sweeping, or sweeps on (R388, R392). -/
def pauseSweep (s : State) (c : Nat) : State :=
  s.modTrnOf c (fun x => { x with work := x.work + (s.elapsed - x.since), since := s.elapsed })

def resumeSweep (s : State) (c : Nat) : State := s.modTrnOf c (fun x => { x with since := s.elapsed })

/-- The slot of tier t on channel c starts. -/
def slotOnChan (s : State) (t c : Nat) : State :=
  let k := rankOfTier t
  if noSlot s c k then s
  else
    let bit : BitVec 5 := BitVec.ofNat 5 (2 ^ k)
    let deaf := rankDeaf s c k
    let s := if deaf then s else closeRows s c
    let s := s.modRfrOf c (fun r => { r with
      inSlot := r.inSlot ||| bit
      skipping := if deaf then r.skipping ||| bit else r.skipping
      slotLeft := tput r.slotLeft k (slotCmds (s.tier t).slotBand) })
    if (s.trnOf c).action = .survey then
      let s := if s.pwr.hold then s else pauseSweep s c
      s.modTrnOf c (fun x => { x with action := .suspended, suspends := sat x.suspends 1 })
    else s

/-- The reservation on channel c ends: what has not issued is owed, and a suspended Survey goes on. -/
def slotEndChan (s : State) (t c : Nat) : State :=
  let k := rankOfTier t
  let left := (tfind (s.rfrOf c).slotLeft k).getD []
  let s := s.modRfrOf c (fun r => { r with
    inSlot := r.inSlot &&& ~~~ (BitVec.ofNat 5 (2 ^ k))
    skipping := r.skipping &&& ~~~ (BitVec.ofNat 5 (2 ^ k))
    slotLeft := tdel r.slotLeft k })
  let s := if left = [] || rankGone s c k then s else oweAll s c k left
  if (s.trnOf c).action = .suspended && (s.rfrOf c).inSlot = 0 then
    resumeSweep (s.modTrnOf c (fun x => { x with action := .survey })) c
  else s

/-- The reservation of tier t ends on every channel (R197, R201). -/
def slotEnd (s : State) (t : Nat) : State :=
  let s := foldS (chansOfTier t) (fun s c => slotEndChan s t c) s
  catchupExit (s.modTier t (fun x => { x with inSlot := false })) t

/-- LULL_SLOT_START (R193, R195, R196): the count stands at the tier's offset; the slot takes the band now. A reservation
that still runs, after a load of the count, ends first (DESIGN CHOICE, log 117). -/
def execLullSlotStart (t : Nat) (s : State) : Host.Outcome State Fault Refusal :=
  answer s (
    if tierPresent s.variant t && sheetInForce s && domOn s (52 + t) && !s.flt.gale &&
        s.mer.count.toNat % 125 = lullOff s t && (s.tier t).lastSlot ≠ some s.elapsed then
      let s := if (s.tier t).inSlot then slotEnd s t else s
      let s := s.modTier t (fun x => { x with slotBand := x.band, inSlot := true, lastSlot := some s.elapsed })
      foldS (chansOfTier t) (fun s c => slotOnChan s t c) s
    else s)

/-- LULL_RESERVATION_END (R197, R201). -/
def execLullReservationEnd (t : Nat) (s : State) : Host.Outcome State Fault Refusal :=
  answer s (
    let x := s.tier t
    if x.inSlot && x.lastSlot.getD 0 + x.slotBand.reserve ≤ s.elapsed then slotEnd s t else s)

/-- Real beats until tier t's next slot, this beat included. -/
def nextSlotIn (s : State) (t : Nat) : Nat := (lullOff s t + 125 - s.mer.count.toNat % 125) % 125

/-- A count jump or a change of offset charges a tier whose slots come to lie more than 125 beats apart (R198). -/
def chargeSlot (s : State) (t : Nat) : State :=
  match (s.tier t).lastSlot with
  | none => s
  | some l =>
    if s.elapsed + nextSlotIn s t ≤ l + 125 then s
    else
      let k := rankOfTier t
      foldS (chansOfTier t) (fun s c =>
        if rankGone s c k || rankRests s c k then s else oweAll s c k (slotCmds (s.tier t).band)) s

def chargeSlots (s : State) (ts : List Nat) : State :=
  if sheetInForce s then foldS (ts.filter (tierPresent s.variant)) chargeSlot s else s

/-! ### Band changes (R191–R194, R200) -/

/-- A tier's band becomes `b`: a rise counts and enters catch-up; budgets follow at the next beat edge. -/
def setBand (s : State) (t : Nat) (b : Band) : State :=
  let old := (s.tier t).band
  if b = old then s
  else
    let s := budgetDue (s.modTier t (fun x => { x with band := b }))
    if old.level < b.level then catchupEnter (s.modTier t (fun x => { x with rises := sat x.rises 1 })) t else s

/-- The published temperature of a tier: the higher of the valid readings. -/
def Tier.temp (x : Tier) : Option Int :=
  match (if x.sensAOk then x.tempA else none), (if x.sensBOk then x.tempB else none) with
  | some a, some b => some (max a b)
  | some a, none => some a
  | none, some b => some b
  | none, none => none

/-- The tier's hot flag (R194); its setting raises TIER_HOT. -/
def setHot (s : State) (t : Nat) (v : Int) : State :=
  let h := (s.tier t).hot
  if !h && 103 * 16 ≤ v then raise (s.modTier t (fun x => { x with hot := true })) 0x2B t
  else if h && v ≤ 100 * 16 then s.modTier t (fun x => { x with hot := false })
  else s

/-- Readings of a tier are published (R191, R193); `hold` while a fenced converter holds every tier at B4 (R341). -/
def publishTier (s : State) (t : Nat) (a b : Option Int) (hold : Bool) : State :=
  let s := s.modTier t (fun x => { x with
    sensAOk := a.isSome
    sensBOk := b.isSome
    tempA := a
    tempB := b })
  let s := if a.isSome && b.isSome then s else raise s 0x10 t
  match (s.tier t).temp with
  | none => setBand (s.modTier t (fun x => { x with forced := true })) t .b4
  | some v =>
    let s := s.modTier t (fun x => { x with
      forced := hold
      peak := match x.peak with | some p => some (max p v) | none => some v })
    let s := setHot s t v
    if hold then setBand s t .b4 else setBand s t ((s.tier t).band.next v)

end Sys2Proof.Machine
end

