-- ==== Sys2Proof/Machine/Walk.lean ====
section
/-! DEFINITION. What Zephyr walks, and the pace of its pass (R222, R223). -/

namespace Sys2Proof.Machine

/-- Lines of a rank. -/
def rankLines : Nat := 2 ^ 23

/-- The ranks that R222 names, ascending. -/
def walkable (s : State) (c k : Nat) : Bool :=
  rankPresent s.variant k &&
  match (s.rank c k).st with
  | .fenced | .retiredSpare | .retiredReserve | .spareUnusable => false
  | _ => true

/-- The rank is passed over for the rest of the pass: under MBIST, or its tier's domain is not ON (R223). -/
def passOverNow (s : State) (c k : Nat) : Bool := mbistOn s c k || !domOn s (52 + tierOf c k)

def walked (s : State) (c : Nat) : List Nat :=
  (List.range 5).filter (fun k => walkable s c k && !(s.eccOf c).passedOver.contains k)

/-- The channel is degraded (R223). -/
def degraded (s : State) (c : Nat) : Bool := (s.sprOf c).st = .laneDegraded || (s.eccOf c).forceDeg

/-- The period in force, in hours and beats. -/
def zHoursNow (s : State) (c : Nat) : Nat :=
  if degraded s c then (s.eccOf c).periodDeg.toNat else (s.eccOf c).period.toNat

def hourBeats : Nat := 3600000000

/-- Lines of the pass still to read. -/
def linesLeft (s : State) (c : Nat) : Nat :=
  let e := s.eccOf c
  ((walked s c).map (fun k => if k < e.zRank then 0 else if k = e.zRank then rankLines - e.zLine else rankLines)).foldl (· + ·) 0

/-- Spread the remaining lines over the remaining time, from now. -/
def respread (s : State) (c : Nat) : State :=
  let h := zHoursNow s c
  let left := (s.eccOf c).passStart + h * hourBeats - s.elapsed
  s.modEccOf c (fun e => { e with zPlan := (s.elapsed, linesLeft s c, left), zDone := 0, zHours := h })

/-- Start a pass. -/
def newPass (s : State) (c : Nat) : State :=
  let s := s.modEccOf c (fun e => { e with passedOver := [], passStart := s.elapsed, passOver := false, zLine := 0 })
  let s := s.modEccOf c (fun e => { e with passedOver := (List.range 5).filter (passOverNow s c) })
  let s := s.modEccOf c (fun e => { e with zRank := (walked s c).headD 0 })
  respread s c

/-- The k-th line after the plan was laid down is due at this elapsed beat. -/
def dueAt (p : Nat × Nat × Nat) (k : Nat) : Nat := if p.2.1 = 0 then p.1 else p.1 + k * p.2.2 / p.2.1

/-- Ranks that are to be passed over from now on join the list, and the lines that remain are spread again; before the first
pass there is nothing to pass over. -/
def notePassed (s : State) (c : Nat) : State :=
  let new := if (s.eccOf c).passOver then [] else (walked s c).filter (passOverNow s c)
  let e := s.eccOf c
  let gone := !e.passOver && (!(walked s c).contains e.zRank || new.contains e.zRank)
  if new = [] && !gone then (if zHoursNow s c ≠ e.zHours then respread s c else s)
  else
    let s := s.modEccOf c (fun e => { e with passedOver := e.passedOver ++ new })
    let s := if !gone then s else match (walked s c).find? (fun k => e.zRank ≤ k) with
      | some k => s.modEccOf c (fun e => { e with zRank := k, zLine := 0 })
      | none => s.modEccOf c (fun e => { e with zLine := rankLines, passes := e.passes + 1, passOver := true })
    respread s c

/-- The visit of an idle spare rank ends once nothing of it is queued or under way, or the rank is no idle spare any more:
the rank rests again (R203, R223). -/
def endVisit (s : State) (c : Nat) : State :=
  let ch := s.chan c
  let v := (s.eccOf c).visit
  let spent := v = 1 && !(ch.reads ++ ch.writes ++ ch.inflight.map (·.1)).any (fun e => e.loc.rank = 4)
  let taken := v ≠ 0 && ((s.rank c 4).st ≠ .spareIdle || migUses s c 4)
  if spent || taken then
    let s := s.modEccOf c (fun e => { e with visit := 0 })
    setSr s c 4 (rankRests s c 4)
  else s

end Sys2Proof.Machine
end

