-- ==== Sys2Proof/Machine/Channel.lean ====
section
/-! DEFINITION. The channel controller: legality of commands (R167, R168), arbitration (R163–R165), the row policy (R166),
neighbour refresh (R179, R180), and what each command does (R85, R216, R254, R489). Times are in ps. -/

namespace Sys2Proof.Machine

/-! ### Legality -/

/-- Activate of a closed bank (R167); the cap is judged apart. -/
def actLegal (ch : Chan) (k b now : Nat) : Bool :=
  let tm := chTiming ch
  let x := ch.bank k b
  x.openRow.isNone && x.nrf = [] && after x.lastAct tm.rc now && after x.lastPre tm.rp now && x.busyTo ≤ now &&
  ch.actTimes.all (fun a => a.2.1 ≠ k || decide (a.1 + (if a.2.2 / 4 = b / 4 then tm.rrdL else tm.rrdS) ≤ now)) &&
  (match (ch.actTimes.filter (fun a => a.2.1 = k))[3]? with | some a => decide (a.1 + tm.faw ≤ now) | none => true)

def preLegal (ch : Chan) (k b now : Nat) : Bool :=
  let tm := chTiming ch
  let x := ch.bank k b
  x.openRow.isSome && after x.lastAct tm.ras now && after x.lastRd tm.rtp now &&
  after x.lastWr (tm.cwl + tm.burst + tm.wr) now && x.busyTo ≤ now

/-- Column command to an open row: bus and bank-group spacing (R167). -/
def colLegal (ch : Chan) (wr : Bool) (k b now : Nat) : Bool :=
  let tm := chTiming ch
  let x := ch.bank k b
  let sameGroup := ch.banks.filter (fun e => e.1 / 32 = k && e.1 % 32 / 4 = b / 4)
  after x.lastAct tm.rcd now && x.busyTo ≤ now &&
  sameGroup.all (fun e => after e.2.lastCol tm.ccdL now) &&
  (wr || sameGroup.all (fun e => after e.2.lastWr (tm.cwl + tm.burst + tm.wtrL) now)) &&
  (match ch.lastColPs with
   | none => true
   | some (t, kb, w) =>
     decide (t + (if kb / 32 = k then tm.ccdS else tm.rrk) ≤ now) &&
     (if wr && !w then decide (t + tm.cl + tm.burst + tm.rtw ≤ now + tm.cwl)
      else if !wr && w then decide (t + tm.cwl + tm.burst + tm.wtrS ≤ now) else true))

/-- The rank has left self-refresh for tXS (R167). -/
def rankAwake (ch : Chan) (k now : Nat) : Bool := decide ((tfind ch.wakeAt k).getD 0 ≤ now)

/-- A refresh or neighbour refresh needs its bank precharged and idle. -/
def bankIdle (ch : Chan) (k b now : Nat) : Bool :=
  let tm := chTiming ch
  let x := ch.bank k b
  x.openRow.isNone && after x.lastPre tm.rp now && after x.lastAct tm.rc now && x.busyTo ≤ now

/-- Refresh commands to a rank keep tLREF (R196, R199). -/
def refLegal (ch : Chan) (k b now : Nat) : Bool :=
  bankIdle ch k b now && after (tfind ch.refTimes k) tLREF now

/-! ### Which entries may be served -/

def rowBusy (s : State) (c k b : Nat) : Bool := (s.eccOf c).rowsBusy.any (fun r => r.1 = k && r.2.1 = b)

/-- Earlier work on a line of the entry is still queued (R175, R489). -/
def waitsFor (ch : Chan) (wr : Bool) (e : Entry) : Bool :=
  let same := fun (x : Entry) => x.id < e.id && x.meets e
  ch.writes.any same || (wr && ch.reads.any same)

/-- Nothing but timing keeps the entry from its next command: its rank is out of self-refresh and outside a slot, or the work
is Fixed (R23, R196, R239). -/
def entryOpen (s : State) (c : Nat) (wr : Bool) (e : Entry) : Bool :=
  let k := e.loc.rank
  let t := tierOf c k
  !(s.tier t).inReset && (s.dom (52 + t)).st = .on && !inSelfRefresh s c k && !rowBusy s c k e.loc.bank &&
  ((s.rfrOf c).inSlot.getLsbD k → e.fixed) && !waitsFor (s.chan c) wr e

/-! ### Candidates (R163) -/

inductive Cmd where
  | act (wr : Bool) (e : Entry)
  | pre (wr : Bool) (e : Entry)
  | nrfFor (wr : Bool) (e : Entry)
  | col (wr : Bool) (e : Entry)
  | slot (k b : Nat)
  | owedRef (k b : Nat) (catchup : Bool)
  | nrf (k b : Nat)
  | close (k b : Nat)
  | closeAll
  deriving DecidableEq, Repr

/-- A command with its place in the order of R163: group, then age. -/
structure Cand where
  group : Nat
  age   : Nat
  cmd   : Cmd
  deriving DecidableEq, Repr

/-- The command that an entry needs next, when it is legal; `mode` is the direction of the bus. -/
def entryCand (s : State) (c now : Nat) (mode : Option Bool) (wr : Bool) (e : Entry) : List Cand :=
  let ch := s.chan c
  let k := e.loc.rank
  let b := e.loc.bank
  let x := ch.bank k b
  let g := fun (hit : Bool) => if e.fixed then 1 else if e.aged then 3 else if hit then 4 else 5
  if !entryOpen s c wr e || !rankAwake ch k now then []
  else match x.openRow with
    | some r =>
      if r = e.loc.row then
        (if (mode = none || mode = some wr) && colLegal ch wr k b now then [⟨g true, e.id, .col wr e⟩] else [])
      else if preLegal ch k b now then [⟨g false, e.id, .pre wr e⟩] else []
    | none =>
      if x.nrf ≠ [] then (if bankIdle ch k b now then [⟨g false, e.id, .nrfFor wr e⟩] else [])
      else if actLegal ch k b now && (e.kind = .corrWb || ch.acts < actCap s c || actCap s c = 0xFFF) then
        [⟨g false, e.id, .act wr e⟩]
      else []

/-- A slot's refresh of a bank, whose own row closes first where Fixed work has opened it (R196). -/
def slotCand (ch : Chan) (now k b : Nat) : List Cand :=
  if (ch.bank k b).openRow.isSome then (if preLegal ch k b now then [⟨2, b, .close k b⟩] else [])
  else if refLegal ch k b now then [⟨2, b, .slot k b⟩] else []

/-- An owed refresh of a bank: every row of the channel closes first (R166, R199; DEDUCED, log 140). `age` is its place in
the pass. -/
def owedCand (ch : Chan) (now group k b age : Nat) (catchup : Bool) : List Cand :=
  if ch.banks.any (fun e => e.2.openRow.isSome) then
    (if after (tfind ch.refTimes k) tLREF now && (ch.bank k b).busyTo ≤ now then [⟨group, age, .closeAll⟩] else [])
  else if refLegal ch k b now then [⟨group, age, .owedRef k b catchup⟩] else []

/-- Refresh commands of a rank that are due (R163 group 2) or postponed (below group 5). A pass of catch-up goes on from
the bank after the last (R200). -/
def refreshCand (s : State) (c now k : Nat) : List Cand :=
  let ch := s.chan c
  let r := s.rfrOf c
  if rankGone s c k || inSelfRefresh s c k || rankDeaf s c k || !rankAwake ch k now then []
  else if r.inSlot.getLsbD k then
    (if r.skipping.getLsbD k then []
     else match (tfind r.slotLeft k).getD [] with
       | b :: _ => if rowBusy s c k b then [] else slotCand ch now k b
       | [] => [])
  else if ch.st = .paused then []
  else
    let catchup := (s.tier (tierOf c k)).catchup
    let first := (tfind r.passNext k).getD 0
    let queued := fun (b : Nat) => (ch.rdq ++ ch.wrq).any (fun e => e.loc.rank = k && e.loc.bank = b)
    ((List.range 32).map (fun b =>
      if owed s c k b = 0 || rowBusy s c k b then []
      else if catchup then owedCand ch now 2 k b ((b + 32 - first) % 32) true
      else if queued b then [] else owedCand ch now 6 k b b false)).flatten

/-- Neighbour refreshes of idle banks (R180). -/
def idleNrf (s : State) (c now : Nat) : List Cand :=
  let ch := s.chan c
  (ch.banks.filter (fun e => e.2.nrf ≠ [] && bankIdle ch (e.1 / 32) (e.1 % 32) now && rankAwake ch (e.1 / 32) now &&
    !inSelfRefresh s c (e.1 / 32) && !rowBusy s c (e.1 / 32) (e.1 % 32) && !(s.rfrOf c).inSlot.getLsbD (e.1 / 32) &&
    !(ch.rdq ++ ch.wrq).any (fun q => bankKey q.loc.rank q.loc.bank = e.1))).map
    (fun e => ⟨6, e.1, .nrf (e.1 / 32) (e.1 % 32)⟩)

/-- Queued requests are served: the channel is open, or drains for a change of point (R182). -/
def servesQueue (s : State) (c : Nat) : Bool := (s.chan c).st = .opened

/-- Refresh runs on: also through supply hold, and slots through a suspended Survey (R197). -/
def servesRefresh (s : State) (c : Nat) : Bool :=
  let st := (s.chan c).st
  (st = .opened || st = .hold || st = .paused) && !stackDown s

def cands (s : State) (c now : Nat) (mode : Option Bool) : List Cand :=
  let ch := s.chan c
  let reqs := if servesQueue s c && !stackDown s then
      (ch.rdq.map (entryCand s c now mode false)).flatten ++ (ch.wrq.map (entryCand s c now mode true)).flatten ++
        idleNrf s c now
    else []
  let refs := if servesRefresh s c then ((ranksOf s.variant).map (refreshCand s c now)).flatten else []
  refs ++ reqs

/-- The highest command of R163. -/
def best (cs : List Cand) : Option Cand :=
  cs.foldl (fun b x =>
    match b with
    | none => some x
    | some y => if x.group < y.group || (x.group = y.group && x.age < y.age) then some x else some y) none

/-! ### Bus direction (R165) -/

/-- The direction that the bus takes now, and the direction it returns to after Fixed work (log 21). -/
def busMode (s : State) (c now : Nat) : Bool × Option Bool :=
  let ch := s.chan c
  let oldest := fun (wr : Bool) (q : List Entry) =>
    (q.filter (fun e => e.fixed && entryOpen s c wr e)).foldl (fun (b : Option Nat) e =>
      match b with | none => some e.id | some i => some (min i e.id)) none
  let base := ch.turnedFrom.getD ch.wmode
  let legalWrite := ch.wrq.any (fun e => entryCand s c now none true e ≠ [])
  let reads := ch.rdq.any (entryOpen s c false)
  let plain :=
    if base then !(ch.wrq = [] || (reads && (ch.wrq.length ≤ 16 || !legalWrite)))
    else decide (32 ≤ ch.wrq.length) || (ch.wrq ≠ [] && !reads)
  let turn := fun (w : Bool) => (w, if w = ch.wmode then ch.turnedFrom else some (ch.turnedFrom.getD ch.wmode))
  match oldest false ch.rdq, oldest true ch.wrq with
  | none, none => (plain, none)
  | some _, none => turn false
  | none, some _ => turn true
  | some i, some j => turn (decide (j < i))

def setMode (s : State) (c : Nat) (m : Bool × Option Bool) : State :=
  let ch := s.chan c
  let s := s.setChan c { ch with wmode := m.1, turnedFrom := m.2 }
  if m.1 = ch.wmode then s else perf (s.modChan c (fun ch => { ch with turns := ch.turns + 1 })) 0x207 c 1

/-! ### What a command does -/

/-- The wait from queue entry to the first command (R187). -/
def noteWait (s : State) (c now : Nat) (e : Entry) : State :=
  if e.begun then s
  else
    let w := (now - e.since) / 1000
    let up := fun (old : Word) => if old.toNat < w then BitVec.ofNat 24 (min w 0xFFFFFF) else old
    s.modChan c (fun ch => if e.fixed then { ch with maxWaitFx := up ch.maxWaitFx } else { ch with maxWait := up ch.maxWait })

/-- Replace an entry of a queue, by number. -/
def putEntry (s : State) (c : Nat) (e : Entry) : State :=
  s.modChan c (Chan.mapEntries (fun x => if x.id = e.id then e else x))

/-- An entry leaves its queue, and one that waits takes its place. -/
def dropEntry (s : State) (c : Nat) (id : Nat) : State :=
  admitWrites (admitReads (s.modChan c (Chan.keepEntries (fun x => x.id ≠ id))) c) c

/-- The draw that an activate of a row makes (R179, R181). -/
def drawNrf (s : State) (c k b row : Nat) : State :=
  let f := takeFree s
  let d := (Config.draw f.1).toNat
  let n := s.tables.nrK.toNat
  let new := (if d % 2 ^ n = 0 then [(row, 1)] else []) ++ (if d / 2 ^ (31 - n) = 0 then [(row, 2)] else [])
  f.2.modChan c (fun ch =>
    let x := ch.bank k b
    { ch with
      draws := if ch.draws + 1 = 2 ^ 20 then 0 else ch.draws + 1
      banks := tset {} ch.banks (bankKey k b) { x with nrf := x.nrf ++ new } })

def doAct (s : State) (c now : Nat) (e : Entry) : State :=
  let k := e.loc.rank
  let b := e.loc.bank
  let s := putEntry (noteWait s c now e) c { e with begun := true }
  let ch := s.chan c
  let x := ch.bank k b
  let s := s.setChan c { ch with
    banks := tset {} ch.banks (bankKey k b) { x with openRow := some e.loc.row, lastAct := some now }
    acts := if e.kind = .corrWb then ch.acts else ch.acts + 1
    actTimes := (now, k, b) :: ch.actTimes.take 19
    actsCnt := ch.actsCnt + 1 }
  drawNrf (perf s 0x202 c 1) c k b e.loc.row

def doPre (s : State) (c k b now : Nat) (conflict : Bool) : State :=
  let x := (s.chan c).bank k b
  setBank s c k b { x with openRow := none, lastPre := some now, hits := if conflict then x.hits - 1 else x.hits }

def doNrf (s : State) (c k b now : Nat) : State :=
  let x := (s.chan c).bank k b
  let s := setBank s c k b { x with nrf := x.nrf.drop 1, busyTo := now + (chTiming (s.chan c)).nrf }
  s.modChan c (fun ch => { ch with nrfCnt := ch.nrfCnt + 1 })

/-- The row stays for no later command: with page_idle 0 the last queued column command closes it (R166). -/
def lastForRow (ch : Chan) (e : Entry) (col : Nat) : Bool :=
  !(ch.rdq ++ ch.wrq).any (fun x => x.loc.rank = e.loc.rank && x.loc.bank = e.loc.bank && x.loc.row = e.loc.row &&
    (x.id ≠ e.id || x.cols.any (· ≠ col)))

/-- A column command's marks on its bank and the bus. -/
def markCol (s : State) (c now : Nat) (wr : Bool) (e : Entry) (col : Nat) : State :=
  let ch := s.chan c
  let k := e.loc.rank
  let b := e.loc.bank
  let x := ch.bank k b
  let hit := match x.lastAct, x.lastCol with
    | some a, some t => decide (a < t)
    | none, some _ => true
    | _, none => false
  let x := { x with
    lastCol := some now
    lastRd := if wr then x.lastRd else some now
    lastWr := if wr then some now else x.lastWr
    hits := if hit then min 15 (x.hits + 1) else x.hits }
  let x := if ch.pageIdle = 0 && lastForRow ch e col then x.close (chTiming ch) now else x
  let s := s.setChan c { ch with
    banks := tset {} ch.banks (bankKey k b) x
    lastColPs := some (now, bankKey k b, wr)
    rowHits := if hit then ch.rowHits + 1 else ch.rowHits }
  if hit then perf s 0x203 c 1 else s

/-- The first column of an entry is done with; the entry leaves its queue with the last. -/
def advanceEntry (s : State) (c : Nat) (e : Entry) : State :=
  match e.cols with
  | [_] | [] => dropEntry s c e.id
  | _ :: r => putEntry s c { e with cols := r, begun := true }

def doRead (s : State) (c now : Nat) (e : Entry) (col : Nat) : State :=
  let l := { e.loc with col := col }
  let s := markCol (noteWait s c now e) c now false e col
  let it := { e with cols := [col], got := cellRead s l, fromEntry := (remapAt s l).isSome }
  let s := advanceEntry s c e
  perf (s.modChan c (fun ch => { ch with inflight := ch.inflight ++ [(it, col)], rdBursts := ch.rdBursts + 1 })) 0x200 c 1

/-- A write column issues, or drops as overtaken (R216); the verify read of a correction follows (R217), save in a rank
that migrates (R256). -/
def doWrite (s : State) (c now : Nat) (e : Entry) (col : Nat) : State :=
  if isRewrite e && dropped s c e col then
    (dropEntry s c e.id).modEccOf c (fun x => { x with wbDropped := x.wbDropped + 1 })
  else
    let l := { e.loc with col := col }
    let s := markCol (noteWait s c now e) c now true e col
    let s := applyCol (advanceEntry s c e) c e col
    if e.kind = .corrWb && (s.rank c l.rank).st ≠ .migrating then
      pushRead s { mkEntry s .verify true l [col] e.dpaLine with finder := e.finder }
    else s

/-- A refresh of a bank's next 32 rows (R189). -/
def doRef (s : State) (c k b now : Nat) : State :=
  let x := (s.chan c).bank k b
  let s := (setBank s c k b { x with busyTo := now + tRFC }).modChan c (fun ch => { ch with refTimes := tput ch.refTimes k now })
  s.modRfrOf c (fun r => { r with rowPtr := tset 0 r.rowPtr (owedKey k b) ((tget 0 r.rowPtr (owedKey k b) + 1) % 512) })

/-- Perform the chosen command. -/
def perform (s : State) (c now : Nat) : Cmd → State
  | .act _ e => doAct s c now e
  | .pre _ e => doPre (putEntry (noteWait s c now e) c { e with begun := true }) c e.loc.rank e.loc.bank now true
  | .nrfFor _ e => doNrf s c e.loc.rank e.loc.bank now
  | .col wr e =>
    match e.cols with
    | col :: _ => if wr then doWrite s c now e col else doRead s c now e col
    | [] => dropEntry s c e.id
  | .slot k b =>
    let s := doRef s c k b now
    perf (s.modRfrOf c (fun r => { r with
      slotLeft := tput r.slotLeft k (((tfind r.slotLeft k).getD []).drop 1)
      issued := r.issued + 1 })) 0x280 c 1
  | .owedRef k b cu =>
    let s := setOwed (doRef s c k b now) c k b (owed s c k b - 1)
    if cu then
      catchupExit (perf (s.modRfrOf c (fun r => { r with
        catchup := r.catchup + 1
        passNext := tset 0 r.passNext k ((b + 1) % 32) })) 0x282 c 1) (tierOf c k)
    else perf (s.modRfrOf c (fun r => { r with repaid := r.repaid + 1 })) 0x281 c 1
  | .nrf k b => doNrf s c k b now
  | .close k b => doPre s c k b now false
  | .closeAll => closeRows s c

/-- Requests of the Other class that have waited 2 µs are promoted, each counted once (R164). -/
def promote (s : State) (c now : Nat) (sel : Entry → Bool) : State :=
  let due := fun (e : Entry) => !e.fixed && !e.aged && sel e && decide (e.since + 2000000 ≤ now)
  let n := (((s.chan c).rdq ++ (s.chan c).wrq).filter due).length
  let g := fun (q : List Entry) => q.map (fun e => if due e then { e with aged := true } else e)
  if n = 0 then s
  else s.modChan c (fun ch => { ch with rdq := g ch.rdq, wrq := g ch.wrq, aged := ch.aged + BitVec.ofNat 72 n })

/-- A command slot of channel c: the bus takes its direction, and the highest legal command issues (R163). -/
def issue (s : State) (c now : Nat) : State :=
  let s := promote s c now (fun _ => true)
  let s := if servesQueue s c then setMode s c (busMode s c now) else s
  match best (cands s c now (some (s.chan c).wmode)) with
  | some x => perform s c now x.cmd
  | none => s

/-- COMMAND_ISSUE (R163); write-backs that waited for room enter the queue (R170), and a visit may be over (R223). -/
def execCommandIssue (c at_ : Nat) (s : State) : Host.Outcome State Fault Refusal :=
  answer s (
    let s := atPs s at_
    if chanOn s c && inBeat s at_ then endVisit (refillWb (issue s c (nowPs s)) c) c else s)

/-- AGE_CAP_REACHED (R164). -/
def execAgeCapReached (c entry at_ : Nat) (s : State) : Host.Outcome State Fault Refusal :=
  answer s (
    let s := atPs s at_
    if inBeat s at_ then promote s c (nowPs s) (fun e => e.id = entry) else s)

/-- The time from which a row has had no column command (R166). -/
def Bank.idleFrom (x : Bank) : Nat := max (x.lastAct.getD 0) (x.lastCol.getD 0)

/-- PAGE_IDLE_CLOSE (R166). -/
def execPageIdleClose (c rank bank at_ : Nat) (s : State) : Host.Outcome State Fault Refusal :=
  answer s (
    let s := atPs s at_
    let ch := s.chan c
    let x := ch.bank rank bank
    let low := ch.hitThresh = 0 || x.hits < ch.hitThresh.toNat
    if chanOn s c && inBeat s at_ && ch.pageIdle ≠ 0 && low && x.idleFrom + ch.pageIdle.toNat * 10000 ≤ nowPs s &&
        servesRefresh s c && preLegal ch rank bank (nowPs s) then
      doPre s c rank bank (nowPs s) false
    else s)

end Sys2Proof.Machine
end

