-- ==== Sys2Proof/Machine/Points.lean ====
section
/-! DEFINITION. The delay sets of a channel and the trims (R24, R384, R387, R391, R425, R426), and the change of operating
point (R182, R183). -/

namespace Sys2Proof.Machine

/-! ### Ranks and self-refresh (R203, R250) -/

/-- Ranks that hold data and are reached (R385, R387): not fenced, retired or unusable. -/
def rankLive (s : State) (c k : Nat) : Bool :=
  rankPresent s.variant k &&
  match (s.rank c k).st with
  | .fenced | .retiredSpare | .retiredReserve | .spareUnusable => false
  | _ => true

/-- Every rank of the channel enters self-refresh. -/
def sleepRanks (s : State) (c : Nat) : State :=
  let m := (ranksOf s.variant).foldl (fun (a : BitVec 5) k => a ||| BitVec.ofNat 5 (2 ^ k)) 0
  s.modRfrOf c (fun r => { r with inSr := m })

/-- The ranks have left self-refresh, tXS past, save those that rest in it. -/
def wakeRanks (s : State) (c : Nat) : State :=
  let m := ((ranksOf s.variant).filter (rankRests s c)).foldl (fun (a : BitVec 5) k => a ||| BitVec.ofNat 5 (2 ^ k)) 0
  s.modRfrOf c (fun r => { r with inSr := m })

/-! ### Trims (R24, R425, R426) -/

/-- Limits of a field's offset, in its own unit: taps, 0.5 mV and so on. -/
def trimLimit (cls n : Nat) : Int :=
  match cls with
  | 0 => if n = 0 then 80 else if n = 1 then 60 else 20
  | 1 => 96
  | 2 => 81
  | 3 => 10
  | _ => 40

/-- Fields of a class that have limits: class 4's are the bases alone. -/
def trimCount (cls : Nat) : Nat :=
  match cls with
  | 0 => 3 | 1 => 64 | 2 => 24 | 3 => 64 | _ => 36

/-- A field as the bank gives it; every field of a blank bank is nominal (R425). -/
def trimRaw (ws : List Word) (cls n : Nat) : Int :=
  if ws.all (· = 0) then 0 else Config.trimField ws cls n

def trimBad (ws : List Word) (cls n : Nat) : Bool :=
  decide (trimLimit cls n < trimRaw ws cls n) || decide (trimRaw ws cls n < - trimLimit cls n)

/-- A field as applied: outside its limits the nominal value stands (R426). -/
def trimVal (ws : List Word) (cls n : Nat) : Int := if trimBad ws cls n then 0 else trimRaw ws cls n

/-- Skew code of a column of a channel. -/
def skewCode (ws : List Word) (c col : Nat) : Int := (trimRaw ws 4 (36 + 95 * c + col)) % 4

/-- The column that stands in a lane of R383: lanes 0–83 have their own, a clock pair two; spares follow (log 9). -/
def columnOf (s : State) (c lane : Nat) : Nat :=
  let t := s.tsvOf c
  if 86 ≤ lane then lane + 2 else
  if lane < 72 then (if tfind t.steered (lane / 18) = some (lane % 18) then 88 + lane / 18 else lane)
  else if lane < 84 then (if t.caLane = some (lane - 72) then 92 else lane)
  else if t.clkPair = some (lane - 84) then 93
  else 84 + 2 * (lane - 84)

/-- Factory trim of a lane in taps at a point and direction: 0 data read, 1 data write, 2 control write. -/
def trimTaps (s : State) (c lane op dir : Nat) : Nat :=
  let b := trimVal s.fus.trims 4 (9 * (c / 8) + 3 * op + dir)
  let v := 64 + b + skewCode s.fus.trims c (columnOf s c lane) * (if op = 0 then 2 else 1)
  min v.toNat 127

/-- A lane of data, spares included. -/
def dataLane (lane : Nat) : Bool := lane < 72 || (86 ≤ lane && lane < 90)

/-- A lane's trims: the control group has a write delay only. -/
def trimLane (s : State) (c op lane : Nat) : LaneSet :=
  if dataLane lane then
    { rdDelay := trimTaps s c lane op 0, rdWidth := 0, wrDelay := trimTaps s c lane op 1, wrWidth := 0 }
  else { rdDelay := 0, rdWidth := 0, wrDelay := trimTaps s c lane op 2, wrWidth := 0 }

/-- The delay set of the trims, spares included (R24, R384): 60 °C. -/
def trimSet (s : State) (c op : Nat) : DelaySet :=
  { source := 1, trained := 960, lanes := (List.range 92).map (fun l => (l, trimLane s c op l)) }

/-! ### Channel temperature and drift (R387) -/

/-- T_ch: the highest tier temperature over the tiers of the channel's live ranks. -/
def chanTemp (s : State) (c : Nat) : Option Int :=
  (((ranksOf s.variant).filter (rankLive s c)).filterMap (fun k => (s.tier (tierOf c k)).temp)).foldl
    (fun (a : Option Int) v => match a with | some x => some (max x v) | none => some v) none

/-- Drift of the set in force. -/
def driftOf (s : State) (c : Nat) : Int :=
  match (s.trnOf c).tCh, tfind (s.trnOf c).sets (s.chan c).current.toNat with
  | some t, some d => t - d.trained
  | _, _ => 0

def iabs (x : Int) : Int := if x < 0 then -x else x

def bit3 (op : Nat) : BitVec 3 := BitVec.ofNat 3 (2 ^ op)

/-- A stored set is valid for a point that R182 reaches: its bit is set and it lies within 30 °C (R387). -/
def setUsable (s : State) (c op : Nat) : Bool :=
  let t := s.trnOf c
  t.valid.getLsbD op &&
  match tfind t.sets op, t.tCh with
  | some d, some x => decide (iabs (x - d.trained) ≤ 480)
  | some _, none => true
  | none, _ => false

/-- Step 4 of R182: the delays of a point are loaded; without a usable set the trims are, and a Survey must follow. -/
def loadSet (s : State) (c op : Nat) : State :=
  if setUsable s c op then s.modTrnOf c (fun t => { t with noSet := false })
  else
    let d := trimSet s c op
    s.modTrnOf c (fun t => { t with
      noSet := true
      valid := t.valid &&& ~~~ (bit3 op)
      sets := tput t.sets op d })

/-! ### Changing the point (R182, R183) -/

/-- A test of kinds 0–2 fixes the channel at OP1 (R396). -/
def bstHoldsPoint (s : State) (c : Nat) : Bool := bstBusy s c && (s.bstOf c).kind.toNat < 3

/-- The sequence cannot start or go on now (R183, R392). -/
def pointHeld (s : State) (c : Nat) : Bool :=
  s.pwr.hold || s.flt.fatal || trnBusy s c || laneBusy s c || surveyFirst s c || s.rst.chanBusy.contains c ||
  bstPauses s c || (s.chan c).st = .closed

/-- Begin the sequence to a point; CHN_OP.target shows the point of whoever requested it (DEDUCED, log 20). -/
def beginSeq (s : State) (c : Nat) (tgt : BitVec 2) (src : BitVec 3) : State :=
  s.modChan c (fun ch => { ch with seq := .drain, target := tgt, goingTo := tgt, source := src, latched := none })

/-- Start what is latched once nothing holds it; a request for the current point ends there. -/
def settlePoint (s : State) (c : Nat) : State :=
  let ch := s.chan c
  match ch.latched with
  | none => if ch.seq = .wait then s.modChan c (fun ch => { ch with seq := .idle }) else s
  | some (t, src) =>
    if chanFenced s c then s.modChan c (fun ch => { ch with latched := none, seq := .idle })
    else if ch.seq ≠ .idle && ch.seq ≠ .wait then s
    else if pointHeld s c then s.modChan c (fun ch => { ch with seq := .wait })
    else if t = ch.current then s.modChan c (fun ch => { ch with latched := none, seq := .idle })
    else beginSeq s c t src

/-- A point is requested: it starts now, or is latched (R183). -/
def requestPoint (s : State) (c : Nat) (tgt : BitVec 2) (src : BitVec 3) : State :=
  if tgt = (s.chan c).current && (s.chan c).seq = .idle && (s.chan c).latched = none then s
  else settlePoint (s.modChan c (fun ch => { ch with latched := some (tgt, src) })) c

/-- A new target is set: a test that holds the channel at OP1 returns to it afterwards (R396). -/
def applyTarget (s : State) (c : Nat) (tgt : BitVec 2) (src : BitVec 3) : State :=
  let s := s.modChan c (fun ch => { ch with target := tgt })
  if bstHoldsPoint s c then s.modBstOf c (fun b => { b with backTo := tgt }) else requestPoint s c tgt src

/-- A write of CHN_OP (R183, R185). -/
def opTargetWrite (c : Nat) (data : Word) (s : State) : Status × State :=
  let t := data.extractLsb' 22 2
  if t = 3 || t < (s.chan c).opMax then (.refused, s) else (.ok, applyTarget s c t 1)

def execOpTargetWrite (via : Via) (c : Nat) (data : Word) (s : State) : Host.Outcome State Fault Refusal :=
  answer s (if c < 32 then mgmtWrite s via (.chn c) 1 data (opTargetWrite c data) else s)

/-- Steps that wait while a supply hold or Fatal lasts (R373). -/
def seqRuns (s : State) (c : Nat) : Bool := chanOn s c && !s.pwr.hold && !s.flt.fatal && !chanFenced s c

/-- Nothing of the channel is queued or under way; a channel in rescue keeps its queued requests (R258). -/
def drained (s : State) (c : Nat) : Bool :=
  let ch := s.chan c
  ch.inflight = [] && ((s.sprOf c).st = .rescue || (ch.reads = [] && ch.writes = []))

/-- OP_DRAIN_COMPLETE: rows close and every rank enters self-refresh (R182 steps 1–2; R400 for logic BIST). -/
def execOpDrainComplete (c : Nat) (s : State) : Host.Outcome State Fault Refusal :=
  answer s (
    if !seqRuns s c || !drained s c || trnBusy s c || laneBusy s c then s
    else if (s.chan c).seq = .drain then
      let s := sleepRanks (closeRows s c) c
      settleChan (s.modChan c (fun ch => { ch with seq := .relock })) c
    else if bstDrains s c then
      let s := sleepRanks (closeRows s c) c
      settleChan (s.modBstOf c (fun b => { b with st := .run })) c
    else s)

/-- PLL_LOCK: the delays of the new point are loaded (R182 steps 3–4). -/
def execPllLock (c : Nat) (s : State) : Host.Outcome State Fault Refusal :=
  answer s (
    if seqRuns s c && (s.chan c).seq = .relock then
      let s := loadSet s c (s.chan c).goingTo.toNat
      s.modChan c (fun ch => { ch with seq := .exit })
    else s)

/-- PLL_LOCK_TIMEOUT: CHN_OP_FAIL (R335). -/
def execPllLockTimeout (c : Nat) (s : State) : Host.Outcome State Fault Refusal :=
  answer s (if seqRuns s c && (s.chan c).seq = .relock then raise s 0x0B c else s)

/-- SELF_REFRESH_EXIT_DONE: tXS has elapsed and the pattern check starts (R182 steps 5–6). -/
def execSelfRefreshExitDone (c : Nat) (s : State) : Host.Outcome State Fault Refusal :=
  answer s (
    if seqRuns s c && (s.chan c).seq = .exit then
      startPattern ((wakeRanks s c).modChan c (fun ch => { ch with seq := .check })) c
    else s)

/-- The channel opens (R182 step 7; boot; the end of a check). -/
def openChan (s : State) (c : Nat) : State :=
  let ch := s.chan c
  let s := if ch.seq = .check then s.setChan c { ch with current := ch.goingTo, seq := .idle } else s
  let s := if ch.st = .closed then (wakeRanks s c).modChan c (fun ch => { ch with st := .paused }) else s
  let b := s.bstOf c
  let s :=
    if b.st = .setup && b.kind.toNat < 3 then
      if (s.chan c).current = 1 then s.modBstOf c (fun b => { b with st := .run })
      else s.modChan c (fun ch => { ch with latched := some (1, 3) })
    else s
  budgetDue (settleChan (settlePoint s c) c)

/-- A Survey of the channel is wanted; a cause that keeps the channel closed goes before a request. -/
def wantSurvey (s : State) (c : Nat) (why : BitVec 3) : State :=
  s.modTrnOf c (fun t => { t with wanted := match t.wanted with
    | some w => if w = 1 || w = 4 || w = 5 then some (if why = 5 then 5 else w) else some why
    | none => some why })

/-- The pattern check of a channel has ended (R385, R386, R391, R258). -/
def checkEnded (s : State) (c : Nat) (failing : BitVec 19) : State :=
  let pass := failing = 0
  let s := s.modTrnOf c (fun t => { t with
    action := .idle
    checkFails := if pass then t.checkFails else sat t.checkFails 1 })
  let s := if pass then s else logJournal s (.pattern c failing)
  let why : Option (BitVec 3) :=
    if (s.sprOf c).st = .rescue then (if (s.chan c).seq = .check then some 5 else none)
    else if (s.trnOf c).noSet then some 4
    else if pass then none
    else some 1
  match why with
  | some w => settleChan (wantSurvey s c w) c
  | none =>
    if (s.sprOf c).st = .rescue then
      -- a rescue that a warm reset met goes on once the channel has left self-refresh
      let s := if (s.chan c).st = .closed then (wakeRanks s c).modChan c (fun ch => { ch with st := .paused }) else s
      settleChan (settlePoint s c) c
    else
      let op := (s.chan c).current.toNat
      let boot := (s.chan c).st = .closed
      let s := if boot && (tfind (s.trnOf c).sets op).isSome then
          s.modTrnOf c (fun t => { t with valid := t.valid ||| bit3 op }) else s
      openChan s c

/-- PATTERN_CHECK_DONE: bits 0–17 of `failing` name byte lanes, bit 18 the control group. -/
def execPatternCheckDone (c : Nat) (failing : BitVec 19) (s : State) : Host.Outcome State Fault Refusal :=
  answer s (if chanOn s c && (s.trnOf c).action = .check && !chanFenced s c then checkEnded s c failing else s)

/-! ### The first opening (R361, R391, R450) -/

/-- Every tier that holds a live rank of the channel is ON, save that of an idle spare, which may be parked (R359). -/
def chanTiersOn (s : State) (c : Nat) : Bool :=
  (ranksOf s.variant).all (fun k => !rankLive s c k || (s.rank c k).st = .spareIdle || domOn s (52 + tierOf c k))

/-- A cold start is under way: a Logbook set may take the place of the trims (R391). -/
def coldBoot (s : State) : Bool := !s.rst.warm && s.rst.phase ≠ .ready

/-- The channel's domain and tiers are ON: it loads its delays and its pattern check starts. -/
def bootCheck (s : State) (c : Nat) : State :=
  let ch := s.chan c
  if ch.st = .closed && s.fus.loaded && domOn s (9 + c) && chanTiersOn s c && !trnBusy s c && !surveyFirst s c &&
      !chanFenced s c then
    let op := ch.current.toNat
    let t := s.trnOf c
    let fresh := !t.valid.getLsbD op
    let s :=
      if !fresh then s
      else match (if t.restore && coldBoot s then tfind s.log.sets (3 * c + op) else none) with
        | some d => s.modTrnOf c (fun t => { t with sets := tput t.sets op { d with source := 3 } })
        | none => let d := trimSet s c op
                  s.modTrnOf c (fun t => { t with sets := tput t.sets op d })
    startPattern (s.modTrnOf c (fun t => { t with noSet := false })) c
  else s

end Sys2Proof.Machine
end

