-- ==== Sys2Proof/Machine/Sparing.lean ====
section
/-! DEFINITION. Retirement, fences and channel failure: what a trigger, a fence, a lost channel and a failed target do
(R80–R83, R248–R251, R257–R260, R343). -/

namespace Sys2Proof.Machine

/-! ### Tests that a fence ends (R401) -/

/-- A test ends ABORTED; an MBIST is still followed by its fill. -/
def abortBist (s : State) (c : Nat) : State :=
  let b := s.bstOf c
  if b.st = .idle || b.st = .done || b.st = .refill || (b.kind = 3 && b.unit ≠ 0) then s
  else
    s.modBstOf c (fun x => { x with
      result := 4
      st := if b.kind = 0 && b.st ≠ .wait then .refill else .done })

/-! ### Levels of a rank's instances (R339) -/

/-- A rank that is retired or fenced returns its instances to base. -/
def resetRankInsts (s : State) (c k : Nat) : State :=
  foldS [0x08, 0x0D, 0x14, 0x18, 0x19, 0x1A] (fun s n => resetInst s n (rankKey c k)) s

/-! ### HOLED records (R83, R151) -/

def holedCount (s : State) (p : Prov) : Nat := ((granules p).filter (holed s)).length

/-- Post HOLED to the flows of each province that holds more holes in `s` than in `old`. -/
def postHoled (old s : State) : State :=
  (s.tables.provs.filter (fun e => e.2.valid)).foldl (fun s e =>
    let n := holedCount s e.2
    if n = holedCount old e.2 then s
    else
      foldS (flowsOfProv s e.1) (fun s f =>
        postFlow s f 5 ((BitVec.ofNat 10 e.1 ++ 0#19 ++ BitVec.ofNat 11 n : BitVec (10 + 19 + 11)))) s) s

/-- Granules that ranks have taken (R80). -/
def takenGrans (s : State) : List Nat := (s.ranks.map (fun e => e.2.grans)).flatten

/-- The migration under way ends: its staging, its queued commands and its bursts under way are dropped (R257). -/
def stopMig (s : State) : State :=
  let other := fun (e : Entry) => e.kind ≠ .migRead && e.kind ≠ .migWrite
  let s := foldS (List.range 32) (fun s c => s.modChan c (fun ch =>
    { ch.keepEntries other with inflight := ch.inflight.filter (fun x => other x.1) })) s
  { s with mig := { s.mig with st := .idle, pointer := 0, readPos := 0, writePos := 0, staged := [] } }

/-- Rank 4 rests in self-refresh or leaves it, as its state now calls for (R203). -/
def settleSpareSr (s : State) (c : Nat) : State := if hasSpare s.variant then setSr s c 4 (rankRests s c 4) else s

/-- Rank k of channel c becomes FENCED for a reason; a migration from it ends. -/
def fenceRank0 (s : State) (c k : Nat) (why : BitVec 3) : State :=
  let r := s.rank c k
  if r.st = .fenced then s
  else
    let t := setRank s c k { r with st := .fenced, why := why, oldPtr := 0, fillOnly := false }
    let mine := s.mig.st ≠ .idle && s.mig.ch = c && s.mig.rank = k
    let t := { t with mig := { t.mig with
      fences := sat t.mig.fences 1
      order := t.mig.order.filter (· ≠ rankKey c k) } }
    let t := settleSpareSr (if mine then stopMig t else t) c
    let t := resetRankInsts (clearOwed t c k) c k
    budgetDue (rerouteAll (postHoled s t))

/-- The migration's target fails (R257): its source is fenced with all its granules; a failed rank 4 is never used again. -/
def targetFail (s : State) : State :=
  let m := s.mig
  if m.st = .idle then s
  else
    let s := raise s 0x0D (rankKey m.ch m.rank)
    let s := fenceRank0 s m.ch m.rank 2
    if m.toRes then s
    else
      let r4 := s.rank m.ch 4
      if r4.st = .spareIdle then settleSpareSr (setRank s m.ch 4 { r4 with st := .spareUnusable }) m.ch else s

/-- A rank is fenced; a migration whose target lies on it fails. -/
def fenceRank (s : State) (c k : Nat) (why : BitVec 3) : State :=
  let used := migUses s c k
  let s := fenceRank0 s c k why
  if used then targetFail s else s

/-! ### Retirement triggers (R248, R251) -/

/-- The rank is PENDING with a cause. -/
def makePending (s : State) (c k : Nat) (cause : BitVec 3) : State :=
  let s := setRank s c k { s.rank c k with st := .pending, cause := cause }
  { s with mig := { s.mig with order := s.mig.order ++ [rankKey c k] } }

/-- Domains whose switch is closing. -/
def wakingNow (s : State) : List Nat :=
  (s.doms.filter (fun e => !e.2.queued && (e.2.st = .waking || (e.2.st = .cycling && e.2.cycWaking)))).map (·.1)

/-- R362 lets domain d start to wake: fewer than four do, and no second tier array. -/
def wakeRoom (s : State) (d : Nat) : Bool :=
  let w := wakingNow s
  w.length < 4 && !(52 ≤ d && w.any (fun x => decide (52 ≤ x)))

/-- Domain d starts to wake, or waits in the queue of R362. -/
def startWake (s : State) (d : Nat) : State :=
  let q := !wakeRoom s d || s.doms.any (fun e => e.2.queued && wakeRoom s e.1 && e.1 < d)
  s.modDom d (fun x => { x with
    enable := true
    st := .waking
    latched := true
    queued := q
    waiting := false
    cycWaking := false
    transitions := sat x.transitions 1 })

/-- The power controller wakes PD50 by itself for a retirement (R361). -/
def wakeStaging (s : State) : State :=
  let d := s.dom 50
  if d.st = .off then startWake s 50
  else if d.st = .parking then s.setDom 50 { d with enable := true, latched := true, st := .cycling, cycWaking := false }
  else s

/-- A retirement trigger for a rank; a rank that is not in service and not a holding spare takes no further effect, and
an idle spare becomes unusable. -/
def retireRank (s : State) (c k : Nat) (cause : BitVec 3) : State :=
  if !rankPresent s.variant k then s
  else
    let r := s.rank c k
    match r.st with
    | .inService | .spareHolding => wakeStaging (makePending s c k cause)
    | .spareIdle =>
      if migUses s c 4 then targetFail s
      else settleSpareSr (setRank s c 4 { r with st := .spareUnusable, cause := cause }) c
    | _ => s

/-! ### Tier parks (R343, R359) -/

/-- No rank on the tier holds data. -/
def tierEmpty (s : State) (t : Nat) : Bool :=
  (chansOfTier t).all (fun c =>
    !(t < 4 && holdsOld s c) &&
    match (s.rank c (rankOfTier t)).st with
    | .inService | .pending | .migrating | .spareHolding => false
    | _ => true)

/-- A domain starts to park. -/
def startPark (s : State) (d : Nat) (held : Bool) : State :=
  s.modDom d (fun x => { x with
    st := .parking
    enable := false
    latched := false
    queued := false
    heldOff := x.heldOff || held
    transitions := sat x.transitions 1 })

/-- Tier t's domain leaves ON: its owed counts clear (R197), Zephyr passes over its ranks (R223), and a running migration
whose target lies on it fails (R257). -/
def tierLeavesOn (s : State) (t : Nat) : State :=
  let k := rankOfTier t
  let s := foldS (chansOfTier t) (fun s c => notePassed (clearOwed s c k) c) s
  if (chansOfTier t).any (fun c => migUses s c k) then targetFail s else s

/-- A fenced tier whose last rank has left parks, and its sources are masked for the settle time (R341, R343). -/
def tierParkCheck (s : State) (t : Nat) : State :=
  if (s.tier t).fencing && tierEmpty s t && (s.dom (52 + t)).st = .on then
    let s := s.modTier t (fun x => { x with fencing := false })
    let m : Mask := { what := .tierPark t, cause := 0x11, inst := t, until_ := s.elapsed + s.flt.settle.toNat, units := [], flow := none }
    let s := { s with flt := { s.flt with masks := s.flt.masks ++ [m] } }
    rerouteAll (tierLeavesOn (startPark s (52 + t) true) t)
  else s

def tierParkChecks (s : State) : State := foldS (List.range 20) tierParkCheck s

/-- Fence of tier t (R343). -/
def fenceTier (s : State) (t : Nat) : State :=
  let k := rankOfTier t
  let d := (s.dom (52 + t)).st
  if (s.tier t).fencing || d = .held || d = .off || d = .parking then s
  else
    let s := s.modTier t (fun x => { x with fencing := true })
    tierParkCheck (foldS (chansOfTier t) (fun s c => retireRank s c k 7) s) t

/-! ### Channel failure (R258–R260) -/

/-- The rank holds data of its own or of a retired rank. -/
def holdsData (r : RankSp) : Bool :=
  r.st = .inService || r.st = .pending || r.st = .migrating || r.st = .spareHolding

/-- The controller's work on the channel stops: Survey, checks, steers, tests and the sequence. -/
def stopChanWork (s : State) (c : Nat) : State :=
  let s := abortBist s c
  let s := s.modTrnOf c (fun t => { t with action := .idle, wanted := none })
  let s := s.modTsvOf c (fun t => { t with action := .idle, fails := (0, 0, 0), waits := [] })
  s.modChan c (fun ch => { ch with seq := .idle, latched := none })

/-- The channel is LOST (R260): each rank fenced is a fence of its own for HOLED records (DEDUCED, log 127). -/
def channelLost (s : State) (c : Nat) : State :=
  if chanFenced s c then s
  else
    let s := stopChanWork (s.modSprOf c (fun x => { x with st := .lost })) c
    let hit := (ranksOf s.variant).any (fun k => migUses s c k) && s.mig.ch ≠ c
    let s := foldS (ranksOf s.variant) (fun s k => if holdsData (s.rank c k) then fenceRank0 s c k 3 else s) s
    let s := if hit then targetFail s else s
    let s := s.modChan c (fun ch => { ch with st := .fenced })
    budgetDue (rerouteAll (tierParkChecks s))

/-- A migration out of the failing channel into its own rank 4 stops without a fence; lines below the pointer stay in
rank 4 (R257). -/
def stopOwnMigration (s : State) (c : Nat) : State :=
  if s.mig.st ≠ .idle && s.mig.ch = c && !s.mig.toRes then
    let k := s.mig.rank
    let s := setRank s c k { s.rank c k with st := .pending, oldPtr := s.mig.pointer }
    let s := stopMig s
    { s with mig := { s.mig with order := rankKey c k :: s.mig.order } }
  else s

/-- The rescue pass begins: the channel moves to OP2, or surveys at once when it is there (R258). -/
def beginRescue (s : State) (c : Nat) : State :=
  let s := stopChanWork s c
  let s := s.modTsvOf c (fun t => { t with action := .rescue })
  let s :=
    if (s.chan c).current = 2 then wantSurvey (s.modChan c (fun ch => { ch with target := 2, source := 2 })) c 5
    else settlePoint (s.modChan c (fun ch => { ch with latched := some (2, 2) })) c
  settleChan s c

/-- The channel fails (R258); in RESCUE the collector decides, and while EVACUATING it is lost at once (R260, R342). -/
def channelFail (s : State) (c : Nat) : State :=
  match (s.sprOf c).st with
  | .fenced | .lost => s
  | .rescue => raise s 0x09 c
  | .evacuating => channelLost (raise s 0x09 c) c
  | _ =>
    let s := raiseRescue s c
    let s := s.modSprOf c (fun x => { x with st := .rescue })
    let hit := (ranksOf s.variant).any (fun k => migUses s c k)
    let s := if s.mig.ch = c && !s.mig.toRes then stopOwnMigration s c else if hit then targetFail s else s
    budgetDue (beginRescue s c)

/-- A channel without data left to evacuate becomes FENCED (R259). -/
def evacDone (s : State) (c : Nat) : State :=
  if (s.sprOf c).st = .evacuating && (ranksOf s.variant).all (fun k => !holdsData (s.rank c k)) then
    let s := stopChanWork (s.modSprOf c (fun x => { x with st := .fenced })) c
    let s := s.modChan c (fun ch => { ch with st := .fenced })
    budgetDue (rerouteAll s)
  else s

/-- The rescue Survey passed: the channel reopens at OP2 and every rank that holds data is PENDING, ascending (R259). -/
def evacuate (s : State) (c : Nat) : State :=
  let s := s.modSprOf c (fun x => { x with st := .evacuating })
  let s := s.modTsvOf c (fun t => { t with action := .idle })
  let s := foldS (ranksOf s.variant) (fun s k => retireRank s c k 5) s
  evacDone (openChan s c) c

/-! ### Targets (R80, R249) -/

/-- A granule of a RESERVE province, free and permitted as a target for rank k of channel c (R80). -/
def granFits (s : State) (c k g : Nat) : Bool :=
  let cs := chanSet (blockClass s.tables.provs (g / 32)) g
  let gk := g / 256
  (match provOfGran s.tables.provs g with | some (_, p) => p.kind = 1 | none => false) &&
  !(takenGrans s).contains g && !cs.contains c &&
  cs.all (fun d => (s.sprOf d).st = .normal && tierOf d gk ≠ tierOf c k && (s.rank d gk).st = .inService)

/-- The first eight granules that qualify. -/
def chooseGrans (s : State) (c k : Nat) : Option (List Nat) :=
  let gs := ((List.range 1024).filter (granFits s c k)).take 8
  if gs.length = 8 then some gs else none

/-- Rank 4 of the channel takes a rank of it (R249); a rescue sends every rank to the reserve (R259). -/
def spareFits (s : State) (c k : Nat) : Bool :=
  k < 4 && hasSpare s.variant && (s.rank c 4).st = .spareIdle && (s.sprOf c).st ≠ .evacuating

/-- Rank 4 is to be the target and cannot be written yet: it is under MBIST, whose fill ends with it idle again, or the
domain of its tier is not ON (DEDUCED, log 118). -/
def spareAway (s : State) (c : Nat) : Bool := mbistOn s c 4 || !domOn s (52 + tierOf c 4)

/-- The order of R251: evacuating channels, then a rank 4 in use, then the order of the triggers. -/
def nextPending (s : State) : Option Nat :=
  let ev := s.mig.order.filter (fun key => (s.sprOf (key / 5)).st = .evacuating)
  match ev.head? with
  | some key => ((List.range 5).map (rankKey (key / 5) ·)).find? (fun x => ev.contains x)
  | none => match s.mig.order.find? (fun key => key % 5 = 4) with
    | some key => some key
    | none => s.mig.order.head?

/-- The engine has taken the rank: it is MIGRATING and the copy starts at pointer 0. A rank 4 that is the target leaves
self-refresh (R203). -/
def takeRank (s : State) (c k : Nat) (toRes : Bool) (gs : List Nat) : State :=
  let r := s.rank c k
  let s := setRank s c k { r with st := .migrating, toRes := toRes, grans := if toRes then gs else r.grans }
  let s := { s with mig := { s.mig with
    st := .start, ch := c, rank := k, toRes := toRes, pointer := 0, readPos := 0, writePos := 0, staged := [] } }
  let s := if toRes then s else setSr s c 4 false
  budgetDue (rerouteAll s)

/-- The engine is free and works (R251, R257, R373). -/
def engineIdle (s : State) : Bool :=
  s.mig.st = .idle && domOn s 50 && !s.pwr.hold && !s.flt.fatal && s.rst.phase ≠ .held && s.rst.phase ≠ .quiesce

/-- MIGRATION_START (R249, R251). -/
def execMigrationStart (s : State) : Host.Outcome State Fault Refusal :=
  answer s (
    match (if engineIdle s then nextPending s else none) with
    | none => s
    | some key =>
      let c := key / 5
      let k := key % 5
      if mbistOn s c k || (spareFits s c k && spareAway s c) then s else
      let s := { s with mig := { s.mig with order := s.mig.order.filter (· ≠ key) } }
      if spareFits s c k then takeRank s c k false []
      else match chooseGrans s c k with
        | some gs => takeRank s c k true gs
        | none => evacDone (tierParkChecks (fenceRank s c k 1)) c)

/-- A write of SPR_CTRL (R269). -/
def sprCtrlWrite (data : Word) (s : State) : Status × State :=
  let c := (data.extractLsb' 18 5).toNat
  let k := (data.extractLsb' 15 3).toNat
  if !data.getLsbD 23 then (.ok, s)
  else if 4 < k then (.refused, s)
  else if !rankPresent s.variant k then (.absent, s)
  else
    let st := (s.rank c k).st
    if st = .inService || st = .spareHolding then (.ok, retireRank s c k 4) else (.refused, s)

/-- SPR_RETIRE. -/
def execSprRetire (via : Via) (data : Word) (s : State) : Host.Outcome State Fault Refusal :=
  answer s (mgmtWrite s via .mig 0 data (sprCtrlWrite data))

end Sys2Proof.Machine
end

