-- ==== Sys2Proof/Machine/Lanes.lean ====
section
/-! DEFINITION. Lanes: eyes and Surveys (R383–R392), suspects, checks, steers and erasures (R262–R268), and the rescue
Survey (R258–R260). -/

namespace Sys2Proof.Machine

/-! ### Eyes (R389) -/

/-- Scan state: start and length of the run under way, start and length of the longest run so far. -/
def eyeStep (w : BitVec 128) (st : Nat × Nat × Nat × Nat) (i : Nat) : Nat × Nat × Nat × Nat :=
  if w.getLsbD i then
    let a := if st.2.1 = 0 then i else st.1
    let n := st.2.1 + 1
    if st.2.2.2 < n then (a, n, a, n) else (a, n, st.2.2.1, st.2.2.2)
  else (0, 0, st.2.2.1, st.2.2.2)

/-- The longest run of passing taps, the lower of equals: delay at its centre, rounded down, and its width. -/
def eyeOf (w : BitVec 128) : Nat × Nat :=
  let r := (List.range 128).foldl (eyeStep w) (0, 0, 0, 0)
  (r.2.2.1 + (r.2.2.2 - 1) / 2, r.2.2.2)

/-- The eye measured for a lane; a lane that is not named has no passing tap. -/
def findEye (es : List LaneEye) (lane : Nat) : LaneEye :=
  (es.find? (fun e => e.lane = lane)).getD { lane := lane, rd := 0, wr := 0 }

/-- The eye meets the minima of R389. -/
def eyeGood (lane : Nat) (e : LaneEye) : Bool :=
  if lane < 72 then 20 ≤ (eyeOf e.rd).2 && 18 ≤ (eyeOf e.wr).2 else 24 ≤ (eyeOf e.wr).2

/-- Delays that the Survey sets for a lane. -/
def eyeSet (lane : Nat) (e : LaneEye) : LaneSet :=
  let w := eyeOf e.wr
  if lane < 72 then
    let r := eyeOf e.rd
    { rdDelay := r.1, rdWidth := r.2, wrDelay := w.1, wrWidth := w.2 }
  else { rdDelay := 0, rdWidth := 0, wrDelay := w.1, wrWidth := w.2 }

/-! ### Erasures and steers (R264–R266) -/

/-- The symbol position in its half that a data lane carries (R212). -/
def symOf (lane : Nat) : Nat := lane % 36

def isErased (s : State) (c lane : Nat) : Bool :=
  let t := s.tsvOf c
  if lane < 36 then t.erasedA.contains lane else t.erasedB.contains (lane - 36)

/-- A lane record is due, and brings one commit point to 1,024 beats from now (R266). -/
def laneRecord (s : State) (c lane act : Nat) : State :=
  s.modEccOf c (fun e => { e with
    due := e.due ++ [.lane lane act]
    commitAt := match e.commitAt with
      | some u => some (min u (s.elapsed + 1024))
      | none => some (s.elapsed + 1024) })

/-- A data lane is declared erased (R265); the third of a half makes the channel fail, which the answer says. -/
def eraseLane (s : State) (c lane : Nat) : State × Bool :=
  let t := s.tsvOf c
  let mine := if lane < 36 then t.erasedA else t.erasedB
  if isErased s c lane then (s, false)
  else if 2 ≤ mine.length then (s, true)
  else
    let s := s.modTsvOf c (fun t =>
      if lane < 36 then { t with erasedA := t.erasedA ++ [lane] } else { t with erasedB := t.erasedB ++ [lane - 36] })
    let s := s.modSprOf c (fun x => { x with st := if x.st = .normal then .laneDegraded else x.st })
    (laneRecord (raise s 0x13 c (BitVec.ofNat 24 lane)) c lane 1, false)

/-- The group's spare is used or bad. -/
def spareGone (s : State) (c lane : Nat) : Bool :=
  let t := s.tsvOf c
  if lane < 72 then t.spareUsed.getLsbD (lane / 18) else if lane < 84 then t.caUsed else t.clkUsed

/-- The spare of the lane's group is marked used or bad. -/
def useSpare (s : State) (c lane : Nat) : State :=
  s.modTsvOf c (fun t =>
    if lane < 72 then { t with spareUsed := t.spareUsed ||| BitVec.ofNat 4 (2 ^ (lane / 18)) }
    else if lane < 84 then { t with caUsed := true }
    else { t with clkUsed := true })

/-- The spare of its group stands in the lane's position. -/
def standIn (s : State) (c lane : Nat) : State :=
  (useSpare s c lane).modTsvOf c (fun t =>
    if lane < 72 then { t with steered := tput t.steered (lane / 18) (lane % 18) }
    else if lane < 84 then { t with caLane := some (lane - 72) }
    else { t with clkPair := some (lane - 84) })

/-- The spare that stands in a lane takes its own trims, in the set of every point (R24, R264 step 3). -/
def spareTrims (s : State) (c lane : Nat) : State :=
  s.modTrnOf c (fun t => { t with sets := t.sets.map (fun e =>
    (e.1, { e.2 with lanes := tput e.2.lanes lane (trimLane s c e.1 lane) })) })

/-- A lane is steered (R264 step 3): it is counted and recorded. -/
def steerLane (s : State) (c lane : Nat) : State :=
  laneRecord (raise (spareTrims (standIn s c lane) c lane) 0x12 c (BitVec.ofNat 24 lane)) c lane 0

/-- A spare that fails its check is marked bad; the mark shows in the lane record alone. -/
def spareBad (s : State) (c lane : Nat) : State := laneRecord (useSpare s c lane) c lane 2

/-- Delays of some lanes in the set in force (R263). -/
def putDelays (s : State) (c : Nat) (ds : List (Nat × LaneSet)) : State :=
  let op := (s.chan c).current.toNat
  s.modTrnOf c (fun t => { t with sets := match tfind t.sets op with
    | some x => tput t.sets op { x with lanes := ds.foldl (fun l d => tput l d.1 d.2) x.lanes }
    | none => t.sets })

/-- The work on a lane has ended: what waited for it goes on, and what asked for a check of the same lane has it. -/
def laneEnd (s : State) (c : Nat) : State :=
  let s := s.modTsvOf c (fun t => { t with
    action := .idle
    ctlCheck := false
    waits := t.waits.filter (· ≠ .data t.lane) })
  let s := s.modTrnOf c (fun t => { t with action := if t.action = .wait then .idle else t.action })
  settleChan (settlePoint s c) c

/-- A confirmed bad data lane without a usable spare. -/
def eraseOrFail (s : State) (c lane : Nat) : State :=
  let r := eraseLane s c lane
  if r.2 then channelFail r.1 c else laneEnd r.1 c

/-! ### The check of a data lane (R263) -/

/-- The four lanes of a byte lane that the check has measured: those in use with a passing tap in both directions. -/
def byteLaneSets (s : State) (c lane : Nat) (eyes : List LaneEye) : List (Nat × LaneSet) :=
  (((List.range 4).map (lane / 4 * 4 + ·)).filter (fun l => !isErased s c l && (findEye eyes l).rd ≠ 0 && (findEye eyes l).wr ≠ 0)).map
    (fun l => (l, eyeSet l (findEye eyes l)))

/-- The sweep of a check or Survey can end: no slot suspends it and no supply hold stops it (R197, R392). -/
def sweepRuns (s : State) (c : Nat) : Bool := (s.rfrOf c).inSlot = 0 && !s.pwr.hold

/-- LANE_CHECK_DONE (R263–R265): the eyes of the suspect's byte lane and of its group's spare, and whether suspect and spare
show errors at their centres. -/
def execLaneCheckDone (c : Nat) (eyes : List LaneEye) (spareEye : LaneEye) (centreErrors spareErrors : Bool) (s : State) :
    Host.Outcome State Fault Refusal :=
  answer s (
    let t := s.tsvOf c
    if t.action = .check && !t.ctlCheck && sweepRuns s c then
      let lane := t.lane
      if eyeGood lane (findEye eyes lane) && !centreErrors then
        let s := s.modTsvOf c (fun t => { t with cleared := sat t.cleared 1 })
        laneEnd (putDelays s c (byteLaneSets s c lane eyes)) c
      else if spareGone s c lane then eraseOrFail s c lane
      else if eyeGood lane spareEye && !spareErrors then s.modTsvOf c (fun t => { t with action := .steerWait })
      else eraseOrFail (spareBad s c lane) c lane
    else s)

/-- A write of TSV_CTRL (R275): sel above 85 is refused; check is ignored while an action is shown. -/
def tsvCtrlWrite (c : Nat) (data : Word) (s : State) : Status × State :=
  let sel := data.extractLsb' 16 7
  if 85 < sel.toNat then (.refused, s)
  else
    let s := s.modTsvOf c (fun t => { t with sel := sel })
    if data.getLsbD 23 && (s.tsvOf c).action = .idle then
      (.ok, settleChan (suspect s c (if sel.toNat < 72 then .data sel.toNat else .control sel.toNat)) c)
    else (.ok, s)

/-- TSV_CHECK_WRITE. -/
def execTsvCheckWrite (via : Via) (c : Nat) (data : Word) (s : State) : Host.Outcome State Fault Refusal :=
  answer s (if c < 32 then mgmtWrite s via (.tsv c) 6 data (tsvCtrlWrite c data) else s)

/-- No Lull slot of a rank of the channel runs or starts within 2.2 µs (R197, R264). -/
def slotsClear (s : State) (c : Nat) : Bool :=
  (s.rfrOf c).inSlot = 0 &&
  (!sheetInForce s || (ranksOf s.variant).all (fun k => noSlot s c k || 2 < nextSlotIn s (tierOf c k)))

/-- LANE_STEER_START (R264 steps 1–3). -/
def execLaneSteerStart (c : Nat) (s : State) : Host.Outcome State Fault Refusal :=
  answer s (
    if (s.tsvOf c).action = .steerWait && slotsClear s c && !s.pwr.hold && !s.flt.fatal then
      let s := (closeRows s c).modTsvOf c (fun t => { t with action := .steer })
      settleChan (spoilChan s c) c
    else s)

/-- A command whose check has ended is issued again (R267, R276). -/
def reissue (s : State) (c : Nat) : State :=
  s.modTsvOf c (fun t => if t.ctlCheck && t.ctlFrom.isSome then { t with caRetries := sat t.caRetries 1 } else t)

/-- LANE_STEER_DONE (R264 step 4): every rank uses the spare, at its own trims. -/
def execLaneSteerDone (c : Nat) (s : State) : Host.Outcome State Fault Refusal :=
  answer s (
    if (s.tsvOf c).action = .steer then
      let lane := (s.tsvOf c).lane
      laneEnd (reissue (steerLane s c lane) c) c
    else s)

/-! ### Command/address and clock lanes (R267) -/

/-- The channel's tiers can raise alerts. -/
def alertsTaken (s : State) (c rank : Nat) : Bool :=
  chanOn s c && !chanFenced s c && rankPresent s.variant rank && (s.rank c rank).st ≠ .fenced

/-- COMMAND_PARITY_ALERT: a command failed; it is reissued, and after 4 failed issues of it the control lanes are checked. A Survey judges the
control group itself (R392). -/
def execCommandParityAlert (c : Nat) (x : FailedCmd) (s : State) : Host.Outcome State Fault Refusal :=
  answer s (
    let rank := x.rank
    if !alertsTaken s c rank || surveying s c then s
    else
      let t := s.tsvOf c
      let n := if t.fails.2 = (rank, x.cmd) then t.fails.1 + 1 else 1
      if 2 ≤ tget 0 t.noLane rank then fenceRank s c rank 4
      else if n < 4 then s.modTsvOf c (fun t => { t with fails := (n, rank, x.cmd), caRetries := sat t.caRetries 1 })
      else settleChan (suspect (s.modTsvOf c (fun t => { t with fails := (4, rank, x.cmd), failAt := x.place })) c (.command rank)) c)

/-- CLOCK_ALERT: the rank is noted, and the control lanes are checked; a check of them or a Survey under way judges them. -/
def execClockAlert (c rank : Nat) (s : State) : Host.Outcome State Fault Refusal :=
  answer s (
    if !alertsTaken s c rank then s
    else
      let s := s.modTsvOf c (fun t => { t with clkRanks := if t.clkRanks.contains rank then t.clkRanks else t.clkRanks ++ [rank] })
      if surveying s c || (laneBusy s c && (s.tsvOf c).ctlCheck) || (s.tsvOf c).waits.contains (.control 84) then s
      else settleChan (suspect s c (.control 84)) c)

/-- The check found no lane: CHN_CMD_UE counts for the rank of the failing command, or for each rank of a clock alert. -/
def noLaneFound (s : State) (c : Nat) : State :=
  let t := s.tsvOf c
  let s := (reissue s c).modTsvOf c (fun t => { t with
    cleared := sat t.cleared 1
    fails := (0, 0, 0)
    noLane := match t.ctlFrom with | some k => tset 0 t.noLane k (tget 0 t.noLane k + 1) | none => t.noLane })
  match t.ctlFrom with
  | some k => raise s 0x08 (rankKey c k) t.failAt
  | none => foldS t.ctlRanks (fun s k => raise s 0x08 (rankKey c k)) s

/-- CONTROL_CHECK_DONE (R267): `badLane` is the lane confirmed bad, numbered as TSV_CTRL.sel. -/
def execControlCheckDone (c : Nat) (badLane : Option Nat) (s : State) : Host.Outcome State Fault Refusal :=
  answer s (
    let t := s.tsvOf c
    if t.action = .check && t.ctlCheck && sweepRuns s c then
      match badLane with
      | none => laneEnd (noLaneFound s c) c
      | some l =>
        if l < 72 || 85 < l then s
        else if spareGone s c l then channelFail s c
        else s.modTsvOf c (fun t => { t with action := .steerWait, lane := l, noLane := [], fails := (0, 0, 0) })
    else s)

/-! ### Surveys (R386, R388–R392) -/

/-- A write of TRN_CTRL (R392, R403). -/
def trnCtrlWrite (c : Nat) (data : Word) (s : State) : Status × State :=
  if data.getLsbD 23 && chanFenced s c then (.refused, s)
  else
    let s := s.modTrnOf c (fun t => { t with log := data.getLsbD 22, restore := data.getLsbD 21 })
    if data.getLsbD 23 && (s.trnOf c).action ≠ .survey && (s.trnOf c).action ≠ .suspended then
      let s := wantSurvey s c 2
      (.ok, if laneBusy s c && !trnBusy s c then s.modTrnOf c (fun t => { t with action := .wait }) else s)
    else (.ok, s)

/-- SURVEY_REQUEST. -/
def execSurveyRequest (via : Via) (c : Nat) (data : Word) (s : State) : Host.Outcome State Fault Refusal :=
  answer s (if c < 32 then mgmtWrite s via (.trn c) 0 data (trnCtrlWrite c data) else s)

/-- The Survey that is wanted may start. -/
def surveyFree (s : State) (c : Nat) : Bool :=
  let ch := s.chan c
  chanOn s c && !chanFenced s c && !trnBusy s c && !laneBusy s c && !bstPauses s c && !s.rst.chanBusy.contains c &&
  !s.pwr.hold && !s.flt.fatal && ch.inflight = [] && (ch.seq = .idle || ch.seq = .wait || ch.seq = .check) &&
  (ch.st ≠ .closed || surveyFirst s c)

/-- SURVEY_START (R388): rows close, the channel pauses, and a slot under way suspends it at once. Lanes that waited for a
check are the Survey's own to judge (R392). Without a valid T_ch the training temperature is free (log 155). -/
def execSurveyStart (c : Nat) (s : State) : Host.Outcome State Fault Refusal :=
  answer s (
    match (s.trnOf c).wanted with
    | none => s
    | some why =>
      if !surveyFree s c then s
      else
        let slot := (s.rfrOf c).inSlot ≠ 0
        let s := (closeRows s c).modTsvOf c (fun t => { t with waits := [] })
        let temp := match (s.trnOf c).tCh with
          | some v => (v, s)
          | none =>
            let f := takeFree s
            (Config.trainTemp f.1, f.2)
        let s := temp.2.modTrnOf c (fun t => { t with
          action := if slot then .suspended else .survey
          suspends := if slot then sat t.suspends 1 else t.suspends
          work := 0
          since := s.elapsed
          trigger := why
          wanted := none
          startTemp := temp.1 })
        settleChan (spoilChan s c) c)

/-- One confirmed bad lane of a Survey (R390): the new state, the eye that stands in the lane, and whether the channel
fails. -/
def surveyLane (spares : List LaneEye) (c : Nat) (acc : State × Bool) (l : Nat) : State × Bool :=
  let s := acc.1
  let sp := findEye spares (if l < 72 then l / 18 else if l < 84 then 4 else 5)
  if spareGone s c l then
    (if l < 72 then let r := eraseLane s c l; (r.1, acc.2 || r.2) else (s, true))
  else if eyeGood l sp then (steerLane s c l, acc.2)
  else if l < 72 then let r := eraseLane (spareBad s c l) c l; (r.1, acc.2 || r.2)
  else (spareBad s c l, true)

/-- Lanes that the Survey confirms bad: the control group first, then data lanes that are not erased. -/
def badLanes (s : State) (c : Nat) (eyes : List LaneEye) : List Nat :=
  ((List.range 14).map (72 + ·)).filter (fun l => !eyeGood l (findEye eyes l)) ++
  (List.range 72).filter (fun l => !isErased s c l && !eyeGood l (findEye eyes l))

/-- The Survey's verdict on the lanes (R390): bad lanes are steered or erased, and the answer says whether the channel
fails. -/
def judgeLanes (s : State) (c : Nat) (eyes spares : List LaneEye) : State × Bool :=
  (badLanes s c eyes).foldl (surveyLane spares c) (s, false)

/-- The eye that a lane ends with: its spare's where it was steered in this Survey. -/
def finalEye (old s : State) (c : Nat) (eyes spares : List LaneEye) (l : Nat) : LaneEye :=
  if columnOf s c l ≠ columnOf old c l then findEye spares (if l < 72 then l / 18 else if l < 84 then 4 else 5)
  else findEye eyes l

/-- The point at which a Survey ran. -/
def surveyPoint (s : State) (c : Nat) : Nat :=
  let ch := s.chan c
  if ch.seq = .check then ch.goingTo.toNat else ch.current.toNat

/-- The delays of a spare that stands nowhere, from its sweep (R384). -/
def spareSets (s : State) (c : Nat) (spares : List LaneEye) : List (Nat × LaneSet) :=
  ((List.range 6).filter (fun g => !spareGone s c (if g < 4 then 18 * g else if g = 4 then 72 else 84))).map (fun g =>
    (86 + g, eyeSet (if g < 4 then 0 else 72) (findEye spares g)))

/-- Store a Survey's set for its point (R391). -/
def storeSurvey (old s : State) (c : Nat) (eyes spares : List LaneEye) : State :=
  let op := surveyPoint s c
  let lanes := ((List.range 86).filter (fun l => 72 ≤ l || !isErased s c l)).map
    (fun l => (l, eyeSet l (finalEye old s c eyes spares l))) ++ spareSets s c spares
  let d : DelaySet := { source := 2, trained := (s.trnOf c).startTemp, lanes := lanes }
  let s := s.modTrnOf c (fun t => { t with
    sets := tput t.sets op d
    valid := t.valid ||| bit3 op
    stale := false
    noSet := false
    surveys := sat t.surveys 1 })
  if (s.trnOf c).log then logSet s (.survey (3 * c + op) d) else s

def endSurvey (s : State) (c : Nat) (res : BitVec 2) : State :=
  s.modTrnOf c (fun t => { t with action := .idle, lastResult := res })

/-- SURVEY_DONE (R389–R391): `eyes` by lane 0–85, `spareEyes` by data group 0–3, 4 for the command/address spare and 5 for
the spare clock pair. -/
def execSurveyDone (c : Nat) (eyes spareEyes : List LaneEye) (s : State) : Host.Outcome State Fault Refusal :=
  answer s (
    if (s.trnOf c).action = .survey && (s.trnOf c).trigger ≠ 5 && sweepRuns s c && !chanFenced s c then
      let r := judgeLanes s c eyes spareEyes
      let ok := badLanes s c eyes = []
      let t := if ok then r.1 else raise r.1 0x0E c
      if r.2 then channelFail (endSurvey t c 3) c
      else openChan (endSurvey (storeSurvey s t c eyes spareEyes) c (if ok then 1 else 2)) c
    else s)

/-- A lane that had failed and has an eye at OP2 is used again (R258). -/
def reuseLanes (s : State) (c : Nat) (eyes : List LaneEye) : State :=
  s.modTsvOf c (fun t => { t with
    erasedA := t.erasedA.filter (fun i => !eyeGood i (findEye eyes i))
    erasedB := t.erasedB.filter (fun i => !eyeGood (36 + i) (findEye eyes (36 + i))) })

/-- RESCUE_SURVEY_DONE (R258–R260): as any Survey, over every lane; it fails on a control lane with no spare left, or where a
half needs more than 2 erased lanes. -/
def execRescueSurveyDone (c : Nat) (x : SurveyEyes) (s : State) : Host.Outcome State Fault Refusal :=
  answer s (
    let eyes := x.lanes
    let spareEyes := x.spares
    if (s.sprOf c).st = .rescue && (s.trnOf c).action = .survey && (s.trnOf c).trigger = 5 && sweepRuns s c then
      let s := reuseLanes s c eyes
      let r := judgeLanes s c eyes spareEyes
      if r.2 then channelLost (endSurvey r.1 c 3) c
      else evacuate (endSurvey (storeSurvey s r.1 c eyes spareEyes) c (if badLanes s c eyes = [] then 1 else 2)) c
    else s)

end Sys2Proof.Machine
end

