-- ==== Sys2Proof/Machine/Return.lean ====
section
/-! DEFINITION. What a returning burst does: correction, poison, the verify read and merge reads (R170, R173, R174, R215–R221,
R224, R225, R228, R237, R262). -/

namespace Sys2Proof.Machine

/-! ### Rewrites -/

/-- Queue a correction write-back or a poison rewrite of a line, in the Fixed class (R215, R219). -/
def pushRewrite (s : State) (kind : EKind) (l : Loc) (line : Nat) (w : Half × Half) (finder : BitVec 2) (stale : Bool) :
    State :=
  pushWrite s { mkEntry s kind true l [l.col] line with words := [(l.col, w.1, w.2)], finder := finder, stale := stale }

/-- POISON_FOUND to the flows that may touch the province of a DPA (R224). -/
def postPoison (s : State) (p off : Nat) : State :=
  foldS (flowsOfProv s p) (fun s f => postFlow s f 6 ((BitVec.ofNat 10 p ++ BitVec.ofNat 30 off : BitVec (10 + 30)))) s

/-- A line found uncorrectable by a reader (R219, R224): Zephyr leaves a line that is dirty in the buffer alone. -/
def lostLine (s : State) (l : Loc) (line : Nat) (d : Decoded) (finder : BitVec 2) (stale : Bool) : State :=
  let scan := finder = 1 || finder = 2
  let dpa := dpaOfLoc s routeFuel l
  let prov := if scan then (match dpa with | some x => provOfDpa s x | none => none) else none
  let dirty := finder = 1 && (match dpa with
    | some x => ((lbFind s (homeChan s (x / 64)) (x / 64)).map (·.dirty)).getD false
    | none => false)
  let s := countUe s l d finder prov
  if dirty then s
  else
    let s := pushRewrite s .poisonRw l line poisonWords finder stale
    match prov with
    | some (p, off) => postPoison s p off
    | none => s

/-! ### Readers -/

/-- The cipher cannot serve (R312). -/
def cipherDown (s : State) : Bool := s.cip.fenced || !domOn s 45

/-- Plaintext of the words of a line for a request (R228, R299): a zero line is not decrypted. What was
stored under the other value of enc reads back as the other form, with status OK (R75). -/
def openLine (s : State) (r : Req) (line : Nat) (w : Half × Half) : Line × State :=
  let x := lineOfHalves w
  if !r.enc then (x, s)
  else if x = 0 then (0, { s with cip := { s.cip with zero := s.cip.zero + 1 } })
  else
    (plainForm s true r.slot r.gen line x,
     perf { s with cip := { s.cip with dec := s.cip.dec + 1 } } 0x481 0 1)

/-- A read line is allocated clean (R170), unless a write has overtaken the read or waits to (R175). -/
def allocClean (s : State) (r : Req) (line : Nat) (x : Line) (stale : Bool) : State :=
  let c := homeChan s line
  if bypass s c || stale || lineQueued s line || (lbFind s c line).isSome || (r.enc && (s.slot r.slot).gen ≠ r.gen) ||
      (match provOfDpa s (line * 64) with | some (p, _) => (provCfg s p).enc ≠ r.enc | none => false) then s
  else lbPut s c { dpaLine := line, data := x, dirty := false, enc := r.enc, slot := r.slot, gen := r.gen, written := s.elapsed }

/-- A line of a host read or move-engine read returns. -/
def hostLine (s : State) (e : Entry) (col : Nat) (d : Decoded) : State :=
  match e.req.bind (findReq s) with
  | none => s
  | some r =>
    let line := entryLine e col
    let i := line - r.dpa / 64
    if r.stage = .done then s
    else if r.enc && cipherDown s then failReq s r.id .fenced
    else match d.out with
      | .poison | .uncorrectable => lineDone s r.id i .poisoned (some 0)
      | o =>
        let x := openLine s r line d.words
        lineDone (allocClean x.2 r line x.1 e.stale) r.id i (if o = .corrected then .corrected else .ok) (some x.1)

/-- The line of a merge read returns (R173, R174). -/
def mergeReturn (s : State) (e : Entry) (col : Nat) (d : Decoded) : State :=
  match e.req.bind (findReq s) with
  | none => s
  | some r =>
    let line := entryLine e col
    let c := homeChan s line
    let s := s.modChan c (fun ch => { ch with merge := ch.merge.filter (· ≠ line) })
    if r.stage = .done then s
    else if r.enc && cipherDown s then failReq s r.id .fenced
    else match d.out with
      | .poison | .uncorrectable => modReq (endReq s r.id .poisoned) r.id (fun x => { x with linesPois := 1 })
      | o =>
        let x := openLine s r line d.words
        let new := mergeLine r.enables x.1 (reqData r 0)
        let s := if o = .corrected then modReq x.2 r.id (fun x => { x with status := .corrected, linesCorr := 1 }) else x.2
        writeLines s r c { e.loc with col := col } (fun _ => new)

/-- The finder of R243. -/
def finderOf (s : State) (e : Entry) : BitVec 2 :=
  match e.kind with
  | .scrub => 1
  | .migRead => 2
  | .verify => e.finder
  | _ => match e.req.bind (findReq s) with
    | some r => if r.eng.isSome then 3 else 0
    | none => 0

/-- A read by any reader but the verify read: corrections and losses (R215, R219, R221, R225). -/
def afterDecode (s : State) (e : Entry) (col : Nat) (l : Loc) (w : Half × Half) (d : Decoded) : State :=
  let f := finderOf s e
  match d.out with
  | .clean => s
  | .corrected => pushRewrite (countCe s l d f) .corrWb l (entryLine e col) d.words f e.stale
  | .uncorrectable => lostLine s l (entryLine e col) d f e.stale
  | .poison =>
    let s := countPoison s l.ch
    if e.kind = .scrub && w ≠ poisonWords then pushRewrite s .poisonRw l (entryLine e col) poisonWords f e.stale else s

/-- The verify read (R217): it neither corrects nor rewrites. Where a write has overtaken it, an entry takes what that wrote. -/
def afterVerify (s : State) (e : Entry) (col : Nat) (l : Loc) (d : Decoded) : State :=
  match d.out with
  | .clean => s
  | .poison => countPoison s l.ch
  | .uncorrectable => lostLine s l (entryLine e col) d e.finder e.stale
  | .corrected =>
    let s := raise s 0x1A (rankKey l.ch l.rank) (locDetail l)
    let prov := if e.finder = 1 then (dpaOfLoc s routeFuel l).bind (provOfDpa s) else none
    let s := logJournal s (.line l (d.half .corrected) true d.syms e.finder prov)
    if (s.rank l.ch l.rank).st = .migrating then s else hardError s l (if e.stale then cellRead s l else d.words)

/-- A line that waited for an entry has been read once more (R237). -/
def placeReturn (s : State) (e : Entry) (l : Loc) (d : Decoded) : State :=
  match d.out with
  | .poison | .uncorrectable => s
  | _ => if (remapAt s l).isSome then s else match freeEntry (s.eccOf l.ch) with
    | some i => takeEntry s l i (if e.stale then cellRead s l else d.words)
    | none => remapFull s l.ch

/-- A line that the migration engine read is in the staging (R253, R256): as read when clean, corrected, or as poison; what a
write that overtook the read wrote, where one did (R254). -/
def migReturn (s : State) (e : Entry) (l : Loc) (w : Half × Half) (d : Decoded) : State :=
  let v := if e.stale then cellRead s l else match d.out with
    | .clean => w
    | .corrected => d.words
    | .poison | .uncorrectable => poisonWords
  { s with mig := { s.mig with staged := tput s.mig.staged l.index v } }

/-- The channel's oldest burst returns with the words it read, disturbed by the errors given. -/
def burstReturns (s : State) (c : Nat) (errA errB : Half) (e : Entry) (col : Nat) : State :=
  let l := { e.loc with col := col }
  let w := (e.got.1 ^^^ errA, e.got.2 ^^^ errB)
  let d := decodeLine s c w
  let s := countErase s c d
  let s := s.modTsvOf c (fun t => { t with noLane := tset 0 t.noLane l.rank 0 })
  let s := if e.fromEntry then s else monitorLine s c d
  if e.kind = .verify then afterVerify s e col l d
  else
    let s := afterDecode s e col l w d
    match e.kind with
    | .mergeRead => mergeReturn s e col d
    | .hostRead => hostLine s e col d
    | .placeRead => placeReturn s e l d
    | .migRead => migReturn s e l w d
    | .scrub => perf (s.modEccOf c (fun x => { x with zreads := x.zreads + 1 })) 0x303 c 1
    | _ => s

/-- READ_DATA_RETURN: `errA` and `errB` are what errors of the cells, lanes and decoder input flip in the burst. -/
def execReadDataReturn (w : ChanAt) (errA errB : Half) (s : State) : Host.Outcome State Fault Refusal :=
  answer s (
    let c := w.ch
    let s := atPs s w.atPs
    match (s.chan c).inflight with
    | [] => s
    | (e, col) :: rest =>
      endVisit (settleChan (burstReturns (s.modChan c (fun ch => { ch with inflight := rest })) c errA errB e col) c) c)

end Sys2Proof.Machine
end

