-- ==== Sys2Proof/Machine/Zephyr.lean ====
section
/-! DEFINITION. The Zephyr scrubber: its reads, the visits of an idle spare rank and the configuration word (R222–R225,
R233, R241). -/

namespace Sys2Proof.Machine

/-- The next rank is an idle spare, which is read in visits of 4,096 lines (R223). -/
def visitNext (s : State) (c : Nat) : Bool :=
  (s.eccOf c).zRank = 4 && (s.rank c 4).st = .spareIdle && !migUses s c 4

/-- A read, or a visit, may issue by the pace: it is due, and behind the schedule 16 times the even pace bounds it. -/
def paceAllows (s : State) (c : Nat) : Bool :=
  let e := s.eccOf c
  let n := if visitNext s c then 4096 else 1
  decide (dueAt e.zPlan e.zDone ≤ s.elapsed) &&
  match e.zLast with
  | some l => decide (n * (zHoursNow s c * hourBeats) ≤ 16 * ((walked s c).length * rankLines) * (s.elapsed - l))
  | none => true

/-- Zephyr runs: enabled, powered, not fenced, out of Fatal and reset; a supply hold makes its reads wait. -/
def zephyrRuns (s : State) (c : Nat) : Bool :=
  (s.eccOf c).zephyrEn && chanOn s c && !chanFenced s c && !s.flt.fatal && s.rst.phase = .ready

/-- ECC_STATUS.zstate (R223, R242): STOPPED on a fenced channel, OFF, BEHIND while a read that is due waits, RUN. -/
def zState (s : State) (c : Nat) : Nat :=
  let e := s.eccOf c
  if chanFenced s c then 3
  else if !zephyrRuns s c then 0
  else if !e.passOver && decide (dueAt e.zPlan e.zDone < s.elapsed) then 2 else 1

/-- `n` lines have been requested or passed over. -/
def advanceZ (s : State) (c n : Nat) : State :=
  let e := s.eccOf c
  let line := e.zLine + n
  let next := (walked s c).find? (fun k => e.zRank < k)
  let e := { e with zDone := e.zDone + n, zLast := some s.elapsed }
  s.setEccOf c (
    if line < rankLines then { e with zLine := line }
    else match next with
      | some k => { e with zRank := k, zLine := 0 }
      | none => { e with zLine := rankLines, passes := e.passes + 1, passOver := true })

/-- The next line is requested where it lies, in the Other class. -/
def scrubRead (s : State) (c : Nat) : State :=
  let e := s.eccOf c
  let l := locOfIndex c e.zRank e.zLine
  if !locInked s l then advanceZ s c 1
  else
    -- a line of a MIGRATING rank is read where the pointer routes it (R254)
    match route s routeFuel l with
    | none => advanceZ s c 1
    | some at_ =>
      if canRead s at_.ch false then
        let line := match dpaOfLoc s routeFuel l with | some x => x / 64 | none => dpaNone
        advanceZ (pushRead s (mkEntry s .scrub false at_ [at_.col] line)) c 1
      else s

/-- A visit begins: the rank leaves self-refresh (R203). -/
def beginVisit (s : State) (c : Nat) : State :=
  setSr (s.modEccOf c (fun e => { e with visit := 4097 })) c 4 false

/-- The next line of the visit under way; with the last requested the count stands at 1. -/
def visitRead (s : State) (c : Nat) : State :=
  let t := scrubRead s c
  if (t.eccOf c).zDone = (s.eccOf c).zDone then t else t.modEccOf c (fun e => { e with visit := e.visit - 1 })

/-- ZEPHYR_READ (R222, R223): a pass that is over waits for the end of its period. -/
def execZephyrRead (w : ChanAt) (s : State) : Host.Outcome State Fault Refusal :=
  answer s (
    let c := w.ch
    let s := atPs s w.atPs
    if !zephyrRuns s c || s.pwr.hold then s
    else
      let e := s.eccOf c
      let fresh := e.zPlan = (0, 0, 0)
      let s :=
        if fresh || (e.passOver && decide (e.passStart + zHoursNow s c * hourBeats ≤ s.elapsed)) then newPass s c
        else if e.passOver then s
        else notePassed s c
      if (s.eccOf c).passOver then s
      else if visitNext s c && 1 < (s.eccOf c).visit then visitRead s c
      else if !paceAllows s c then s
      else if visitNext s c then (if (s.eccOf c).visit = 0 then visitRead (beginVisit s c) c else s)
      else scrubRead s c)

/-- A write of ECC_ZCFG (R241). -/
def zcfgWrite (c : Nat) (data : Word) (s : State) : Status × State :=
  let p := data.extractLsb' 17 6
  let d := data.extractLsb' 11 6
  if p = 0 || d = 0 then (.refused, s)
  else
    let en := data.getLsbD 23
    let was := (s.eccOf c).zephyrEn
    let s := s.modEccOf c (fun e => { e with
      zephyrEn := en
      period := p
      periodDeg := d
      forceDeg := data.getLsbD 10 })
    let on := en && !was
    (.ok, if (zHoursNow s c ≠ (s.eccOf c).zHours || on) && !(s.eccOf c).passOver then respread s c else s)

/-- ZEPHYR_CONFIG_WRITE. -/
def execZephyrConfigWrite (via : Via) (c : Nat) (data : Word) (s : State) : Host.Outcome State Fault Refusal :=
  answer s (if c < 32 then mgmtWrite s via (.ecc c) 0 data (zcfgWrite c data) else s)

end Sys2Proof.Machine
end

