-- ==== Sys2Proof/Machine/Migrate.lean ====
section
/-! DEFINITION. The copy of a migration: its dispatch beside the flows, its reads and writes, the pointer and the end
(R134, R252–R257, R259, R398). -/

namespace Sys2Proof.Machine

/-- Lines of a chunk, a half of the staging (R253). -/
def chunkLines : Nat := 65536

/-- The copy may go on: the engine works (R257, R373). -/
def copyRuns (s : State) : Bool :=
  s.mig.st ≠ .idle && domOn s 50 && !s.pwr.hold && !s.flt.fatal && s.rst.phase ≠ .held && s.rst.phase ≠ .quiesce

/-- The target of line i of the migrating rank. -/
def copyTarget (s : State) (i : Nat) : Option Loc :=
  match targetOf s (locOfIndex s.mig.ch s.mig.rank i) s.mig.toRes with
  | some l => route s routeFuel l
  | none => none

/-- Where line i is read: the source, or rank 4 below the pointer of a migration that stopped (R257). -/
def copySource (s : State) (i : Nat) : Loc :=
  locOfIndex s.mig.ch (if i < (s.rank s.mig.ch s.mig.rank).oldPtr then 4 else s.mig.rank) i

/-! ### The internal flow (R252, R369): a line read is a unit (DEDUCED, log 119) -/

/-- Units used in the 64-beat window under way. -/
def migUsed (s : State) : Nat := if s.mig.win = s.elapsed / 64 then s.mig.used else 0

/-- Units that a window may take. -/
def migCeil (s : State) : Nat := 64 * max 313 (s.mig.ceiling.toNat * min 64 s.pwr.kp.toNat / 64)

/-- Lines of the next read: four of a row, read as one entry (R160). -/
def batch (i : Nat) : List Nat := (List.range 4).map (i + ·)

/-- The rank's contents are a fill's zeros: the engine fills the target instead of reading (R398). -/
def migFills (s : State) : Bool := (s.rank s.mig.ch s.mig.rank).fillOnly

/-- The next lines to read are not inked: nothing is copied for them (R233, R256). -/
def batchBlank (s : State) : Bool := !migFills s && !locInked s (copySource s s.mig.readPos)

/-- The next read can go: the staging has room, the ceiling allows it, and the source has a free entry. -/
def readCan (s : State) : Bool :=
  s.mig.readPos < rankLines && s.mig.readPos < s.mig.pointer + 2 * chunkLines && migUsed s + 4 ≤ migCeil s &&
  (migFills s || batchBlank s || (takesDispatch s s.mig.ch && canRead s s.mig.ch false))

/-- An index lies in the chunk of line i. -/
def sameChunk (i j : Nat) : Bool := i / chunkLines = j / chunkLines

/-- Reads of the chunk of line i are queued or under way. -/
def chunkReading (s : State) (i : Nat) : Bool :=
  let ch := s.chan s.mig.ch
  (ch.reads ++ ch.inflight.map (·.1)).any (fun e => e.kind = .migRead && sameChunk e.loc.index i)

/-- The lines of the next write that hold something. -/
def toWrite (s : State) : List Nat := (batch s.mig.writePos).filter (fun i => (tfind s.mig.staged i).isSome)

/-- The next write can go: its half of the staging is full, and the target has a free entry. -/
def drainCan (s : State) : Bool :=
  let i := s.mig.writePos
  i < rankLines && (i / chunkLines + 1) * chunkLines ≤ s.mig.readPos && !chunkReading s i &&
  (toWrite s = [] || match copyTarget s i with
    | some l => takesDispatch s l.ch && canWrite s l.ch false
    | none => false)

/-- The dispatch group of the migration's flow, when it can go: Guaranteed below its floor, and then as the rest (R134). -/
def migGroup (s : State) : Option Nat :=
  if copyRuns s && (readCan s || drainCan s) then some (if migUsed s < 64 * 313 then 1 else 2) else none

/-- Four lines are requested from the source. -/
def migRead (s : State) : State :=
  let i := s.mig.readPos
  let src := copySource s i
  let blank := batchBlank s
  let fills := migFills s
  let next : Mig := { s.mig with
    readPos := i + 4
    st := if rankLines ≤ i + 4 then .finish else .copy
    win := s.elapsed / 64
    used := if blank then migUsed s else migUsed s + 4 }
  let s := { s with mig := next }
  if blank then s
  else if fills then
    { s with mig := { s.mig with staged := (batch i).foldl (fun t j => tput t j zeroWords) s.mig.staged } }
  else
    let line := match dpaOfLoc s routeFuel src with | some x => x / 64 | none => dpaNone
    pushRead s (mkEntry s .migRead false src ((List.range 4).map (src.col + ·)) line)

/-- Four lines go to the target; an entry's words are those of the staging when it issues (R254). -/
def migDrain (s : State) : State :=
  let i := s.mig.writePos
  let is := toWrite s
  let s := { s with mig := { s.mig with writePos := i + 4 } }
  match copyTarget s i with
  | some l => if is = [] then s else pushWrite s (mkEntry s .migWrite false l (is.map (fun j => l.col + (j - i))) i)
  | none => s

def migStep (s : State) : State := if drainCan s then migDrain s else migRead s

/-! ### Dispatch (R134, R252) -/

/-- The migration's flow goes before the request that the flows would send: its group is first, or its turn has come in the
round of the group, after the highest flow. -/
def migFirst (s : State) : Bool :=
  match migGroup s with
  | none => false
  | some g =>
    match pickReq s with
    | none => true
    | some r =>
      let last := (tfind s.flw.rr g).getD 16384
      g < group s r || (g = group s r && r.flow ≤ last && last < 16384)

/-- A turn of a dispatch group has gone to a flow; 16384 stands for the migration's. -/
def turnTaken (s : State) (g f : Nat) : State := { s with flw := { s.flw with rr := tput s.flw.rr g f } }

/-- One request of a flow leaves the flow engine. -/
def dispatchReq (s : State) (r : Req) : State :=
  serveReq ((turnTaken s (group s r) r.flow).modFlowR r.flow (fun f =>
    { f with dispatched := sat f.dispatched r.units })) r

/-- REQUEST_DISPATCH (R134): one request of a flow, or the next step of a migration, leaves the flow engine. -/
def execRequestDispatch (s : State) : Host.Outcome State Fault Refusal :=
  answer s (
    if migFirst s then migStep (turnTaken s ((migGroup s).getD 1) 16384)
    else match pickReq s with
      | none => s
      | some r => dispatchReq s r)

/-! ### The pointer (R253) -/

/-- The pointer has reached the end: the rank is retired, its entries become FREE and it rests (R250, R253, R339). -/
def migrationComplete (s : State) : State :=
  let c := s.mig.ch
  let k := s.mig.rank
  let r := s.rank c k
  let toRes := s.mig.toRes
  let s := setRank s c k { r with
    st := if k = 4 then .spareUnusable else if toRes then .retiredReserve else .retiredSpare
    oldPtr := 0
    fillOnly := false }
  let s := if toRes then s else setRank s c 4 { s.rank c 4 with st := .spareHolding, holder := BitVec.ofNat 3 k }
  let s := stopMig s
  let s := { s with mig := { s.mig with migrations := sat s.mig.migrations 1 } }
  let s := s.modEccOf c (fun e => { e with remap := e.remap.filter (fun x => x.2.loc.rank ≠ k) })
  let s := setSr (resetRankInsts (clearOwed s c k) c k) c k true
  evacDone (tierParkChecks (budgetDue (settleSpareSr s c))) c

/-- A write to a line of the chunk at the pointer is queued. -/
def chunkWriting (s : State) : Bool :=
  let r := s.rank s.mig.ch s.mig.rank
  (s.chan s.mig.ch).writes.any (fun e => e.kind ≠ .migWrite && sameChunk e.loc.index s.mig.pointer &&
    (e.loc.rank = s.mig.rank || (e.loc.rank = 4 && e.loc.index < r.oldPtr)))

/-- Every target write of the chunk at the pointer, and every write to a line of it that was queued, has issued. -/
def chunkDone (s : State) : Bool :=
  s.mig.pointer + chunkLines ≤ s.mig.writePos && s.mig.staged.all (fun e => !sameChunk e.1 s.mig.pointer) &&
  !chunkWriting s

/-- MIGRATION_POINTER_ADVANCE (R253). -/
def execMigrationPointerAdvance (s : State) : Host.Outcome State Fault Refusal :=
  answer s (
    if !copyRuns s || !chunkDone s then s
    else
      let ts := migTargets s
      let s := { s with mig := { s.mig with pointer := s.mig.pointer + chunkLines } }
      let s := if migTargets s = ts then s else budgetDue s
      rerouteAll (if rankLines ≤ s.mig.pointer then migrationComplete s else s))

end Sys2Proof.Machine
end

