-- ==== Sys2Proof/Machine/Engines.lean ====
section
/-! DEFINITION. Move engines and check units: acceptance (R278–R282), execution (R283–R288), contexts (R289–R292) and the
events that meet them (R293). -/

namespace Sys2Proof.Machine

def engQ (s : State) (f : Nat) : EngQ := tget {} s.pool.queues f
def setEngQ (s : State) (f : Nat) (q : EngQ) : State := { s with pool := { s.pool with queues := tset {} s.pool.queues f q } }

/-! ### Descriptors (R278) -/

/-- Bytes i to j−1 of a descriptor as a number, most significant byte first. -/
def dBytes (d : Line) (i j : Nat) : Nat := ((List.range (j - i)).map (fun k => (lineByte d (i + k)).toNat)).foldl (fun a b => a * 256 + b) 0

def parseDesc (f q after : Nat) (d : Line) : Desc :=
  let b0 := lineByte d 0
  { flow := f, op := b0.extractLsb' 4 4, order := b0.getLsbD 3, init := b0.getLsbD 2, final := b0.getLsbD 1,
    alive := (lineByte d 1).extractLsb' 4 4, tag := BitVec.ofNat 12 (dBytes d 2 4),
    srcPrv := dBytes d 4 6 % 1024, srcOff := dBytes d 6 11 % 2 ^ 36, dstPrv := dBytes d 11 13 % 1024,
    dstOff := dBytes d 13 18 % 2 ^ 36, len := dBytes d 18 22 % 2 ^ 30 + 1, pattern := BitVec.ofNat 64 (dBytes d 32 40),
    after := after, ctx := 0, started := false, next := 0, second := false, done := 0, group := 1, buf := [], bad := 0,
    stop := none, poisAt := none, out := [], queue := q }

def Desc.usesSrc (d : Desc) : Bool := d.op ≠ 2
def Desc.usesDst (d : Desc) : Bool := d.op ≠ 4
def Desc.writes (d : Desc) : Bool := d.op = 1 || d.op = 2

/-- R278's zero bits, of the fields that the operation uses, and the alignment of R279. -/
def descFormed (d : Desc) (x : Line) : Bool :=
  1 ≤ d.op.toNat && d.op.toNat ≤ 4 && !(lineByte x 0).getLsbD 0 && (lineByte x 1).extractLsb' 0 4 = 0 &&
  dBytes x 2 4 < 2 ^ 12 && dBytes x 18 22 < 2 ^ 30 && dBytes x 22 32 = 0 && dBytes x 40 64 = 0 &&
  (!d.usesSrc || (dBytes x 4 6 < 2 ^ 10 && dBytes x 6 11 < 2 ^ 36)) &&
  (!d.usesDst || (dBytes x 11 13 < 2 ^ 10 && dBytes x 13 18 < 2 ^ 36)) &&
  (d.op = 4 || (d.len % 64 = 0 && (!d.usesSrc || d.srcOff % 64 = 0) && d.dstOff % 64 = 0))

/-- An invalid province has count 0 (R88). -/
def rangeBad (s : State) (p off len : Nat) : Bool :=
  (if (provCfg s p).valid then (provCfg s p).count.toNat else 0) * 2 ^ 26 < off + len

def permBad (s : State) (f : FlowCfg) (p : Nat) (wr : Bool) : Bool :=
  let c := provCfg s p
  !c.valid || !c.enabled || !f.provs.getLsbD p || c.kind = 1 || (wr && !c.writable)

/-- The context a CHECKSUM of the flow uses. -/
def flowCtx (s : State) (f : Nat) : Ctx := s.ctx (flowCfg s f).ctx.toNat

def poolUsed (s : State) : Nat := (s.pool.queues.map (fun e => e.2.descs.length)).foldl (· + ·) 0

/-- The first failing check of R280: 0 when none fails. -/
def descReason (s : State) (d : Desc) (x : Line) : Nat :=
  let f := flowCfg s d.flow
  let meets := d.op = 1 && d.srcPrv = d.dstPrv && d.srcOff < d.dstOff + d.len && d.dstOff < d.srcOff + d.len
  if !descFormed d x then 1
  else if (d.usesSrc && rangeBad s d.srcPrv d.srcOff d.len) || (d.usesDst && rangeBad s d.dstPrv d.dstOff d.len) then 2
  else if (d.usesSrc && permBad s f d.srcPrv false) || (d.usesDst && permBad s f d.dstPrv d.writes) then 3
  else if meets then 4
  else if d.op = 4 && (!f.ctxV || (flowCtx s d.flow).width = 0) then 5
  else if d.op = 4 && (flowCtx s d.flow).aliveV && (flowCtx s d.flow).lastAlive = d.alive then 6
  else if 8 ≤ (engQ s d.flow).descs.length then 7
  else if 2048 ≤ poolUsed s then 8
  else 0

/-- Every present engine is fenced. -/
def enginesFenced (s : State) : Bool := (List.range (nEngs s.variant)).all (fun e => (s.eng e).st = .fenced)

/-- A refused ENGINE request: the reason is recorded, and ALIVE posts ALIVE_REPEAT (R282, R288). -/
def refuseDesc (s : State) (r : Req) (d : Desc) (why : Nat) : State :=
  let s := { s with pool := { s.pool with reason := BitVec.ofNat 4 why, refFlow := BitVec.ofNat 14 d.flow } }
  let s := if why = 6 then
      postFlow s d.flow 8 ((d.tag ++ d.alive ++ (flowCfg s d.flow).ctx ++ 0#10 : BitVec (12 + 4 + 14 + 10)))
    else s
  addReq s { r with stage := .done, status := .refused }

/-- The descriptor enters its flow's queue (R280–R282). -/
def acceptDesc (s : State) (r : Req) (d : Desc) : State :=
  let s := if d.op = 4 then
      s.modCtx (flowCfg s d.flow).ctx.toNat (fun c => { c with lastAlive := d.alive, aliveV := true })
    else s
  let q := engQ s d.flow
  let s := setEngQ s d.flow { q with descs := q.descs ++ [d], lastTag := d.tag }
  addReq s { r with stage := .done, status := .ok }

/-- ENGINE (R280): the request passes lookup with 0 units; then the stack judges its descriptor, and after it whether every
engine is fenced, or the data path answers FENCED (R118, R309). -/
def execEngine (h : ReqHdr) (desc : BitVec 512) (s : State) : Host.Outcome State Fault Refusal :=
  answer s (lookup s .engine 10 h (bytesOf 64 desc.toNat) 0 0 (fun s r =>
    let d := parseDesc h.flow (flowCfg s h.flow).queue.toNat r.id desc
    let why := descReason s d desc
    if why ≠ 0 then refuseDesc s r d why
    else if enginesFenced s || stackDown s || s.sec.lc = 3 then addReq s { r with stage := .done, status := .fenced }
    else acceptDesc s r d))

/-! ### Starting (R283, R289, R291) -/

/-- The engine can work. -/
def engOn (s : State) (e : Nat) : Bool :=
  engPresent s.variant e && domOn s (41 + e) && !s.flt.fatal && !underLogic s 2 e

/-- The flow's head descriptor can be taken: none running, none parked; CHECKSUM waits for PD51. -/
def headReady (s : State) (q : EngQ) : Bool :=
  q.running.isNone && !q.parked &&
  match q.descs with
  | d :: _ => d.op ≠ 4 || domOn s 51
  | [] => false

/-- The flow that an idle engine serves next: by class, round robin within it. -/
def pickEngFlow (s : State) : Option Nat :=
  let fs := (s.pool.queues.filter (fun e => headReady s e.2)).map (·.1)
  (List.range 3).findSome? (fun cls =>
    let xs := fs.filter (fun f => (min (flowCfg s f).cls.toNat 2) = cls)
    let last := (tfind s.pool.rr cls).getD 16384
    match xs.find? (fun f => last < f) with
    | some f => some f
    | none => xs.head?)

/-- The running descriptor of engine e with its flow. -/
def running (s : State) (e : Nat) : Option (Nat × Desc) :=
  (s.pool.queues.find? (fun q => q.2.running = some e)).bind (fun q => q.2.descs.head?.map (fun d => (q.1, d)))

/-- Replace the head descriptor of a flow. -/
def putHead (s : State) (f : Nat) (d : Desc) : State :=
  let q := engQ s f
  setEngQ s f { q with descs := d :: q.descs.drop 1 }

/-- The context with the value and count that the check units hold (R291). -/
def Ctx.withWork (c : Ctx) (w : BitVec 64 × W48) : Ctx := { c with value := w.1, count := w.2 }
def Ctx.work (c : Ctx) : BitVec 64 × W48 := (c.value, c.count)

/-- A descriptor starts or resumes: a CHECKSUM takes its context, which is busy until its record is posted, and its units
take V (R289–R291). -/
def startDesc (s : State) (f : Nat) (d : Desc) : State :=
  if d.op ≠ 4 then putHead s f { d with started := true }
  else if d.started then putHead s f { d with work := (s.ctx d.ctx).work }
  else
    let n := (flowCfg s f).ctx.toNat
    let c := s.ctx n
    if c.width = 0 then putHead s f { d with started := true, ctx := n, stop := some (4, 0) }
    else
      putHead (s.setCtx n { c with busy := true }) f
        { d with started := true, ctx := n, work := (if d.init then c.start else c).work }

/-- The units write V back to the context (R291). -/
def saveWork (s : State) (d : Desc) : State :=
  if d.op = 4 && d.started then s.modCtx d.ctx (fun c => c.withWork d.work) else s

/-- ENGINE_DESCRIPTOR_START (R283). -/
def execEngineDescriptorStart (e : Nat) (s : State) : Host.Outcome State Fault Refusal :=
  answer s (
    if !engOn s e || (s.eng e).st ≠ .idle || (running s e).isSome || s.pwr.hold then s
    else match pickEngFlow s with
      | none => s
      | some f =>
        match (engQ s f).descs.head? with
        | none => s
        | some d =>
          let s := startDesc s f d
          let s := setEngQ s f { engQ s f with running := some e }
          let s := { s with pool := { s.pool with rr := tput s.pool.rr (min (flowCfg s f).cls.toNat 2) f } }
          s.modEng e (fun x => { x with
            st := if d.op = 4 then .waitUnit else .run
            flow := f
            op := d.op
            tag := d.tag
            lines := BitVec.ofNat 24 d.done }))

/-- Check units that are free. -/
def freeUnits (s : State) : List Nat :=
  if !domOn s 51 then []
  else (List.range 16).filter (fun u => chkPresent s.variant u && !(s.chk u).busy && !(s.chk u).out && !underLogic s 3 u)

/-- CHECK_UNIT_CLAIM (R291): up to four free units, at least one. -/
def execCheckUnitClaim (e : Nat) (s : State) : Host.Outcome State Fault Refusal :=
  answer s (
    match running s e with
    | some (_, d) =>
      let us := (freeUnits s).take 4
      if (s.eng e).st = .waitUnit && us ≠ [] then
        let s := foldS us (fun s u => s.modChk u (fun x => { x with
          busy := true
          ctx := BitVec.ofNat 14 d.ctx
          engine := BitVec.ofNat 2 e })) s
        s.modEng e (fun x => { x with st := .run })
      else s
    | none => s)

/-- Check units that serve engine e. -/
def unitsOf (s : State) (e : Nat) : List Nat := (List.range 16).filter (fun u => (s.chk u).busy && (s.chk u).engine.toNat = e)

def freeUnitsOf (s : State) (e : Nat) : State := foldS (unitsOf s e) (fun s u => s.modChk u (fun x => { x with busy := false })) s

/-! ### Line requests (R283–R286, R369) -/

/-- Lines of the range, from the line that holds its first byte. -/
def Desc.lines (d : Desc) : Nat := if d.op = 4 then (d.srcOff % 64 + d.len + 63) / 64 else d.len / 64

/-- Lines of the next step: a 256 B request where source and destination permit. -/
def Desc.step (d : Desc) : Nat :=
  let a := !d.usesSrc || (d.srcOff / 64 + d.next) % 4 = 0
  let b := !d.usesDst || (d.dstOff / 64 + d.next) % 4 = 0
  if a && b && d.next + 4 ≤ d.lines then 4 else 1

/-- The request that the descriptor needs next: a write, and its province and offset. -/
def Desc.target (d : Desc) : Bool × Nat × Nat :=
  let src := (d.srcPrv, (d.srcOff / 64 + d.next) * 64)
  let dst := (d.dstPrv, (d.dstOff / 64 + d.next) * 64)
  if d.op = 1 then (if d.second then (true, dst) else (false, src))
  else if d.op = 2 then (true, dst)
  else if d.op = 3 then (false, if d.second then dst else src)
  else (false, src)

def opFor (wr : Bool) (n : Nat) : Op := if wr then (if n = 4 then .write256 else .write64) else if n = 4 then .read256 else .read64

/-- Data of a write step: the buffer of a COPY, or the pattern of a FILL. -/
def Desc.payload (d : Desc) (n : Nat) : BitVec 2048 :=
  let pat : Line := BitVec.ofNat 512 ((List.range 8).foldl (fun a _ => a * 2 ^ 64 + d.pattern.toNat) 0)
  let ls := if d.op = 2 then List.replicate n pat else d.buf
  BitVec.ofNat 2048 ((List.range 4).foldl (fun a i => a * 2 ^ 512 + (ls.getD i 0).toNat) 0)

/-- Units per beat that an engine may issue (R283, R369). -/
def engCap (s : State) : Nat := if s.pwr.kp.toNat < 64 then 1000 * s.pwr.kp.toNat / 64 else 1000

/-- The descriptor parks at its line, and its check-unit value is saved (R284). -/
def parkDesc (s : State) (e f : Nat) (d : Desc) : State :=
  let s := saveWork s d
  let s := setEngQ s f { engQ s f with running := none, parked := true }
  let s := freeUnitsOf s e
  s.modEng e (fun x => { x with st := .idle, flow := 0, op := 0, lines := 0, tag := 0, parks := x.parks + 1 })

/-- Order = 1: the first request waits for the flow's earlier host requests (R286). -/
def orderHolds (s : State) (d : Desc) : Bool :=
  d.order && d.next = 0 && !d.second && s.reqs.any (fun r => r.flow = d.flow && r.eng.isNone && r.id < d.after)

/-- ENGINE_LINE_REQUEST (R284): one request of the running descriptor passes flow lookup. It is of the Other class (R162). -/
def issueLine (s : State) (e f : Nat) (d : Desc) (ns : Nat) : State :=
  let n := if d.second then d.group else d.step
  let t := d.target
  let op := opFor t.1 n
  let st := lookupStatus s op none f t.2.1 t.2.2
  if st = .outOfBudget then parkDesc s e f d
  else
    let s := countOutcome s f st
    if st = .ok then
      let r := { mkReq s op 0 f t.2.1 d.tag t.2.2 ns (if t.1 then d.payload n else 0) 0 with
        eng := some e, fixed := false, poison := if d.op = 1 && d.second then d.bad else 0 }
      let s := addReq (charge s f op.units ns) r
      let s := s.modEng e (fun x => { x with issued := x.issued + op.units })
      putHead s f { d with group := n, out := d.out ++ [r.id] }
    else putHead (saveWork s d) f { d with stop := some (if st = .fenced then 3 else 4, d.next) }

def execEngineLineRequest (e ns : Nat) (s : State) : Host.Outcome State Fault Refusal :=
  answer s (
    match running s e with
    | some (f, d) =>
      if engOn s e && (s.eng e).st = .run && !s.pwr.hold && d.stop.isNone && !d.aborting && d.out = [] && d.next < d.lines &&
          !orderHolds s d && (s.eng e).issued + (if d.second then d.group else d.step) ≤ engCap s &&
          s.rst.phase ≠ .quiesce && s.rst.phase ≠ .held then
        issueLine s e f d ns
      else s
    | none => s)

/-! ### Completions of engine requests (R285) -/

/-- The data lines of a completed read, poisoned ones as zeros. -/
def readLines (r : Req) (n : Nat) : List Line := (List.range n).map (fun i => (tfind r.rdata i).getD 0)

/-- Lines that the read found poisoned. -/
def poisonBits (r : Req) : BitVec 4 := r.linesPois

/-- First line of a step at which a COMPARE stops: result code and place in the step. -/
def compareStop (a b : List Line) (bad : BitVec 4) : Nat → Option (Nat × Nat)
  | 0 => none
  | n + 1 =>
    match compareStop a b bad n with
    | some r => some r
    | none => if bad.getLsbD n then some (2, n) else if a.getD n 0 ≠ b.getD n 0 then some (1, n) else none

/-- Bytes of line i of the range that lie inside it. -/
def Desc.inside (d : Desc) (i : Nat) (x : Line) : List Byte :=
  let lo := d.srcOff % 64
  ((List.range 64).filter (fun j => lo ≤ 64 * i + j && 64 * i + j < lo + d.len)).map (lineByte x)

/-- Feed a step's lines, in order, up to the first poisoned one; the answer is how many were fed. -/
def feedLines (c : Ctx) (d : Desc) (bad : BitVec 4) : Nat → List Line → Ctx × Nat
  | i, x :: xs =>
    if bad.getLsbD i then (c, i)
    else feedLines ((d.inside (d.next + i) x).foldl Ctx.feed c) d bad (i + 1) xs
  | i, [] => (c, i)

def bytesRead (s : State) (e n : Nat) : State :=
  perf (s.modEng e (fun x => { x with bytesRd := x.bytesRd + BitVec.ofNat 72 (64 * n) })) 0x400 e (64 * n)

def bytesWritten (s : State) (e n : Nat) : State :=
  perf (s.modEng e (fun x => { x with bytesWr := x.bytesWr + BitVec.ofNat 72 (64 * n) })) 0x401 e (64 * n)

/-- The step's lines are done. -/
def stepOver (s : State) (e f : Nat) (d : Desc) : State :=
  let d := { d with next := d.next + d.group, done := d.done + d.group, second := false, buf := [], bad := 0 }
  putHead (if d.aborting then s else s.modEng e (fun x => { x with lines := BitVec.ofNat 24 d.done })) f d

/-- A request of the descriptor has completed with a data status. -/
def stepData (s : State) (e f : Nat) (d : Desc) (r : Req) : State :=
  let n := d.group
  let xs := readLines r n
  let pb := poisonBits r
  if d.op = 1 && !d.second then putHead (bytesRead s e n) f { d with second := true, buf := xs, bad := pb }
  else if d.op = 1 then
    let bads := (List.range n).filter (fun i => d.bad.getLsbD i)
    let s := (bytesWritten s e n).modEng e (fun x => { x with poisonCp := sat x.poisonCp bads.length })
    stepOver s e f { d with poisAt := match d.poisAt with | some i => some i | none => bads.head?.map (d.next + ·) }
  else if d.op = 2 then stepOver (bytesWritten s e n) e f d
  else if d.op = 3 && !d.second then putHead (bytesRead s e n) f { d with second := true, buf := xs, bad := pb }
  else if d.op = 3 then
    let s := bytesRead s e n
    match compareStop d.buf xs (d.bad ||| pb) n with
    | some (res, i) => putHead s f { d with stop := some (res, d.next + i) }
    | none => stepOver s e f d
  else
    let s := bytesRead s e n
    let c := (s.ctx d.ctx).withWork d.work
    let r := feedLines c d pb 0 xs
    let s := perf s 0x500 ((unitsOf s e).headD 0) (r.1.count.toNat - c.count.toNat)
    let d := { d with work := r.1.work }
    if r.2 < n then putHead (saveWork s d) f { d with stop := some (2, d.next + r.2) } else stepOver s e f d

/-- A completed engine request acts on its descriptor, also on one that is to end ABORTED (R293). -/
def engineConsume (s : State) (e : Nat) (r : Req) : State :=
  let s := dropReq s r.id
  match running s e with
  | none => s
  | some (f, d0) =>
    if !d0.out.contains r.id then s
    else
      let d := { d0 with out := d0.out.filter (· ≠ r.id) }
      if d.stop.isSome then putHead s f d
      else if r.status.isData then stepData s e f d r
      else putHead (saveWork s d) f { d with stop := some (if r.status = .fenced then 3 else 4, d.next) }

/-- COMPLETION_FORMED (R109, R116, R118, R284): a request whose outcome is known leaves. In Fatal only a request that
arrived in DOWN receives a completion. -/
def execCompletionFormed (id : Nat) (s : State) : Host.Outcome State Fault Refusal :=
  answer s (match findReq s id with
    | some r =>
      if r.stage ≠ .done || (stackDown s && !r.inDown) then s
      else match r.eng with
        | some e => engineConsume s e r
        | none => sendCmp (dropReq s id) r.port r.orphan (mkCmp r)
    | none => s)

/-! ### The end of a descriptor (R287, R293) -/

/-- Post the ENGINE_DONE record of a descriptor. -/
def postDone (s : State) (d : Desc) (result value : Nat) : State :=
  let v : BitVec 40 := (d.tag ++ BitVec.ofNat 4 result ++ BitVec.ofNat 24 value : BitVec (12 + 4 + 24))
  if (flowCfg s d.flow).valid then postFlow s d.flow 7 v
  else if (queueCfg s d.queue).valid then pushRecord s d.queue 7 d.flow false v
  else s

/-- Result and value of a descriptor that has ended, with its context. -/
def doneValue (d : Desc) (c : Ctx) : Nat × Nat :=
  match d.stop with
  | some (res, i) => (res, i)
  | none =>
    if d.aborting then (5, d.next)
    else match d.poisAt with
      | some i => (2, i)
      | none => (0, if d.op = 4 then (if d.final then c.finish.result.toNat else c.value.toNat) % 2 ^ 24 else 0)

/-- The running descriptor of an engine ends: its context takes V and is freed, its record is posted, and the entry is
free again. -/
def endDesc (s : State) (e f : Nat) (d : Desc) : State :=
  let s := saveWork s d
  let c := s.ctx d.ctx
  let rv := doneValue d c
  let s := if d.op = 4 && d.started then
      s.setCtx d.ctx { (if rv.1 = 0 && d.final then c.finish else c) with busy := false }
    else s
  let s := freeUnitsOf s e
  let s := setEngQ s f { engQ s f with descs := (engQ s f).descs.drop 1, running := none }
  let s := s.modEng e (fun x => { x with
    st := if x.st = .fenced then .fenced else .idle
    flow := 0
    op := 0
    lines := 0
    tag := 0
    descs := x.descs + 1
    aborts := if rv.1 = 5 then sat x.aborts 1 else x.aborts })
  postDone s d rv.1 rv.2

/-- ENGINE_DONE (R286, R287): every request of the descriptor has had its completion formed. -/
def execEngineDone (e : Nat) (s : State) : Host.Outcome State Fault Refusal :=
  answer s (match running s e with
    | some (f, d) => if d.out = [] && (d.stop.isSome || d.aborting || d.lines ≤ d.next) && !s.flt.fatal then endDesc s e f d else s
    | none => s)

/-- The running descriptor is to end ABORTED with the next index: its requests under way complete first (R293). -/
def abortRunning (s : State) (e : Nat) : State :=
  match running s e with
  | none => s
  | some (f, d) =>
    let d := { d with aborting := true }
    let s := putHead s f d
    if d.out = [] then endDesc s e f d else s

/-- The engine is reset (R293, R296): status, progress and tag clear at once. -/
def resetEngine (s : State) (e : Nat) : State :=
  abortRunning (s.modEng e (fun x => { x with st := .idle, flow := 0, op := 0, tag := 0, lines := 0 })) e

/-- Fence: engine e (R341), until warm reset or engine reset. -/
def fenceEngine (s : State) (e : Nat) : State := abortRunning (s.modEng e (fun x => { x with st := .fenced })) e

/-- A write of ENG_CTRL (R294, R339). -/
def engCtrlWrite (e : Nat) (data : Word) (s : State) : Status × State :=
  (.ok, if data.getLsbD 23 then resetInst (resetEngine s e) 0x3E e else s)

/-- ENGINE_RESET. -/
def execEngineReset (via : Via) (e : Nat) (data : Word) (s : State) : Host.Outcome State Fault Refusal :=
  answer s (if e < 4 then mgmtWrite s via (.eng e) 0 data (engCtrlWrite e data) else s)

/-- PD51 leaves ON: running CHECKSUM descriptors end ABORTED (R293). -/
def checkUnitsLeave (s : State) : State :=
  foldS (List.range 4) (fun s e => match running s e with
    | some (_, d) => if d.op = 4 then abortRunning s e else s
    | none => s) s

/-- Warm reset: everything stops without a record, and contexts stay (R293). -/
def engineWarm (s : State) : State :=
  let s := { s with pool := {} }
  let s := { s with ctxs := s.ctxs.map (fun c => (c.1, { c.2 with busy := false })) }
  let s := foldS (List.range 4) (fun s e => s.modEng e (fun x => { x with
    st := .idle, flow := 0, op := 0, lines := 0, tag := 0, qSel := 0, issued := 0 })) s
  foldS (List.range 16) (fun s u => s.setChk u {}) s

/-- A flow became invalid by amendment: its running descriptor ends ABORTED, its queued ones are discarded (R293). -/
def dropFlowDescs (s : State) (f : Nat) : State :=
  let q := engQ s f
  match q.running with
  | some e =>
    let rest := q.descs.drop 1
    let s := setEngQ s f { q with descs := q.descs.take 1 }
    let s := abortRunning s e
    rest.foldl (fun s d => postDone s d 5 0) s
  | none =>
    let s := setEngQ s f { q with descs := [], parked := false }
    q.descs.foldl (fun s d =>
      let s := if d.op = 4 && d.started then s.modCtx d.ctx (fun c => { c with busy := false }) else s
      postDone s d 5 0) s

/-- A parked descriptor becomes eligible again at its flow's next window edge (R284). -/
def unparkFlow (s : State) (f : Nat) : State :=
  if (engQ s f).parked then setEngQ s f { engQ s f with parked := false } else s

/-! ### Contexts (R292, R297, R298) -/

/-- Store a context value within its width. -/
def fitWidth (c : Ctx) : Ctx :=
  let m := fun (x : BitVec 64) => BitVec.ofNat 64 (x.toNat % 2 ^ c.width.toNat)
  { c with poly := m c.poly, init := m c.init, xorout := m c.xorout, value := m c.value, result := m c.result }

/-- A write through the window of check unit u; `n` is the access path. -/
def chkWrite (n u off : Nat) (data : Word) (s : State) : Status × State :=
  let i := (s.chk u).sel.toNat
  let c := s.ctx i
  let addr := addrOf (.chk u) off
  let put := fun (s : State) (c : Ctx) => s.setCtx i { fitWidth c with aliveV := false }
  let v := fun (cur : BitVec 64) => BitVec.ofNat 64 (commitValue s n addr 3 cur.toNat data)
  if off = 0x10 then (.ok, s.modChk u (fun x => { x with sel := data.extractLsb' 10 14 }))
  else if off < 0x11 || 0x1D < off then (.ok, s)
  else if c.busy then (.refused, s)
  else if off = 0x11 then
    let w := data.extractLsb' 17 7
    if w.toNat < 8 || 64 < w.toNat then (.refused, s)
    else (.ok, put s { c with width := w, refin := data.getLsbD 16, refout := data.getLsbD 15 })
  else if off = 0x14 then (.ok, dropHeld (put s { c with poly := v c.poly }) n addr 3)
  else if off = 0x17 then (.ok, dropHeld (put s { c with init := v c.init }) n addr 3)
  else if off = 0x1A then (.ok, dropHeld (put s { c with xorout := v c.xorout }) n addr 3)
  else if off = 0x1D then (.ok, dropHeld (put s { c with value := v c.value }) n addr 3)
  else (.ok, holdWord s n addr data)

/-- CONTEXT_WRITE. -/
def execContextWrite (via : Via) (u offset : Nat) (data : Word) (s : State) : Host.Outcome State Fault Refusal :=
  answer s (if u < 16 && 0x10 ≤ offset && offset ≤ 0x1D then
    mgmtWrite s via (.chk u) offset data (chkWrite via.port u offset data) else s)

end Sys2Proof.Machine
end

