-- ==== Sys2Proof/Machine/Ports.lean ====
section
/-! DEFINITION. Garublink ports: training, recovery, replay, credits and transmit slots (R93–R126, R304, R369, R458). -/

namespace Sys2Proof.Machine

/-! ### States (R96) -/

/-- The width that the lanes which pass the margin check give (R97 step 2): 2 four lanes, 1 two lanes on a pair. -/
def widthOf (ok : BitVec 4) : Option (BitVec 2 × Bool) :=
  if ok = 0xF then some (2, false)
  else if ok.getLsbD 0 && ok.getLsbD 1 then some (1, false)
  else if ok.getLsbD 2 && ok.getLsbD 3 then some (1, true)
  else none

/-- Lanes that carry flits at a width. -/
def lanesOn (w : BitVec 2) : Nat := if w = 2 then 4 else if w = 1 then 2 else 0

def lanesUsed (w : BitVec 2) (pair : Bool) : BitVec 4 := if w = 2 then 0xF else if pair then 0xC else 0x3

/-- Foreign: the announced identity differs from the bond's, or the port is unbound (R95, R122). -/
def foreignNow (s : State) (n : Nat) : Bool :=
  match bondOf s.tables n with
  | some (_, b) => (s.port n).hostSeen ≠ b.host
  | none => true

/-- The state of a port that may run: DETECT, or OFF while disabled or without power. -/
def idleSt (s : State) (n : Nat) : PortSt :=
  if (s.port n).disable || !domOn s (1 + n) || underLogic s 1 n then .off else .detect

/-- Flits flow (R101). -/
def flitsFlow (s : State) (n : Nat) : Bool :=
  portPresent s.variant n && ((s.port n).st = .active || (s.port n).st = .down)

/-- What a port holds of traffic when it stops: nothing (R116, R111). -/
def Port.quiet (p : Port) : Port :=
  { p with
    rxq := []
    freed := []
    mgtIn := []
    mgtOut := []
    cmpOut := []
    cmpPart := none
    ctrlOut := []
    replayBuf := []
    resend := []
    nakDue := false
    discarding := false
    nakSeq := none
    nakRun := 0
    secondTry := false
    rxLanes := []
    rxBits := []
    txBits := []
    txLanes := []
    sent := none }

/-- The buffer entries of descriptors that are discarded are free again (R116, R125). -/
def Port.freeDescs (p : Port) : Port :=
  { p with
    descFree := p.descFree + p.rxq.length
    dataFree := p.dataFree + (p.rxq.map (fun d => opCredits d.op.toNat)).foldl (· + ·) 0 }

/-- Completions of the port that are not sent whole: one whose bytes are under way, and those that wait (R109). -/
def Port.unsent (p : Port) : List Cmp :=
  (match p.cmpPart with | some (c, _) => [c] | none => []) ++ p.cmpOut

/-- Event records that wait in a port's control messages return to the front of their queues (R116, R148; DEDUCED, log 136). -/
def returnEvents (s : State) (ms : List CtrlMsg) : State :=
  ms.foldr (fun m s => match m with
    | .event q r => s.modEvq q (fun e => { e with recs := r :: e.recs })
    | .credit _ _ _ => s) s

/-- A port entered FAILED, OFF or SIGNAL_DOWN (R116, R304): what has not passed lookup is discarded, its session closes,
event records stay in their queues, and completions go to another port of the bond or are counted. A completion whose
flits are sent counts as delivered, acknowledged or not (DESIGN CHOICE, log 112). -/
def portDown (s : State) (n : Nat) : State :=
  let cs := (s.port n).unsent
  let s := returnEvents s (s.port n).ctrlOut
  let s := closeSession (s.modPort n (fun p => p.freeDescs.quiet)) n
  let s := { s with
    heldAcc := s.heldAcc.filter (fun a => a.via.port ≠ n)
    reqs := s.reqs.map (fun r => if r.port = n && r.eng.isNone then { r with orphan := true } else r) }
  budgetDue (cs.foldl (fun s c => sendCmp s n true c) s)

/-- The lanes of a port that carries no flits. -/
def Port.noLanes (p : Port) : Port := { p with width := 0, pair := false, inUse := 0 }

/-- A port enters OFF (R96). -/
def portOff (s : State) (n : Nat) : State :=
  if (s.port n).st = .off then s
  else portDown (s.modPort n (fun p => { p.noLanes with st := .off, signal := 0, orderedSet := none })) n

/-- A port enters FAILED (R96). -/
def portFailed (s : State) (n : Nat) : State :=
  if (s.port n).st = .failed then s
  else portDown (s.modPort n (fun p => { p.noLanes with st := .failed, orderedSet := none })) n

/-- The codeword in progress ends with IDLE flits (R118; DESIGN CHOICE for what fills it, log 113). -/
def Port.endCodeword (p : Port) : Port :=
  if p.txBits = [] then p
  else
    let idle := bitsOf (TxFlit.idle.bytes p.txSeq)
    let bits := p.txBits ++ idle ++ idle ++ idle ++ idle ++ idle ++ idle
    { p with txLanes := encodePair (lanesOn p.width) (bits.take 10280), txBits := [] }

/-- Fatal or Gale takes the ports in ACTIVE, RECOVERY and DOWN to SIGNAL_DOWN together (R118). In Fatal the requests not
yet completed receive no completion. -/
def portsDown (s : State) (gale : Bool) : State :=
  let ns := (List.range 8).filter (fun n =>
    (s.port n).st = .active || (s.port n).st = .recovery || (s.port n).st = .down)
  let s := foldS ns (fun s n => s.modPort n (fun p => { p.endCodeword with st := .signalDown, orderedSet := some gale })) s
  let s := foldS ns (fun s n =>
    let last := (s.port n).txLanes
    (portDown s n).modPort n (fun p => { p with txLanes := last })) s
  { s with reqs := s.reqs.map (fun r => { r with inDown := false }) }

/-- What a port reset and a warm reset do to a port (R126, R458, R339): the status, lanes, credits, marker and identity
clear; the counting registers, disable and the bond fields stay. -/
def portClear (s : State) (n : Nat) : State :=
  let s := portDown s n
  let p := s.port n
  let clear : Port :=
    { disable := p.disable
      fecCorr := p.fecCorr
      fecUncorr := p.fecUncorr
      replays := p.replays
      recoveries := p.recoveries
      cmpDiscard := p.cmpDiscard }
  let s := emptyPath (s.setPort n clear) n
  foldS [0, 1, 2, 3, 4, 5, 6] (fun s src => resetInst s src n) (budgetDue s)

/-- A port reset: on the marker port it is a loss of the markers too (R54). -/
def portReset (s : State) (n : Nat) : State := portClear (merPortLost s n) n

/-- RECOVERY from ACTIVE or DOWN (R96, R114); `count` where GLK_RECOVERY is raised (R335). -/
def enterRecovery (s : State) (n : Nat) (count : Bool) : State :=
  if !flitsFlow s n then s
  else
    let s := budgetDue (s.modPort n (fun p => { p with
      st := .recovery
      secondTry := false
      recoveries := sat p.recoveries 1
      nakSeq := none
      nakRun := 0
      identSeen := false
      versionOk := true }))
    if count then raise s 0x03 n else s

/-! ### GLK_CTRL (R121) -/

/-- A write of GLK_CTRL: retrain, then reset, then disable. -/
def glkCtrlWrite (n : Nat) (data : Word) (s : State) : Status × State :=
  let dis := data.getLsbD 21
  let s := if data.getLsbD 23 then enterRecovery s n false else s
  let s := if data.getLsbD 22 then portReset s n else s
  let s := s.modPort n (fun p => { p with disable := dis })
  let s := if dis then portOff s n
    else if (s.port n).st = .off then s.modPort n (fun p => { p with st := idleSt s n }) else s
  (.ok, s)

def execGlkRetrain (via : Via) (n : Nat) (data : Word) (s : State) : Host.Outcome State Fault Refusal :=
  answer s (if n < 8 then mgmtWrite s via (.glk n) 0 data (glkCtrlWrite n data) else s)

def execGlkPortReset (via : Via) (n : Nat) (data : Word) (s : State) : Host.Outcome State Fault Refusal :=
  answer s (if n < 8 then mgmtWrite s via (.glk n) 0 data (glkCtrlWrite n data) else s)

def execGlkDisableWrite (via : Via) (n : Nat) (data : Word) (s : State) : Host.Outcome State Fault Refusal :=
  answer s (if n < 8 then mgmtWrite s via (.glk n) 0 data (glkCtrlWrite n data) else s)

/-! ### Training (R97, R107) -/

/-- Full REQ grants are due: the stack is ready for data and not in Fatal (R111, R118). -/
def grantsFull (s : State) : Bool := s.rst.phase = .ready && !s.flt.fatal

/-- PORT_DETECT_SIGNAL (R96, R124): the lanes that carry signal; signal on every lane of a pair takes a port in DETECT to
TRAIN, and credits reset (R111). -/
def execPortDetectSignal (n : Nat) (lanes : BitVec 4) (s : State) : Host.Outcome State Fault Refusal :=
  answer s (
    if !portPresent s.variant n || (s.port n).st = .off then s
    else
      let go := (s.port n).st = .detect && (widthOf lanes).isSome
      s.modPort n (fun p =>
        let p := { p with signal := lanes }
        if go then
          { p.quiet with
            st := .train
            identSeen := false
            versionOk := true
            descCredit := 0
            dataCredit := 0
            mgtInUse := 0
            mgtRspCr := 0
            evtCr := 0 }
        else p))

/-- Training ends without success: DETECT at once, no fault (R96). -/
def trainEnds (s : State) (n : Nat) : State :=
  if (s.port n).st = .train then s.modPort n (fun p => { p.noLanes with st := .detect }) else s

def execTrainingFail (n : Nat) (s : State) : Host.Outcome State Fault Refusal := answer s (trainEnds s n)

def execTrainingTimeout (n : Nat) (s : State) : Host.Outcome State Fault Refusal := answer s (trainEnds s n)

/-- The initial grant of the first CTRL flit (R97 step 5, R110, R111). -/
def initialGrant (full : Bool) : List CtrlMsg :=
  [.credit 0 (if full then 1024 else 0) true, .credit 1 (if full then 2048 else 0) true, .credit 2 64 true]

/-- The lanes found by a training or a recovery. -/
def Port.lanesFound (p : Port) (ok : BitVec 4) (w : BitVec 2) (pair : Bool) : Port :=
  { p with width := w, pair := pair, failed := ~~~ok, inUse := lanesUsed w pair }

/-- ACTIVE at two lanes raises GLK_LANE_DEGRADE; a foreign port that is bound raises GLK_FOREIGN (R335). -/
def trainRaises (s : State) (n : Nat) : State :=
  let p := s.port n
  let s := if p.width = 1 && p.st = .active then raise s 0x00 n else s
  if p.foreign && (bondOf s.tables n).isSome then raise s 0x04 n else s

/-- TRAINING_COMPLETE (R97): width, identity check, sequence start, initial grant; after Fatal the port stays in DOWN. The
identity step has not ended before a TRAIN flit has come. -/
def execTrainingComplete (n : Nat) (lanesOk : BitVec 4) (s : State) : Host.Outcome State Fault Refusal :=
  answer s (
    if !portPresent s.variant n || (s.port n).st ≠ .train then s
    else match widthOf lanesOk with
      | none => trainEnds (s.modPort n (fun p => { p with failed := ~~~lanesOk })) n
      | some (w, pair) =>
        if !(s.port n).identSeen then s
        else if !(s.port n).versionOk then trainEnds s n
        else
          let full := grantsFull s
          let fgn := foreignNow s n
          let s := s.modPort n (fun p => { p.quiet.lanesFound lanesOk w pair with
            st := if s.flt.fatal then .down else .active
            foreign := fgn
            rxSeq := 0
            txSeq := 0
            rxAny := false
            descFree := 1024
            dataFree := 2048
            descCredit := if full then 1024 else 0
            dataCredit := if full then 2048 else 0
            ctrlOut := initialGrant full
            ctrlGap := 31
            mgtGap := 142
            ackGap := 0 })
          budgetDue (trainRaises s n))

/-- Byte i of a payload. -/
def payByte (payload : List Byte) (i : Nat) : Byte := (payload[i]?).getD 0

/-- A TRAIN flit (R107): identity, preset, width, and in RECOVERY the last number received good. A link version
whose high nibble is not 1 fails step 4. -/
def trainFlit (s : State) (n : Nat) (payload : List Byte) : State :=
  s.modPort n (fun p => { p with
    identSeen := true
    versionOk := (payByte payload 0).extractLsb' 4 4 = 1
    hostSeen := payByte payload 2 ++ payByte payload 3 ++ payByte payload 4
    preset := (payByte payload 5).extractLsb' 0 4
    widthAsked := (payByte payload 6).toNat
    lastGood := if p.st = .recovery then (payByte payload 7 ++ payByte payload 8).extractLsb' 0 12 else p.lastGood })

/-- The lanes in use of a TRAIN flit: before the width step, what the lanes with signal give (DESIGN CHOICE, log 109). -/
def trainWidth (p : Port) : Nat :=
  lanesOn (if p.width ≠ 0 then p.width else match widthOf p.signal with | some (w, _) => w | none => 0)

/-- The TRAIN flit that the port sends in TRAIN and RECOVERY (R107): the preset that its receiver asks for is a free
value (log 109). -/
def trainTx (p : Port) (n idx : Nat) : TxFlit :=
  .train n (Config.preset idx) (trainWidth p) (if p.st = .recovery then p.rxSeq - 1 else 0)

/-! ### Recovery (R96, R114, R115) -/

/-- A recovery attempt fails: the second starts at once; when it fails too the port is FAILED. -/
def recoveryFails (s : State) (n : Nat) : State :=
  if (s.port n).st ≠ .recovery then s
  else if !(s.port n).secondTry then s.modPort n (fun p => { p with secondTry := true, identSeen := false, versionOk := true })
  else raise (portFailed s n) 0x01 n

/-- TRAIN_FLIT_RECEIVE: the payload as R107 divides it: version and port, identity, preset and width, and from byte 7 on the
last number received good and zeros. -/
def execTrainFlitReceive (n : Nat) (header : BitVec 128) (head ident asks tail : List Byte) (s : State) :
    Host.Outcome State Fault Refusal :=
  answer s (
    if !portPresent s.variant n || header.extractLsb' 124 4 ≠ 5 then s
    else if (s.port n).st = .train || (s.port n).st = .recovery then
      let s := trainFlit s n (head ++ ident ++ asks ++ tail)
      if (s.port n).versionOk then s
      else if (s.port n).st = .train then trainEnds s n else recoveryFails s n
    else s)

/-- RECOVERY_ENTRY (R114): a loss of signal also shows in GLK_LANES (R124). -/
def execRecoveryEntry (n : Nat) (why : RetrainTrigger) (s : State) : Host.Outcome State Fault Refusal :=
  answer s (
    let s := match why with
      | .signalLoss lanes => if flitsFlow s n then s.modPort n (fun p => { p with signal := p.signal &&& ~~~lanes }) else s
      | _ => s
    enterRecovery s n true)

/-- The flits that follow number `seq` in a replay buffer: all of them when it is not in the buffer. -/
def afterSeq (buf : List (BitVec 12 × TxFlit)) (seq : BitVec 12) : List (BitVec 12 × TxFlit) :=
  if buf.any (fun e => e.1 = seq) then (buf.dropWhile (fun e => e.1 ≠ seq)).drop 1 else buf

/-- RECOVERY_COMPLETE (R114, R115): both ends replay from the number after the last good one; the port is ACTIVE again,
or DOWN in Fatal, at the width found. -/
def execRecoveryComplete (n : Nat) (lanesOk : BitVec 4) (s : State) : Host.Outcome State Fault Refusal :=
  answer s (
    if !portPresent s.variant n || (s.port n).st ≠ .recovery then s
    else match widthOf lanesOk with
      | none => recoveryFails (s.modPort n (fun p => { p with failed := ~~~lanesOk })) n
      | some (w, pair) =>
        if !(s.port n).identSeen then s
        else
        let fgn := foreignNow s n
        let s := s.modPort n (fun p =>
          let rest := afterSeq p.replayBuf p.lastGood
          { p.lanesFound lanesOk w pair with
            st := if s.flt.fatal then .down else .active
            foreign := fgn
            replayBuf := rest
            resend := rest
            resendNak := false
            nakDue := false
            discarding := false
            rxLanes := []
            rxBits := []
            txBits := []
            secondTry := false })
        budgetDue (trainRaises s n))

def execRecoveryAttemptFail (n : Nat) (s : State) : Host.Outcome State Fault Refusal := answer s (recoveryFails s n)

/-! ### Receiving flits (R101–R106, R110–R112, R120) -/

/-- The descriptor of a slot of a REQ header. -/
def slotDesc (flow province : Nat) (x : BitVec 50) : RxDesc :=
  { flow := flow, province := province, op := x.extractLsb' 46 4, tag := x.extractLsb' 34 12, line := x.extractLsb' 4 30 }

/-- A flit or message that is discarded under GLK_PROTOCOL. -/
def protocolDiscard (s : State) (n : Nat) : State := raise s 0x02 n

/-- Descriptors, data credits and stream bytes of a list of descriptors. -/
def descCreditsOf (ds : List RxDesc) : Nat := (ds.map (fun d => opCredits d.op.toNat)).foldl (· + ·) 0
def descBytesOf (ds : List RxDesc) : Nat := (ds.map (fun d => opBytes d.op.toNat)).foldl (· + ·) 0

/-- Bytes of the stream that are write data: enables and engine descriptors are not. -/
def writeBytesOf (ds : List RxDesc) : Nat :=
  (ds.map (fun d => match d.op.toNat with | 4 => 64 | 5 => 128 | 6 => 256 | 7 => 64 | _ => 0)).foldl (· + ·) 0

/-- Give the bytes of a REQ payload to the descriptors that are owed some, in order (R106). -/
def giveBytes : List RxDesc → List Byte → List RxDesc
  | [], _ => []
  | d :: ds, bs =>
    let k := opBytes d.op.toNat - d.data.length
    { d with data := d.data ++ bs.take k } :: giveBytes ds (bs.drop k)

/-- A REQ flit (R104, R106, R111). In DOWN no credit is granted, and what arrives completes FENCED (R118). -/
def reqFlit (s : State) (n : Nat) (h : BitVec 128) (payload : List Byte) : State :=
  let s := perf s 0x010 n 1
  let flow := (h.extractLsb' 110 14).toNat
  let prov := (h.extractLsb' 100 10).toNat
  let a := slotDesc flow prov (h.extractLsb' 50 50)
  let b := slotDesc flow prov (h.extractLsb' 0 50)
  if a.op = 0 && b.op ≠ 0 then protocolDiscard s n
  else
    let ds := [a, b].filter (fun d => d.op ≠ 0)
    let p := s.port n
    let beyond := p.st ≠ .down && (p.descCredit < ds.length || p.dataCredit < descCreditsOf ds)
    if beyond then protocolDiscard s n
    else
      perf (s.setPort n { p with
        rxq := giveBytes (p.rxq ++ ds) payload
        descFree := p.descFree - ds.length
        dataFree := p.dataFree - descCreditsOf ds
        descCredit := p.descCredit - ds.length
        dataCredit := p.dataCredit - descCreditsOf ds }) 0x015 n (writeBytesOf ds)

/-- An MGT flit (R120, R111): requests wait for their turn; another op is discarded and raises GLK_PROTOCOL. -/
def mgtFlit (s : State) (n : Nat) (payload : List Byte) : State :=
  let s := perf s 0x012 n 1
  let ms := (messagesOf payload).filter (fun m => m.extractLsb' 60 4 ≠ 0)
  let good := ms.filter (fun m => m.extractLsb' 60 4 = 1 || m.extractLsb' 60 4 = 2)
  if 64 < (s.port n).mgtInUse + good.length then protocolDiscard s n
  else
    let s := s.modPort n (fun p => { p with
      mgtInUse := p.mgtInUse + good.length
      mgtIn := p.mgtIn ++ good.map (fun m =>
        { write := m.extractLsb' 60 4 = 2, tag := m.extractLsb' 52 8, addr := m.extractLsb' 24 24, data := m.extractLsb' 0 24 }) })
    if good.length < ms.length then protocolDiscard s n else s

/-! ### Acknowledgements, credits and markers (R110–R112, R119) -/

/-- An acknowledgement (R112): flits up to the number acknowledged leave the replay buffer. -/
def ackTake (s : State) (n : Nat) (seq : BitVec 12) : State :=
  if (s.port n).replayBuf.any (fun e => e.1 = seq) then
    s.modPort n (fun p => { p with
      replayBuf := afterSeq p.replayBuf seq
      resend := if p.resend.any (fun e => e.1 = seq) then afterSeq p.resend seq else p.resend })
  else s

/-- A NAK (R112, R114): resend from the number; the fourth NAK in a row for one number, or a number outside the replay
buffer, starts RECOVERY. -/
def nakTake (s : State) (n : Nat) (seq : BitVec 12) : State :=
  let p := s.port n
  if !p.replayBuf.any (fun e => e.1 = seq) then enterRecovery (protocolDiscard s n) n true
  else
    let run := if p.nakSeq = some seq then p.nakRun + 1 else 1
    if 4 ≤ run then enterRecovery s n true
    else s.setPort n { p with
      nakSeq := some seq
      nakRun := run
      resend := p.replayBuf.dropWhile (fun e => e.1 ≠ seq)
      resendNak := true }

/-- A CREDIT message (R110, R111): the adapter grants MGT responses (class 2) and EVT records (class 3). -/
def creditTake (s : State) (n : Nat) (cls : Nat) (count : BitVec 16) (init : Bool) : State :=
  if cls = 2 then s.modPort n (fun p => { p with mgtRspCr := (if init then 0 else p.mgtRspCr) + count.toNat })
  else if cls = 3 then s.modPort n (fun p => { p with evtCr := (if init then 0 else p.evtCr) + count.toNat })
  else s

/-- How far the edge of a BEAT message lies from its expected place, in ns away from 0: the arrival less the port's receive
delay and the offset in UI of 160/17 ps (R119). -/
def beatDev (n : Nat) (offset : BitVec 17) (atPs : Int) : Int :=
  let x := 17 * (atPs - Config.rxDelay n) - 160 * (offset.toNat : Int)
  if 0 ≤ x then (x + 16999) / 17000 else -((16999 - x) / 17000)

/-- A BEAT message (R119): markers of the port; on the marker port an edge under src 3 and an epoch marker under src 1. -/
def beatTake (s : State) (n : Nat) (epoch : Bool) (offset : BitVec 17) (atPs phaseNs : Int) : State :=
  let dev := beatDev n offset atPs
  let bad := edgeDiscarded s dev
  let s := s.modPort n (fun p => { p with markSeen := true })
  let mine := s.mer.markPort.toNat = n
  if mine && s.mer.src = 3 then
    let t := merEdge s dev phaseNs
    if bad then t
    else
      let t := t.modPort n (fun p => { p with markerOff := offset })
      if epoch then merMark t else t
  else if mine && s.mer.src = 1 && epoch then merMark (s.modPort n (fun p => { p with markerOff := offset }))
  else s

/-- A message of a CTRL flit (R110): a reserved type is discarded; the stack takes no EVENT; a BEAT of a flit that the
adapter resends is ignored (R119; DESIGN CHOICE, log 134). -/
def ctrlMsg (s : State) (n : Nat) (a : Arrival) (m : BitVec 64) : State :=
  match (m.extractLsb' 56 8).toNat with
  | 0 => s
  | 1 => creditTake s n (m.extractLsb' 52 4).toNat (m.extractLsb' 36 16) (m.getLsbD 35)
  | 2 => if a.replayed then s else beatTake s n (m.getLsbD 55) (m.extractLsb' 0 17) a.atPs a.phaseNs
  | 3 => s
  | _ => protocolDiscard s n

/-- A CTRL flit (R110): its acknowledgement, its messages in order, its NAK. -/
def ctrlFlit (s : State) (n : Nat) (a : Arrival) (h : BitVec 128) (payload : List Byte) : State :=
  let s := if h.getLsbD 123 then ackTake s n (h.extractLsb' 111 12) else s
  let s := (messagesOf payload).foldl (fun s m => ctrlMsg s n a m) s
  if h.getLsbD 110 then nakTake s n (h.extractLsb' 98 12) else s

/-! ### FLIT_RECEIVE (R99–R101, R112) -/

/-- A flit passes its CRC at a number that follows the expected one: it is sequenced and later (R112; DEDUCED, log 135). -/
def laterFlit (p : Port) (f : RxFlit) : Bool := (List.range 511).any (fun k => f.passes (p.rxSeq + BitVec.ofNat 12 (k + 1)))

/-- A flit that fails its check (R101, R112): NAK for the expected number; later ones are discarded until it arrives. -/
def discardFlit (p : Port) (f : RxFlit) : Port :=
  if p.discarding && !f.bad && laterFlit p f then p else { p with nakDue := true, discarding := true }

/-- The symbols that arrived on the lanes are decoded, and corrected symbols and uncorrectable codewords counted (R99,
R126, R433). -/
def receiveLanes (s : State) (n : Nat) (lanes : List (List Sym10)) : State :=
  let p := s.port n
  let d := decodePairs (lanesOn p.width) 8 (joinLanes p.rxLanes lanes)
  perf (s.setPort n { p with
    rxLanes := d.1
    rxBits := p.rxBits ++ d.2.1
    fecCorr := p.fecCorr + BitVec.ofNat 72 d.2.2.1
    fecUncorr := p.fecUncorr + BitVec.ofNat 72 d.2.2.2 }) 0x014 n d.2.2.1

/-- A flit of a port whose bits are decoded (R101, R102, R112). -/
def flitIn (s : State) (n : Nat) (a : Arrival) (f : RxFlit) : State :=
  let p := s.port n
  if f.bad || !f.passes p.rxSeq then s.setPort n (discardFlit p f)
  else
    let kind := f.header.extractLsb' 124 4
    if kind = 0 then s
    else
      let s := s.setPort n { p with
        rxSeq := p.rxSeq + 1
        rxAny := true
        ackGap := p.ackGap + 1
        discarding := false
        nakDue := false }
      if kind = 1 then reqFlit s n f.header f.payload
      else if kind = 3 then ctrlFlit s n a f.header f.payload
      else if kind = 4 then mgtFlit s n f.payload
      else protocolDiscard s n

/-- FLIT_RECEIVE: what the lanes carried is decoded, and the next flit of the stream of bits is taken. -/
def execFlitReceive (n : Nat) (arrival : Arrival) (s : State) : Host.Outcome State Fault Refusal :=
  answer s (
    if !flitsFlow s n then s
    else
      let s := receiveLanes s n arrival.lanes
      match takeFlit (s.port n).rxBits with
      | some (f, rest) => flitIn (s.modPort n (fun p => { p with rxBits := rest })) n arrival f
      | none => s)

/-- ACK_RECEIVE: the acknowledgement of a CTRL flit by itself (R112; log 114). -/
def execAckReceive (n : Nat) (seq : BitVec 12) (s : State) : Host.Outcome State Fault Refusal :=
  answer s (if flitsFlow s n then ackTake s n seq else s)

/-- NAK_RECEIVE: the NAK of a CTRL flit by itself (R112, R114; log 114). -/
def execNakReceive (n : Nat) (seq : BitVec 12) (s : State) : Host.Outcome State Fault Refusal :=
  answer s (if flitsFlow s n then nakTake s n seq else s)

/-- CREDIT_MESSAGE: a CREDIT message by itself (R110, R111; log 114). -/
def execCreditMessage (n : Nat) (cls : Nat) (count : BitVec 16) (init : Bool) (s : State) :
    Host.Outcome State Fault Refusal :=
  answer s (if flitsFlow s n then creditTake s n cls count init else s)

/-- BEAT_MESSAGE: a BEAT message by itself (R119; log 114). -/
def execBeatMessage (n : Nat) (epoch : Bool) (offset : BitVec 17) (atPs phaseNs : Int) (s : State) :
    Host.Outcome State Fault Refusal :=
  answer s (if flitsFlow s n then beatTake s n epoch offset atPs phaseNs else s)

/-! ### Credits (R111, R369, R374) -/

/-- How many of the descriptors freed, oldest first, may be credited within a budget of read units. -/
def takeReads : List Nat → Nat → Nat → Nat × Nat
  | [], _, _ => (0, 0)
  | _, 0, _ => (0, 0)
  | u :: r, k + 1, room =>
    if u ≤ room then
      let x := takeReads r k (room - u)
      (x.1 + 1, x.2 + u)
    else (0, 0)

/-- Units per beat of credit return of a port for reads, and as many for writes (R369); none where no cap applies. -/
def creditCap (s : State) : Option Nat :=
  if s.pwr.kp.toNat < 64 then some (13671875 * s.pwr.kp.toNat / (64 * 10000)) else none

/-- CREDIT_RETURN (R111): REQ credits go back as buffers free, never in supply hold or before READY. -/
def execCreditReturn (n descs datas : Nat) (s : State) : Host.Outcome State Fault Refusal :=
  answer s (
    if !(portPresent s.variant n && (s.port n).st = .active) || !grantsFull s || s.pwr.hold then s
    else
      let p := s.port n
      let rd := match creditCap s with | some c => c - p.retRead | none => 2 ^ 24
      let wr := match creditCap s with | some c => c - p.retWrite | none => 2 ^ 24
      let d := takeReads p.freed (min descs (1024 - p.descCredit)) rd
      let k := min (min datas (p.dataFree - p.dataCredit)) wr
      s.setPort n { p with
        freed := p.freed.drop d.1
        retRead := p.retRead + d.2
        retWrite := p.retWrite + k
        descCredit := p.descCredit + d.1
        dataCredit := p.dataCredit + k
        ctrlOut := p.ctrlOut ++ (if d.1 = 0 then [] else [.credit 0 d.1 false]) ++ (if k = 0 then [] else [.credit 1 k false]) })

/-- READY: a port that trained before it gets the full pools (R111, R451). -/
def grantReady (s : State) : State :=
  foldS ((List.range 8).filter (fun n => (s.port n).st = .active || (s.port n).st = .recovery)) (fun s n =>
    s.modPort n (fun p => { p with
      descCredit := p.descFree
      dataCredit := p.dataFree
      freed := []
      ctrlOut := p.ctrlOut ++ [.credit 0 p.descFree true, .credit 1 p.dataFree true] })) s

/-! ### Transmit slots (R102, R103, R109, R110, R120) -/

/-- The entries of a CMP flit and the stream bytes that follow the ones owed: an entry is sent only when every byte of
the entries before it is sent by the end of this flit (R106). -/
def fillCmp : List Cmp → Nat → List Byte → List Cmp × List Byte × List Cmp
  | [], _, bs => ([], bs, [])
  | c :: r, k, bs =>
    if k = 0 || 232 < bs.length then ([], bs, c :: r)
    else
      let x := fillCmp r (k - 1) (bs ++ (c.data.map lineBytes).flatten)
      (c :: x.1, x.2.1, x.2.2)

/-- Bytes owed by the completion that is under way. -/
def Port.owed (p : Port) : List Byte := match p.cmpPart with | some (_, bs) => bs | none => []

/-- The next REQ-or-CMP slot's flit; the last entry sent keeps the bytes that do not fit. -/
def cmpSlot (p : Port) : TxFlit × Port :=
  let x := fillCmp p.cmpOut 5 p.owed
  let rest := x.2.1.drop 232
  let last : Option Cmp := match x.1.getLast? with | some c => some c | none => p.cmpPart.map (fun e => e.1)
  (.cmp x.1 (x.2.1.take 232), { p with cmpOut := x.2.2, cmpPart := if rest = [] then none else last.map (fun c => (c, rest)) })

/-- CTRL messages that fit in `room` messages of 8 B: the two halves of a record stay in one flit (R148). -/
def ctrlTake : Nat → List CtrlMsg → Nat
  | _, [] => 0
  | room, m :: r => if m.words.length ≤ room then ctrlTake (room - m.words.length) r + 1 else 0

/-- The acknowledgement that a CTRL flit carries: the last number received good; none before the first (DEDUCED, log 115). -/
def ackOf (p : Port) : Option (BitVec 12) := if p.rxAny then some (p.rxSeq - 1) else none

/-- MGT credits go back as messages are answered. -/
def mgtCredit (p : Port) : List CtrlMsg :=
  if p.mgtIn.length < p.mgtInUse then [.credit 2 (p.mgtInUse - p.mgtIn.length) false] else []

/-- A CTRL flit with what waits, and a NAK where one is due (R103, R110). -/
def ctrlSlot (p : Port) (nak : Option (BitVec 12)) : TxFlit × Port :=
  let ms := p.ctrlOut ++ mgtCredit p
  let k := ctrlTake 29 ms
  (.ctrl (ackOf p) nak (ms.take k),
    { p with
      ctrlOut := ms.drop k
      mgtInUse := min p.mgtInUse p.mgtIn.length
      nakDue := p.nakDue && nak.isNone
      ackGap := 0 })

/-- The next slot's new flit (R103): a NAK first, then CTRL within its share, MGT within its share, CMP, and IDLE. -/
def nextFlit (p : Port) : TxFlit × Port :=
  let cmpWaits := p.cmpOut ≠ [] || p.cmpPart.isSome
  if 512 ≤ p.replayBuf.length then (.idle, p)
  else if p.nakDue then ctrlSlot p (some p.rxSeq)
  else if 31 ≤ p.ctrlGap && (p.ctrlOut ≠ [] || mgtCredit p ≠ [] || 0 < p.ackGap) then ctrlSlot p none
  else if p.mgtOut ≠ [] && 0 < p.mgtRspCr && (!cmpWaits || 142 ≤ p.mgtGap) then
    let k := min 29 p.mgtRspCr
    (.mgt (p.mgtOut.take k), { p with mgtOut := p.mgtOut.drop k, mgtRspCr := p.mgtRspCr - min k p.mgtOut.length })
  else if cmpWaits then cmpSlot p
  else (.idle, p)

/-- A CTRL flit that counts against the share of 1 slot in 32: one without a NAK (R103). -/
def TxFlit.isCtrl : TxFlit → Bool
  | .ctrl _ none _ => true
  | _ => false

def TxFlit.isMgt : TxFlit → Bool
  | .mgt _ => true
  | _ => false

/-- Counts of a flit sent for the first time (R433). -/
def countSent (s : State) (n : Nat) : TxFlit → State
  | .mgt _ => perf s 0x012 n 1
  | .cmp _ bs => perf (perf s 0x011 n 1) 0x016 n bs.length
  | _ => s

/-- A flit goes out under a sequence number: its bits fill the message bits back to back, and a full pair of codewords goes
to the `w` lanes in use (R98–R101). -/
def Port.transmit (p : Port) (w : Nat) (f : TxFlit) (seq : BitVec 12) : Port :=
  let bits := p.txBits ++ bitsOf (f.bytes seq)
  let p := { p with
    sent := some f
    ctrlGap := if f.isCtrl then 0 else p.ctrlGap + 1
    mgtGap := if f.isMgt then 0 else p.mgtGap + 1 }
  if 10280 ≤ bits.length then
    { p with txBits := bits.drop 10280, txLanes := encodePair w (bits.take 10280) }
  else { p with txBits := bits }

/-- A new flit takes the slot: a sequenced one takes the next number and is kept until it is acknowledged; a CTRL flit that
goes out while a replay runs is sent again at its place behind the replay (R101, R112; DEDUCED, log 116). -/
def sendNew (s : State) (n : Nat) : State :=
  let x := nextFlit (s.port n)
  let q := x.2.transmit (lanesOn x.2.width) x.1 x.2.txSeq
  let q := if x.1 = .idle then q else { q with
    txSeq := q.txSeq + 1
    replayBuf := q.replayBuf ++ [(q.txSeq, x.1)]
    resend := if q.resend = [] then [] else q.resend ++ [(q.txSeq, x.1)] }
  countSent (s.setPort n q) n x.1

/-- During a replay a NAK still takes the next slot, and an acknowledgement may not wait for its end (R103, R112). -/
def ctrlBreaksIn (p : Port) : Bool := p.replayBuf.length < 512 && (p.nakDue || (96 ≤ p.ackGap && 31 ≤ p.ctrlGap))

/-- FLIT_SLOT (R103, R107, R112): one transmit slot. In TRAIN and RECOVERY it carries a TRAIN flit. -/
def execFlitSlot (n : Nat) (s : State) : Host.Outcome State Fault Refusal :=
  answer s (
    let p := s.port n
    if portPresent s.variant n && (p.st = .train || p.st = .recovery) then
      let f := takeFree s
      f.2.setPort n (p.transmit (trainWidth p) (trainTx p n f.1) p.txSeq)
    else if !flitsFlow s n then s
    else match p.resend with
      | e :: r =>
        if ctrlBreaksIn p then sendNew s n
        else if e.2.isCtrl && p.ctrlGap < 31 then s.setPort n (p.transmit (lanesOn p.width) .idle p.txSeq)
        else
          let s := s.setPort n { p.transmit (lanesOn p.width) e.2 e.1 with
            resend := r
            replays := if p.resendNak then p.replays + 1 else p.replays }
          if p.resendNak then perf s 0x013 n 1 else s
      | [] => sendNew s n)

/-- What the transmitters of a port put on their lanes (R96, R97, R118). -/
inductive TxOut where
  | electricalIdle
  /-- PRBS13 at preset 0 on all four lanes. -/
  | prbs13
  | flits
  | stackDown
  | gale
  deriving DecidableEq, Repr

def txOutput (p : Port) : TxOut :=
  match p.st with
  | .off | .failed => .electricalIdle
  | .detect => .prbs13
  | .train | .active | .recovery | .down => .flits
  | .signalDown => match p.orderedSet with
    | some false => .stackDown
    | some true => .gale
    | none => .electricalIdle

/-! ### Event records and ordered sets (R118, R148, R150) -/

/-- EVENT_RECORD_SEND (R148): the head record of queue q leaves as two messages on the lowest ACTIVE or DOWN port of its
bond, against one EVT credit of that port. -/
def execEventRecordSend (q : Nat) (s : State) : Host.Outcome State Fault Refusal :=
  answer s (
    let c := queueCfg s q
    let ports := bondPorts c.bondFirst.toNat c.bondLog2.toNat
    match (s.evq q).recs, ports.find? (fun n => flitsFlow s n) with
    | r :: rest, some n =>
      if !c.valid || (s.port n).evtCr = 0 then s
      else
        let s := s.modEvq q (fun e => { e with recs := rest })
        s.modPort n (fun p => { p with
          evtCr := p.evtCr - 1
          ctrlOut := p.ctrlOut ++ [CtrlMsg.event q r] })
    | _, _ => s)

/-- STACK_DOWN_END (R118): 1 ms of stack-down signalling ends and the port enters DETECT. -/
def execStackDownEnd (n : Nat) (s : State) : Host.Outcome State Fault Refusal :=
  answer s (
    if (s.port n).st = .signalDown && (s.port n).orderedSet = some false then
      s.modPort n (fun p => { p.noLanes with st := idleSt s n, orderedSet := none })
    else s)

end Sys2Proof.Machine
end

