-- ==== Sys2Proof/Machine/Bist.lean ====
section
/-! DEFINITION. The controller reset of a channel (R459) and the built-in tests (R393–R402, R406, R407). -/

namespace Sys2Proof.Machine

/-! ### Channel reset, steps 1 to 3 (R459) -/

/-- A host or engine request in the channel's queues waits at dispatch again. -/
def Req.again (r : Req) : Req :=
  { r with stage := .waiting, status := .ok, linesCorr := 0, linesPois := 0, rdata := [], linesDue := r.op.lines }

/-- The controller of channel c is reset: its queues clear, requests go back to dispatch in lookup order, and what has no
request that waits (a write whose completion was formed, a rewrite, a scrub read) waits for its place again (DEDUCED,
log 141). Ranks enter self-refresh. CHANNEL_RESET_DONE ends it. -/
def channelReset (s : State) (c : Nat) : State :=
  let ch := s.chan c
  let es := ch.reads ++ ch.inflight.map (·.1)
  let ids := es.filterMap (·.req)
  let lines := (es.filter (fun e => e.kind = .mergeRead)).map (·.dpaLine)
  let own := (ch.inflight.filter (fun e => e.1.req.isNone)).map (fun e => { e.1 with cols := [e.2], begun := false })
  let s := { s with reqs := s.reqs.map (fun r => if ids.contains r.id && r.stage = .channel then r.again else r) }
  let s := foldS (List.range 32) (fun s h =>
    s.modChan h (fun x => { x with merge := x.merge.filter (fun l => !lines.contains l) })) s
  let s := s.modChan c (fun x => { x with
    wmode := false
    turnedFrom := none
    rdq := []
    wrq := []
    rdWait := own ++ ch.reads.filter (fun e => e.req.isNone)
    wrWait := ch.writes
    inflight := []
    banks := keepNrf ch.banks
    wakeAt := []
    acts := 0
    maxWait := 0
    maxWaitFx := 0
    lastColPs := none
    actTimes := []
    refTimes := []
    draws := 0 })
  let s := s.modRfrOf c (fun r => { r with owedSel := 0 })
  let s := { s with rst := { s.rst with chanBusy := s.rst.chanBusy.filter (· ≠ c) ++ [c] } }
  settleChan (sleepRanks s c) c

/-! ### Start conditions (R394) -/

/-- Channels `first` to `last` of the converter read between `lo` and `hi` mV in the last round. -/
def railsWithin (s : State) (first n : Nat) (lo hi : Int) : Bool :=
  s.hkp.lastOk && (List.range n).all (fun i =>
    let x := tget {} s.hkp.last (first + i)
    !x.atEnd && decide (lo ≤ x.value) && decide (x.value ≤ hi))

/-- The rail of a kind lies within 3 % of its nominal value (R394). -/
def railGood (s : State) (kind : Nat) : Bool := if kind < 3 then railsWithin s 70 4 1067 1133 else railsWithin s 64 4 728 772

/-- Kind 3: how many instances a unit has in the numbering of the family. -/
def unitCount (unit : Nat) : Nat := match unit with | 0 => 16 | 1 => 8 | 2 => 4 | 3 => 16 | 4 => 1 | 5 => 4 | _ => 0

/-- Kind 3: the variant has the instance. -/
def unitThere (s : State) (unit i : Nat) : Bool :=
  match unit with
  | 1 => portPresent s.variant i
  | 2 => engPresent s.variant i
  | 3 => chkPresent s.variant i
  | 4 => hasCipher s.variant
  | _ => true

/-- Kind 3: the unit is neither fenced nor in a domain that is not ON. -/
def unitWorks (s : State) (c unit i : Nat) : Bool :=
  match unit with
  | 0 => domOn s (9 + c)
  | 1 => domOn s (1 + i) && (s.port i).st ≠ .failed
  | 2 => domOn s (41 + i) && (s.eng i).st ≠ .fenced
  | 3 => domOn s 51 && !(s.chk i).out
  | 4 => domOn s 45 && !s.cip.fenced
  | _ => domOn s (46 + i)

/-- Reason 5 does not stand in the way. -/
def stateAllows (s : State) (c kind k unit i : Nat) : Bool :=
  let st := (s.sprOf c).st
  (st = .normal || st = .laneDegraded) &&
  (if kind = 3 then unitWorks s c unit i
   else if kind < 2 then (s.rank c k).st ≠ .fenced && domOn s (52 + tierOf c k)
   else true)

/-- The lowest reason of 1 to 5 that refuses a test, 0 with none. -/
def startReason (s : State) (c kind k unit i : Nat) (destroy : Bool) : Nat :=
  let r := (s.rank c k).st
  if bstBusy s c || (s.bstOf c).st = .wait then 1
  else if kind < 2 && (r = .pending || r = .migrating || migUses s c k) then 1
  else if kind = 0 && !destroy && (r = .inService || r = .spareHolding) then 2
  else if !railGood s kind || s.pwr.hold then 3
  else if s.pwr.limEff.toNat < 18 then 4
  else if !stateAllows s c kind k unit i then 5
  else 0

def bistRefuse (s : State) (c reason : Nat) : Status × State :=
  (.refused, s.modBstOf c (fun b => { b with result := if bstBusy s c || b.st = .wait then b.result else 5, reason := BitVec.ofNat 3 reason }))

/-- BST_CTRL.start. -/
def bistRequest (c : Nat) (data : Word) (startup : Bool) (s : State) : Status × State :=
  let kind := (data.extractLsb' 19 3).toNat
  let k := (data.extractLsb' 16 3).toNat
  let unit := (data.extractLsb' 10 3).toNat
  let i := (data.extractLsb' 6 4).toNat
  if 3 < kind || 4 < k || (kind = 3 && unitCount unit ≤ i) then bistRefuse s c 6
  else if kind < 2 && !rankPresent s.variant k then (.absent, s)
  else if kind = 3 && !unitThere s unit i then (.absent, s)
  else
    let why := startReason s c kind k unit i (data.getLsbD 15)
    if why ≠ 0 then bistRefuse s c why
    else
      (.ok, { s.modBstOf c (fun b => { b with
        st := .wait
        result := 0
        reason := 0
        kind := BitVec.ofNat 3 kind
        rank := BitVec.ofNat 3 k
        unit := BitVec.ofNat 3 unit
        inst := BitVec.ofNat 4 i
        background := data.extractLsb' 13 2
        order := s.bstNext
        startup := startup }) with bstNext := s.bstNext + 1 })

/-! ### Limits and start (R395, R396, R397, R400) -/

/-- The test counts among the four. -/
def Bst.limited (b : Bst) : Bool := b.kind.toNat < 3 || b.unit = 0

def Bst.busy (b : Bst) : Bool := b.st = .setup || b.st = .run || b.st = .refill

/-- The limits allow the waiting test of channel c, and none that they bind waits before it. -/
def limitAllows (s : State) (c : Nat) : Bool :=
  let b := s.bstOf c
  if !b.limited then true
  else
    let run := s.bst.filter (fun e => e.2.busy && e.2.limited)
    run.length < 4 && !(b.kind.toNat < 2 && run.any (fun e => e.2.kind.toNat < 2 && e.2.rank ≠ b.rank)) &&
    !s.bst.any (fun e => e.2.st = .wait && e.2.limited && e.2.order < b.order)

/-- The rank's lines leave the buffer: an MBIST destroys what they would be written to. -/
def dropRankLines (s : State) (c k : Nat) : State :=
  let on := fun (l : LbLine) => match locate s (l.dpaLine * 64) with
    | some x => x.ch = c && x.rank = k
    | none => false
  foldS (List.range 32) (fun s h => dropIf on s h) s

/-- The channels of a quarter (R169). -/
def quarterChans (q : Nat) : List Nat := (List.range 8).map (8 * q + ·)

/-- The dirty lines of a quarter that has left service go to the write queues (R172). -/
def emptyQuarter (s : State) (q : Nat) : State := foldS (quarterChans q) refillWb s

/-- A quarter holds no dirty line, and none of its write-backs waits in a channel queue (R172). -/
def quarterDrained (s : State) (q : Nat) : Bool :=
  (quarterChans q).all (fun c => dirtyLines s c = []) &&
  (List.range 32).all (fun c => (s.chan c).writes.all (fun e => !(e.kind = .writeBack && homeChan s e.dpaLine / 8 = q)))

/-- The lines of a quarter that has left service, all but what it still has to write back: it starts empty (R172). -/
def dropQuarter (s : State) (q : Nat) : State := foldS (quarterChans q) (dropIf (fun l => !l.dirty)) s

/-- Kind 3 takes its unit out of service (R400). -/
def isolate (s : State) (unit i : Nat) : State :=
  match unit with
  | 1 => portOff s i
  | 2 => resetEngine s i
  | 3 => if (s.chk i).busy then abortRunning s (s.chk i).engine.toNat else s
  | 4 =>
    if s.sec.gate && s.sec.gateKind = 1 then s
    else
      let s := if s.sec.gate then closeGate s else s
      startZeroise { s with sec := { s.sec with wanted := some .cipherBist } } false
  | 5 => emptyQuarter s i
  | _ => s

/-- BIST_BEGIN (R395): every row of the channel closes (R166); a rank under MBIST owes no refresh (R197), and Zephyr passes
over it (R397). -/
def execBistBegin (c : Nat) (s : State) : Host.Outcome State Fault Refusal :=
  answer s (
    let b := s.bstOf c
    let k := b.rank.toNat
    let kind := b.kind.toNat
    if b.st ≠ .wait || s.flt.fatal || !limitAllows s c ||
        startReason (s.setBstOf c { b with st := .done }) c kind k b.unit.toNat b.inst.toNat true ≠ 0 then s
    else
      let s := s.modBstOf c (fun b => { b with
        runs := sat b.runs 1
        backTo := (s.chan c).target
        st := if kind = 3 && b.unit ≠ 0 then .run else .setup })
      let s := if kind < 3 || b.unit = 0 then closeRows s c else s
      let s := if kind = 0 then notePassed (clearOwed (rerouteAll (dropRankLines s c k)) c k) c else s
      let s := if kind < 2 && k = 4 then setSr s c 4 (rankRests s c 4) else s
      if kind = 3 then (if b.unit = 0 then s else isolate s b.unit.toNat b.inst.toNat)
      else if (s.chan c).current = 1 && (s.chan c).seq = .idle && (s.chan c).st ≠ .closed then
        settleChan (s.modBstOf c (fun b => { b with st := .run })) c
      else requestPoint s c 1 3)

/-! ### The end of a test (R398, R399, R401, R402) -/

/-- Kind 3 gives its unit back (R400). -/
def restore (s : State) (c unit i : Nat) : State :=
  match unit with
  | 0 => channelReset s c
  | 1 =>
    let s := portReset s i
    s.modPort i (fun p => { p with st := idleSt s i })
  | 4 =>
    if s.sec.gate then (if s.sec.gateKind = 3 then closeGate s else s)
    else { s with sec := { s.sec with wanted := none } }
  | 5 => dropQuarter s i
  | _ => s

/-! ### Start-up BIST (R453) -/

/-- The start-up tests of the lower kind still run: the next kind waits for them. -/
def startupBusy (s : State) (kind : Nat) : Bool :=
  s.bst.any (fun e => e.2.startup && (e.2.st = .wait || e.2.busy) && e.2.kind.toNat ≠ kind)

/-- Request what the plan allows now: one test per free channel, of the plan's first kind; a test that R394 refuses is
skipped. -/
def requestPlanned (s : State) (x : Nat × Nat × Nat) : State :=
  let kind := x.1
  let c := x.2.1
  match s.rst.bistPlan.head? with
  | none => s
  | some h =>
    if kind ≠ h.1 || startupBusy s kind || bstBusy s c || (s.bstOf c).st = .wait ||
        (s.rst.bistPlan.find? (fun y => y.2.1 = c)) ≠ some x then s
    else
      let s := { s with rst := { s.rst with bistPlan := s.rst.bistPlan.filter (fun y => y ≠ x) } }
      let data := BitVec.ofNat 24 (2 ^ 23 + kind * 2 ^ 19 + x.2.2 * 2 ^ 16 + 2 ^ 15)
      let r := bistRequest c data true s
      if r.1 = .ok then r.2 else { r.2 with rst := { r.2.rst with bistSkipped := true } }

/-- ECC_STATUS.fill of the channels that a fill reaches (R242). -/
def markFill (s : State) (v : BitVec 2) : State :=
  foldS ((List.range 32).filter (fun c => s.rst.fillDue || s.rst.pagesDue || s.rst.fillsDue.any (fun k => k / 5 = c)))
    (fun s c => s.modEccOf c (fun e => { e with fill := v })) s

/-- Step 6: the fills that are due run (R450, R455). -/
def enterFill (s : State) : State := markFill { s with rst := { s.rst with phase := .fill } } 1

/-- Step 5 goes on: the next tests are requested, and step 6 follows the last. -/
def startupNext (s : State) : State :=
  if s.rst.phase ≠ .bist then s
  else
    let s := s.rst.bistPlan.foldl requestPlanned s
    if s.rst.bistPlan = [] && !s.bst.any (fun e => e.2.startup && (e.2.st = .wait || e.2.busy)) then enterFill s else s

/-- The tests of boot_bist, in order. -/
def bistPlanOf (s : State) : List (Nat × Nat × Nat) :=
  let two := (List.range 32).map (fun c => (2, c, 0))
  let ranks := fun (kind : Nat) => ((List.range 32).map (fun c => (ranksOf s.variant).map (fun k => (kind, c, k)))).flatten
  match s.rst.bootBist.toNat with
  | 0 => []
  | 1 => two
  | 2 => two ++ ranks 1
  | _ => two ++ ranks 0

/-- Step 5 (R453). -/
def enterBist (s : State) : State :=
  startupNext { s with rst := { s.rst with phase := .bist, bistPlan := bistPlanOf s } }

/-- The block is free again: the channel returns to its target, and an idle rank 4 rests. -/
def bistFree (s : State) (c : Nat) : State :=
  let b := s.bstOf c
  let s := s.modBstOf c (fun b => { b with st := .done })
  startupNext (
    if b.kind = 3 then (if b.st = .run then restore s c b.unit.toNat b.inst.toNat else s)
    else
      let s := if b.kind.toNat < 2 && b.rank = 4 then setSr s c 4 (rankRests s c 4) else s
      settleChan (requestPoint s c b.backTo 3) c)

/-- A test of kind 0 is followed by its fill; at start-up that fill is step 6 (R401, R453). -/
def bistRefill (s : State) (c : Nat) : State :=
  let b := s.bstOf c
  if b.startup && s.rst.phase = .bist then
    let k := rankKey c b.rank.toNat
    bistFree { s with rst := { s.rst with
      fillsDue := if s.rst.fillsDue.contains k then s.rst.fillsDue else s.rst.fillsDue ++ [k] } } c
  else s.modBstOf c (fun b => { b with st := .refill })

/-- A result as BST_RESULT gives it (R407). -/
def resultWord (kind : Nat) (f : BistFail) : W48 :=
  (1#1 ++ BitVec.ofNat 3 f.rank ++ BitVec.ofNat 3 f.bg ++ BitVec.ofNat 2 f.bank ++ BitVec.ofNat 14 f.row
    ++ BitVec.ofNat 4 f.column ++ BitVec.ofNat 7 f.lane ++ BitVec.ofNat 3 f.beat ++ BitVec.ofBool f.spare
    ++ BitVec.ofNat 2 kind ++ 0#8 : BitVec (1 + 3 + 3 + 2 + 14 + 4 + 7 + 3 + 1 + 2 + 8))

/-- Failures go to the FIFO of 64 and to the Logbook (R402). -/
def recordFails (s : State) (c : Nat) (fails : List BistFail) : State :=
  let kind := match (s.bstOf c).kind.toNat with | 2 => 1 | 3 => 2 | _ => 0
  fails.foldl (fun s f =>
    logJournal (s.modBstOf c (fun b =>
      if b.fifo.length < 64 then { b with fifo := b.fifo ++ [resultWord kind f] } else { b with fifoLost := true })) (.bist c f)) s

/-- A failing spare row is unusable (R398, R421). -/
def markSpare (s : State) (c k bank i : Nat) : State :=
  if (s.rmem (rankKey c k)).badSpares.contains (bank * 16 + i) then s
  else
    let s := s.modRmem (rankKey c k) (fun m => { m with badSpares := m.badSpares ++ [bank * 16 + i] })
    s.modEccOf c (fun e => { e with due := e.due ++ [.spareBad k bank i] })

/-- A failing row is answered by a good free spare row of its bank; the record waits for the next commit point. The flag
says whether every row so far was repaired. -/
def repairFailing (c k : Nat) (acc : State × Bool) (br : Nat × Nat) : State × Bool :=
  let s := acc.1
  match (freeSpares (s.rmem (rankKey c k)) br.1).head? with
  | none => (s.modEccOf c (fun e => { e with exhausted := true }), false)
  | some i =>
    let s := s.modRmem (rankKey c k) (fun m => { m with repair := tput m.repair (br.1 * 16384 + br.2) i })
    let s := s.modEccOf c (fun e => { e with
      rows := sat e.rows 1
      due := e.due ++ [.row k br.1 br.2 i]
      remap := e.remap.filter (fun r => rowOf r.2.loc ≠ (k, br.1, br.2)) })
    (s, acc.2)

/-- The bank of a failure, 0–31. -/
def failBank (f : BistFail) : Nat := 4 * f.bg + f.bank

/-- Kinds 0 and 1: spare rows, then rows for kind 0; whether every failing row was repaired. -/
def applyCells (s : State) (c k : Nat) (rows : Bool) (fails : List BistFail) : State × Bool :=
  let s := (fails.filter (·.spare)).foldl (fun s f => markSpare s c k (failBank f) f.row) s
  if rows then (((fails.filter (fun f => !f.spare)).map (fun f => (failBank f, f.row))).eraseDups).foldl (repairFailing c k) (s, true)
  else (s, true)

/-- Kind 2: a failing lane is confirmed bad under R390, a failing spare is marked bad; whether every lane was steered. -/
def applyLanes (s : State) (c : Nat) (fails : List BistFail) : State × Bool :=
  let s := (fails.filter (·.spare)).foldl (fun s f => spareBad s c f.lane) s
  ((fails.filter (fun f => !f.spare)).map (·.lane)).eraseDups.foldl (fun acc l =>
    if chanFenced acc.1 c || (acc.1.sprOf c).st = .rescue then (acc.1, false)
    else if !spareGone acc.1 c l then (steerLane acc.1 c l, acc.2)
    else if 72 ≤ l then (channelFail acc.1 c, false)
    else
      let r := eraseLane acc.1 c l
      (if r.2 then channelFail r.1 c else r.1, false)) (s, true)

/-- A test of kind 0 found what it could not repair: a rank that held data is retired, an idle rank 4 is unusable. -/
def bistRetires (s : State) (c k : Nat) : State :=
  let r := s.rank c k
  if r.st = .inService || r.st = .spareHolding then
    retireRank (raise (s.setRankRaw c k { r with fillOnly := true }) 0x14 (rankKey c k)) c k 3
  else retireRank s c k 3

/-- The result of a test that ran to its end. -/
def setResult (s : State) (c : Nat) (res : BitVec 3) : State :=
  s.modBstOf c (fun b => { b with result := res, fails := if res = 3 then sat b.fails 1 else b.fails })

/-- The unit under a logic test is ready for it: a quarter has written back, and the cipher's gate is open (R400). -/
def unitReady (s : State) (unit i : Nat) : Bool :=
  match unit with
  | 4 => s.sec.gate && s.sec.gateKind ≠ 2
  | 5 => quarterDrained s i
  | _ => true

/-- BIST_DONE (R398–R400): PASS, REPAIRED or FAIL. A test that pauses the channel is suspended for each Lull slot (R197). -/
def execBistDone (c : Nat) (fails : List BistFail) (s : State) : Host.Outcome State Fault Refusal :=
  answer s (
    let b := s.bstOf c
    let k := b.rank.toNat
    if b.st ≠ .run || s.pwr.hold || s.flt.fatal || (b.kind = 3 && !unitReady s b.unit.toNat b.inst.toNat) ||
        (b.kind = 2 && (s.rfrOf c).inSlot ≠ 0) then s
    else
      let s := recordFails s c fails
      let code := fun (all : Bool) => if fails = [] then (1 : BitVec 3) else if all then 2 else 3
      match b.kind.toNat with
      | 0 =>
        let r := applyCells s c k true fails
        let s := setResult (loseRank r.1 c k) c (code r.2)
        let s := if fails ≠ [] && !r.2 then bistRetires s c k else s
        bistRefill s c
      | 1 =>
        let r := applyCells s c k false fails
        bistFree (setResult r.1 c (code true)) c
      | 2 =>
        let r := applyLanes s c fails
        bistFree (setResult r.1 c (code r.2)) c
      | _ => bistFree (setResult s c (code false)) c)

/-- BIST_FILL_DONE (R401): the rank reads zeros and its state at the start returns. -/
def execBistFillDone (c : Nat) (s : State) : Host.Outcome State Fault Refusal :=
  answer s (
    if (s.bstOf c).st = .refill && !s.pwr.hold && !s.flt.fatal then
      bistFree (fillRank s c (s.bstOf c).rank.toNat) c
    else s)

/-! ### Abort (R401) -/

/-- The test of channel c ends ABORTED; an MBIST is still followed by its fill. -/
def bistAbortOne (s : State) (c : Nat) : State :=
  let b := s.bstOf c
  if b.st = .idle || b.st = .done || b.st = .refill then s
  else if b.kind = 0 && b.st ≠ .wait then
    bistRefill ((loseRank s c b.rank.toNat).modBstOf c (fun b => { b with result := 4 })) c
  else if b.st = .wait then startupNext (s.modBstOf c (fun b => { b with result := 4, st := .done }))
  else bistFree (s.modBstOf c (fun b => { b with result := 4 })) c

/-- Every test ends ABORTED that `sel` picks: a supply hold, or a round off the rail. -/
def bistAbortAll (s : State) (sel : Bst → Bool) : State :=
  foldS (List.range 32) (fun s c => if sel (s.bstOf c) then bistAbortOne s c else s) s

/-- A logic test ends ABORTED when its unit is fenced or its domain leaves ON (R401; DEDUCED for a park, log 156). -/
def abortUnit (s : State) (unit i : Nat) : State :=
  bistAbortAll s (fun b => b.busy && b.kind = 3 && b.unit.toNat = unit && b.inst.toNat = i)

/-- Warm reset aborts every test; a rank under MBIST is filled before READY (R401). -/
def bistWarm (s : State) : State :=
  let due := (s.bst.filter (fun e => mbistOn s e.1 e.2.rank.toNat && e.2.busy)).map (fun e => rankKey e.1 e.2.rank.toNat)
  { s with bst := [], rst := { s.rst with fillsDue := s.rst.fillsDue ++ due.filter (fun k => !s.rst.fillsDue.contains k) } }

/-- A write of BST_CTRL (R406): start, then abort. -/
def bstCtrlWrite (c : Nat) (data : Word) (s : State) : Status × State :=
  let r := if data.getLsbD 23 then bistRequest c data false s else (.ok, s)
  if data.getLsbD 22 then (r.1, bistAbortOne r.2 c) else r

def execBistStart (via : Via) (c : Nat) (data : Word) (s : State) : Host.Outcome State Fault Refusal :=
  answer s (if c < 32 then mgmtWrite s via (.bst c) 0 data (bstCtrlWrite c data) else s)

def execBistAbort (via : Via) (c : Nat) (data : Word) (s : State) : Host.Outcome State Fault Refusal :=
  answer s (if c < 32 then mgmtWrite s via (.bst c) 0 data (bstCtrlWrite c data) else s)

/-- A low-word read of BST_RESULT removes the head entry (R407). -/
def bstResult (n c : Nat) (s : State) : Status × Word × State :=
  let v : W48 := (s.bstOf c).fifo.headD 0
  let s := s.modBstOf c (fun b => { b with fifo := b.fifo.drop 1 })
  (.ok, v.extractLsb' 0 24, s.modPath n (fun p => { p with snap := [v.extractLsb' 0 24, v.extractLsb' 24 24] }))

def execBstResultRead (via : Via) (c : Nat) (s : State) : Host.Outcome State Fault Refusal :=
  answer s (if c < 32 then mgmtRead s via (.bst c) 2 (bstResult via.port c) else s)

end Sys2Proof.Machine
end

