-- ==== Sys2Proof/Machine/Windows.lean ====
section
/-! DEFINITION. Flow windows and their judgement (R132–R137), recomputation of the budgets and evaluation windows (R141,
R144), and the probe of a province (R92). -/

namespace Sys2Proof.Machine

/-! ### Windows -/

/-- A condition of R136 that lasts: shortfall, supply hold, or a Survey, check or steer on a channel the flow uses. -/
def spoiledNow (s : State) (f : FlowCfg) : Bool :=
  s.flw.shortfall || s.pwr.hold ||
  (flowProvs s.tables f).any (fun q => (provChans q.2).any (fun c =>
    laneBusy s c || (s.trnOf c).action = .survey || (s.trnOf c).action = .suspended))

/-- Units of a flow that wait for dispatch. -/
def waitingUnits (s : State) (f : Nat) : Nat :=
  ((s.reqs.filter (fun r => r.flow = f && r.stage = .waiting)).map (·.units)).foldl (· + ·) 0

/-- Judge the window that closes (R136, R137): a span that is no whole window is passed over. -/
def judgeWindow (s : State) (f : Nat) : State :=
  let c := flowCfg s f
  let r := s.flowR f
  if !c.commits || !r.whole then s
  else if r.spoiled then s.modFlowR f (fun r => { r with unjudged := sat r.unjudged 1, lastUnjudged := true, lastMissed := false })
  else if c.guarantee ≤ r.offered && r.dispatched < c.guarantee then
    let s := s.modFlowR f (fun r => { r with missCount := sat r.missCount 1, lastMissed := true, lastUnjudged := false })
    postFlow (raise s 0x38 f) f 1 (r.dispatched.zeroExtend 40)
  else s.modFlowR f (fun r => { r with lastMissed := false, lastUnjudged := false })

/-- Open a window: nothing is charged, and what waits for dispatch counts as offered (R132, R135). -/
def openWindow (s : State) (f : Nat) (whole : Bool) : State :=
  let c := flowCfg s f
  let no := s.elapsed + 1
  let u := waitingUnits s f
  let s := { s with reqs := s.reqs.map (fun (r : Req) =>
    if decide (r.flow ≠ f) then r
    else if decide (r.stage = Stage.waiting) then { r with counted := some no }
    else if r.counted.isNone then { r with counted := some r.window }
    else r) }
  s.modFlowR f (fun r => { r with
    charged := 0
    offered := sat 0 u
    dispatched := 0
    whole := whole
    spoiled := spoiledNow s c
    irqUsed := false
    edge := some s.elapsed })

/-- Close the flow's window and record what it dispatched. -/
def closeWindow (s : State) (f : Nat) : State :=
  let s := judgeWindow s f
  s.modFlowR f (fun r => { r with lastDisp := r.dispatched })

/-- The count is a multiple of the flow's window length (R62). -/
def atEdge (s : State) (c : FlowCfg) : Bool := s.mer.count.toNat % c.window = 0

/-- FLOW_WINDOW_EDGE (R132), once per beat edge. -/
def execFlowWindowEdge (f : Nat) (s : State) : Host.Outcome State Fault Refusal :=
  answer s (
    let c := flowCfg s f
    if c.valid && atEdge s c && (s.flowR f).edge ≠ some s.elapsed then
      unparkFlow (openWindow (closeWindow s f) f true) f
    else s)

/-- A flow becomes valid, or its L changes: it is served from this edge, and a span that is no whole window is not
judged (R133). -/
def startSpan (s : State) (f : Nat) : State :=
  let whole := atEdge s (flowCfg s f)
  let s := openWindow s f whole
  if whole || !(flowCfg s f).commits then s else s.modFlowR f (fun r => { r with unjudged := sat r.unjudged 1 })

/-- Every open window closes unjudged at an epoch load, and budgets restart under the new count (R63, R136). -/
def loadWindows (s : State) (sel : FlowCfg → Bool) : State :=
  foldS ((validFlows s).filter (fun f => sel (flowCfg s f))) (fun s f =>
    let s := s.modFlowR f (fun r => { r with spoiled := true })
    unparkFlow (openWindow (closeWindow s f) f (atEdge s (flowCfg s f))) f) s

/-! ### Recomputation (R141, R144) -/

/-- BUDGET_RECOMPUTE: at the beat edge after an input changed, once for the changes of a beat. -/
def execBudgetRecompute (s : State) : Host.Outcome State Fault Refusal :=
  answer s (if s.flw.due && decide (s.flw.dueSince < s.elapsed) then recompute s else s)

/-- EVALUATION_BOUNDARY: the count is a multiple of 2^eval_log2, once per beat edge. -/
def execEvaluationBoundary (s : State) : Host.Outcome State Fault Refusal :=
  answer s (
    if s.mer.count.toNat % 2 ^ s.tables.evalLog2.toNat = 0 && s.flw.lastEval ≠ some s.elapsed then closeEvaluation s
    else s)

/-! ### PRV_PROBE (R92) -/

/-- Status and location of the line that holds an offset of a province. -/
def probeAt (s : State) (p off : Nat) : W48 :=
  let st := provJudge s p off 1 1 false
  let dpa := (provCfg s p).base.toNat * 2 ^ 26 + off
  match st, locate s dpa with
  | .ok, some l =>
    (BitVec.ofNat 14 l.row ++ 0#10 ++ 0#3 ++ BitVec.ofBool (decide (l ≠ homeLoc s dpa)) ++ BitVec.ofNat 5 l.ch
      ++ BitVec.ofNat 3 l.rank ++ BitVec.ofNat 3 (l.bank / 4) ++ BitVec.ofNat 2 (l.bank % 4) ++ BitVec.ofNat 4 l.col ++ 0#3
      : BitVec (14 + 10 + 3 + 1 + 5 + 3 + 3 + 2 + 4 + 3))
  | st, _ => (0#24 ++ BitVec.ofNat 3 st.code ++ 0#21 : BitVec (24 + 3 + 21))

/-- The high word of PRV_PROBE_OFF commits the offset and runs the probe. -/
def probeWrite (n p : Nat) (data : Word) (s : State) : Status × State :=
  let addr := addrOf (.prv p) 0x3C
  let v := commitValue s n addr 2 (tget (0, 0) s.probes p).1 (data &&& 0xFFF)
  let s := dropHeld s n addr 2
  (.ok, { s with probes := tset (0, 0) s.probes p (v, probeAt s p v) })

/-- PROVINCE_PROBE. -/
def execProvinceProbe (via : Via) (p : Nat) (data : Word) (s : State) : Host.Outcome State Fault Refusal :=
  answer s (if p < 1024 then mgmtWrite s via (.prv p) 0x3C data (probeWrite via.port p data) else s)

end Sys2Proof.Machine
end

