-- ==== Sys2Proof/Machine/Domains.lean ====
section
/-! DEFINITION. Power domains: the floor, parking and waking (R359–R364, R380), and what a unit does when its domain leaves
ON or reaches it (R361, R293, R312, R172). -/

namespace Sys2Proof.Machine

/-! ### The floor and the limit (R364, R367, R138) -/

/-- Floor allowance of a domain in 0.05 W (R359). -/
def allowance (d : Nat) : Nat :=
  if d = 0 then 0
  else if d ≤ 8 then 100
  else if d ≤ 40 then 2
  else if d ≤ 44 then 1
  else if d = 45 then 4
  else if d ≤ 49 then 10
  else if d = 50 then 2
  else if d = 51 then 1
  else 6

/-- The domain draws its allowance: ON, WAKING or CYCLING. -/
def draws (s : State) (d : Nat) : Bool :=
  let x := (s.dom d).st
  x = .on || x = .waking || x = .cycling

/-- The power floor in 5 W steps, with domain `plus` drawing too (R364). -/
def floorWith (s : State) (plus : Nat) : Nat :=
  let sum := (((List.range 72).filter (fun d => d = plus || draws s d)).map allowance).foldl (· + ·) 240
  max 8 ((sum + 99) / 100)

/-- The power floor now. -/
def floorNow (s : State) : Nat := floorWith s 0

/-- L_eff and k_p are recomputed (R367, R138). -/
def recomputePower (s : State) : State :=
  let fl := floorNow s
  let want := min s.tables.limit.toNat (min s.pwr.limFm.toNat s.pwr.ltherm.toNat)
  let eff := max fl want
  let s := { s with pwr := { s.pwr with
    floor := BitVec.ofNat 5 fl
    limEff := BitVec.ofNat 5 eff
    kp := BitVec.ofNat 7 (kpOf eff)
    floorBound := want < fl } }
  budgetDue s

/-! ### Parking (R359, R360) -/

/-- R359 permits domain d to park. -/
def parkAllowed (s : State) (d : Nat) : Bool :=
  if d = 0 then false
  else if 9 ≤ d && d ≤ 40 then chanFenced s (d - 9)
  else if d = 50 then s.mig.st = .idle && (List.range 160).all (fun k => (s.rank (k / 5) (k % 5)).st ≠ .pending)
  else if 52 ≤ d then tierEmpty s (d - 52)
  else true

/-- Logic tests of the unit of domain d end as it leaves ON (R401). -/
def testsLeave (s : State) (d : Nat) : State :=
  if d = 0 then s
  else if d ≤ 8 then abortUnit s 1 (d - 1)
  else if 41 ≤ d && d ≤ 44 then abortUnit s 2 (d - 41)
  else if d = 45 then abortUnit s 4 0
  else if 46 ≤ d && d ≤ 49 then abortUnit s 5 (d - 46)
  else if d = 51 then foldS (List.range 16) (fun s u => abortUnit s 3 u) s
  else s

/-- What the unit of domain d does as the domain leaves ON. -/
def unitLeaves (s : State) (d : Nat) : State :=
  let s := testsLeave s d
  if d = 0 then s
  else if d ≤ 8 then merPortLost (portOff s (d - 1)) (d - 1)
  else if d ≤ 40 then s
  else if d ≤ 44 then abortRunning s (d - 41)
  else if d = 45 then cipherParked s
  else if d ≤ 49 then emptyQuarter s (d - 46)
  else if d = 50 then s
  else if d = 51 then checkUnitsLeave s
  else rerouteAll (tierLeavesOn s (d - 52))

/-- Domain d starts to park and its unit leaves. -/
def beginPark (s : State) (d : Nat) : State := unitLeaves (startPark s d false) d

/-- The unit of domain d has lost its state: its switch has opened (R361). -/
def unitOff (s : State) (d : Nat) : State :=
  if d = 0 then s
  else if d ≤ 8 then s
  else if d ≤ 40 then
    s.modChan (d - 9) (fun ch => { ch with st := if ch.st = .fenced then .fenced else .closed })
  else if 46 ≤ d && d ≤ 49 then dropQuarter s (d - 46)
  else if d = 51 then foldS (List.range 16) (fun s u => s.setChk u {}) s
  else if 52 ≤ d then foldS (chansOfTier (d - 52)) (fun s c => loseRank s c (rankOfTier (d - 52))) s
  else s

/-- The unit's drain is complete: an engine's descriptor has ended, a quarter's write-backs have issued. -/
def unitDrained (s : State) (d : Nat) : Bool :=
  if 41 ≤ d && d ≤ 44 then (running s (d - 41)).isNone
  else if 46 ≤ d && d ≤ 49 then quarterDrained s (d - 46)
  else true

/-- DOMAIN_PARK_DONE (R360): OFF, HELD, or the wait of a cycling domain. -/
def execDomainParkDone (d : Nat) (s : State) : Host.Outcome State Fault Refusal :=
  answer s (
    let x := s.dom d
    if !unitDrained s d then s
    else if x.st = .parking then
      unitOff (s.setDom d { x with st := if x.heldOff then .held else .off }) d
    else if x.st = .cycling && !x.cycWaking && !x.waiting then
      unitOff (s.setDom d (if x.heldOff then { x with st := .held } else { x with waiting := true })) d
    else s)

/-! ### Waking (R360, R361, R362) -/

/-- DOMAIN_CYCLE_WAIT_END (R360): tPARK has elapsed and the domain starts waking. -/
def execDomainCycleWaitEnd (d : Nat) (s : State) : Host.Outcome State Fault Refusal :=
  answer s (if (s.dom d).st = .cycling && (s.dom d).waiting then startWake s d else s)

/-- The queued domains that R362 lets start, ascending. -/
def readyWakes (s : State) : List Nat := (s.doms.filter (fun e => e.2.queued && wakeRoom s e.1)).map (·.1)

/-- DOMAIN_WAKE_START (R362): the lowest queued domain that may start closes its switch. -/
def execDomainWakeStart (d : Nat) (s : State) : Host.Outcome State Fault Refusal :=
  answer s (if (readyWakes s).head? = some d then s.modDom d (fun x => { x with queued := false }) else s)

/-- What the unit of domain d does as the domain reaches ON (R361). -/
def unitStarts (s : State) (d : Nat) : State :=
  if d = 0 then s
  else if d ≤ 8 then
    let n := d - 1
    budgetDue (s.modPort n (fun p => { p with st := if p.st = .off then idleSt s n else p.st }))
  else if d ≤ 40 then bootCheck s (d - 9)
  else if d < 52 then s
  else
    let t := d - 52
    let k := rankOfTier t
    let s := foldS (chansOfTier t) (fun s c =>
      let s := if k = 4 && !s.rst.fillDue then fillRank s c 4 else s
      setSr s c k (rankRests s c k)) s
    foldS (chansOfTier t) bootCheck s

/-- A domain that was waking is ON; a cycling one parks again where R359 permits it. -/
def wakeDone (s : State) (d : Nat) : State :=
  let x := s.dom d
  if x.queued then s
  else if x.st = .waking then unitStarts (s.setDom d { x with st := .on }) d
  else if x.st = .cycling && x.cycWaking then
    let s := unitStarts (s.setDom d { x with st := .on, cycWaking := false }) d
    if parkAllowed s d then beginPark s d
    else s.modDom d (fun x => { x with enable := true, latched := true })
  else s

/-! ### PWR_DOM enable (R360, R362, R363) -/

/-- Waking the domain would raise the floor above both the sheet limit and the floor in force (R362). -/
def overFloor (s : State) (d : Nat) : Bool :=
  let f := floorWith s d
  s.tables.limit.toNat < f && s.pwr.floor.toNat < f

/-- A new value of enable: the state, or none where R360 or R362 refuses it. `plan` for the plan of an image, which the
floor does not refuse. -/
def setEnable (s : State) (d : Nat) (v plan : Bool) : Option State :=
  let x := s.dom d
  if d = 0 then (if v then some s else none)
  else match x.st, v with
    | .held, _ => none
    | .off, true => if !plan && overFloor s d then none else some (startWake s d)
    | .off, false => some (s.setDom d { x with enable := false, latched := false })
    | .on, true => some (s.setDom d { x with enable := true, latched := true })
    | .on, false => if parkAllowed s d then some (beginPark s d) else none
    | .waking, true => some (s.setDom d { x with enable := true, latched := true })
    | .waking, false => some (s.setDom d { x with enable := false, latched := false, st := .cycling, cycWaking := true })
    | .parking, true =>
      if !plan && overFloor s d then none
      else some (s.setDom d { x with enable := true, latched := true, st := .cycling, cycWaking := false, waiting := false })
    | .parking, false => some (s.setDom d { x with enable := false, latched := false })
    | .cycling, true =>
      some (s.setDom d { x with enable := true, latched := true, st := if x.cycWaking then .waking else .cycling, cycWaking := false })
    | .cycling, false =>
      if x.cycWaking then some (s.setDom d { x with enable := false, latched := false })
      else some (s.setDom d { x with
        enable := false
        latched := false
        waiting := false
        st := if x.waiting then .off else .parking })

/-- A write of PWR_DOM_CTRL. -/
def domCtrlWrite (d : Nat) (data : Word) (s : State) : Status × State :=
  match setEnable s d (data.getLsbD 23) false with
  | some s => (.ok, s)
  | none => (.refused, s)

/-- DOMAIN_ENABLE_WRITE. -/
def execDomainEnableWrite (via : Via) (d : Nat) (data : Word) (s : State) : Host.Outcome State Fault Refusal :=
  answer s (if d < 72 then mgmtWrite s via (.dom d) 0 data (domCtrlWrite d data) else s)

/-- The domain plan of an image (R363): what cannot park stays ON. -/
def applyPlan (s : State) : State :=
  foldS ((List.range 72).filter (fun d => d ≠ 0 && domPresent s.variant d)) (fun s d =>
    match setEnable s d (s.tables.plan.getLsbD d) true with
    | some s => s
    | none => s) s

/-- Step 3 of the cold start: every present domain wakes, in ascending number (R450, R362). -/
def wakeAll (s : State) : State :=
  foldS ((List.range 72).filter (fun d => d ≠ 0 && domPresent s.variant d && (s.dom d).st = .off)) startWake s

/-- DOMAIN_TIMEOUT (R360): WAKING for 1 ms or PARKING for 10 ms raises PWR_DOMAIN. -/
def execDomainTimeout (d : Nat) (s : State) : Host.Outcome State Fault Refusal :=
  answer s (
    let x := s.dom d
    if (x.st = .waking && !x.queued) || x.st = .parking || (x.st = .cycling && !x.waiting && !x.queued) then raise s 0x23 d
    else s)

/-! ### A domain held OFF (R341, R343) -/

/-- Fence: domain d. -/
def fenceDomain (s : State) (d : Nat) : State :=
  let x := s.dom d
  if d = 0 || x.st = .held then s
  else
    let was := x.st = .on
    let s := s.setDom d { x with
      st := .held
      enable := false
      latched := false
      queued := false
      waiting := false
      heldOff := true }
    unitOff (if was then unitLeaves s d else s) d

end Sys2Proof.Machine
end

