-- ==== Sys2Proof/Machine/Logbook.lean ====
section
/-! DEFINITION. The Logbook (R376, R439–R443, R447): records, their commit words, rotation and clears. -/

namespace Sys2Proof.Machine

/-! ### Words -/

/-- The commit word over the words before it (R440). -/
def commitWord (ws : List Word) : Word := (0xC3#8 ++ (crc24 ws).extractLsb' 0 16 : BitVec (8 + 16))

/-- The low and high word of a 48-bit value. -/
def words48 (v : W48) : List Word := [v.extractLsb' 0 24, v.extractLsb' 24 24]

/-- Write words from a logical address on, circularly in a region from `lo` to below `hi`; each takes a credit. -/
def logWrite (s : State) (lo hi addr : Nat) (ws : List Word) : State :=
  let at_ := fun (i : Nat) => lo + (addr - lo + i) % (hi - lo)
  let mem := (ws.zipIdx).foldl (fun m w => tset 0 m (at_ w.2) w.1) s.log.mem
  let used := (List.range ws.length).map at_
  { s with log := { s.log with
    mem := mem
    commits := s.log.commits.filter (fun a => !used.contains a)
    credits := s.log.credits - ws.length
    written := s.log.written + BitVec.ofNat 48 ws.length
    sinceGap := s.log.sinceGap + ws.length } }

/-- The kind of a record (R440). -/
def LogRec.kind : LogRec → Nat
  | .rank _ _ => 1
  | .survey _ _ => 2
  | .line .. => 3
  | .marginal _ _ => 4
  | .pattern _ _ => 5
  | .bist _ _ => 6
  | .clear => 7

/-- A record as words: the manual gives no body layout, so the body is a free value (log 10). -/
def recordWordsOf (r : LogRec) (stamp : W48) (i : Nat) : List Word :=
  let body := (Config.logBody r.kind i).take 255
  let ws := (BitVec.ofNat 8 r.kind ++ BitVec.ofNat 8 body.length ++ 0#8 : BitVec (8 + 8 + 8)) :: words48 stamp ++ body
  ws ++ [commitWord ws]

/-- The region of a record: its bounds and next word. -/
def LogRec.region (l : Log) (r : LogRec) : Nat × Nat × Nat :=
  match r.kind with
  | 1 => (24576, 26624, l.mHead)
  | 2 => (26624, 32768, l.sHead)
  | 7 => (24576, 26624, l.mHead)
  | _ => (32768, 174080, l.jHead)

/-- A record is written, body first and commit word last: from then on it counts (R376). -/
def writeRecord (s : State) (r : LogRec) (ws : List Word) : State :=
  let g := r.region s.log
  let next := g.1 + (g.2.2 - g.1 + ws.length) % (g.2.1 - g.1)
  let last := g.1 + (g.2.2 - g.1 + ws.length - 1) % (g.2.1 - g.1)
  let s := logWrite s g.1 g.2.1 g.2.2 ws
  let l := { s.log with commits := s.log.commits ++ [last] }
  { s with log := match r with
    | .rank k v => { l with mHead := next, map := tput l.map k v }
    -- a boot finds nothing older than the clear; what is in force stays (R261, R443)
    | .clear => { l with mHead := next, map := [] }
    | .survey k d => { l with sHead := next, sets := tput l.sets k d }
    | _ => { l with jHead := next } }

/-- The next waiting record (R441): sparing map; Survey sets and clears; then, after the fault ring, the journal. -/
def nextRecordOf (s : State) : Option (LogRec × W48) :=
  match s.log.waitMap with
  | r :: _ => some r
  | [] => match s.log.waitSet with
    | r :: _ => some r
    | [] => if s.flt.queue = [] then s.log.waitJrn.head? else none

/-- The record that `nextRecordOf` named leaves its queue. -/
def dropRecord (s : State) : State :=
  let l := s.log
  { s with log :=
    if l.waitMap ≠ [] then { l with waitMap := l.waitMap.drop 1 }
    else if l.waitSet ≠ [] then { l with waitSet := l.waitSet.drop 1 }
    else { l with waitJrn := l.waitJrn.drop 1 } }

/-- LOGBOOK_RECORD_WRITE (R441): the next record is written when the bucket holds its words. -/
def execLogbookRecordWrite (s : State) : Host.Outcome State Fault Refusal :=
  answer s (match nextRecordOf s with
    | none => s
    | some (r, stamp) =>
      let f := takeFree s
      let ws := recordWordsOf r stamp f.1
      if ws.length ≤ s.log.credits then writeRecord (dropRecord f.2) r ws else s)

/-- LOGBOOK_ROTATION (R442): the gap moves back by one block. -/
def execLogbookRotation (s : State) : Host.Outcome State Fault Refusal :=
  answer s (
    if 2 ^ 20 ≤ s.log.sinceGap then
      { s with log := { s.log with
        gap := if s.log.gap = 0 then 340 else s.log.gap - 1
        sinceGap := s.log.sinceGap - 2 ^ 20 } }
    else s)

/-! ### Clears (R443) -/

/-- Commit words of the records in a region. -/
def commitsIn (s : State) (lo hi : Nat) : List Nat := s.log.commits.filter (fun a => decide (lo ≤ a) && decide (a < hi))

/-- Commit words are to be zeroed. -/
def startClear (s : State) (as : List Nat) : State :=
  { s with log := { s.log with
    busy := true
    clearing := s.log.clearing ++ as
    commits := s.log.commits.filter (fun a => !as.contains a) } }

/-- Commit words of fault ring entries first to below last. -/
def ringCommits (first last : Nat) : List Nat := (List.range (last - first)).map (fun i => 6 * (first + i) + 5)

/-- A write of LOG_CLEAR: every bit set clears its region. -/
def logClearWrite (data : Word) (s : State) : Status × State :=
  let s := if data.getLsbD 23 then startClear { s with flt := { s.flt with pagesUsed := 0, page := [] } } (ringCommits 0 256) else s
  let s := if data.getLsbD 22 then startClear s (ringCommits 256 4096) else s
  let s := if data.getLsbD 21 then startClear s (commitsIn s 32768 174080) else s
  let s := if data.getLsbD 20 then
      let t := startClear s (commitsIn s 26624 32768)
      { t with log := { t.log with sets := [] } }
    else s
  let s := if data.getLsbD 19 then logSet s .clear else s
  (.ok, s)

def execLogClearPages (via : Via) (data : Word) (s : State) : Host.Outcome State Fault Refusal :=
  answer s (mgmtWrite s via .log 0 data (logClearWrite data))

def execLogClearRing (via : Via) (data : Word) (s : State) : Host.Outcome State Fault Refusal :=
  answer s (mgmtWrite s via .log 0 data (logClearWrite data))

def execLogClearJournal (via : Via) (data : Word) (s : State) : Host.Outcome State Fault Refusal :=
  answer s (mgmtWrite s via .log 0 data (logClearWrite data))

def execLogClearTraining (via : Via) (data : Word) (s : State) : Host.Outcome State Fault Refusal :=
  answer s (mgmtWrite s via .log 0 data (logClearWrite data))

def execLogClearSparing (via : Via) (data : Word) (s : State) : Host.Outcome State Fault Refusal :=
  answer s (mgmtWrite s via .log 0 data (logClearWrite data))

/-- LOG_CLEAR_DONE: the commit words are zero, inside the bucket, and busy falls. -/
def execLogClearDone (s : State) : Host.Outcome State Fault Refusal :=
  answer s (
    if s.log.busy then
      let n := s.log.clearing.length
      { s with log := { s.log with
        mem := s.log.clearing.foldl (fun m a => tset 0 m a 0) s.log.mem
        clearing := []
        busy := false
        credits := s.log.credits - n
        written := s.log.written + BitVec.ofNat 48 n
        sinceGap := s.log.sinceGap + n } }
    else s)

/-- LOG_DATA_READ (R447): the word at the path's address, which advances; past the logical words the value is free
(log 153). -/
def logDataRead (n : Nat) (s : State) : Status × Word × State :=
  let a := (s.path n).logAddr
  let go := fun (s : State) => s.modPath n (fun p => { p with logAddr := a + 1 })
  if a.toNat < 174080 then (.ok, tget 0 s.log.mem a.toNat, go s)
  else
    let f := takeFree s
    (.ok, Config.logPast f.1, go f.2)

def execLogDataRead (via : Via) (s : State) : Host.Outcome State Fault Refusal :=
  answer s (mgmtRead s via .log 7 (logDataRead via.port))

/-- The bucket refills at 24 credits per 1,000 beats. -/
def refillCredits (s : State) : State :=
  let f := s.log.creditFr + 24
  { s with log := { s.log with
    creditFr := f % 1000
    credits := min 6144 (s.log.credits + f / 1000) } }

end Sys2Proof.Machine
end

