-- ==== Sys2Proof/Machine/Faults.lean ====
section
/-! DEFINITION. The fault collector (R334–R353, R490): classification by counting, masks, reactions, Fatal, the first fault,
the ring, ALIVE. -/

namespace Sys2Proof.Machine

/-! ### Configuration words and levels (R337, R338, R339) -/

/-- The word of R337 for the defaults of R335. -/
def Source.word (x : Source) : Word :=
  (BitVec.ofNat 2 x.base ++ 0#2 ++ BitVec.ofNat 8 x.n ++ BitVec.ofNat 7 x.m ++ BitVec.ofNat 5 x.s : BitVec (2 + 2 + 8 + 7 + 5))

/-- The configuration word in force of a source: the sheet's record, or the defaults. -/
def cfgWord (s : State) (src : Nat) : Word :=
  match tfind s.tables.faults src with
  | some w => w
  | none => match sourceOf src with
    | some x => x.word
    | none => 0

def cfgBase (w : Word) : Nat := (w.extractLsb' 22 2).toNat
def cfgNote (w : Word) : Bool := w.getLsbD 21
def cfgN (w : Word) : Nat := (w.extractLsb' 12 8).toNat
def cfgWindow (w : Word) : Nat := (w.extractLsb' 5 7).toNat * 2 ^ (w.extractLsb' 0 5).toNat

def srcInst (s : State) (src inst : Nat) : SrcInst := tget {} s.flt.insts (instKey src inst)

def setSrcInst (s : State) (src inst : Nat) (x : SrcInst) : State :=
  { s with flt := { s.flt with insts := tset {} s.flt.insts (instKey src inst) x } }

/-- The level of an instance: the base of its source until counting has touched it. -/
def levelOf (s : State) (src inst : Nat) : Nat :=
  let x := srcInst s src inst
  if x.touched then x.level else cfgBase (cfgWord s src)

/-- R338, steps 1 to 3: the state, the level then in force, and whether this event raised it. MERIDIAN_HOLDOVER rises by
R59 alone. -/
def countEvent (s : State) (d : Detected) : State × Nat × Bool :=
  let x := srcInst s d.src d.inst
  let w := cfgWord s d.src
  let lvl := levelOf s d.src d.inst
  let cap := match sourceOf d.src with | some r => r.cap | none => 0
  let fresh := x.count = 0 || decide (x.start + cfgWindow w ≤ s.elapsed)
  let n := (if fresh then 0 else x.count) + 1
  let rise := decide (lvl < cap) &&
    (if d.src = 0x3B then d.force else decide (0 < cfgN w) && decide (cfgN w ≤ n))
  let y : SrcInst := { x with
    level := if rise then lvl + 1 else lvl
    touched := true
    count := if rise then 0 else n
    start := if fresh then s.elapsed else x.start
    events := x.events + 1 }
  (setSrcInst s d.src d.inst y, y.level, rise)

/-! ### Masks (R341, R348, R490) -/

/-- Sources of scope channel and rank that a channel's reactions mask. -/
def chanSources : List Nat := [0x09, 0x0A, 0x0B, 0x0C, 0x0E, 0x12, 0x13, 0x1B]
def chanRankSources : List Nat := [0x08, 0x0D, 0x14, 0x18, 0x19, 0x1A]

def coversChan (c src inst : Nat) : Bool :=
  (chanSources.contains src && inst = c) || (chanRankSources.contains src && inst / 5 = c)

/-- The instance is a rank on tier t. -/
def rankOnTier (t inst : Nat) : Bool := tierOf (inst / 5) (inst % 5) = t

/-- The sources of the unit in a domain (R490), and PWR_DOMAIN of the domain. -/
def coversDomain (d src inst : Nat) : Bool :=
  (src = 0x23 && inst = d) ||
  (if d = 0 then false
   else if d ≤ 8 then src ≤ 6 && inst = d - 1
   else if d ≤ 40 then coversChan (d - 9) src inst
   else if d ≤ 44 then src = 0x3E && inst = d - 41
   else if d = 45 then src = 0x3D
   else if d ≤ 50 then false
   else if d = 51 then src = 0x3F
   else ([0x10, 0x11, 0x2B].contains src && inst = d - 52) ||
     ([0x08, 0x14, 0x18, 0x19, 0x1A].contains src && rankOnTier (d - 52) inst))

/-- Event queue q belongs to the bond that holds port n. -/
def queueOfPort (s : State) (q n : Nat) : Bool :=
  let c := queueCfg s q
  c.valid && decide (c.bondFirst.toNat ≤ n) && decide (n < c.bondFirst.toNat + 2 ^ c.bondLog2.toNat)

/-- The flow may touch a province with enc = 1. -/
def flowEnc (s : State) (f : Nat) : Bool := (flowProvs s.tables (flowCfg s f)).any (fun p => p.2.enc)

/-- The reaction's masked set holds the detector. -/
def Mask.covers (s : State) (src inst : Nat) (m : Mask) : Bool :=
  match m.what with
  | .port n => (src ≤ 6 && inst = n) || (src = 0x3A && queueOfPort s inst n)
  | .channel c => coversChan c src inst || (src = 0x38 && (flowsOnChan s c).contains inst)
  | .tierPark t => [0x08, 0x18, 0x19, 0x1A].contains src && rankOnTier t inst
  | .engine _ => (src = 0x3F && m.units.contains inst) || (src = 0x38 && m.flow = some inst)
  | .cipher => src = 0x38 && flowEnc s inst
  | .housekeeping => src = 0x25 || src = 0x2A || src = 0x10
  | .domain d => coversDomain d src inst

/-- The mask under which an event is consequential: of those that cover it, the one begun first. -/
def maskOf (s : State) (src inst : Nat) : Option Mask :=
  s.flt.masks.find? (fun m => decide (s.elapsed < m.until_) && m.covers s src inst)

/-- A reaction resets its block: its detectors are masked for the settle time. -/
def addMask (s : State) (what : Reaction) (src inst : Nat) (units : List Nat) (flow : Option Nat) : State :=
  let m : Mask :=
    { what := what, cause := src, inst := inst, until_ := s.elapsed + s.flt.settle.toNat, units := units, flow := flow }
  { s with flt := { s.flt with masks := s.flt.masks ++ [m] } }

/-- Detectors that a test gates: those of a rank under MBIST of kind 0 (R397) and of a unit under logic BIST (R400). -/
def gated (s : State) (d : Detected) : Bool :=
  let c := d.inst / 5
  if chanRankSources.contains d.src then
    (d.src ≠ 0x14 && mbistOn s c (d.inst % 5)) || underLogic s 0 c
  else if chanSources.contains d.src then underLogic s 0 d.inst
  else if d.src ≤ 6 then underLogic s 1 d.inst
  else if d.src = 0x3E then underLogic s 2 d.inst
  else if d.src = 0x3F then underLogic s 3 d.inst
  else if d.src = 0x3D then underLogic s 4 0
  else false

/-! ### Classification (R338, R340, R347, R348) -/

/-- An event as the collector classified it. -/
structure Judged where
  src    : Nat
  inst   : Nat
  detail : Word
  sev    : Nat
  esc    : Bool
  cause  : Option Nat
  rescue : Bool
  deriving DecidableEq, Repr

/-- Classify one event: a masked one is consequential and only its own count advances. -/
def classify (s : State) (d : Detected) : State × Judged :=
  match maskOf s d.src d.inst with
  | some m =>
    let x := srcInst s d.src d.inst
    (setSrcInst s d.src d.inst { x with conseq := sat x.conseq 1 },
     { src := d.src, inst := d.inst, detail := d.detail, sev := 0, esc := false, cause := some m.cause, rescue := d.rescue })
  | none =>
    let r := countEvent s d
    (r.1, { src := d.src, inst := d.inst, detail := d.detail, sev := r.2.1, esc := r.2.2, cause := none, rescue := d.rescue })

def classifyAll (s : State) : List Detected → State × List Judged
  | [] => (s, [])
  | d :: ds =>
    let r := classify s d
    let q := classifyAll r.1 ds
    (q.1, r.2 :: q.2)

/-- The order of R347 within one crown clock cycle. -/
def Judged.before (a b : Judged) : Bool :=
  decide (b.sev < a.sev) ||
  (a.sev = b.sev && (decide (a.src < b.src) || (a.src = b.src && decide (a.inst ≤ b.inst))))

def insertJudged (j : Judged) : List Judged → List Judged
  | [] => [j]
  | x :: xs => if x.before j then x :: insertJudged j xs else j :: x :: xs

def sortJudged (js : List Judged) : List Judged := js.foldl (fun a j => insertJudged j a) []

/-- Reportable (R340); a consequential event is always written to the ring (R348). -/
def reportable (s : State) (j : Judged) : Bool := j.cause.isSome || 1 ≤ j.sev || cfgNote (cfgWord s j.src)

/-! ### First fault, pages and ring (R346, R350–R353) -/

/-- Latch the first fault and open the next page, if one is unused; a page under way still takes its 15 events. -/
def latchFirst (s : State) (j : Judged) : State :=
  { s with flt := { s.flt with
    valid := true
    overflow := false
    severity := BitVec.ofNat 2 j.sev
    source := BitVec.ofNat 7 j.src
    inst := BitVec.ofNat 14 j.inst
    later := 0
    stamp := s.mer.count
    page := if s.flt.pagesUsed < 16 then s.flt.page ++ [(s.flt.pagesUsed, 0)] else s.flt.page
    pagesUsed := if s.flt.pagesUsed < 16 then s.flt.pagesUsed + 1 else s.flt.pagesUsed } }

/-- The open pages take one entry each; a page of 16 is frozen. -/
def fillPage (ps : List (Nat × Nat)) : List (Nat × Nat) :=
  (ps.filter (fun p => decide (p.2 < 15))).map (fun p => (p.1, p.2 + 1))

/-- An entry joins the queue of 64, with its slot in each open page; what finds the queue full is lost. -/
def toRing (s : State) (j : Judged) (first : Bool) : State :=
  if 64 ≤ s.flt.queue.length then { s with flt := { s.flt with lost := sat s.flt.lost 1 } }
  else
    let e : RingEntry :=
      { source := j.src, severity := j.sev, esc := j.esc, conseq := j.cause.isSome, first := first, inst := j.inst,
        cause := j.cause.getD 0x7F, stamp := s.mer.count, detail := j.detail,
        page := s.flt.page.map (fun p => 16 * p.1 + p.2) }
    { s with flt := { s.flt with
      queue := s.flt.queue ++ [e]
      page := fillPage s.flt.page } }

/-- Record a reportable event. -/
def report (s : State) (j : Judged) : State :=
  if !reportable s j then s
  else
    let first := !s.flt.valid && j.cause.isNone
    let s :=
      if first then latchFirst s j
      else if s.flt.valid then { s with flt := { s.flt with overflow := true, later := sat s.flt.later 1 } }
      else s
    let s := if j.cause.isNone && s.flt.irqSev.toNat ≤ j.sev then { s with flt := { s.flt with irq := true } } else s
    toRing s j first

/-! ### Fatal (R344, R375) -/

/-- The loader ends: IDLE, the shadow gone (R325). -/
def abortImage (s : State) (reason : BitVec 5) : State :=
  if s.img.phase = .idle then s
  else
    { s with img := { s.img with
      phase := .idle
      owner := none
      reason := reason
      detail := 0
      refusals := sat s.img.refusals 1
      structural := false
      shadow := none
      words := []
      copies := []
      firstEdge := none } }

/-- What a channel still holds at Fatal: the reads issued, which complete, and, at Gale, the dirty lines and their queued
write-backs (R178, R344). -/
def fatalChan (gale : Bool) (s : State) (c : Nat) : State :=
  let kept := fun (es : List Entry) => if gale then es.filter (fun e => e.kind = .writeBack || e.kind = .maskedBurst) else []
  let s := s.modChan c (fun ch => { ch with
    rdq := []
    wrq := kept ch.wrq
    rdWait := []
    wrWait := kept ch.wrWait
    merge := []
    lb := if gale then ch.lb else [] })
  if gale then s else sleepRanks (closeRows s c) c

/-- The move engines stop: the running descriptors' requests are gone with the rest (R344). -/
def stopEngines (s : State) : State :=
  foldS (List.range 4) (fun s e => match running s e with
    | some (f, d) => putHead s f { d with out := [] }
    | none => s) s

/-- The stack enters Fatal, with Gale when THERM_GALE declared it; Gale declared in Fatal adds its own steps. -/
def enterFatal (s : State) (gale : Bool) : State :=
  if s.flt.fatal then
    (if gale && !s.flt.gale then portsDown { s with flt := { s.flt with gale := true } } true else s)
  else
    let s := portsDown { s with flt := { s.flt with fatal := true, gale := gale } } gale
    let s := abortImage s 23
    let s := { s with
      reqs := []
      filling := []
      tel := { s.tel with stopped := true, busy := false, recLines := [] } }
    stopEngines (haltFuses (foldS (List.range 32) (fatalChan gale) s))

/-! ### Reactions (R341–R343) -/

/-- Fence: port n. -/
def fencePort (s : State) (n src : Nat) : State :=
  if (s.port n).fenced then s
  else
    let s := portFailed (addMask s (.port n) src n [] none) n
    merPortLost (s.modPort n (fun p => { p with fenced := true })) n

/-- Fence: channel c; in a rescue or later, R342. -/
def fenceChan (s : State) (c src : Nat) (rescue : Bool) : State :=
  match (s.sprOf c).st with
  | .normal | .laneDegraded => channelFail (channelReset (addMask s (.channel c) src c [] none) c) c
  | .rescue | .evacuating => if rescue then s else channelLost s c
  | _ => s

/-- Fence: housekeeping. Every tier is at B4 and L_therm at the floor until cold reset. -/
def fenceHousekeeping (s : State) (src : Nat) : State :=
  if s.hkp.fenced then s
  else
    let s := addMask { s with hkp := { s.hkp with fenced := true } } .housekeeping src 0 [] none
    let s := { s with pwr := { s.pwr with ltherm := s.pwr.floor } }
    foldS ((List.range 20).filter (tierPresent s.variant)) (fun s t =>
      setBand (s.modTier t (fun x => { x with forced := true })) t .b4) s

/-- Degrade: check unit u is out of use until warm reset, and what runs on it ends. -/
def unitOut (s : State) (u : Nat) : State :=
  let x := s.chk u
  let s := s.modChk u (fun y => { y with out := true })
  if x.busy then abortRunning s x.engine.toNat else s

/-- The reaction of R335 for a source at a level. -/
def reactAt (s : State) (j : Judged) : State :=
  let i := j.inst
  if j.src = 0x02 && j.sev = 1 then enterRecovery s i false
  else if j.src ≤ 6 then (if 2 ≤ j.sev then fencePort s i j.src else s)
  else if j.src = 0x08 then retireRank s (i / 5) (i % 5) 2
  else if j.src = 0x19 then retireRank s (i / 5) (i % 5) 1
  else if j.src = 0x09 || j.src = 0x0A || j.src = 0x0B || j.src = 0x0E then
    (if 2 ≤ j.sev then fenceChan s i j.src j.rescue else s)
  else if j.src = 0x11 then (if 2 ≤ j.sev then fenceTier s i else s)
  else if j.src = 0x23 then
    (if (s.dom i).st = .held then s else fenceDomain (addMask s (.domain i) j.src i [] none) i)
  else if j.src = 0x26 && j.sev = 2 then fenceHousekeeping s j.src
  else if j.src = 0x3B then s
  else if j.src = 0x3D then (if s.cip.fenced then s else fenceCipher (addMask s .cipher j.src 0 [] none))
  else if j.src = 0x3E then
    (if (s.eng i).st = .fenced then s
     else fenceEngine (addMask s (.engine i) j.src i (unitsOf s i) ((running s i).map (·.1))) i)
  else if j.src = 0x3F then unitOut s i
  else if 3 ≤ j.sev then enterFatal s (j.src = 0x28)
  else s

/-- Fence and Fatal act at every event, Degrade at its escalation only; a consequential event takes no reaction. CHK_FAULT
never escalates, its base being its cap, and its Degrade reaction acts at its events (R335; DEDUCED, log 25). -/
def react (s : State) (j : Judged) : State :=
  if j.cause.isNone && (2 ≤ j.sev || (j.sev = 1 && (j.esc || j.src = 0x3F))) then reactAt s j else s

/-- The collector takes up what its detectors raised. -/
def collect (s : State) (ds : List Detected) : State :=
  let ds := ds.filter (fun d => (match sourceOf d.src with
    | some x => sourcePresent s.variant d.src && instPresent s.variant x.scope d.inst
    | none => false) && !gated s d)
  let r := classifyAll { s with flt := { s.flt with detected := [] } } ds
  let js := sortJudged r.2
  js.foldl react (js.foldl report r.1)

/-- FAULT_EVENT (R338, R347): the events that commands have detected, then those named, in one crown clock cycle. -/
def execFaultEvent (evs : List FaultEv) (s : State) : Host.Outcome State Fault Refusal :=
  answer s (collect s (s.flt.detected ++ evs.map (fun e => { src := e.src, inst := e.inst, detail := e.detail })))

/-- SETTLE_END (R348): a mask whose settle time is over ends. -/
def execSettleEnd (src inst : Nat) (s : State) : Host.Outcome State Fault Refusal :=
  answer s { s with flt := { s.flt with
    masks := s.flt.masks.filter (fun m => !(m.cause = src && m.inst = inst && decide (m.until_ ≤ s.elapsed))) } }

/-! ### Writing the ring (R351–R353) -/

/-- The five words of an entry. -/
def RingEntry.words (e : RingEntry) : List Word :=
  [(BitVec.ofNat 7 e.source ++ BitVec.ofNat 2 e.severity ++ BitVec.ofBool e.esc ++ BitVec.ofBool e.conseq
      ++ BitVec.ofBool e.first ++ 0#12 : BitVec (7 + 2 + 1 + 1 + 1 + 12)),
   (BitVec.ofNat 14 e.inst ++ BitVec.ofNat 7 e.cause ++ 0#3 : BitVec (14 + 7 + 3))] ++ words48 e.stamp ++ [e.detail]

/-- Words that a write of the entry takes: six for each place. -/
def RingEntry.size (e : RingEntry) : Nat := 6 * (1 + e.page.length)

/-- FAULT_RING_WRITE (R353): one entry per 8 beats, behind the records that R441 puts first. -/
def execFaultRingWrite (s : State) : Host.Outcome State Fault Refusal :=
  answer s (
    match s.flt.queue with
    | [] => s
    | e :: rest =>
      let due := match s.flt.lastWrite with | some t => decide (t + 8 ≤ s.elapsed) | none => true
      if due && s.log.waitMap = [] && s.log.waitSet = [] && e.size ≤ s.log.credits then
        let ws := e.words ++ [commitWord e.words]
        let s := logWrite s 0 24576 (6 * s.flt.head) ws
        let s := e.page.foldl (fun s p => logWrite s 0 24576 (6 * p) ws) s
        let h := if s.flt.head = 4095 then 256 else s.flt.head + 1
        { s with
          flt := { s.flt with
            queue := rest
            head := h
            lastWrite := some s.elapsed }
          log := { s.log with fHead := h } }
      else s)

/-! ### FLT_FIRST and ALIVE (R346, R349, R355) -/

/-- FLT_FIRST as one value. -/
def Flt.firstValue (x : Flt) : BitVec 48 :=
  (BitVec.ofBool x.valid ++ BitVec.ofBool x.overflow ++ x.severity ++ x.source ++ x.inst ++ x.later ++ 0#13
    : BitVec (1 + 1 + 2 + 7 + 14 + 10 + 13))

/-- FLT_FIRST takes a value that software wrote. -/
def Flt.setFirst (x : Flt) (v : BitVec 48) : Flt :=
  { x with
    valid := v.getLsbD 47
    overflow := v.getLsbD 46
    severity := v.extractLsb' 44 2
    source := v.extractLsb' 37 7
    inst := v.extractLsb' 23 14
    later := v.extractLsb' 13 10 }

/-- The high word of FLT_FIRST commits the value; 0 re-arms the latch. -/
def firstWrite (n : Nat) (data : Word) (s : State) : Status × State :=
  let addr := addrOf .flt 3
  let v := commitValue s n addr 2 s.flt.firstValue.toNat data
  let s := dropHeld s n addr 2
  (.ok, { s with flt := s.flt.setFirst (BitVec.ofNat 48 v) })

/-- FIRST_FAULT_REARM. -/
def execFirstFaultRearm (via : Via) (data : Word) (s : State) : Host.Outcome State Fault Refusal :=
  answer s (mgmtWrite s via .flt 3 data (firstWrite via.port data))

/-- ALIVE_TOGGLE (R62, R349): every 1,024 beats once the Gazetteer is built, outside Fatal. -/
def execAliveToggle (s : State) : Host.Outcome State Fault Refusal :=
  answer s (
    if s.mer.count.toNat % 1024 = 0 && s.gazBuilt && !s.flt.fatal && s.pins.aliveAt ≠ some s.elapsed then
      { s with pins := { s.pins with
        alive := some (match s.pins.alive with | some b => !b | none => true)
        aliveAt := some s.elapsed } }
    else s)

end Sys2Proof.Machine
end

