-- ==== Sys2Proof/Machine/Housekeeping.lean ====
section
/-! DEFINITION. The housekeeping converter and its rounds (R365, R366, R370, R387), the thermal limit (R367, R368), supply
hold (R371–R373) and Gale (R374, R375). -/

namespace Sys2Proof.Machine

/-! ### Conversions (R365, R366) -/

def convOf (t : Tbl Conv) (i : Nat) : Conv := tget {} t i

/-- Channel i of the converter exists on the variant. -/
def convPresent (s : State) (i : Nat) : Bool := i < 96 && (40 ≤ i || tierPresent s.variant (i / 2))

/-- The tier sensor's logic is in reset: the reading of the round before stands (R460). -/
def convKept (s : State) (i : Nat) : Bool := i < 40 && (s.tier (i / 2)).inReset

/-- The reference check: channels 88, 89 and 90 within 4 mV. -/
def refPasses (t : Tbl Conv) : Bool :=
  [(88, (1200 : Int)), (89, 0), (90, 2000)].all (fun e => decide (iabs ((convOf t e.1).value - e.2) ≤ 4))

/-- HOUSEKEEPING_CONVERSION (R365): the channel of the slot; an absent channel's slot stays idle. A code at either end of
the range is marked, and channel 90 is where the reference check is judged (R366). -/
def execHousekeepingConversion (code : Word) (value : Int) (s : State) : Host.Outcome State Fault Refusal :=
  answer s (
    let i := s.hkp.slot.toNat
    if 96 ≤ i then s
    else
      let x : Conv :=
        if convKept s i then convOf s.hkp.last i
        else { code := code, value := value, atEnd := code = 0 || code = 0xFFFFFF }
      let now := if convPresent s i then tset {} s.hkp.now i x else s.hkp.now
      let s := { s with hkp := { s.hkp with slot := s.hkp.slot + 1, now := now } }
      if i = 90 && !refPasses now then raise s 0x26 0 else s)

/-- A temperature that R191 and R366 admit. -/
def Conv.temp (x : Conv) : Option Int :=
  if !x.atEnd && decide (-640 ≤ x.value) && decide (x.value ≤ 2400) then some x.value else none

/-- The rails: first voltage channel, how many, current channel, and the range of R469 in 0.5 mV. -/
def rails : List (Nat × Nat × Nat × Int × Int) :=
  [(64, 4, 80, 1425, 1575), (68, 2, 81, 1520, 1680), (70, 4, 82, 2090, 2310), (74, 2, 83, 3420, 3780),
   (76, 1, 84, 1552, 1648), (77, 1, 85, 2328, 2472), (78, 1, 86, 3420, 3780), (79, 1, 87, 1520, 1680)]

def railOut (t : Tbl Conv) (r : Nat × Nat × Nat × Int × Int) : Bool :=
  (List.range r.2.1).any (fun k =>
    let v := 2 * (convOf t (r.1 + k)).value
    decide (v < r.2.2.2.1) || decide (r.2.2.2.2 < v))

/-- Voltage times current of a rail in 1/40,000 W, at the mean of its readings. -/
def railPower (t : Tbl Conv) (r : Nat × Nat × Nat × Int × Int) : Int :=
  ((List.range r.2.1).map (fun k => (convOf t (r.1 + k)).value)).foldl (· + ·) 0 * (convOf t r.2.2.1).value * (4 / r.2.1 : Nat)

/-- Package power of a round in 1/40,000 W. -/
def powerOf (t : Tbl Conv) : Nat := ((rails.map (railPower t)).foldl (· + ·) 0).toNat

/-- Publish package power, and count the run of rounds above the limit (R370). -/
def publishPower (s : State) : State :=
  let w := powerOf s.hkp.last
  let s := { s with pwr := { s.pwr with power := BitVec.ofNat 12 (min 4095 (w * 16 / 40000)) } }
  if w ≤ 5 * s.pwr.limEff.toNat * 40000 then { s with pwr := { s.pwr with overRun := 0 } }
  else if s.pwr.overRun = 5 then raise { s with pwr := { s.pwr with overRun := 0 } } 0x24 0
  else { s with pwr := { s.pwr with overRun := s.pwr.overRun + 1 } }

/-! ### The round's results -/

/-- Reading of channel i as the round published it; none from a round that failed its check. -/
def published (s : State) (i : Nat) : Option Int := if s.hkp.lastOk then (convOf s.hkp.last i).temp else none

def crownReadings (s : State) : List (Option Int) := (List.range 24).map (fun i => published s (40 + i))

def maxTemp (xs : List (Option Int)) : Option Int :=
  (xs.filterMap id).foldl (fun (a : Option Int) v => match a with | some x => some (max x v) | none => some v) none

def publishTiers (s : State) : State :=
  foldS ((List.range 20).filter (tierPresent s.variant)) (fun s t =>
    publishTier s t (published s (2 * t)) (published s (2 * t + 1)) s.hkp.fenced) s

/-- T_ch and the drift of a channel; beyond 20 °C the set is stale, beyond 30 °C a Survey starts (R386, R387). -/
def publishDrift (s : State) (c : Nat) : State :=
  let s := s.modTrnOf c (fun t => { t with tCh := chanTemp s c })
  let d := driftOf s c
  let s := s.modTrnOf c (fun t => { t with stale := t.stale || decide (320 ≤ iabs d) })
  let a := (s.trnOf c).action
  if 480 < iabs d && !chanFenced s c && (s.chan c).st ≠ .closed && a ≠ .survey && a ≠ .suspended &&
      (s.sprOf c).st ≠ .rescue then wantSurvey s c 3
  else s

/-- Some tier's hot flag is set. -/
def tierHot (s : State) : Bool := (List.range 20).any (fun t => tierPresent s.variant t && (s.tier t).hot)

/-- L_therm at the end of a round (R368); a fenced converter holds it at the floor (R341). -/
def thermStep (s : State) : State :=
  let crown := crownReadings s
  let fl := floorNow s
  let lt := s.pwr.ltherm.toNat
  let top := maxTemp crown
  let hot := match top with | some v => decide (1600 < v) | none => true
  let s := { s with pwr := { s.pwr with
    crownMax := top
    crownHot := hot
    peak := maxTemp [s.pwr.peak, top] } }
  if s.hkp.fenced then { s with pwr := { s.pwr with ltherm := BitVec.ofNat 5 fl, cool := 0 } }
  else if hot || tierHot s then
    let s := { s with pwr := { s.pwr with cool := 0 } }
    if fl < lt then
      perf (raise { s with pwr := { s.pwr with
        ltherm := BitVec.ofNat 5 (lt - 1)
        stepsDown := sat s.pwr.stepsDown 1 } } 0x29 0) 0x581 0 1
    else s
  else if crown.all (fun x => match x with | some v => decide (v ≤ 1552) | none => false) then
    if s.pwr.cool.toNat < 7 then { s with pwr := { s.pwr with cool := s.pwr.cool + 1 } }
    else if lt < s.tables.limit.toNat then
      { s with pwr := { s.pwr with
        cool := 0
        ltherm := BitVec.ofNat 5 (lt + 1)
        stepsUp := sat s.pwr.stepsUp 1 } }
    else { s with pwr := { s.pwr with cool := 0 } }
  else { s with pwr := { s.pwr with cool := 0 } }

/-- A temperature as the registers give it: 12 bits, saturated above, 0x800 with none (R381). -/
def temp12 (x : Option Int) : BitVec 12 :=
  match x with
  | some v => BitVec.ofInt 12 (min v 2047)
  | none => 0x800

/-- The reading that declares Gale (R374): kind, sensor and value, the crown's sensors first. -/
def galeReading (s : State) : Option (Bool × Nat × Int) :=
  let hit := fun (i : Nat) (lim : Int) => match published s i with
    | some v => if lim ≤ v then some v else none
    | none => none
  match (List.range 24).findSome? (fun i => (hit (40 + i) 1840).map (fun v => (false, i, v))) with
  | some r => some r
  | none => (List.range 20).findSome? (fun t =>
      if !tierPresent s.variant t then none
      else (maxTemp [hit (2 * t) 1760, hit (2 * t + 1) 1760]).map (fun v => (true, t, v)))

/-- Gale is declared (R374, R375). -/
def declareGale (s : State) (kind : Bool) (sensor : Nat) (v : Int) : State :=
  let s := { s with pwr := { s.pwr with
    gale := true
    galeDone := false
    galeWb := false
    galeKind := kind
    galeSensor := BitVec.ofNat 5 sensor
    galeRead := temp12 (some v) } }
  enterFatal (raise { s with pins := { s.pins with thermtripN := false } } 0x28 0) true

/-- HOUSEKEEPING_ROUND_END (R366–R370, R374, R387). -/
def execHousekeepingRoundEnd (s : State) : Host.Outcome State Fault Refusal :=
  answer s (
    if s.hkp.slot.toNat ≠ 96 then s
    else
      let ok := refPasses s.hkp.now
      let s := { s with hkp := { s.hkp with
        slot := 0
        refOk := ok
        lastOk := ok
        rounds := s.hkp.rounds + 1
        last := s.hkp.now
        now := [] } }
      let s := if ok && rails.any (railOut s.hkp.last) then raise s 0x25 0 else s
      let s := if ok then publishPower s else s
      let s := if (crownReadings s).any (·.isNone) then raise s 0x2A 0 else s
      let s := publishTiers s
      let s := foldS (List.range 32) publishDrift s
      let s := recomputePower (thermStep s)
      let s := if ok then bistAbortAll s (fun b => b.busy && !railGood s b.kind.toNat) else s
      if s.flt.gale then s
      else match galeReading s with
        | some (k, i, v) => declareGale s k i v
        | none => s)

/-! ### The fabric manager's cap (R367) -/

/-- A write of PWR_CTRL: above the sheet's limit or below 40 W it is refused. L_eff follows at the round's end. -/
def powerCapWrite (data : Word) (s : State) : Status × State :=
  let v := data.extractLsb' 19 5
  if s.tables.limit.toNat < v.toNat || v.toNat < 8 then (.refused, s)
  else (.ok, { s with pwr := { s.pwr with limFm := v } })

/-- POWER_CAP_WRITE. -/
def execPowerCapWrite (via : Via) (data : Word) (s : State) : Host.Outcome State Fault Refusal :=
  answer s (mgmtWrite s via .pwr 0 data (powerCapWrite data))

/-! ### Supply hold (R371–R373) -/

/-- A comparator's trip counts its source and shows as a cause. -/
def tripRails (s : State) (dram core : Bool) : State :=
  let newD := dram && !s.pwr.causeDram
  let newC := core && !s.pwr.causeCore
  let s := { s with pwr := { s.pwr with
    dramLow := s.pwr.dramLow || dram
    coreLow := s.pwr.coreLow || core
    causeDram := s.pwr.causeDram || dram
    causeCore := s.pwr.causeCore || core } }
  let s := if newD then raise s 0x20 0 else s
  if newC then raise s 0x21 0 else s

/-- A Survey that sweeps stands still through a supply hold, and sweeps on after it (R392). -/
def holdSweeps (f : State → Nat → State) (s : State) : State :=
  foldS ((List.range 32).filter (fun c => (s.trnOf c).action = .survey)) f s

/-- SUPPLY_HOLD_ENTRY (R372): NORMAL to HOLD, or the other comparator trips as well. -/
def execSupplyHoldEntry (dram core : Bool) (s : State) : Host.Outcome State Fault Refusal :=
  answer s (
    if !(dram || core) then s
    else if s.pwr.hold then tripRails s dram core
    else
      let s := holdSweeps pauseSweep s
      let s := { s with pwr := { s.pwr with
        hold := true
        lost := false
        causeDram := false
        causeCore := false
        holds := sat s.pwr.holds 1 } }
      let s := tripRails { s with tel := { s.tel with heldSince := true } } dram core
      let s := bistAbortAll (spoilAll s) (fun _ => true)
      foldS (List.range 32) settleChan s)

/-- SUPPLY_HOLD_RELEASE (R372): `us` is how long the hold lasted. -/
def execSupplyHoldRelease (us : Nat) (s : State) : Host.Outcome State Fault Refusal :=
  answer s (
    if !s.pwr.hold then s
    else
      let s := holdSweeps resumeSweep s
      let s := { s with pwr := { s.pwr with
        hold := false
        dramLow := false
        coreLow := false
        holdMax := BitVec.ofNat 24 (max s.pwr.holdMax.toNat (min us (2 ^ 24 - 1))) } }
      foldS (List.range 32) (fun s c => settleChan (settlePoint s c) c) (resumeFuses s))

/-- SUPPLY_LOST (R372): 1 ms from entry without release; the event classifies as Fatal. -/
def execSupplyLost (s : State) : Host.Outcome State Fault Refusal :=
  answer s (
    if s.pwr.hold && !s.pwr.lost then raise { s with pwr := { s.pwr with lost := true } } 0x22 0 else s)

/-! ### Gale (R375) -/

/-- Gale parks domain d: a cipher that parks loses its slots. -/
def galeOff (s : State) (d : Nat) : State :=
  let x := s.dom d
  if d = 0 || !domPresent s.variant d || x.st = .off || x.st = .held then s
  else
    let s := s.setDom d { x with
      st := .off
      enable := false
      latched := false
      queued := false
      waiting := false
      cycWaking := false
      transitions := if x.st = .parking then x.transitions else sat x.transitions 1 }
    if d = 45 then cipherParked s
    else if 9 ≤ d && d ≤ 40 then
      s.modChan (d - 9) (fun ch => { ch with st := if ch.st = .fenced then .fenced else .closed })
    else s

/-- GALE_ORDERED_SET_END (R118, R375): the transmitters are idle and the port's domain parks. -/
def execGaleOrderedSetEnd (n : Nat) (s : State) : Host.Outcome State Fault Refusal :=
  answer s (
    if (s.port n).st = .signalDown && (s.port n).orderedSet = some true then galeOff (portOff s n) (1 + n) else s)

/-- GALE_WRITEBACK_DONE (R375): dirty lines are in the tiers, or lost where SUPPLY_LOST followed; every rank sleeps. -/
def execGaleWritebackDone (s : State) : Host.Outcome State Fault Refusal :=
  answer s (
    if s.flt.gale && !s.pwr.galeWb && (!s.pwr.hold || s.pwr.lost) then
      let s := if s.pwr.lost then s else drainAll s
      let s := foldS (List.range 32) (fun s c =>
        sleepRanks (closeRows (s.modChan c (fun ch => { ch with lb := [], wrq := [], wrWait := [] })) c) c) s
      { s with pwr := { s.pwr with galeWb := true } }
    else s)

/-- GALE_PARK (R375): PD9–PD51 are parked and PWR_GALE.done is set. -/
def execGalePark (s : State) : Host.Outcome State Fault Refusal :=
  answer s (
    if s.flt.gale && s.pwr.galeWb && !s.pwr.galeDone then
      let s := foldS ((List.range 43).map (9 + ·)) galeOff s
      { s with pwr := { s.pwr with galeDone := true } }
    else s)

end Sys2Proof.Machine
end

