-- ==== Sys2Proof/Machine/Telemetry.lean ====
section
/-! DEFINITION. Counter selections (R434) and telemetry dumps (R435–R438). -/

namespace Sys2Proof.Machine

/-! ### Selections (R434, R446) -/

/-- Instances of a scope in the numbering of R334. -/
def scopeCount : Scope → Nat
  | .stack => 1
  | .port => 8
  | .channel => 32
  | .rank => 160
  | .tier => 20
  | .flow => 16384
  | .queue => 64
  | .engine => 4
  | .checkUnit => 16
  | .domain => 72

/-- How a selection word is judged: event 0xFFF counts nothing; an absent unit is ABSENT; no such event or instance is
REFUSED. With `all` the instance is not judged. -/
def selectStatus (v : Variant) (w : Word) : Status :=
  let ev := (w.extractLsb' 12 12).toNat
  let i := (w.extractLsb' 0 8).toNat
  if ev = 0xFFF then .ok
  else match eventRunOf ev with
    | none => .refused
    | some r =>
      if !ownerPresent v r.2.2.1 then .absent
      else if w.getLsbD 11 then .ok
      else if scopeCount r.2.2.2 ≤ i then .refused
      else if !instPresent v r.2.2.2 i then .absent
      else .ok

def counterOf (s : State) (n : Nat) : Counter := tget {} s.tel.cnts n
def setCounter (s : State) (n : Nat) (c : Counter) : State := { s with tel := { s.tel with cnts := tset {} s.tel.cnts n c } }

/-- Event, instance and all of a counter; a change of any clears value and wrap. -/
def Counter.select (c : Counter) (w : Word) : Counter :=
  let ev := w.extractLsb' 12 12
  let all := w.getLsbD 11
  let i := w.extractLsb' 0 8
  if ev = c.event && all = c.all && i = c.inst then c else { event := ev, all := all, inst := i, wrap := false, value := 0 }

/-- A write of TEL_CNT_SEL: a refused selection changes nothing; wrap clears by writing 1. -/
def counterWrite (n : Nat) (data : Word) (s : State) : Status × State :=
  match selectStatus s.variant data with
  | .ok =>
    let c := (counterOf s n).select data
    (.ok, setCounter s n { c with wrap := c.wrap && !data.getLsbD 10 })
  | st => (st, s)

/-- COUNTER_SELECT. -/
def execCounterSelect (via : Via) (n : Nat) (data : Word) (s : State) : Host.Outcome State Fault Refusal :=
  answer s (if n < 256 then mgmtWrite s via (.cnt n) 0 data (counterWrite n data) else s)

/-! ### The record (R435) -/

/-- Lines of a record. -/
def dumpLines (t : Tables) : Nat := 42 + (t.dumpCount.toNat + 7) / 8

/-- Slots of the ring. -/
def dumpSlots (t : Tables) : Nat :=
  let p : Prov := tget {} t.provs t.dumpProv.toNat
  if t.dumpEn && p.valid then min (2 ^ 24 - 1) (p.count.toNat * 2 ^ 26 / (64 * dumpLines t)) else 0

/-- A number as `n` bytes, most significant first. -/
def bytesBE (n v : Nat) : List Byte := (List.range n).reverse.map (fun i => BitVec.ofNat 8 (v >>> (8 * i)))

/-- Kind of a converter channel (R382). -/
def convKind (i : Nat) : Nat := if i < 64 then 0 else if i < 80 then 1 else if i < 88 then 2 else 3

/-- The HKP word of channel i (R382): nothing is published before the first round. -/
def hkpWord (s : State) (i : Nat) : Word :=
  if s.hkp.last = [] then 0
  else
    let x := convOf s.hkp.last i
    let here := convPresent s i
    let ok := here && (if i < 64 then (published s i).isSome else s.hkp.lastOk && !x.atEnd)
    let v : BitVec 12 := if i < 64 then temp12 (if here then published s i else none) else if 91 ≤ i then 0 else BitVec.ofInt 12 x.value
    (v ++ BitVec.ofBool ok ++ BitVec.ofBool here ++ BitVec.ofNat 2 (convKind i) ++ 0#8 : BitVec (12 + 1 + 1 + 2 + 8))

/-- Eight bytes of flow f. -/
def flowBytes (s : State) (f : Nat) : List Byte :=
  let c := flowCfg s f
  let r := s.flowR f
  bytesBE 3 r.lastDisp.toNat ++ bytesBE 3 r.charged.toNat ++
    [(BitVec.ofBool c.valid ++ c.cls ++ BitVec.ofBool r.lastMissed ++ BitVec.ofBool r.lastUnjudged
        ++ BitVec.ofBool r.oobSince ++ 0#2 : BitVec (1 + 2 + 1 + 1 + 1 + 2)), 0]

def flagByte (s : State) : Byte :=
  (BitVec.ofBool s.flw.shortfall ++ BitVec.ofBool (s.tel.heldSince || s.pwr.hold) ++ BitVec.ofBool (s.mer.st ≠ .locked)
    ++ BitVec.ofBool s.mer.aligned ++ 0#4 : BitVec (1 + 1 + 1 + 1 + 4))

/-- Line 0. -/
def dumpHead (s : State) : List Byte :=
  let t := s.tables
  bytesBE 3 0x54454C ++ bytesBE 3 s.tel.seq.toNat ++ bytesBE 6 s.mer.count.toNat ++ bytesBE 2 t.dumpFirst.toNat ++
    bytesBE 2 t.dumpCount.toNat ++ [flagByte s, BitVec.ofNat 8 (min 255 s.tel.since)] ++ bytesBE 2 (dumpLines t) ++
    List.replicate 12 0 ++
    (List.range 32).map (fun j => BitVec.ofNat 8 ((List.range 8).foldl (fun a b =>
      if (counterOf s (8 * j + b)).wrap then a + 2 ^ b else a) 0))

/-- Lines 1 on. -/
def dumpBody (s : State) : List Byte :=
  let t := s.tables
  let body := ((List.range 256).map (fun n => bytesBE 9 (counterOf s n).value.toNat)).flatten ++
    ((List.range 96).map (fun i => bytesBE 3 (hkpWord s i).toNat)).flatten ++ List.replicate 32 0 ++
    ((List.range t.dumpCount.toNat).map (fun i => flowBytes s (t.dumpFirst.toNat + i))).flatten
  body ++ List.replicate (64 * (dumpLines t - 1) - body.length) 0

/-- Line k of a list of bytes. -/
def byteLine (bs : List Byte) (k : Nat) : Line := lineOf ((bs.drop (64 * k)).take 64)

/-- The record of this beat: body lines with their numbers, then line 0 (R436). -/
def dumpRecord (s : State) : List (Nat × Line) :=
  let body := dumpBody s
  (List.range (dumpLines s.tables - 1)).map (fun k => (k + 1, byteLine body k)) ++ [(0, byteLine (dumpHead s) 0)]

/-- DPA line of line 0 of slot k. -/
def slotLine (s : State) (k : Nat) : Nat := (provCfg s s.tables.dumpProv.toNat).base.toNat * 2 ^ 20 + dumpLines s.tables * k

/-- A line of the slot lies in a holed granule. -/
def slotHoled (s : State) (k : Nat) : Bool :=
  let a := slotLine s k / 2 ^ 20
  let b := (slotLine s k + dumpLines s.tables - 1) / 2 ^ 20
  (List.range (b - a + 1)).any (fun i => holed s (a + i))

def nextSlot (s : State) (k : Nat) : Word := BitVec.ofNat 24 (if k + 1 < dumpSlots s.tables then k + 1 else 0)

/-! ### Dump beats (R435, R437) -/

/-- The flows that a record names start anew with OUT_OF_BUDGET. -/
def clearOob (s : State) : State :=
  { s with flowRt := s.flowRt.map (fun e =>
    if s.tables.dumpFirst.toNat ≤ e.1 && e.1 < s.tables.dumpFirst.toNat + s.tables.dumpCount.toNat then
      (e.1, { e.2 with oobSince := false }) else e) }

/-- The flow table is canonical again after a change of its entries. -/
def canonFlows (s : State) : State := { s with flowRt := s.flowRt.filter (fun e => e.2 ≠ {}) }

def skipDump (s : State) : State :=
  { s with tel := { s.tel with skipped := sat s.tel.skipped 1, since := s.tel.since + 1 } }

/-- The dump beat is passed: the period restarts. -/
def dumpBeat (s : State) : State := { s with tel := { s.tel with lastDump := some s.elapsed, heldSince := s.pwr.hold } }

/-- TELEMETRY_DUMP: the count is a multiple of the dump period. -/
def execTelemetryDump (s : State) : Host.Outcome State Fault Refusal :=
  answer s (
    let t := s.tables
    if !t.dumpEn || !s.img.inForce || s.tel.stopped || s.flt.fatal || dumpSlots t = 0 ||
        s.mer.count.toNat % t.dumpPer.toNat ≠ 0 || s.tel.lastDump = some s.elapsed then s
    else if s.tel.pause || s.tel.busy then dumpBeat (skipDump s)
    else
      let k := s.tel.head.toNat
      if slotHoled s k then
        dumpBeat (skipDump { s with tel := { s.tel with head := nextSlot s k } })
      else
        let ls := dumpRecord s
        dumpBeat (canonFlows (clearOob { s with tel := { s.tel with
          busy := true
          recLines := ls
          recSlot := k
          recStamp := s.mer.count
          since := 0 } })))

/-! ### Writing the record (R436) -/

/-- Write a full line that no flow is charged for: through the line buffer, or past a quarter in bypass. -/
def putLine (s : State) (line : Nat) (d : Line) : State :=
  match locate s (line * 64) with
  | none => s
  | some loc =>
    if unreachable s loc then s
    else
      let c := homeChan s line
      if bypass s c then
        let w := encodeLine d
        pushWrite s { mkEntry s .bypassWrite false loc [loc.col] line with words := [(loc.col, w.1, w.2)] }
      else
        refillWb (lbPut s c
          { dpaLine := line, data := d, dirty := true, enc := false, slot := 0, gen := 0, written := s.elapsed }) c

/-- In compatibility mode a page that is not inked is filled first (R231). -/
def inkFirst (s : State) (page : Nat) : State :=
  if inked s page then s
  else
    let s := foldS ((List.range 16).map (fun j => page * 64 + 4 * j)) zeroLines s
    { s with ink := tset s.inkAll s.ink page true, filling := s.filling.filter (fun e => e.1 ≠ page) }

def putDumpLine (s : State) (first : Nat) (l : Nat × Line) : State :=
  putLine (inkFirst s ((first + l.1) / 64)) (first + l.1) l.2

/-- DUMP_RECORD_WRITTEN: the body lines, then line 0; head and the sequence number advance. -/
def execDumpRecordWritten (s : State) : Host.Outcome State Fault Refusal :=
  answer s (
    if !s.tel.busy || s.pwr.hold || s.flt.fatal then s
    else
      let first := slotLine s s.tel.recSlot
      let s := s.tel.recLines.foldl (fun s l => putDumpLine s first l) s
      { s with tel := { s.tel with
        busy := false
        recLines := []
        head := nextSlot s s.tel.recSlot
        seq := s.tel.seq + 1
        lastStamp := s.tel.recStamp } })

end Sys2Proof.Machine
end

