-- ==== Sys2Proof/Machine/Sheets.lean ====
section
/-! DEFINITION. The words of an Epbel image: header, directory and records as they arrive (R318, R319, R321), the tables
that records make (R321, R322, R438), and the judgement of their content in the order of R323. -/

namespace Sys2Proof.Machine

/-! ### The form of an image (R318, R319, R321) -/

def maxImage : Nat := 1398101

/-- The shortest image: header, key, one directory entry of an empty sheet, signature. -/
def minImage : Nat := 16 + 32 + 3 + 32

/-- Bits that a body of a record type may set, word by word, and how many indexes the type has; none where no such type
is defined (R321, R438). Record bits judged by a later code than FORMAT (FAULT, COMPAT) may be set here. -/
def recordForm (sheet rtype : Nat) : Option (List Word × Nat) :=
  let f : Word := 0xFFFFFF
  match sheet, rtype with
  | 1, 1 => some ([0xC00000, f], 8)
  | 2, 1 => some ([0xF803FF, 0x0007FF], 1024)
  | 3, 1 => some ([0xE00000], 1024)
  | 4, 1 => some ([0xF80000], 1)
  | 4, 2 => some ([0xFE0000], 64)
  | 4, 3 => some ([f, f, f, 0xFFFFC0, 0x803FFF] ++ List.replicate 42 f ++ [0x00FFFF], 16384)
  | 5, 1 => some (List.replicate 32 f, 1)
  | 5, 2 => some ([0xFC0000], 4096)
  | 6, 1 => some ([0xFFE000], 1)
  | 6, 2 => some ([0x00007F], 20)
  | 7, 1 => some ([0xFF0000], 1)
  | 7, 2 => some ([f, f, f], 1)
  | 7, 3 => some ([0x000003], 32)
  | 8, 1 => some ([f], 65536)
  | 9, 1 => some ([0x8003FF, 0x00FFFF, 0x003FFF, 0x007FFF], 1)
  | 9, 2 => some ([0xFFF8FF], 256)
  | 10, 1 => some ([f], 1)
  | _, _ => none

/-- A record with its place: sheet type, record type, index, body. -/
structure SheetRec where
  sheet : Nat
  rtype : Nat
  index : Nat
  body  : List Word
  deriving DecidableEq, Repr

/-- IMG_DETAIL of a record (R332): record types above 15 show their low four bits. -/
def detailOf (sheet rtype index : Nat) : Word := BitVec.ofNat 24 (sheet % 16 * 2 ^ 20 + rtype % 16 * 2 ^ 16 + index % 65536)

def SheetRec.detail (r : SheetRec) : Word := detailOf r.sheet r.rtype r.index

def wordField (w : Word) (lo n : Nat) : Nat := w.toNat / 2 ^ lo % 2 ^ n

/-- A word of the header that R318 does not allow at its place. -/
def headerBad (i : Nat) (w : Word) : Bool :=
  match i with
  | 0 => w ≠ 0x455042
  | 1 => wordField w 16 8 ≠ 1 || 1 < wordField w 0 8
  | 2 => w.toNat < minImage || maxImage < w.toNat
  | 7 => wordField w 6 18 ≠ 0
  | 8 => wordField w 4 20 ≠ 0 || wordField w 0 4 = 0 || 10 < wordField w 0 4
  | 9 => wordField w 2 22 ≠ 0
  | 11 | 12 | 13 | 14 | 15 => w ≠ 0
  | _ => false

/-- The fields that tie two header words together: a full image has no base and no amend_seq, an amendment's revision is
its base and its amend_seq is not 0. Words not yet received break nothing. -/
def linksBad (ws : List Word) : Bool :=
  let at_ := fun (i : Nat) (g : Word → Bool) => match ws[i]? with | some w => g w | none => false
  match ws[1]? with
  | none => false
  | some k =>
    if wordField k 0 8 = 0 then at_ 5 (fun w => w ≠ 0) || at_ 6 (fun w => w ≠ 0)
    else at_ 5 (fun w => decide (some w ≠ ws[4]?)) || at_ 6 (fun w => w = 0)

/-- A directory as received so far: the entries complete or not, from type `prev`, whose sheets start at `pos`. The first
result says whether it breaks R319; then the sheets as (type, length). -/
def readDir : Nat → Nat → Nat → Nat → List Word → Bool × List (Nat × Nat)
  | 0, _, pos, last, _ => (pos ≠ last, [])
  | _ + 1, _, _, _, [] => (false, [])
  | n + 1, prev, pos, last, w :: ws =>
    let t := wordField w 16 8
    if t ≤ prev || 10 < t || wordField w 8 8 ≠ 1 || wordField w 0 8 ≠ 0 then (true, [])
    else match ws with
      | [] => (false, [])
      | o :: ws =>
        if o.toNat ≠ pos then (true, [])
        else match ws with
          | [] => (false, [])
          | l :: ws =>
            if last < pos + l.toNat then (true, [])
            else
              let r := readDir n t (pos + l.toNat) last ws
              (r.1, (t, l.toNat) :: r.2)

/-- What reading records came to: a breach of R321 with its IMG_DETAIL, or the records read, and words to come. -/
inductive Reading where
  | breach (detail : Word)
  | records (rs : List SheetRec)
  deriving DecidableEq, Repr

/-- A body may hold only the bits of its form; words not yet received break nothing. -/
def bodyBad (form ws : List Word) : Bool := (List.zipWith (fun (m w : Word) => decide (w &&& ~~~m ≠ 0)) form ws).any id

/-- Read the records of a sheet of `left` words, after the record (type, index) `prev`; the first argument bounds the
number of records. -/
def readSheet (sheet : Nat) : Nat → Nat → Option (Nat × Nat) → List Word → Reading
  | 0, _, _, _ => .records []
  | _ + 1, _, _, [] => .records []
  | n + 1, left, prev, h :: ws =>
    if left = 0 then .records []
    else
      let ty := wordField h 16 8
      let ix := wordField h 0 16
      let bad := Reading.breach (detailOf sheet ty ix)
      let later := match prev with | some p => decide (p.1 < ty) || (decide (p.1 = ty) && decide (p.2 < ix)) | none => true
      match recordForm sheet ty with
      | none => bad
      | some (form, count) =>
        let k := form.length
        if count ≤ ix || !later || left < k + 1 || bodyBad form ws then bad
        else if ws.length < k then .records []
        else match readSheet sheet n (left - k - 1) (some (ty, ix)) (ws.drop k) with
          | .breach d => .breach d
          | .records rs => .records ({ sheet := sheet, rtype := ty, index := ix, body := ws.take k } :: rs)

/-- Read the sheets in directory order. -/
def readSheets : List (Nat × Nat) → List Word → Reading
  | [], _ => .records []
  | (t, len) :: more, ws =>
    match readSheet t len len none (ws.take len) with
    | .breach d => .breach d
    | .records rs =>
      match readSheets more (ws.drop len) with
      | .breach d => .breach d
      | .records rs' => .records (rs ++ rs')

/-- The words received so far, read: the first breach that they show, or the records they hold. -/
def readImage (ws : List Word) : Reading × List (Nat × Nat) :=
  if ws.zipIdx.take 16 |>.any (fun e => headerBad e.2 e.1) then (.breach 0, [])
  else if linksBad ws then (.breach 0, [])
  else match ws[2]?, ws[8]? with
    | some len, some sh =>
      let n := wordField sh 0 4
      let d := readDir n 0 (48 + 3 * n) (len.toNat - 32) (ws.drop 48)
      if d.1 then (.breach 0, [])
      else (readSheets d.2 ((ws.drop (48 + 3 * n)).take (len.toNat - 32 - (48 + 3 * n))), d.2)
    | _, _ => (.records [], [])

/-- A FORMAT breach that can be seen in the words received, with its IMG_DETAIL (R325, R491). -/
def formatBreach (ws : List Word) : Option Word :=
  match (readImage ws).1 with
  | .breach d => some d
  | .records _ => none

/-- A whole image as read. -/
structure Parsed where
  amend    : Bool
  imageId  : Word
  revision : Word
  base     : Word
  amendSeq : Word
  secVer   : Nat
  keyRef   : Nat
  sheets   : List Nat
  recs     : List SheetRec
  deriving DecidableEq, Repr

def parseImage (ws : List Word) : Parsed :=
  let w := fun (i : Nat) => ws.getD i 0
  let r := readImage ws
  { amend := wordField (w 1) 0 8 = 1
    imageId := w 3
    revision := w 4
    base := w 5
    amendSeq := w 6
    secVer := wordField (w 7) 0 6
    keyRef := wordField (w 9) 0 2
    sheets := r.2.map (·.1)
    recs := match r.1 with | .records rs => rs | .breach _ => [] }

/-! ### Authenticity (R320) -/

/-- Words as the bytes that a digest takes: bits [23:16] first. -/
def wordBytes (ws : List Word) : List Nat := ws.flatMap (fun w => toBytes 3 w.toNat)

/-- The digest that hash slot k holds: 16 words, least significant first (R418). -/
def slotDigest (f : Fus) (k : Nat) : Nat :=
  ((List.range 16).map (fun j => (fuseValue f 2 (11 + 16 * k + j)).2.1)).foldr (fun w a => a * 2 ^ 24 + w.toNat) 0

/-- Hash slot k can be used: programmed, not revoked, and the Root bank is in use (R416, R418). -/
def slotUsable (f : Fus) (k : Nat) : Bool :=
  !bankBad f 2 &&
  (List.range 16).any (fun j => fuseProgrammed (fuseAt f 2 (11 + 16 * k + j))) &&
  !fuseProgrammed (fuseAt f 2 (76 + k))

/-- Programmed bits of the version thermometer. -/
def versionCount (f : Fus) : Nat := ((List.range 63).filter (fun n => fuseProgrammed (fuseAt f 2 (80 + n)))).length

/-- The image is authentic. -/
def authentic (f : Fus) (ws : List Word) : Bool :=
  let k := (parseImage ws).keyRef
  let key := wordBytes ((ws.drop 16).take 32)
  let sig := wordBytes (ws.drop (ws.length - 32))
  slotUsable f k && ofBytes (sha384 key) = slotDigest f k &&
  ecdsaVerify (ofBytes (key.take 48)) (ofBytes (key.drop 48)) (ofBytes (sig.take 48)) (ofBytes (sig.drop 48))
    (sha384 (wordBytes (ws.take (ws.length - 32))))

/-! ### Tables from records (R321, R322, R438) -/

def bodyAt (r : SheetRec) (i : Nat) : Word := r.body.getD i 0

/-- The 1,024 bits of FLW_PROVMAP from its 43 words (R159). -/
def provMap (ws : List Word) : BitVec 1024 := BitVec.ofNat 1024 (ws.foldr (fun w a => a * 2 ^ 24 + w.toNat) 0)

def flowOf (b : List Word) : FlowCfg :=
  let w := fun (i : Nat) => b.getD i 0
  { valid := (w 0).getLsbD 23
    cls := (w 0).extractLsb' 21 2
    bondFirst := (w 0).extractLsb' 18 3
    bondLog2 := (w 0).extractLsb' 16 2
    crank := (w 0).extractLsb' 12 4
    winM1 := (w 0).extractLsb' 0 12
    guarantee := w 1
    ceiling := w 2
    keySlot := (w 3).extractLsb' 12 12
    queue := (w 3).extractLsb' 6 6
    ctxV := (w 4).getLsbD 23
    ctx := (w 4).extractLsb' 0 14
    provs := provMap (b.drop 5) }

def queueOf (w : Word) : QueueCfg :=
  { valid := w.getLsbD 23, bondFirst := w.extractLsb' 20 3, bondLog2 := w.extractLsb' 18 2, irqEn := w.getLsbD 17 }

/-- One record acts on the tables being built: it replaces the entity it names. RESERVE and TELEMETRY provinces are never
writable (R89). -/
def applyRecord (t : Tables) (r : SheetRec) : Tables :=
  let w := bodyAt r 0
  match r.sheet, r.rtype with
  | 1, 1 => { t with bonds := tput t.bonds r.index { log2 := w.extractLsb' 22 2, host := bodyAt r 1 } }
  | 2, 1 =>
    let p : Prov := { tget {} t.provs r.index with
      valid := w.getLsbD 23
      kind := w.extractLsb' 21 2
      cls := w.extractLsb' 19 2
      base := w.extractLsb' 0 10
      count := (bodyAt r 1).extractLsb' 0 11 }
    { t with provs := tset {} t.provs r.index p }
  | 3, 1 =>
    let p := tget {} t.provs r.index
    let p : Prov := { p with enabled := w.getLsbD 23, enc := w.getLsbD 22, writable := w.getLsbD 21 && p.kind = 0 }
    { t with provs := tset {} t.provs r.index p }
  | 4, 1 => { t with policy := w.getLsbD 23, evalLog2 := w.extractLsb' 19 4 }
  | 4, 2 => { t with queues := tset {} t.queues r.index (if w.getLsbD 23 then queueOf w else {}) }
  | 4, 3 => { t with flows := tset {} t.flows r.index (if w.getLsbD 23 then flowOf r.body else {}) }
  | 5, 1 =>
    let b := wordBytes r.body
    { t with mgmtKey := some (ofBytes (b.take 48), ofBytes (b.drop 48)) }
  | 5, 2 =>
    if w.getLsbD 23 then { t with slots := tput t.slots r.index (wordField w 20 3, wordField w 18 2) }
    else { t with slots := tdel t.slots r.index }
  | 6, 1 => { t with nrK := w.extractLsb' 13 4 }
  | 6, 2 => { t with lull := tset 0 t.lull r.index (w.extractLsb' 0 7) }
  | 7, 1 => { t with limit := w.extractLsb' 16 8 }
  | 7, 2 => { t with plan := (bodyAt r 2 ++ bodyAt r 1 ++ w : BitVec (24 + 24 + 24)) }
  | 7, 3 => { t with opMax := tset 0 t.opMax r.index (w.extractLsb' 0 2) }
  | 8, 1 => { t with faults := tput t.faults r.index w }
  | 9, 1 => { t with
      dumpEn := w.getLsbD 23
      dumpProv := w.extractLsb' 0 10
      dumpPer := (bodyAt r 1).extractLsb' 0 16
      dumpFirst := (bodyAt r 2).extractLsb' 0 14
      dumpCount := (bodyAt r 3).extractLsb' 0 15 }
  | 9, 2 => { t with selects := tset 0xFFF000 t.selects r.index w }
  | 10, 1 => { t with compat := w.getLsbD 23 }
  | _, _ => t

/-- The tables an image asks for: a full image starts from the defaults, an amendment from the tables in force. -/
def tablesOf (s : State) (p : Parsed) : Tables := p.recs.foldl applyRecord (if p.amend then s.tables else {})

/-! ### Naming a record (R491) -/

/-- A place in an image: sheet, record type, index. -/
abbrev Place := Nat × Nat × Nat

def Place.detail (p : Place) : Word := detailOf p.1 p.2.1 p.2.2

/-- Order of places in an image. -/
def Place.num (p : Place) : Nat := p.1 * 2 ^ 24 + p.2.1 * 2 ^ 16 + p.2.2

def inImage (rs : List SheetRec) (p : Place) : Bool := rs.any (fun r => (r.sheet, r.rtype, r.index) = p)

/-- Of the records between which a condition arises, the last in image order that the image carries; the sheet alone
where it carries none. -/
def blame (rs : List SheetRec) (sheet : Nat) (ps : List Place) : Place :=
  match ps.filter (inImage rs) with
  | [] => (sheet, 0, 0)
  | q :: qs => qs.foldl (fun a b => if a.num < b.num then b else a) q

/-- The first of several failing places. -/
def firstPlace : List Place → Option Place
  | [] => none
  | p :: ps => some (ps.foldl (fun a b => if b.num < a.num then b else a) p)

/-! ### The checks of R323, in its order -/

/-- Ports of a bond, from its lowest port and size, that the stack does not have. -/
def spanAbsent (v : Variant) (first log2 : Nat) : Bool := (bondPorts first log2).any (fun n => n < 8 && !portPresent v n)

/-- 6 ABSENT_UNIT: the records that name a unit the variant lacks. -/
def absentUnit (v : Variant) (r : SheetRec) : Bool :=
  let w := bodyAt r 0
  match r.sheet, r.rtype with
  | 1, 1 => spanAbsent v r.index (wordField w 22 2)
  | 3, 1 => w.getLsbD 22 && !hasCipher v
  | 4, 2 => w.getLsbD 23 && spanAbsent v (wordField w 20 3) (wordField w 18 2)
  | 4, 3 => w.getLsbD 23 && spanAbsent v (wordField w 18 3) (wordField w 16 2)
  | 5, 2 => w.getLsbD 23 && spanAbsent v (wordField w 20 3) (wordField w 18 2)
  | 8, 1 => (sourceOf r.index).isSome && !sourcePresent v r.index
  | 9, 2 => selectStatus v w = .absent
  | _, _ => false

def recPlace (r : SheetRec) : Place := (r.sheet, r.rtype, r.index)

def badRecords (rs : List SheetRec) (bad : SheetRec → Bool) : List Place := (rs.filter bad).map recPlace

/-- 7 PORT: bonds that are no aligned set, have host identity 0, or share a port with an earlier bond. -/
def badBonds (t : Tables) : List Place :=
  (t.bonds.filter (fun e =>
    let n := 2 ^ e.2.log2.toNat
    e.1 % n ≠ 0 || 8 < e.1 + n || e.2.host = 0 ||
    t.bonds.any (fun o => o.1 < e.1 && decide (e.1 < o.1 + 2 ^ o.2.log2.toNat)))).map (fun e => (1, 1, e.1))

def blocksOf (p : Prov) : List Nat := (granules p).map (· / 32)

/-- 8 PROVINCE: layout records that break rules 1 to 5 or 8 of R73 alone or with an earlier one; code 3 of kind and class
is not used (R87). -/
def badLayouts (t : Tables) (rs : List SheetRec) : List Place :=
  let ps := t.provs.filter (fun e => inImage rs (2, 1, e.1))
  (ps.filter (fun e =>
    let p := e.2
    !p.valid || p.kind = 3 || p.cls = 3 || p.count = 0 || 1024 < p.base.toNat + p.count.toNat ||
    (p.kind = 1 && p.cls = 0) ||
    ps.any (fun o => o.1 < e.1 &&
      ((granules o.2).any (granules p).contains ||
       (o.2.cls ≠ p.cls && (blocksOf o.2).any (blocksOf p).contains) ||
       (o.2.kind = 2 && p.kind = 2))))).map (fun e => (2, 1, e.1)) ++
  badRecords rs (fun r => r.sheet = 2 && r.rtype = 1 && !(bodyAt r 0).getLsbD 23)

/-- Content records that name no valid province. -/
def badContents (t : Tables) (rs : List SheetRec) : List Place :=
  badRecords rs (fun r => r.sheet = 3 && !(tget {} t.provs r.index).valid)

/-- A rank recorded in the sparing map that waits for granules (R261). -/
def awaitsGrans (r : RankSp) : Bool := r.st = .retiredReserve && r.grans = []

/-- Granules are given to the ranks that wait for them, in ascending order; a rank for which fewer than eight qualify is
FENCED (R261, R80). The reserve is the union of the RESERVE provinces (R79); the granules of a layout that lie in no province
are no entry of PRV_HOLEMAP (R84). -/
def giveGrans (s : State) : State :=
  foldS (List.range 160) (fun s key =>
    let c := key / 5
    let k := key % 5
    let r := s.rank c k
    if awaitsGrans r then
      match chooseGrans s c k with
      | some gs => s.setRankRaw c k { r with grans := gs }
      | none =>
        let s := setRank s c k { r with st := .fenced, why := 1 }
        { s with mig := { s.mig with fences := sat s.mig.fences 1 } }
    else s) s

/-- Granules that no rank is served from any more are free at a full image load (R80, R257). -/
def freeGrans (s : State) : State :=
  { s with ranks := s.ranks.map (fun e => (e.1,
      match e.2.st with
      | .retiredReserve | .migrating | .spareUnusable => e.2
      | _ => { e.2 with grans := [] })) }

/-- The sparing state as a full image with tables t finds it: granules freed and given (R73 rule 7, R261). -/
def sparingUnder (s : State) (t : Tables) : State := giveGrans (freeGrans { s with tables := t })

/-- 9 HOLED: the lowest-numbered province with a holed granule. -/
def holedProv (s : State) (t : Tables) : Option Place :=
  let u := sparingUnder s t
  (t.provs.find? (fun e => e.2.valid && (granules e.2).any (holed u))).map (fun e => (2, 1, e.1))

/-- 10 RESERVE_KEEP: the lowest granule that holds a retired rank's data, rank 4's too, in no RESERVE province of the new
tables (R261). -/
def lostGran (s : State) (t : Tables) : Option Nat :=
  let kept := (s.ranks.map (fun e => if e.2.st = .retiredReserve || e.2.st = .spareUnusable then e.2.grans else [])).flatten
  (List.range 1024).find? (fun g => kept.contains g &&
    !(match provOfGran t.provs g with | some (_, p) => p.kind = 1 | none => false))

/-- 11 SPARING_BUSY: a rank is PENDING or MIGRATING (R257). -/
def sparingBusy (s : State) : Bool := s.ranks.any (fun e => e.2.st = .pending || e.2.st = .migrating)

/-- Channel limit of admission at an operating point and a power factor in 64ths (R142). -/
def channelLimit (op kp : Nat) : Nat := 9 * 84 * unitsAt op * kp / (10 * 100 * 64)

/-- Bond limit of admission: U_port is 87,500/64 at four lanes. -/
def bondLimit (ports kp : Nat) : Nat := 9 * kp * ports * 87500 / (10 * 64 * 64)

/-- 12 ADMISSION: IMG_DETAIL of the lowest channel, else of the lowest bond, that carries too much. -/
def admission (t : Tables) : Option Word :=
  let kp := kpOf t.limit.toNat
  let all := fun (_ : FlowCfg) => true
  match (List.range 32).find? (fun c => decide (64 * channelLimit (tget 0 t.opMax c).toNat kp < chanBase t all c)) with
  | some c => some (detailOf 15 0 c)
  | none =>
    (t.bonds.find? (fun e =>
      let x := bondCommit t all e.1 e.2.log2.toNat
      decide (bondLimit (2 ^ e.2.log2.toNat) kp * x.2 < x.1))).map (fun e => detailOf 15 1 e.1)

/-- Flows that are valid, in order. -/
def flowsIn (t : Tables) : List (Nat × FlowCfg) := t.flows.filter (·.2.valid)

/-- A flow breaks a condition of R143 by itself, or with the queue, the bond or the provinces it names. -/
def flowBad (t : Tables) (f : FlowCfg) : Bool :=
  let q := tget {} t.queues f.queue.toNat
  (match tfind t.bonds f.bondFirst.toNat with | some b => decide (b.log2 ≠ f.bondLog2) | none => true) ||
  !(q.valid && q.bondFirst = f.bondFirst && q.bondLog2 = f.bondLog2) ||
  f.cls = 3 || (f.cls = 1 && f.ceiling < f.guarantee) || (f.cls = 2 && f.guarantee ≠ 0) ||
  (List.range 1024).any (fun p => f.provs.getLsbD p &&
    (let x := tget {} t.provs p
     !x.valid || x.kind = 1))

/-- 13 FLOW. -/
def badFlows (t : Tables) (rs : List SheetRec) : List Place :=
  (if t.evalLog2.toNat < 6 || 12 < t.evalLog2.toNat then [blame rs 4 [(4, 1, 0)]] else []) ++
  ((flowsIn t).filter (fun e => flowBad t e.2)).map (fun e => blame rs 4 [(4, 2, e.2.queue.toNat), (4, 3, e.1)]) ++
  ((flowsIn t).flatMap (fun e => ((flowsIn t).filter (fun o => o.1 < e.1 && o.2.ctxV && e.2.ctxV && o.2.ctx = e.2.ctx)).map
    (fun o => blame rs 4 [(4, 3, o.1), (4, 3, e.1)])))

/-- The provinces with enc = 1 that a flow may touch. -/
def encProvs (t : Tables) (f : FlowCfg) : List Nat := ((flowProvs t f).filter (fun p => p.2.enc)).map (·.1)

/-- 14 KEY: a management key that is no valid point, or R308. -/
def badKeys (t : Tables) (rs : List SheetRec) : List Place :=
  (match t.mgmtKey with | some (x, y) => if validPoint x y then [] else [blame rs 5 [(5, 1, 0)]] | none => []) ++
  ((flowsIn t).filter (fun e => encProvs t e.2 ≠ [] &&
    tfind t.slots e.2.keySlot.toNat ≠ some (e.2.bondFirst.toNat, e.2.bondLog2.toNat))).map (fun e =>
      blame rs 5 ((encProvs t e.2).map (fun p => (3, 1, p)) ++ [(4, 3, e.1), (5, 2, e.2.keySlot.toNat)]))

/-- Distance on the circle of 125. -/
def circleGap (a b : Nat) : Nat := min ((a + 125 - b % 125) % 125) ((b + 125 - a % 125) % 125)

/-- 15 REFRESH: period, nr_k, offsets out of range, and tiers of a group less than 20 beats apart (R195). -/
def badRefresh (v : Variant) (t : Tables) (rs : List SheetRec) : List Place :=
  let off := fun (x : Nat) => (tget 0 t.lull x).toNat
  let ts := (List.range 20).filter (tierPresent v)
  badRecords rs (fun r => r.sheet = 6 && r.rtype = 1 &&
    (wordField (bodyAt r 0) 17 7 ≠ 125 || wordField (bodyAt r 0) 13 4 < 7 || 14 < wordField (bodyAt r 0) 13 4)) ++
  (ts.filter (fun x => decide (124 < off x))).map (fun x => blame rs 6 [(6, 2, x)]) ++
  ts.flatMap (fun x => (ts.filter (fun y => y < x && y % 4 = x % 4 && circleGap (off x) (off y) < 20)).map
    (fun y => blame rs 6 [(6, 2, y), (6, 2, x)]))

/-- 16 POWER. -/
def badPower (t : Tables) (rs : List SheetRec) : List Place :=
  (if t.limit.toNat < 8 || 25 < t.limit.toNat then [blame rs 7 [(7, 1, 0)]] else []) ++
  (if !t.plan.getLsbD 0 then [blame rs 7 [(7, 2, 0)]] else []) ++
  badRecords rs (fun r => r.sheet = 7 && r.rtype = 3 && wordField (bodyAt r 0) 0 2 = 3)

/-- A configuration word that R337 refuses with FAULT. -/
def faultWordBad (src : Nat) (w : Word) : Bool :=
  match sourceOf src with
  | none => true
  | some x =>
    x.cap < cfgBase w || (x.fixed && cfgBase w ≠ x.base) ||
    (cfgBase w < x.cap && (cfgN w = 0 || wordField w 5 7 = 0)) || w.getLsbD 20

/-- 17 FAULT. -/
def badFaults (rs : List SheetRec) : List Place := badRecords rs (fun r => r.sheet = 8 && faultWordBad r.index (bodyAt r 0))

/-- Dumps enabled against R438. -/
def dumpBad (t : Tables) : Bool :=
  let p := tget {} t.provs t.dumpProv.toNat
  t.dumpEn && (!p.valid || p.kind ≠ 2 || p.enc || t.dumpPer.toNat < 100 || 60000 < t.dumpPer.toNat ||
    16384 < t.dumpFirst.toNat + t.dumpCount.toNat || dumpSlots t < 2)

/-- 18 TELEMETRY. -/
def badTelemetry (v : Variant) (t : Tables) (rs : List SheetRec) : List Place :=
  (if dumpBad t then [blame rs 9 [(3, 1, t.dumpProv.toNat), (9, 1, 0)]] else []) ++
  badRecords rs (fun r => r.sheet = 9 && r.rtype = 2 && selectStatus v (bodyAt r 0) = .refused)

/-- 19 COMPAT. -/
def badCompat (rs : List SheetRec) : List Place :=
  badRecords rs (fun r => r.sheet = 10 && decide (bodyAt r 0 &&& 0x7FFFFF ≠ 0))

/-- 5 SHEET_KIND: the lowest sheet missing of a full image, or not amendable in an amendment. -/
def sheetKind (p : Parsed) : Option Nat :=
  if p.amend then [1, 2, 6, 7, 10].find? p.sheets.contains
  else ((List.range 10).map (· + 1)).find? (fun t => !p.sheets.contains t)

/-- An amendment that fits the image in force (code 4). -/
def basePasses (s : State) (p : Parsed) : Bool :=
  !p.amend ||
  (s.img.inForce && p.imageId = s.img.imageId && p.base = s.img.revision && p.amendSeq.toNat = s.img.amendSeq.toNat + 1)

/-- A full image that repeats the one in force before a warm reset (R324). -/
def isReload (s : State) (p : Parsed) : Bool :=
  !p.amend && s.img.reloadOk && p.imageId = s.img.imageId && p.revision = s.img.revision

def failAt (code : Nat) (p : Option Place) : Option (Nat × Word) := p.map (fun x => (code, x.detail))

/-- The checks that depend on run-time state (codes 9 to 11), made at admission and again at the switch (R327). -/
def judgeRun (s : State) (p : Parsed) (t : Tables) : Option (Nat × Word) :=
  if p.amend then none
  else (failAt 9 (holedProv s t)).orElse (fun _ =>
    if isReload s p then none
    else match lostGran s t with
      | some g => some (10, detailOf 2 0 g)
      | none => if sparingBusy s then some (11, 0) else none)

/-- Codes 3 to 19: the first check that fails, with IMG_DETAIL (R323, R491). -/
def judgeImage (s : State) (p : Parsed) : Option (Nat × Word) :=
  let v := s.variant
  let rs := p.recs
  let t := tablesOf s p
  if p.secVer < versionCount s.fus then some (3, 0)
  else if !basePasses s p then some (4, 0)
  else match sheetKind p with
    | some n => some (5, detailOf n 0 0)
    | none =>
      (failAt 6 (firstPlace (badRecords rs (absentUnit v)))).orElse fun _ =>
      (failAt 7 (firstPlace (badBonds t))).orElse fun _ =>
      (failAt 8 (firstPlace (badLayouts t rs ++ badContents t rs))).orElse fun _ =>
      (judgeRun s p t).orElse fun _ =>
      ((admission t).map (fun d => (12, d))).orElse fun _ =>
      (failAt 13 (firstPlace (badFlows t rs))).orElse fun _ =>
      (failAt 14 (firstPlace (badKeys t rs))).orElse fun _ =>
      (failAt 15 (firstPlace (badRefresh v t rs))).orElse fun _ =>
      (failAt 16 (firstPlace (badPower t rs))).orElse fun _ =>
      (failAt 17 (firstPlace (badFaults rs))).orElse fun _ =>
      (failAt 18 (firstPlace (badTelemetry v t rs))).orElse fun _ =>
      failAt 19 (firstPlace (badCompat rs))

/-- Two sets of tables agree in the structural sheets PORT, PROVINCE_LAYOUT, POWER and COMPAT; plan bits of absent domains
mean nothing (R321, R325). -/
def sameStruct (v : Variant) (a b : Tables) : Bool :=
  let lay := fun (t : Tables) =>
    (t.provs.filter (·.2.valid)).map (fun e => (e.1, e.2.kind, e.2.cls, e.2.base, e.2.count))
  decide (a.bonds = b.bonds) && decide (lay a = lay b) && a.limit = b.limit &&
  (List.range 72).all (fun d => !domPresent v d || a.plan.getLsbD d = b.plan.getLsbD d) &&
  decide (a.opMax = b.opMax) && a.compat = b.compat

/-- A full image differs from the sheets in force in a structural sheet. -/
def isStructural (s : State) (p : Parsed) : Bool :=
  !p.amend && (!s.img.inForce || !sameStruct s.variant (tablesOf s p) s.tables)

end Sys2Proof.Machine
end

