-- ==== Sys2Proof/Machine/Image.lean ====
section
/-! DEFINITION. The image loader (R325–R329) and what the tables of an image change when they come into force (R133, R185,
R198, R234, R261, R304, R308, R330, R363, R368, R437, R438). -/

namespace Sys2Proof.Machine

def State.modImg (s : State) (g : Img → Img) : State := { s with img := g s.img }

/-! ### Refusals (R323, R328) -/

/-- The loader is IDLE and holds nothing. -/
def Img.toIdle (i : Img) : Img :=
  { i with phase := .idle, owner := none, structural := false, shadow := none, words := [], firstEdge := none }

/-- The load under way comes from QSPI: no path owns the loader (R325). -/
def bootLoad (i : Img) : Bool := i.phase ≠ .idle && i.owner.isNone

/-- Take the next QSPI copy, or raise CONFIG_IMAGE and wait for a push (R328). -/
def nextCopy (s : State) : State :=
  match s.img.copies with
  | [] => raise s 0x30 0
  | c :: cs => s.modImg (fun i => { i with
      phase := .receive
      source := BitVec.ofNat 2 c
      copies := cs
      words := []
      received := 0 })

/-- An image is refused: reason and detail are kept and CONFIG_REFUSED counts; a boot load tries the other copy. -/
def refuseImage (s : State) (code : Nat) (detail : Word) : State :=
  let boot := bootLoad s.img
  let s := raise (s.modImg (fun i => { i.toIdle with
    reason := BitVec.ofNat 5 code
    detail := detail
    refusals := sat i.refusals 1 })) 0x34 0
  if boot then nextCopy s else s

/-! ### IMG_CTRL (R325, R326, R329, R331) -/

def imgReason (s : State) (code : Nat) : State := s.modImg (fun i => { i with reason := BitVec.ofNat 5 code, detail := 0 })

/-- start: the path of port n claims the loader. -/
def imgStart (n : Nat) (s : State) : Status × State :=
  if s.flt.fatal then (.refused, imgReason s 24)
  else if s.img.phase ≠ .idle then (.refused, imgReason s 22)
  else (.ok, s.modImg (fun i => { i.toIdle with
    phase := .receive
    kind := false
    owner := some n
    source := 0
    received := 0 }))

/-- commit: accepted from the owner in READY, with a target that lies ahead and no epoch load armed. -/
def imgCommit (n : Nat) (s : State) : Status × State :=
  if s.img.owner ≠ some n || s.img.phase ≠ .ready then (.refused, s)
  else if s.img.target ≠ 0 && s.img.target.toNat ≤ s.mer.count.toNat + 1 then (.refused, imgReason s 20)
  else if s.mer.arm then (.refused, imgReason s 21)
  else (.ok, s.modImg (fun i => { i with
    phase := .scheduled
    firstEdge := if i.target = 0 then some (s.elapsed + 1) else none }))

/-- abort: the owner abandons the load. -/
def imgAbort (n : Nat) (s : State) : Status × State :=
  if s.img.owner ≠ some n || s.img.phase = .idle || s.img.phase = .switching then (.refused, s)
  else (.ok, abortImage s 23)

/-- A write of IMG_CTRL: start, commit, then abort; a part that is refused refuses the write (log 33). -/
def imgCtrlWrite (n : Nat) (data : Word) (s : State) : Status × State :=
  let stop := fun (r : Status × State) => (Status.refused, s.modImg (fun i => { i with reason := r.2.img.reason, detail := r.2.img.detail }))
  let r := if data.getLsbD 23 then imgStart n s else (.ok, s)
  if r.1 ≠ .ok then stop r
  else
    let r := if data.getLsbD 22 then imgCommit n r.2 else r
    if r.1 ≠ .ok then stop r
    else
      let r := if data.getLsbD 21 then imgAbort n r.2 else r
      if r.1 ≠ .ok then stop r else r

/-- IMAGE_START. -/
def execImageStart (via : Via) (data : Word) (s : State) : Host.Outcome State Fault Refusal :=
  answer s (mgmtWrite s via .img 0 data (imgCtrlWrite via.port data))

/-- IMAGE_COMMIT. -/
def execImageCommit (via : Via) (data : Word) (s : State) : Host.Outcome State Fault Refusal :=
  answer s (mgmtWrite s via .img 0 data (imgCtrlWrite via.port data))

/-- IMAGE_ABORT. -/
def execImageAbort (via : Via) (data : Word) (s : State) : Host.Outcome State Fault Refusal :=
  answer s (mgmtWrite s via .img 0 data (imgCtrlWrite via.port data))

/-! ### Words (R325) -/

/-- The words received are judged: a breach refuses the image, the last word starts verification. -/
def wordsArrive (s : State) : State :=
  let ws := s.img.words.reverse
  match formatBreach ws with
  | some d => refuseImage s 1 d
  | none =>
    if ws[2]?.map BitVec.toNat = some ws.length then s.modImg (fun i => { i with phase := .verify }) else s

/-- A write of IMG_DATA: only from the owner, only in RECEIVE. -/
def imgDataWrite (n : Nat) (data : Word) (s : State) : Status × State :=
  if s.img.phase ≠ .receive || s.img.owner ≠ some n then (.refused, s)
  else
    (.ok, wordsArrive (s.modImg (fun i => { i with
      words := data :: i.words
      received := i.received + 1
      kind := if i.received = 1 then data.getLsbD 0 else i.kind })))

/-- IMAGE_DATA_WRITE. -/
def execImageDataWrite (via : Via) (data : Word) (s : State) : Host.Outcome State Fault Refusal :=
  answer s (mgmtWrite s via .img 5 data (imgDataWrite via.port data))

/-- IMAGE_RECEIVE_TIMEOUT: 100 ms without a word from the owner. -/
def execImageReceiveTimeout (s : State) : Host.Outcome State Fault Refusal :=
  answer s (if s.img.phase = .receive && s.img.owner.isSome then abortImage s 23 else s)

/-- The order in which the copies are tried: kind 0 before any other, the higher revision first, A on a tie. -/
def copyOrder (a b : List Word) : List Nat :=
  let rank := fun (h : List Word) => ((if wordField (h.getD 1 0xFF) 0 8 = 0 then 1 else 0), (h.getD 4 0).toNat)
  if (rank a).1 < (rank b).1 || ((rank a).1 = (rank b).1 && (rank a).2 < (rank b).2) then [2, 1] else [1, 2]

/-- QSPI_BOOT_LOAD (R328): the headers of both copies are read and the first copy's load starts. -/
def execQspiBootLoad (headerA headerB : List Word) (s : State) : Host.Outcome State Fault Refusal :=
  answer s (
    if s.pins.bootQspi && s.img.bootDue && s.rst.phase = .image && s.img.phase = .idle && !s.img.inForce && !s.flt.fatal then
      nextCopy (s.modImg (fun i => { i with bootDue := false, copies := copyOrder headerA headerB, kind := false }))
    else s)

/-- QSPI_COPY_READ_DONE: the words of the copy, as far as its length word reaches. -/
def execQspiCopyReadDone (words : List Word) (s : State) : Host.Outcome State Fault Refusal :=
  answer s (
    if s.img.phase = .receive && s.img.owner.isNone then
      let n := (words.getD 2 0).toNat
      let ws := if n = 0 then words else words.take n
      let s := s.modImg (fun i => { i with
        words := ws.reverse
        received := ws.length
        kind := (ws.getD 1 0).getLsbD 0 })
      match formatBreach ws with
      | some d => refuseImage s 1 d
      | none =>
        -- a copy that ends before its length is no image (R318)
        if ws[2]?.map BitVec.toNat = some ws.length then s.modImg (fun i => { i with phase := .verify })
        else refuseImage s 1 0
    else s)

/-! ### Verification and admission (R325) -/

/-- SIGNATURE_VERIFIED: R320 decides. -/
def execSignatureVerified (s : State) : Host.Outcome State Fault Refusal :=
  answer s (
    if s.img.phase = .verify then
      if authentic s.fus s.img.words.reverse then s.modImg (fun i => { i with phase := .admission })
      else refuseImage s 2 0
    else s)

/-- ADMISSION_DONE: the image is admitted entire or refused entire; a boot load switches at the next beat edge. -/
def execAdmissionDone (s : State) : Host.Outcome State Fault Refusal :=
  answer s (
    if s.img.phase = .admission then
      let p := parseImage s.img.words.reverse
      match judgeImage s p with
      | some r => refuseImage s r.1 r.2
      | none =>
        let st := isStructural s p
        let t := tablesOf s p
        s.modImg (fun i => { i with
          structural := st
          shadow := some t
          phase := if i.owner.isNone then .scheduled else .ready
          firstEdge := if i.owner.isNone then some (s.elapsed + 1) else none })
    else s)

/-! ### Tables come into force -/

/-- Every flow either set of tables names. -/
def flowKeys (a b : Tables) : List Nat := (a.flows.map (·.1) ++ (b.flows.map (·.1)).filter (fun f => !a.flows.any (fun e => e.1 = f)))

/-- The window of a flow whose L changes closes unjudged (R133, R136). -/
def closeChanged (t : Tables) (s : State) (f : Nat) : State :=
  let a := flowCfg s f
  let b := tget {} t.flows f
  if a.valid && b.valid && a.winM1 ≠ b.winM1 then closeWindow (s.modFlowR f (fun r => { r with spoiled := true })) f else s

/-- A flow under its new contract (R133, R293); `old` holds the tables before. -/
def startChanged (old : Tables) (s : State) (f : Nat) : State :=
  let a := tget {} old.flows f
  let b := flowCfg s f
  if a.valid && !b.valid then dropFlowDescs (s.modFlowR f (fun r => { r with floor := 0 })) f
  else if !a.valid && b.valid then startSpan s f
  else if a.valid && a.winM1 ≠ b.winM1 then unparkFlow (openWindow s f (atEdge s b)) f
  else if a.valid && spoiledNow s b then s.modFlowR f (fun r => { r with spoiled := true })
  else s

/-- Queues made invalid or valid hold nothing (R330). -/
def changeQueues (old : Tables) (s : State) : State :=
  foldS ((List.range 64).filter (fun q => (tget {} old.queues q).valid ≠ (queueCfg s q).valid)) (fun s q =>
    s.modEvq q (fun e => { e with recs := [], lostNow := 0 })) s

/-- FLW counts restart at a full image (R330). -/
def restartCounts (s : State) : State :=
  { s with
    flowRt := (s.flowRt.map (fun e => (e.1, { e.2 with missCount := 0, oobCount := 0, unjudged := 0 }))).filter (fun e => e.2 ≠ {})
    queues := (s.queues.map (fun e => (e.1, { e.2 with lost := 0 }))).filter (fun e => e.2 ≠ {})
    flw := { s.flw with entries := 0 } }

/-- Slots taken from their bond are cleared; a changed management key, like any full image, closes the sessions (R304,
R308). -/
def changeKeys (old : Tables) (full : Bool) (s : State) : State :=
  let gone := (old.slots.filter (fun e => tfind s.tables.slots e.1 ≠ some e.2)).map (·.1)
  let s := foldS gone clearSlotNow s
  if full || decide (old.mgmtKey ≠ s.tables.mgmtKey) then foldS (List.range 8) closeSession s else s

/-- Tiers whose Lull offset changed, once a refresh sheet was in force (R198). -/
def changeLull (old : Tables) (s : State) : State :=
  if old.lull = [] then s
  else foldS ((List.range 20).filter (fun t => tierPresent s.variant t && tget 0 old.lull t ≠ tget 0 s.tables.lull t)) chargeSlot s

/-- A source whose configuration word changes restarts its count (R330). -/
def changeFaults (old s : State) : State :=
  let moved := (sources.map (·.1)).filter (fun n => cfgWord old n ≠ cfgWord s n)
  { s with flt := { s.flt with
      insts := (s.flt.insts.map (fun e =>
        (e.1, if moved.contains (e.1 / 16384) then { e.2 with count := 0, start := 0 } else e.2))).filter (fun e => e.2 ≠ {}) } }

/-- The telemetry sheets differ. -/
def telChanged (a b : Tables) : Bool :=
  a.dumpEn ≠ b.dumpEn || a.dumpProv ≠ b.dumpProv || a.dumpPer ≠ b.dumpPer || a.dumpFirst ≠ b.dumpFirst ||
  a.dumpCount ≠ b.dumpCount || decide (a.selects ≠ b.selects)

/-- The telemetry sheet writes its selections, for the counters of `ns`, and the ring restarts at slot 0 (R437, R438). -/
def changeTelemetry (ns : List Nat) (s : State) : State :=
  let s := foldS ns (fun s n => setCounter s n ((counterOf s n).select (tget 0xFFF000 s.tables.selects n))) s
  { s with tel := { s.tel with head := 0, busy := false, recLines := [] } }

/-- The tables t come into force at a beat edge; `amended` names the counters of an amendment, none for a full image. -/
def installTables (old : State) (t : Tables) (amended : Option (List Nat)) (live : Bool) : State :=
  let full := amended.isNone
  let fs := flowKeys old.tables t
  let s := foldS fs (closeChanged t) old
  let s := { s with tables := t }
  let s := if full then giveGrans (freeGrans s) else s
  let s := if full then restartCounts s else s
  let s := foldS fs (startChanged old.tables) s
  let s := changeQueues old.tables s
  let s := changeKeys old.tables full s
  let s := changeLull old.tables s
  let s := changeFaults old s
  let s := if !live || telChanged old.tables t then changeTelemetry (amended.getD (List.range 256)) s else s
  let s := if full then { s with flw := { s.flw with shortfall := false, factor := 64, shed := 0, clean := 0, posted := [], heldBack := [] } } else s
  budgetDue (setFloors s)

/-- A live switch (R327, R330): the counters of an amendment are those its records name. -/
def liveSwitch (s : State) (p : Parsed) (t : Tables) : State :=
  let named := (p.recs.filter (fun r => r.sheet = 9 && r.rtype = 2)).map (·.index)
  installTables s t (if p.amend then some named else none) true

/-- An image at a cold or warm reset moves each channel to its op_max (R185). -/
def bootPoint (s : State) (c : Nat) : State :=
  let m := tget 0 s.tables.opMax c
  let s := s.modChan c (fun ch => { ch with opMax := m })
  match (s.sprOf c).st with
  | .normal | .laneDegraded => applyTarget s c m 0
  | _ => s

/-- The mode of the image, at a reset (R229, R234): `old` is the mode before; a cold start fills under the new mode. A fill of
pages that an earlier switch called for and that has not run yet stays due, and the ink map with it (DEDUCED, log 121). -/
def bootMode (old : Bool) (s : State) : State :=
  if s.rst.fillDue then { s with inkAll := false, ink := [] }
  else if s.rst.pagesDue then s
  else if !old && s.tables.compat then { s with inkAll := true, ink := [] }
  else if old && !s.tables.compat then { s with rst := { s.rst with pagesDue := true } }
  else s

/-- An image comes into force at a cold or warm reset (R450 step 4, R455 step 4). -/
def bootSwitch (old : State) (t : Tables) : State :=
  let s := installTables old t none false
  let s := bootMode old.tables.compat s
  let s := { s with
    pwr := { s.pwr with
      limFm := t.limit.extractLsb' 0 5
      ltherm := if s.hkp.fenced then s.pwr.floor else t.limit.extractLsb' 0 5
      cool := 0 }
    img := { s.img with inForce := true, reloadOk := false } }
  let s := applyPlan s
  let s := foldS (List.range 32) bootPoint s
  foldS ((List.range 8).filter (portPresent s.variant)) (fun s n =>
    match (s.port n).st with
    | .active | .recovery | .down => s.modPort n (fun p => { p with foreign := foreignNow s n })
    | _ => s) s

end Sys2Proof.Machine
end

