-- ==== Sys2Proof/Machine/Boot.lean ====
section
/-! DEFINITION. The fuse load of a cold start (R408–R427, R450 step 1): banks judged, trims, repair and lane records, the
sparing map and the Logbook's pages (R240, R261, R266, R351, R391). -/

namespace Sys2Proof.Machine

/-! ### Banks (R416, R427, R430) -/

/-- First word of each slot of the factory area: three words each from word 32 on (R419). -/
def factorySlots : List Nat := (List.range 223).map (fun i => 32 + 3 * i)

def areaSlots (c : Nat) : List Nat := (List.range 106).map (slotAddr c)

/-- Slots of an area that parsing reaches: it stops at the first blank one (R421). -/
def slotsRead (f : Fus) (as : List Nat) : List Nat :=
  as.takeWhile (fun a => !(List.range 3).all (fun j => !fuseProgrammed (fuseAt f 4 (a + j))))

/-- Words of a bank that the load reads (R427). -/
def wordsRead (f : Fus) (b : Nat) : List Nat :=
  if b ≠ 4 then List.range (bankWords b)
  else
    let slots := slotsRead f factorySlots ++ ((List.range 32).map (fun c => slotsRead f (areaSlots c))).flatten
    List.range 32 ++ [sealWord 4] ++ (slots.map (fun a => [a, a + 1, a + 2])).flatten

/-- A locked bank is sound: every word of its sealed region and its seal word can be read, and the seal holds (R416). -/
def bankSound (f : Fus) (b : Nat) : Bool :=
  (List.range (sealWord b + 1)).all (fun w => (fuseValue f b w).1 ≠ 2) &&
  (fuseValue f b (sealWord b)).2.1 = sealCrc f b

/-- The entry of a bank after a load, with the bank's words as read. -/
def judgeBank (f : Fus) (b : Nat) : FuseBank :=
  let vs := (wordsRead f b).map (fuseValue f b)
  let lk := bankLocked f b
  let sound := lk && bankSound f b
  { valid := !lk || sound
    locked := lk
    sealed_ := b ≠ 3 && fuseProgrammed (fuseAt f b (sealWord b))
    sealOk := sound
    marginal := sat 0 ((vs.filter (fun v => v.1 = 1)).length)
    corrected := sat 0 ((vs.filter (fun v => v.2.2)).length) }

/-- Read bank b: marginal words are logged, an invalid bank raises CONFIG_SEAL with its code (R411, R416); a Lock word that
cannot be read does too (R412). -/
def loadBank (s : State) (b : Nat) : State :=
  let e := judgeBank s.fus b
  let s := foldS (wordsRead s.fus b) (fun s w => noteMarginal s b w) s
  let s := s.modFus (fun f => { f with banks := tset {} f.banks b e })
  if b = 3 then
    foldS ((List.range (bankWords 3)).filter (fun w => (fuseValue s.fus 3 w).1 = 2)) (fun s _ => raise s 0x31 0 3) s
  else if e.valid then s
  else raise s 0x31 0 (BitVec.ofNat 24 b)

/-- A bank of the last load is in use. -/
def bankGood (s : State) (b : Nat) : Bool := (bankOf s.fus b).valid

/-! ### Trims (R425, R426) -/

/-- Fields of a class outside their limits. -/
def badFields (ws : List Word) (cls : Nat) : Nat := ((List.range (trimCount cls)).filter (trimBad ws cls)).length

/-- The trims that the trim commit applies: FUSE_CAL counts once per field replaced. -/
def loadTrims (s : State) : State :=
  let ws := if bankGood s 1 then bankData s.fus 1 341 else []
  let ws := if ws.all (· = 0) then [] else ws
  let boot := (List.range 5).foldl (fun (a : BitVec 5) k => if badFields ws k = 0 then a else a ||| BitVec.ofNat 5 (2 ^ k)) 0
  let s := s.modFus (fun f => { f with trims := ws, boot := boot })
  foldS (List.range 5) (fun s k => foldS (List.range (badFields ws k)) (fun s _ => raise s 0x33 0) s) s

/-! ### Records (R240, R266, R421) -/

/-- The records that apply, in parse order, each with its channel: a record of a channel area names its own channel. -/
def bootRecords (f : Fus) : List (RepairRec × Nat) :=
  if bankBad f 4 then []
  else
    (slotsRead f factorySlots).filterMap (parseRecord f) ++
    ((List.range 32).map (fun c =>
      ((slotsRead f (areaSlots c)).filterMap (parseRecord f)).filter (fun r => r.2 = c))).flatten

/-- Row repairs, unusable spare rows and lane records; line records come later. -/
def bootRecord (s : State) (r : RepairRec × Nat) : State :=
  let c := r.2
  match r.1 with
  | .row k b w i =>
    if !rankPresent s.variant k then s
    else
      (s.modRmem (rankKey c k) (fun m => { m with repair := tput m.repair (b * 16384 + w) i })).modEccOf c
        (fun e => { e with rows := sat e.rows 1 })
  | .spareBad k b i =>
    if !rankPresent s.variant k || (s.rmem (rankKey c k)).badSpares.contains (b * 16 + i) then s
    else s.modRmem (rankKey c k) (fun m => { m with badSpares := m.badSpares ++ [b * 16 + i] })
  | .lane l act =>
    if 85 < l then s
    else if act = 0 then standIn s c l
    else if act = 2 then useSpare s c l
    else if act = 1 && l < 72 && !isErased s c l then
      (s.modTsvOf c (fun t =>
        if l < 36 then { t with erasedA := t.erasedA ++ [l] } else { t with erasedB := t.erasedB ++ [l - 36] })).modSprOf c
        (fun x => { x with st := .laneDegraded })
    else s
  | .line _ => s

/-- A line record takes a remap entry in COMMITTED where its row has no repair, its rank is neither retired nor fenced and
an entry is FREE. -/
def applyLine (s : State) (r : RepairRec × Nat) : State :=
  match r.1 with
  | .line l =>
    let key := rankKey l.ch l.rank
    let st := (s.rank l.ch l.rank).st
    if !rankPresent s.variant l.rank || (tfind (s.rmem key).repair (l.bank * 16384 + l.row)).isSome || (remapAt s l).isSome ||
        !(st = .inService || st = .spareIdle || st = .spareHolding) then s
    else match freeEntry (s.eccOf l.ch) with
      | some i =>
        let w := memRead s l
        s.modEccOf l.ch (fun e => { e with
          remap := tput e.remap i { st := .committed, loc := l, words := w, recorded := true } })
      | none => s
  | _ => s

/-! ### The sparing map (R261) -/

/-- Put a rank into the state that boot gives it; a state that the map does not hold is recorded. -/
def bootRank (s : State) (c k : Nat) (v : RankSp) : State :=
  let was := match tfind s.log.map (rankKey c k) with
    | some r => r.st
    | none => (rankDefault k).st
  let s := s.setRankRaw c k v
  if was = v.st then s else logMap s (.rank (rankKey c k) v)

/-- Rank 4 of a channel is settled first: anything but idle or holding leaves it unusable; data is lost, so a holding rank
starts idle and is taken again by the rank it held. -/
def settleSpare (s : State) (c : Nat) : State :=
  if !hasSpare s.variant then s
  else match tfind s.log.map (rankKey c 4) with
    | none => s
    | some r =>
      if r.st = .spareIdle || r.st = .spareHolding || r.st = .inService then s
      else bootRank s c 4 { st := .spareUnusable, cause := 6, why := r.why }

/-- The rank was to be, or was, in rank 4. -/
def wantsSpare (r : RankSp) : Bool := r.st = .retiredSpare || r.st = .pending || (r.st = .migrating && !r.toRes)

/-- Retire rank k of channel c from boot on: into rank 4 when it is free, else into the reserve at the first image. -/
def retireAtBoot (s : State) (c k : Nat) (r : RankSp) : State :=
  if wantsSpare r && hasSpare s.variant && (s.rank c 4).st = .spareIdle then
    bootRank (bootRank s c k { st := .retiredSpare, cause := 6 }) c 4 { st := .spareHolding, holder := BitVec.ofNat 3 k }
  else bootRank s c k { st := .retiredReserve, cause := 6, toRes := true }

/-- Ranks 0–3 of a channel: those that rank 4 held come first. -/
def settleRanks (s : State) (c : Nat) : State :=
  let found := (List.range 4).filterMap (fun k => (tfind s.log.map (rankKey c k)).map (fun r => (k, r)))
  let out := found.filter (fun x => x.2.st ≠ .inService)
  let held := out.filter (fun x => x.2.st = .retiredSpare)
  let rest := out.filter (fun x => x.2.st ≠ .retiredSpare)
  (held ++ rest).foldl (fun s x => retireAtBoot s c x.1 x.2) s

/-- The sparing map is applied to channel c. -/
def applyMap (s : State) (c : Nat) : State :=
  let s := settleRanks (settleSpare s c) c
  -- a rank 4 recorded as holding whose rank is not retired into it is idle again
  if hasSpare s.variant && (s.rank c 4).st = .spareIdle then bootRank s c 4 (rankDefault 4) else s

/-! ### The Logbook scan (R351, R376) -/

/-- First-fault pages whose first entry has its commit word. -/
def pagesFound (s : State) : Nat := ((List.range 16).takeWhile (fun p => tget 0 s.log.mem (96 * p + 5) ≠ 0)).length

/-! ### What holds a start (R450 step 2, R475, R480) -/

/-- RESET_N, a lost REFCLK or TEST_EN holds the stack. -/
def pinsHold (s : State) : Bool := !s.pins.resetN || !s.pins.refclk || (s.pins.testEn && s.sec.lc ≠ 0)

/-- Step 3 of a cold start: domains wake, and the boot source is sampled (R479). -/
def coldStep3 (s : State) : State :=
  wakeAll { s with
    rst := { s.rst with phase := .image }
    img := { s.img with bootDue := s.pins.bootQspi }
    sec := { s.sec with keyDue := true } }

/-- A cold start goes on past step 2 once nothing holds it. -/
def coldGo (s : State) : State :=
  if pinsHold s then { s with rst := { s.rst with phase := .held } } else coldStep3 s

/-- GAZETTEER_BUILD (R35, R36). -/
def execGazetteerBuild (s : State) : Host.Outcome State Fault Refusal :=
  answer s (if s.rst.phase = .fuse && !s.gazBuilt then { s with gazBuilt := true } else s)

/-- What the fuse load and the scan of the Logbook leave; a copy of the rotation state is valid from manufacture on, since the
two are written alternately (R442, R447; DEDUCED, log 123). -/
def fuseLoad (s : State) : State :=
  let s := s.modFus (fun f => { f with loaded := false, banks := [] })
  let s := foldS (List.range 5) loadBank s
  let s := s.modFus (fun f => { f with
    loaded := true
    factory := if bankGood s 0 then (fuseValue f 0 27).2.1.extractLsb' 0 5 else 0
    redirects := BitVec.ofNat 6 (if bankBad f 4 then 0 else
      ((List.range 32).filter (fun w => match fuseSense 4 (rawWord f 4 w) with
        | (0, d, _) => d.getLsbD 23
        | _ => false)).length) })
  let s := { s with sec := { s.sec with lc := BitVec.ofNat 2 (lcWords s.fus) } }
  let s := loadTrims s
  let recs := bootRecords s.fus
  let s := recs.foldl bootRecord s
  let s := foldS (List.range 32) applyMap s
  let s := recs.foldl applyLine s
  { s with
    flt := { s.flt with pagesUsed := pagesFound s, head := s.log.fHead }
    log := { s.log with stateOk := true } }

/-- FUSE_LOAD_COMPLETE (R427, R450): the trim commit ends step 1. -/
def execFuseLoadComplete (s : State) : Host.Outcome State Fault Refusal :=
  answer s (if s.rst.phase = .fuse && s.gazBuilt then coldGo (fuseLoad s) else s)

end Sys2Proof.Machine
end

