-- ==== Sys2Proof/Machine/Reset.lean ====
section
/-! DEFINITION. The reset scopes (R448, R449, R455–R463), the pins that start and hold resets (R475, R478, R480), the switch
of an image (R327) and the last steps of a start (R450). -/

namespace Sys2Proof.Machine

/-- The answer of a command that acts on the block whether or not PWRGOOD is high. -/
def always (s t : State) : Host.Outcome State Fault Refusal := .next (fin s t)

/-! ### Cold reset (R448, R449, R472) -/

/-- The fuse array after a loss of power: the bit whose pulse was cut short senses as it may (R423). -/
def brokenArray (f : Fus) (free : Nat) : Tbl FuseWord :=
  match f.op with
  | some o => match o.bits with
    | i :: _ =>
      if o.live then
        let k := physKey f o.bank o.word
        let w := tget {} f.array k
        let b := Config.brokenPulse free
        let m := BitVec.ofNat 30 (2 ^ i)
        -- a word of the Lock bank counts as programmed
        let lo := b.2 || (o.bank = 3 && !b.1)
        tset {} f.array k { hi := if b.1 then w.hi ||| m else w.hi, lo := if lo then w.lo ||| m else w.lo }
      else f.array
    | [] => f.array
  | none => f.array

/-- The Logbook after a loss of power: what is written stays, what waits is gone, a clear under way has ended. -/
def coldLog (l : Log) : Log :=
  { mem := l.clearing.foldl (fun m a => tset 0 m a 0) l.mem
    map := l.map
    sets := l.sets
    commits := l.commits
    written := l.written
    sinceGap := l.sinceGap
    gap := l.gap
    jHead := l.jHead
    fHead := l.fHead
    mHead := l.mHead
    sHead := l.sHead }

/-- The block after a cold reset: everything at its Reset value, the tiers' contents lost, fuses and Logbook kept. -/
def coldState (s : State) (cause : BitVec 3) : State :=
  let f := takeFree s
  let g := takeFree f.2
  { variant := s.variant
    pending := s.pending
    freeIdx := g.2.freeIdx
    pins := { s.pins with alive := none, aliveAt := none, thermtripN := true }
    rst := { cause := cause, bootBist := s.pins.bistSel }
    mem := (List.range 160).map (fun k => (k, { lost := f.1 }))
    fus := { array := brokenArray s.fus g.1 }
    log := coldLog s.log }

/-- PWRGOOD goes low: the block loses its state. -/
def powerOff (s : State) : State :=
  if s.pins.pwrgood then
    let t := coldState s 0
    { t with pins := { t.pins with pwrgood := false } }
  else s

/-- POWERGOOD_FALL. -/
def execPowergoodFall (s : State) : Host.Outcome State Fault Refusal := always s (powerOff s)

/-- VDD_AON_DROP (R376, R472): the hold-up completes the Logbook record in progress and the stack loses power. -/
def execVddAonDrop (s : State) : Host.Outcome State Fault Refusal := always s (powerOff s)

/-- POWERGOOD_RISE (R450): the cold start begins. -/
def execPowergoodRise (s : State) : Host.Outcome State Fault Refusal :=
  always s (if s.pins.pwrgood then s else
    let t := coldState s 0
    { t with pins := { t.pins with pwrgood := true } })

/-! ### What warm reset keeps (R6, R458) -/

/-- What stops at once: descriptors, tests, fuse work and the loader, save the shadow of a structural switch. -/
def warmStop (s : State) : State :=
  let s := if s.img.phase = .switching then s else abortImage s 23
  haltFuses (bistWarm (engineWarm s))

def warmImg (i : Img) : Img :=
  if i.phase = .switching then { i with inForce := false, reloadOk := true, owner := none, received := 0, target := 0, detail := 0, source := 0 }
  else
    { reason := if i.reason = 23 then 23 else 0
      imageId := i.imageId
      revision := i.revision
      amendSeq := i.amendSeq
      loads := i.loads
      refusals := i.refusals
      reloadOk := true }

/-- A pending neighbour refresh is never dropped (R180). -/
def warmChan (ch : Chan) : Chan :=
  { target := ch.target
    current := ch.current
    opMax := ch.opMax
    banks := keepNrf ch.banks
    st := if ch.st = .fenced then .fenced else .closed }

def warmEcc (e : Ecc) : Ecc :=
  { zephyrEn := e.zephyrEn
    period := e.period
    periodDeg := e.periodDeg
    forceDeg := e.forceDeg
    zRank := e.zRank
    zLine := e.zLine
    passes := e.passes
    passStart := e.passStart
    passedOver := e.passedOver
    zPlan := e.zPlan
    zDone := e.zDone
    zLast := e.zLast
    zHours := e.zHours
    passOver := e.passOver
    remap := e.remap
    rows := e.rows
    commitAt := e.commitAt
    due := e.due
    waitLines := e.waitLines
    noAuto := e.noAuto
    rowsBusy := e.rowsBusy }

/-- A fenced converter forces B4 until cold reset (R341). -/
def warmTier (fenced : Bool) (x : Tier) : Tier :=
  { band := x.band
    forced := fenced && x.forced
    catchup := x.catchup
    hot := x.hot
    late := x.late
    slotBand := x.slotBand
    lastSlot := x.lastSlot
    fencing := x.fencing }

def warmTsv (t : Tsv) : Tsv :=
  { spareUsed := t.spareUsed
    steered := t.steered
    caLane := t.caLane
    clkPair := t.clkPair
    caUsed := t.caUsed
    clkUsed := t.clkUsed
    erasedA := t.erasedA
    erasedB := t.erasedB
    clkRanks := t.clkRanks }

def warmTrn (t : Trn) : Trn :=
  { log := t.log, restore := t.restore, valid := t.valid, sets := t.sets, noSet := t.noSet }

def warmFus (f : Fus) : Fus :=
  { array := f.array
    busy := f.op.isSome
    op := f.op
    recNow := f.recNow
    loaded := f.loaded
    banks := f.banks
    redirects := f.redirects
    factory := f.factory
    boot := f.boot
    pulses := f.pulses
    trims := f.trims }

/-- Levels of unit scope, and of CIP_FAULT, return to base; counts since cold reset stay (R339, R358). -/
def warmInst (e : Nat × SrcInst) : Nat × SrcInst :=
  let unit := match (sourceOf (e.1 / 16384)).map (·.scope) with
    | some .port | some .engine | some .checkUnit => true
    | _ => false
  if unit || e.1 / 16384 = 0x3D then (e.1, { e.2 with level := 0, touched := false, count := 0, start := 0 }) else e

def warmFlt (f : Flt) : Flt :=
  { f with
    irq := false
    lost := 0
    insts := (f.insts.map warmInst).filter (fun e => e.2 ≠ {}) }

def warmPwr (p : Pwr) : Pwr :=
  { hold := p.hold
    dramLow := p.dramLow
    coreLow := p.coreLow
    causeDram := p.causeDram
    causeCore := p.causeCore
    lost := p.lost
    gale := p.gale
    galeDone := p.galeDone
    galeKind := p.galeKind
    galeSensor := p.galeSensor
    galeRead := p.galeRead
    galeWb := p.galeWb }

def warmSec (x : Sec) : Sec :=
  { lc := x.lc
    zst := if x.zst = .clearing then .clearing else .idle
    gate := x.gate
    gateKind := x.gateKind
    wanted := x.wanted
    zKeep := x.zKeep
    zcount := x.zcount }

/-- The time unit: R68 keeps count, state and aligned with the RWS fields, and R6 resets the rest of its registers, so that a
qualification or a slew under way begins anew (DEDUCED, log 122). -/
def warmMer (m : Mer) : Mer :=
  { count := m.count
    st := m.st
    aligned := m.aligned
    src := m.src
    markPort := m.markPort
    epochNext := m.epochNext
    epochLoaded := m.epochLoaded
    missing := m.missing
    fenced := m.fenced }

/-- The migration engine keeps its state; what was in staging is read again (R257). -/
def warmMig (m : Mig) : Mig := { m with readPos := m.pointer, writePos := m.pointer, staged := [], win := 0, used := 0 }

/-- Apply to every unit of a table, and list it canonically again. -/
def remake {α : Type} [DecidableEq α] (d : α) (g : α → α) (t : Tbl α) : Tbl α :=
  (t.map (fun e => (e.1, g e.2))).filter (fun e => e.2 ≠ d)

/-- Step 3: every block outside PD0 is reset, and every field that R6 or R458 does not keep takes its Reset value. -/
def warmState (s : State) : State :=
  recomputePower
    { variant := s.variant
      pending := s.pending
      freeIdx := s.freeIdx
      pins := s.pins
      elapsed := s.elapsed
      clock := s.clock
      gazBuilt := s.gazBuilt
      paths := tset {} [] 8 (s.path 8)
      sb := s.sb
      rst := { s.rst with phase := .held, bistSkipped := false, bistPlan := [], chanBusy := [], tierBusy := none }
      mer := warmMer s.mer
      ports := remake {} (fun p => { disable := p.disable }) s.ports
      tables := { lull := s.tables.lull, nrK := s.tables.nrK, compat := s.tables.compat }
      img := warmImg s.img
      chans := remake {} warmChan s.chans
      mem := s.mem
      ecc := remake {} warmEcc s.ecc
      inkAll := s.inkAll
      ink := s.ink
      tiers := remake {} (warmTier s.hkp.fenced) s.tiers
      rfr := remake {} (fun r => { inSr := r.inSr, owed := r.owed, rowPtr := r.rowPtr, passNext := r.passNext }) s.rfr
      spr := s.spr
      ranks := s.ranks
      mig := warmMig s.mig
      tsv := remake {} warmTsv s.tsv
      trn := remake {} warmTrn s.trn
      ctxs := remake {} (fun c => { c with busy := false }) s.ctxs
      sec := warmSec s.sec
      flt := warmFlt s.flt
      pwr := if s.hkp.fenced then { warmPwr s.pwr with ltherm := s.pwr.floor } else warmPwr s.pwr
      doms := remake {} (fun d => { d with transitions := 0 }) s.doms
      hkp := { fenced := s.hkp.fenced }
      fus := warmFus s.fus
      tel := { seq := s.tel.seq }
      log := s.log }

/-- Slots under way end: what has not issued is owed (R197). -/
def endSlots (s : State) : State :=
  foldS ((List.range 20).filter (fun t => (s.tier t).inSlot)) (fun s t =>
    foldS (chansOfTier t) (fun s c => slotEndChan s t c) s) s

/-- Step 3 of R455 begins: what the line buffer holds is written back, save in Fatal or after SUPPLY_LOST. -/
def enterHeld (s : State) : State :=
  let s := warmStop s
  let s := if s.flt.fatal || s.pwr.lost then s else drainAll s
  warmState (foldS (List.range 32) sleepRanks (endSlots s))

/-! ### Warm reset (R455, R457) -/

/-- Step 1 of R455: what has not passed lookup is discarded. -/
def quiesce (s : State) : State :=
  let s := warmStop s
  foldS (List.range 8) (fun s n => s.modPort n (fun p => { p.freeDescs with rxq := [], freed := [] }))
    { s with rst := { s.rst with phase := .quiesce } }

/-- A warm trigger: from READY it quiesces, before READY it restarts at step 3; the fuse load and a cold start that is
held go on without it. -/
def warmTrigger (s : State) (cause : BitVec 3) : State :=
  let t := { s with rst := { s.rst with
    cause := cause
    warmCount := sat s.rst.warmCount 1
    trigger := s.elapsed
    warm := true
    bistPlan := [] } }
  match s.rst.phase with
  | .fuse | .quiesce => s
  | .held => if s.rst.warm then t else s
  | .ready => quiesce t
  | .image | .bist | .fill => enterHeld t

/-- Steps 1 and 2 are over: Gale's own are; or the stack is down; or every request past lookup has its completion sent. -/
def quiesceOver (s : State) : Bool :=
  if s.flt.gale then s.pwr.galeDone
  else s.flt.fatal || s.pwr.lost ||
    (!s.pwr.hold && s.reqs = [] &&
      (List.range 8).all (fun n => !flitsFlow s n || ((s.port n).cmpOut = [] && (s.port n).cmpPart = none)))

/-- WARM_QUIESCE_DONE: also the end of Gale's steps where Gale met a later step of the reset (R457). -/
def execWarmQuiesceDone (s : State) : Host.Outcome State Fault Refusal :=
  answer s (
    let later := s.rst.warm && s.flt.gale && (s.rst.phase = .image || s.rst.phase = .bist || s.rst.phase = .fill)
    if (s.rst.phase = .quiesce || later) && quiesceOver s then enterHeld s else s)

/-- The temperature condition of R377 holds. -/
def galeCool (s : State) : Bool :=
  s.pwr.galeDone && s.hkp.lastOk &&
  (crownReadings s).all (fun x => match x with | some v => decide (v ≤ 1600) | none => true) &&
  (List.range 20).all (fun t => !tierPresent s.variant t ||
    (match maxTemp [published s (2 * t), published s (2 * t + 1)] with | some v => decide (v ≤ 1520) | none => false))

/-- The shadow of a structural switch comes into force (R327). -/
def applyShadow (s : State) : State :=
  match s.img.shadow with
  | some t =>
    let s := bootSwitch s t
    enterBist (s.modImg (fun i => { i.toIdle with source := 3 }))
  | none => s.modImg (fun i => { i with bootDue := s.pins.bootQspi })

/-- Step 4: Fatal ends, the Lock and Root banks are read again, ports and channels start. -/
def heldEnd (s : State) : State :=
  let s := { s with
    rst := { s.rst with phase := .image }
    flt := { s.flt with fatal := false, gale := false }
    pins := { s.pins with thermtripN := true } }
  let s := lcFollow (loadBank (loadBank s 3) 2)
  let s := { s with sec := { s.sec with keyDue := true } }
  let s := foldS ((List.range 8).filter (portPresent s.variant)) (fun s n =>
    s.modPort n (fun p => { p with st := idleSt s n })) s
  let s := foldS (List.range 32) (fun s c =>
    bootCheck (if (s.sprOf c).st = .rescue then beginRescue s c else s) c) s
  applyShadow s

/-- WARM_HELD_END. -/
def execWarmHeldEnd (s : State) : Host.Outcome State Fault Refusal :=
  answer s (
    if s.rst.phase = .held && s.rst.warm && s.pins.resetN && s.pins.refclk && (!s.flt.gale || galeCool s) then heldEnd s
    else s)

/-! ### Pins (R475, R478, R480) -/

/-- A held cold start goes on once nothing holds it. -/
def coldRelease (s : State) : State :=
  if s.pins.pwrgood && s.rst.phase = .held && !s.rst.warm && !pinsHold s then coldStep3 s else s

/-- RESET_N low while the block has power is a warm trigger. -/
def pinTrigger (s : State) : State := if s.pins.pwrgood then warmTrigger s 2 else s

/-- RESET_N_LOW (R448): `ns` is how long RESET_N has been low; below 1 µs the pulse has ended, and from 100 ns on the stack
may act on it. -/
def execResetNLow (ns : Nat) (s : State) : Host.Outcome State Fault Refusal :=
  always s (
    if ns < 100 then s
    else if ns < 1000 then
      let f := takeFree s
      if Config.pulseActs f.1 then pinTrigger f.2 else f.2
    else pinTrigger { s with pins := { s.pins with resetN := false } })

/-- RESET_N_RISE. -/
def execResetNRise (s : State) : Host.Outcome State Fault Refusal :=
  always s (coldRelease { s with pins := { s.pins with resetN := true } })

/-- REFCLK_LOSS: as RESET_N held low. -/
def execRefclkLoss (s : State) : Host.Outcome State Fault Refusal :=
  always s (
    if s.pins.refclk then pinTrigger { s with pins := { s.pins with refclk := false } } else s)

/-- REFCLK_RESTORED. -/
def execRefclkRestored (s : State) : Host.Outcome State Fault Refusal :=
  always s (coldRelease { s with pins := { s.pins with refclk := true } })

/-- TEST_EN_FALL. -/
def execTestEnFall (s : State) : Host.Outcome State Fault Refusal :=
  always s (coldRelease { s with pins := { s.pins with testEn := false } })

/-! ### Channel and tier reset (R459, R460) -/

/-- A channel or tier reset runs. -/
def resetRuns (s : State) : Bool := s.rst.chanBusy ≠ [] || s.rst.tierBusy.isSome

/-- RST_CTRL.chan. -/
def chanResetCmd (s : State) (c : Nat) : Status × State :=
  let st := (s.sprOf c).st
  if (s.chan c).seq ≠ .idle || trnBusy s c || laneBusy s c || bstBusy s c || resetRuns s ||
      st = .rescue || st = .evacuating || st = .fenced || st = .lost then (.refused, s)
  else (.ok, channelReset s c)

/-- A rank on tier t is MIGRATING or under MBIST. -/
def tierInUse (s : State) (t : Nat) : Bool :=
  (chansOfTier t).any (fun c => (s.rank c (rankOfTier t)).st = .migrating || mbistOn s c (rankOfTier t))

/-- RST_CTRL.tier. -/
def tierResetCmd (s : State) (t : Nat) : Status × State :=
  if 20 ≤ t then (.refused, s)
  else if !domOn s (52 + t) || tierInUse s t || resetRuns s then (.refused, s)
  else
    let s := { s.modTier t (fun x => { x with inReset := true }) with rst := { s.rst with tierBusy := some t } }
    (.ok, foldS (chansOfTier t) (fun s c => setSr s c (rankOfTier t) true) s)

/-- The tier that a write of RST_CTRL names for reset is one that the variant lacks. -/
def tierMissing (s : State) (data : Word) : Bool :=
  let t := (data.extractLsb' 10 5).toNat
  data.getLsbD 20 && t < 20 && !tierPresent s.variant t

/-- A write of RST_CTRL (R461): ABSENT goes first (R15); more than one of cold, warm, chan and tier is refused. -/
def rstCtrlWrite (data : Word) (s : State) : Status × State :=
  if tierMissing s data then (.absent, s)
  else if 1 < ([23, 22, 21, 20].filter (fun i => data.getLsbD i)).length then (.refused, s)
  else if data.getLsbD 23 then (.ok, coldState s 1)
  else if data.getLsbD 22 then (.ok, warmTrigger s 3)
  else if data.getLsbD 21 then chanResetCmd s (data.extractLsb' 15 5).toNat
  else if data.getLsbD 20 then tierResetCmd s (data.extractLsb' 10 5).toNat
  else (.ok, s)

/-- COLD_RESET_COMMAND. -/
def execColdResetCommand (via : Via) (data : Word) (s : State) : Host.Outcome State Fault Refusal :=
  answer s (mgmtWrite s via .rst 0 data (rstCtrlWrite data))

/-- WARM_RESET_COMMAND. -/
def execWarmResetCommand (via : Via) (data : Word) (s : State) : Host.Outcome State Fault Refusal :=
  answer s (mgmtWrite s via .rst 0 data (rstCtrlWrite data))

/-- CHANNEL_RESET_COMMAND. -/
def execChannelResetCommand (via : Via) (data : Word) (s : State) : Host.Outcome State Fault Refusal :=
  answer s (mgmtWrite s via .rst 0 data (rstCtrlWrite data))

/-- TIER_RESET_COMMAND. -/
def execTierResetCommand (via : Via) (data : Word) (s : State) : Host.Outcome State Fault Refusal :=
  answer s (mgmtWrite s via .rst 0 data (rstCtrlWrite data))

/-- CHANNEL_RESET_DONE (R459 steps 4 and 5): what waited enters the queues again; a channel in rescue goes on with R258, one
that has not opened with R450. -/
def execChannelResetDone (c : Nat) (s : State) : Host.Outcome State Fault Refusal :=
  answer s (
    if !s.rst.chanBusy.contains c then s
    else
      let s := { s with rst := { s.rst with chanBusy := s.rst.chanBusy.filter (· ≠ c) } }
      let s := admitWrites (admitReads s c) c
      if chanFenced s c || s.flt.fatal then settleChan s c
      else if (s.chan c).st = .closed then bootCheck s c
      else
        let s := wakeRanks s c
        settleChan (if (s.sprOf c).st = .rescue then settlePoint s c else startPattern s c) c)

/-- TIER_RESET_DONE (R460 steps 2–4): the rank leaves self-refresh, and the pattern check of each channel with a rank on the
tier runs, at once or when what holds the channel has ended. -/
def execTierResetDone (t : Nat) (s : State) : Host.Outcome State Fault Refusal :=
  answer s (
    if s.rst.tierBusy ≠ some t then s
    else
      let s := { s.modTier t (fun x => { x with inReset := false }) with rst := { s.rst with tierBusy := none } }
      foldS (chansOfTier t) (fun s c =>
        let k := rankOfTier t
        if s.flt.fatal || chanFenced s c then s
        else
          let s := if opSwitching s c || s.rst.chanBusy.contains c then s else setSr s c k (rankRests s c k)
          settleChan (s.modTrnOf c (fun x => { x with checkDue := true })) c) s)

/-! ### The switch of an image (R327) -/

/-- The target beat edge has come: the count equals the target (R62). -/
def switchDue (s : State) : Bool :=
  match s.img.firstEdge with
  | some e => e ≤ s.elapsed
  | none => s.img.target = s.mer.count

/-- IMG_LAST, IMG_SWITCHED and the count of switches. -/
def noteSwitch (s : State) (p : Parsed) : State :=
  s.modImg (fun i =>
    let i := { i with switched := s.mer.count, loads := sat i.loads 1 }
    if p.amend then { i with amendSeq := p.amendSeq }
    else { i with imageId := p.imageId, revision := p.revision, amendSeq := 0, reloadOk := false })

/-- IMAGE_SWITCH: the checks that depend on run-time state are repeated; the first image after a reset comes into force at
once, a live one at this edge, and a structural one through a warm reset. -/
def execImageSwitch (s : State) : Host.Outcome State Fault Refusal :=
  answer s (
    match s.img.shadow with
    | none => s
    | some t =>
      if s.img.phase ≠ .scheduled || !switchDue s then s
      else
        let p := parseImage s.img.words.reverse
        match judgeRun s p t with
        | some r => refuseImage s r.1 r.2
        | none =>
          let first := s.rst.phase = .image && !s.img.inForce
          let u := noteSwitch s p
          if first then enterBist ((bootSwitch u t).modImg Img.toIdle)
          else if s.img.structural then warmTrigger (u.modImg (fun i => { i with phase := .switching })) 4
          else (liveSwitch u p t).modImg Img.toIdle)

/-! ### The fill and READY (R227, R229, R234, R450 steps 6 and 7) -/

/-- The location of a key of a rank's cells. -/
def locOfKey (m : RankMem) (c k key : Nat) : Loc :=
  let col := key % 16
  let row := key / 16 % 16400
  let bank := key / 16 / 16400
  let home := if row < 16384 then row
    else match m.repair.find? (fun e => e.1 / 16384 = bank && e.2 = row - 16384) with
      | some e => e.1 % 16384
      | none => row
  { ch := c, rank := k, bank := bank, row := home, col := col }

/-- The page of the data that a location holds is inked; a location with no DPA counts as inked (R233). -/
def pageInked (s : State) (l : Loc) : Bool :=
  match dpaOfLoc s routeFuel l with
  | some dpa => tget s.inkAll s.ink (dpa / 4096)
  | none => true

/-- Fill the lines of rank k of channel c whose page is not inked. -/
def fillRest (s : State) (c k : Nat) : State :=
  let s := s.modRmem (rankKey c k) (fun m => { m with
    filled := true
    lines := m.lines.filter (fun l => l.2 ≠ zeroWords && pageInked s (locOfKey m c k l.1)) })
  s.modEccOf c (fun e => { e with
    remap := e.remap.map (fun r =>
      (r.1, if r.2.loc.rank = k && !pageInked s r.2.loc then { r.2 with words := zeroWords } else r.2)) })

/-- Every page that is not inked is filled: the ink map is consulted no longer, or in compatibility mode holds every page
(R234). -/
def fillPages (s : State) : State :=
  let t := if s.inkAll then s
    else foldS (List.range 160) (fun s key => if rankPresent s.variant (key % 5) then fillRest s (key / 5) (key % 5) else s) s
  { t with inkAll := s.tables.compat, ink := [] }

/-- The fill of a cold start (R227, R229). -/
def fillCold (s : State) : State :=
  if s.tables.compat then
    let s := if hasSpare s.variant then foldS (List.range 32) (fun s c => fillRank s c 4) s else s
    foldS (List.range 32) (fun s c => s.modEccOf c (fun e => { e with
      remap := e.remap.map (fun r => (r.1, { r.2 with words := zeroWords })) })) s
  else
    foldS (List.range 160) (fun s key =>
      if rankPresent s.variant (key % 5) && domOn s (52 + tierOf (key / 5) (key % 5)) then fillRank s (key / 5) (key % 5)
      else s) s

/-- A fill is due. -/
def fillWaits (s : State) : Bool := s.rst.fillDue || s.rst.pagesDue || s.rst.fillsDue ≠ []

/-- Every channel that is coming up has opened. -/
def chansUp (s : State) : Bool :=
  (List.range 32).all (fun c => chanFenced s c || (s.chan c).st ≠ .closed ||
    !((s.dom (9 + c)).st = .on || (s.dom (9 + c)).st = .waking))

/-- NATIVE_FILL_DONE. -/
def execNativeFillDone (s : State) : Host.Outcome State Fault Refusal :=
  answer s (
    if s.rst.phase ≠ .fill || !fillWaits s || s.pwr.hold || s.flt.fatal || !chansUp s then s
    else
      let s := markFill s 2
      let s := if s.rst.fillDue then fillCold s else s
      let s := foldS s.rst.fillsDue (fun s key => fillRank s (key / 5) (key % 5)) s
      let s := if s.rst.pagesDue then fillPages s else s
      { s with rst := { s.rst with fillDue := false, fillsDue := [], pagesDue := false } })

/-- After a warm reset, a channel with an entry that is not yet recorded commits 1,024 beats later (R238). -/
def commitLater (s : State) (c : Nat) : State :=
  s.modEccOf c (fun e =>
    if e.noAuto || !e.remap.any (fun r => r.2.st = .pending || (r.2.st = .rowQueued && !r.2.recorded)) then e
    else { e with commitAt := some (match e.commitAt with | some u => min u (s.elapsed + 1024) | none => s.elapsed + 1024) })

/-- STACK_READY. -/
def execStackReady (s : State) : Host.Outcome State Fault Refusal :=
  answer s (
    if s.rst.phase ≠ .fill || fillWaits s || s.flt.fatal then s
    else
      let s := if s.rst.warm then foldS (List.range 32) commitLater s else s
      grantReady { s with rst := { s.rst with
        phase := .ready
        warm := false
        readyStamp := s.mer.count
        readyBeats := BitVec.ofNat 24 (min (s.elapsed - s.rst.trigger) (2 ^ 24 - 1)) } })

end Sys2Proof.Machine
end

