-- ==== Sys2Proof/Machine/RegRead.lean ====
section
/-! DEFINITION. What a management read returns: the register maps of spec/02 to spec/19 unit by unit, with the width of each
value (R10) and what an RC read clears (R9). -/

namespace Sys2Proof.Machine

/-- What an offset of a unit holds: one word; one word that a read clears, with the state after; word `pos` of a value of
`n` words, low word first; or a word that the variant lacks. -/
inductive RegVal where
  | word (w : Word)
  | clears (w : Word) (after : State)
  | wide (v n pos : Nat)
  | absent

/-- A field of a word. -/
def fld (hi lo v : Nat) : Nat := v % 2 ^ (hi + 1 - lo) * 2 ^ lo

/-- A one-bit field. -/
def bit (i : Nat) (b : Bool) : Nat := if b then 2 ^ i else 0

def mkWord (v : Nat) : RegVal := .word (BitVec.ofNat 24 v)

/-- Word k of a run of 72-bit counters. -/
def counterAt (vs : List W72) (k : Nat) : RegVal := .wide (vs.getD (k / 3) 0).toNat 3 (k % 3)

/-- Word k of a bit map. -/
def mapWord (bits : Nat → Bool) (n k : Nat) : RegVal :=
  mkWord ((List.range 24).foldl (fun a i => a + bit i (decide (24 * k + i < n) && bits (24 * k + i))) 0)

/-! ### Codes -/

def Phase.code : Phase → Nat
  | .fuse => 1 | .held => 2 | .quiesce => 3 | .image => 4 | .bist => 5 | .fill => 6 | .ready => 7

def MerSt.code : MerSt → Nat
  | .free => 0 | .qualify => 1 | .locked => 2 | .holdover => 3

def PortSt.code : PortSt → Nat
  | .off => 0 | .detect => 1 | .train => 2 | .active => 3 | .recovery => 4 | .failed => 5 | .signalDown => 6 | .down => 7

def LoadPhase.code : LoadPhase → Nat
  | .idle => 0 | .receive => 1 | .verify => 2 | .admission => 3 | .ready => 4 | .scheduled => 5 | .switching => 6

def ZSt.code : ZSt → Nat
  | .idle => 0 | .clearing => 1 | .done => 2 | .failed => 3

def DomSt.code : DomSt → Nat
  | .off => 0 | .waking => 1 | .on => 2 | .parking => 3 | .cycling => 4 | .held => 5

def EngSt.code : EngSt → Nat
  | .idle => 0 | .run => 1 | .waitUnit => 2 | .fenced => 3

def MigSt.code : MigSt → Nat
  | .idle => 0 | .start => 1 | .copy => 2 | .paused => 3 | .finish => 4

def Band.code : Band → Nat
  | .b1 => 0 | .b2 => 1 | .b4 => 2

def ChanSt.code : ChanSt → Nat
  | .closed => 0 | .opened => 1 | .paused => 2 | .hold => 3 | .fenced => 4

def OpSeq.code : OpSeq → Nat
  | .idle => 0 | .drain => 1 | .enter => 2 | .relock => 3 | .load => 4 | .exit => 5 | .check => 6 | .wait => 7

def ChSt.code : ChSt → Nat
  | .normal => 0 | .laneDegraded => 1 | .rescue => 2 | .evacuating => 3 | .fenced => 4 | .lost => 5

def RankSt.code : RankSt → Nat
  | .inService => 0 | .pending => 1 | .migrating => 2 | .retiredSpare => 3 | .retiredReserve => 4 | .fenced => 5
  | .spareIdle => 6 | .spareHolding => 7 | .spareUnusable => 8

def RemapSt.code : RemapSt → Nat
  | .pending => 0 | .committed => 1 | .rowQueued => 2

def TsvAct.code : TsvAct → Nat
  | .idle => 0 | .check => 1 | .steerWait => 2 | .steer => 3 | .rescue => 4

def TrnAct.code : TrnAct → Nat
  | .idle => 0 | .check => 1 | .survey => 2 | .suspended => 3 | .wait => 4

def BstSt.code : BstSt → Nat
  | .idle => 0 | .wait => 1 | .setup => 2 | .run => 3 | .refill => 4 | .done => 5

/-! ### Values in PD0 -/

/-- RST words (R461–R463). -/
def rstReg (s : State) (off : Nat) : RegVal :=
  let r := s.rst
  match off with
  | 1 => mkWord (fld 23 22 r.bootBist.toNat)
  | 2 => mkWord (fld 23 21 r.phase.code + bit 20 (r.phase = .ready)
      + bit 19 (r.phase = .held && (pinsHold s || (s.flt.gale && !galeCool s)))
      + bit 18 r.bistSkipped + bit 17 (r.chanBusy ≠ []) + bit 16 r.tierBusy.isSome)
  | 3 => mkWord (fld 23 21 r.cause.toNat + fld 20 9 r.warmCount.toNat)
  | 4 => .wide r.readyStamp.toNat 2 0
  | 5 => .wide r.readyStamp.toNat 2 1
  | 6 => .word r.readyBeats
  | _ => .word 0

/-- IMG words (R331–R333). -/
def imgReg (s : State) (off : Nat) : RegVal :=
  let i := s.img
  match off with
  | 1 => mkWord (fld 23 21 i.phase.code + bit 20 i.structural + bit 19 i.kind + fld 18 16 (i.owner.getD 0)
      + bit 15 i.owner.isSome + fld 14 10 i.reason.toNat + fld 9 8 i.source.toNat + bit 7 i.inForce)
  | 2 => mkWord (min i.received 0xFFFFFF)
  | 3 => .wide i.target.toNat 2 0
  | 4 => .wide i.target.toNat 2 1
  | 6 => .word i.detail
  | 7 => .word i.imageId
  | 8 => .word i.revision
  | 9 => .word i.amendSeq
  | 0xA => .wide i.switched.toNat 2 0
  | 0xB => .wide i.switched.toNat 2 1
  | 0xC => mkWord (fld 23 12 i.loads.toNat + fld 11 0 i.refusals.toNat)
  | _ => .word 0

/-- Ports with an OPEN session, bit n for port n. -/
def openPorts (s : State) : Nat := (List.range 8).foldl (fun a n => a + bit n (sessionOpen s n)) 0

/-- SEC words (R316, R317); SEC_NONCE's low word is read by `nonceRead`. -/
def secReg (s : State) (off : Nat) : RegVal :=
  let x := s.sec
  let pub := if x.devkey.isSome then x.devpub.1 + x.devpub.2 * 2 ^ 384 else 0
  if off = 0 then mkWord (fld 23 22 x.lc.toNat + fld 21 20 x.zst.code + bit 19 x.gate + fld 18 16 x.gateKind.toNat
    + bit 15 x.devkey.isSome)
  else if off = 2 then mkWord (fld 21 14 (openPorts s))
  else if 4 ≤ off && off ≤ 6 then .wide 0 4 (off - 3)
  else if 0x50 ≤ off && off ≤ 0x6F then .wide pub 32 (off - 0x50)
  else if off = 0x70 then .word x.zcount
  else .word 0

/-- FLT words (R354–R358) on path n. -/
def fltReg (s : State) (n off : Nat) : RegVal :=
  let x := s.flt
  let sel := (s.path n).fltSel
  let src := (sel.extractLsb' 17 7).toNat
  let inst := (sel.extractLsb' 3 14).toNat
  let there := match sourceOf src with
    | some y => sourcePresent s.variant src && instPresent s.variant y.scope inst
    | none => false
  let d := srcInst s src inst
  let ev := if there then d.events.toNat else 0
  match off with
  | 0 => mkWord (fld 23 14 x.settle.toNat + fld 13 12 x.irqSev.toNat + bit 11 x.irqEn)
  | 1 => mkWord (bit 23 x.fatal + bit 22 x.gale + bit 21 x.irq + bit 20 (decide (16 ≤ x.pagesUsed)) + fld 19 15 (min x.pagesUsed 16))
  | 2 => .wide x.firstValue.toNat 2 0
  | 3 => .wide x.firstValue.toNat 2 1
  | 4 => .wide x.stamp.toNat 2 0
  | 5 => .wide x.stamp.toNat 2 1
  | 6 => mkWord (fld 23 12 x.head + fld 11 5 (min x.queue.length 64))
  | 7 => .clears x.lost { s with flt := { x with lost := 0 } }
  | 8 => .word sel
  | 9 => if there then mkWord (bit 23 true + fld 22 21 (levelOf s src inst) + bit 20 (maskOf s src inst).isSome
      + fld 19 12 (min d.count 255)) else .word 0
  | 0xA => if there then .word (cfgWord s src) else .word 0
  | 0xB => .wide ev 3 0
  | 0xC => .wide ev 3 1
  | 0xD => .wide ev 3 2
  | 0xE => if there then .word d.conseq else .word 0
  | _ => .word 0

/-- MER words (R65–R67). -/
def merReg (s : State) (off : Nat) : RegVal :=
  let m := s.mer
  match off with
  | 0 => mkWord (fld 23 22 m.src.toNat + fld 21 19 m.markPort.toNat + bit 18 m.arm)
  | 1 => mkWord (fld 23 22 m.st.code + bit 21 m.aligned + bit 20 m.arm + bit 19 m.qualifying + bit 18 m.slewing
      + fld 17 12 m.qualFails.toNat)
  | 2 => .wide m.count.toNat 2 0
  | 3 => .wide m.count.toNat 2 1
  | 4 => .wide m.epochNext.toNat 2 0
  | 5 => .wide m.epochNext.toNat 2 1
  | 6 => .wide m.epochLoaded.toNat 2 0
  | 7 => .wide m.epochLoaded.toNat 2 1
  | 8 => .word m.lossBeats
  | 9 => .word m.phase
  | _ => .word 0

/-- PWR words (R378, R379). -/
def pwrReg (s : State) (off : Nat) : RegVal :=
  let p := s.pwr
  match off with
  | 0 => mkWord (fld 23 19 p.limFm.toNat)
  | 1 => mkWord (fld 23 19 s.tables.limit.toNat + fld 18 14 p.limEff.toNat + fld 13 9 p.floor.toNat + fld 8 2 p.kp.toNat
      + bit 1 p.hold + bit 0 p.floorBound)
  | 2 => mkWord (fld 23 12 p.power.toNat)
  | 3 => mkWord (bit 23 p.dramLow + bit 22 p.coreLow + bit 21 p.causeDram + bit 20 p.causeCore)
  | 4 => .word p.holds
  | 5 => .clears p.holdMax { s with pwr := { p with holdMax := 0 } }
  | 6 => mkWord (bit 23 p.gale + bit 22 p.galeDone + bit 21 p.galeKind + fld 20 16 p.galeSensor.toNat + fld 15 4 p.galeRead.toNat)
  | _ => .word 0

/-- The words of domain d (R380); PD0 is always ON (R359). -/
def domReg (s : State) (d off : Nat) : RegVal :=
  let x := s.dom d
  let on0 := decide (d = 0)
  match off with
  | 0 => mkWord (bit 23 (on0 || x.enable))
  | 1 => mkWord (fld 23 21 (if on0 then 2 else x.st.code) + bit 20 (on0 || x.latched) + bit 19 x.queued)
  | 2 => .word x.transitions
  | _ => .word 0

/-- THM words (R381). -/
def thmReg (s : State) (off : Nat) : RegVal :=
  let p := s.pwr
  let t := fun (i : Nat) => (temp12 (published s (40 + i))).toNat
  if off = 0 then mkWord (fld 23 12 (temp12 p.crownMax).toNat + bit 11 p.crownHot + bit 10 (tierHot s) + fld 9 6 p.cool.toNat)
  else if off = 1 then mkWord (fld 23 12 p.stepsDown.toNat + fld 11 0 p.stepsUp.toNat)
  else if off = 2 then .clears (BitVec.ofNat 24 (fld 23 12 (temp12 p.peak).toNat)) { s with pwr := { p with peak := none } }
  else if 0x10 ≤ off && off < 0x1C then mkWord (fld 23 12 (t (2 * (off - 0x10))) + fld 11 0 (t (2 * (off - 0x10) + 1)))
  else .word 0

/-- HKP words (R382). -/
def hkpReg (s : State) (off : Nat) : RegVal :=
  if off = 0 then mkWord (fld 23 17 (s.hkp.slot.toNat % 96) + bit 16 s.hkp.refOk)
  else if off = 1 then .word s.hkp.rounds
  else if 0x100 ≤ off && off < 0x160 then .word (hkpWord s (off - 0x100))
  else if 0x200 ≤ off && off < 0x260 then .word (convOf s.hkp.last (off - 0x200)).code
  else .word 0

/-- FUS_BANK of bank b (R430). -/
def fusBankWord (b : FuseBank) : Nat :=
  bit 23 b.valid + bit 22 b.locked + bit 21 b.sealed_ + bit 20 b.sealOk + fld 19 10 b.marginal.toNat + fld 9 0 b.corrected.toNat

/-- Blank slots of the area that area_sel names (R431). -/
def freeSlots (f : Fus) : Nat := ((List.range 106).filter (slotBlank f f.areaSel.toNat)).length

/-- FUS words (R428–R432). -/
def fusReg (s : State) (off : Nat) : RegVal :=
  let f := s.fus
  let known := (bankOf f 0).valid
  if off = 1 then .word f.wdata
  else if off = 2 then mkWord (bit 23 f.busy + fld 22 19 f.result.toNat + fld 18 17 f.outcome.toNat + bit 16 f.corrected
    + bit 15 f.loaded)
  else if off = 3 then .word f.rdata
  else if 4 ≤ off && off ≤ 8 then mkWord (fusBankWord (bankOf f (off - 4)))
  else if off = 9 then mkWord (bit 23 known)
  else if 0xA ≤ off && off ≤ 0xF then (if known then .word (fuseValue f 0 (off - 0xA)).2.1 else .word 0)
  else if off = 0x10 then mkWord (fld 23 17 (freeSlots f) + fld 16 12 f.areaSel.toNat + fld 11 6 f.redirects.toNat)
  else if off = 0x20 then mkWord (fld 23 19 f.factory.toNat + fld 18 14 f.boot.toNat)
  else if off = 0x21 then .word f.pulses
  else if off = 0x22 then mkWord (fld 23 12 f.retries.toNat + fld 11 0 f.verifyFails.toNat)
  else .word 0

/-- LOG words (R447) on path n; LOG_DATA is read by `logDataRead`. -/
def logReg (s : State) (n off : Nat) : RegVal :=
  let l := s.log
  match off with
  | 1 => mkWord (bit 23 l.busy + bit 22 l.stateOk)
  | 2 => .wide l.written.toNat 2 0
  | 3 => .wide l.written.toNat 2 1
  | 4 => mkWord (fld 23 11 l.credits)
  | 5 => .clears l.lost { s with log := { l with lost := 0 } }
  | 6 => mkWord (s.path n).logAddr.toNat
  | 8 => mkWord l.jHead
  | _ => .word 0

/-! ### Values in the crown core -/

/-- TEL words (R445). -/
def telReg (s : State) (off : Nat) : RegVal :=
  let t := s.tel
  let c := s.tables
  match off with
  | 0 => mkWord (bit 23 t.pause)
  | 1 => mkWord (bit 23 c.dumpEn + fld 9 0 c.dumpProv.toNat)
  | 2 => mkWord c.dumpPer.toNat
  | 3 => mkWord c.dumpFirst.toNat
  | 4 => mkWord c.dumpCount.toNat
  | 5 => mkWord (dumpSlots c)
  | 6 => .word t.head
  | 7 => .word t.seq
  | 8 => .wide t.lastStamp.toNat 2 0
  | 9 => .wide t.lastStamp.toNat 2 1
  | 0xA => .clears t.skipped { s with tel := { t with skipped := 0 } }
  | 0xB => mkWord (bit 23 t.busy + bit 22 t.stopped)
  | _ => .word 0

/-- Words of counter n (R446). -/
def cntReg (s : State) (n off : Nat) : RegVal :=
  let c := counterOf s n
  if off = 0 then mkWord (fld 23 12 c.event.toNat + bit 11 c.all + bit 10 c.wrap + fld 7 0 c.inst.toNat)
  else .wide c.value.toNat 3 (off - 1)

/-- CIP_STATUS.state (R313). -/
def cipCode (s : State) : Nat :=
  if !domOn s 45 then 0 else if s.cip.fenced then 3 else if s.sec.zst = .clearing then 2 else 1

/-- CIP words (R313, R314). -/
def cipReg (s : State) (off : Nat) : RegVal :=
  let c := s.cip
  if off = 1 then mkWord (fld 23 21 c.result.toNat + bit 20 c.cmd.isSome + fld 19 8 c.slot.toNat + fld 7 6 (cipCode s))
  else if 0x30 ≤ off && off ≤ 0x38 then counterAt [c.enc, c.dec, c.zero] (off - 0x30)
  else .word 0

/-- Words of key slot i (R315). -/
def slotReg (s : State) (i off : Nat) : RegVal :=
  let k := s.slot i
  if off = 0 then mkWord (bit 23 k.valid + fld 22 15 k.gen.toNat + fld 14 12 k.port.toNat)
  else if off = 1 then .word k.kcv
  else .word 0

/-- Words of check unit u and of the context in its window (R297, R298). -/
def chkReg (s : State) (u off : Nat) : RegVal :=
  let x := s.chk u
  let c := s.ctx x.sel.toNat
  if off = 0 then mkWord (bit 23 x.busy + fld 22 9 x.ctx.toNat + fld 8 7 x.engine.toNat)
  else if off = 0x10 then mkWord (fld 23 10 x.sel.toNat)
  else if off = 0x11 then mkWord (fld 23 17 c.width.toNat + bit 16 c.refin + bit 15 c.refout + bit 14 c.busy + bit 13 c.aliveV
    + fld 12 9 c.lastAlive.toNat)
  else if 0x12 ≤ off && off ≤ 0x1D then
    .wide (([c.poly, c.init, c.xorout, c.value].getD ((off - 0x12) / 3) 0).toNat) 3 ((off - 0x12) % 3)
  else if off = 0x1E || off = 0x1F then .wide c.count.toNat 2 (off - 0x1E)
  else if 0x20 ≤ off && off ≤ 0x22 then .wide c.result.toNat 3 (off - 0x20)
  else .word 0

/-- Words of move engine e (R294–R296). -/
def engReg (s : State) (e off : Nat) : RegVal :=
  let x := s.eng e
  let q := engQ s x.qSel.toNat
  if off = 1 then mkWord (fld 23 21 x.st.code + fld 20 7 x.flow + fld 6 3 x.op.toNat)
  else if off = 2 then .word x.lines
  else if off = 3 then mkWord (fld 23 12 x.tag.toNat)
  else if off = 4 then mkWord (fld 23 12 (2048 - poolUsed s))
  else if off = 5 then mkWord (fld 23 10 x.qSel.toNat)
  else if off = 6 then mkWord (fld 23 20 q.descs.length + bit 19 q.running.isSome + bit 18 q.parked
    + fld 17 16 (q.running.getD 0) + fld 11 0 q.lastTag.toNat)
  else if off = 7 then .clears (BitVec.ofNat 24 (fld 23 20 s.pool.reason.toNat + fld 19 6 s.pool.refFlow.toNat))
    { s with pool := { s.pool with reason := 0, refFlow := 0 } }
  else if 0x10 ≤ off && off ≤ 0x1B then counterAt [x.descs, x.bytesRd, x.bytesWr, x.parks] (off - 0x10)
  else if off = 0x1C then .word x.aborts
  else if off = 0x1D then .word x.poisonCp
  else .word 0

/-- Granules of RESERVE provinces not taken (R270). -/
def reserveFree (s : State) : Nat :=
  let taken := takenGrans s
  ((s.tables.provs.filter (fun e => e.2.valid && e.2.kind = 1)).map (fun e =>
    ((granules e.2).filter (fun g => !taken.contains g)).length)).foldl (· + ·) 0

/-- Ranks PENDING (R270). -/
def pendingRanks (s : State) : Nat := (s.ranks.filter (fun e => e.2.st = .pending)).length

/-- The migration waits: for the engine, or for a channel of its source or target (R257). -/
def migWaits (s : State) : Bool := !copyRuns s || (s.mig.ch :: migTargets s).any (pausedNow s)

/-- SPR words of the migration engine (R269–R271). -/
def migReg (s : State) (off : Nat) : RegVal :=
  let m := s.mig
  let st := if m.st ≠ .idle && migWaits s then MigSt.paused else m.st
  if off = 1 then mkWord (fld 23 13 m.ceiling.toNat)
  else if off = 2 then mkWord (fld 23 21 st.code + fld 20 16 m.ch + fld 15 13 m.rank + bit 12 m.toRes + fld 11 4 (pendingRanks s))
  else if off = 3 then mkWord (fld 22 0 m.pointer)
  else if off = 4 then mkWord (fld 23 13 (reserveFree s))
  else if off = 5 then .word m.migrations
  else if off = 6 then .word m.fences
  else if 0x10 ≤ off && off ≤ 0x15 then counterAt [m.copied, m.poisoned] (off - 0x10)
  else .word 0

/-- Words of tier t (R205, R206). -/
def tierReg (s : State) (t off : Nat) : RegVal :=
  let x := s.tier t
  match off with
  | 0 => mkWord (fld 23 22 x.band.code + bit 21 x.catchup + bit 20 x.hot + bit 19 x.late + bit 18 x.sensAOk + bit 17 x.sensBOk
      + bit 16 x.forced + fld 15 12 (tierMaxOwed s t))
  | 1 => mkWord (fld 23 12 (temp12 x.tempA).toNat + fld 11 0 (temp12 x.tempB).toNat)
  | 2 => mkWord (fld 23 17 (lullOff s t))
  | 3 => mkWord (fld 23 12 x.rises.toNat + fld 11 0 x.catchups.toNat)
  | 4 => .clears (BitVec.ofNat 24 (fld 23 12 (temp12 x.peak).toNat)) (s.setTier t { x with peak := none })
  | _ => .word 0

/-- SPR_CH_GRAN word i of a taken list (R273). -/
def granWord (gs : List Nat) (i : Nat) : Nat :=
  let at_ := fun (p : Nat) => gs[p]?
  bit 23 (at_ (2 * i)).isSome + fld 22 13 ((at_ (2 * i)).getD 0) + bit 12 (at_ (2 * i + 1)).isSome
    + fld 11 2 ((at_ (2 * i + 1)).getD 0)

/-- Words of a channel's sparing block (R272, R273). -/
def sprReg (s : State) (c off : Nat) : RegVal :=
  let x := s.sprOf c
  if off = 0 then mkWord (fld 23 21 x.st.code)
  else if off ≤ 5 then
    if !rankPresent s.variant (off - 1) then .absent
    else
      let r := s.rank c (off - 1)
      mkWord (fld 23 20 r.st.code + fld 19 17 r.cause.toNat + fld 16 14 r.why.toNat + fld 13 11 r.holder.toNat)
  else if off = 6 then mkWord (fld 23 21 x.sel.toNat)
  else if off ≤ 0xA then
    if rankPresent s.variant x.sel.toNat then mkWord (granWord (s.rank c x.sel.toNat).grans (off - 7)) else .word 0
  else .word 0

/-- FLW words (R153–R155). -/
def flwReg (s : State) (off : Nat) : RegVal :=
  let f := s.flw
  if off = 0 then mkWord (bit 23 s.tables.policy + fld 22 19 s.tables.evalLog2.toNat)
  else if off = 1 then mkWord (bit 23 f.shortfall + fld 22 16 f.factor.toNat + fld 15 11 f.shed.toNat + fld 10 6 f.clean.toNat)
  else if off = 2 then .word f.entries
  else if 0x100 ≤ off && off < 0x120 then
    mkWord (fld 23 12 (tget 0 f.budget (off - 0x100) / 64) + fld 11 0 (min 4095 (ceilDiv (tget 0 f.commit (off - 0x100)) 64)))
  else if 0x180 ≤ off && off < 0x190 then
    let n := (off - 0x180) / 2
    if !portPresent s.variant n then .absent
    else match bondOf s.tables n with
      | some b => mkWord (if off % 2 = 0 then fld 13 0 (tget 0 f.bondBudget b.1) else fld 13 0 (tget 0 f.bondCommit b.1))
      | none => .word 0
  else if 0x200 ≤ off && off < 0x280 then
    let q := (off - 0x200) / 2
    if off % 2 = 0 then
      let c := queueCfg s q
      mkWord (bit 23 c.valid + fld 22 20 c.bondFirst.toNat + fld 19 18 c.bondLog2.toNat + bit 17 c.irqEn)
    else
      let e := s.evq q
      .clears (BitVec.ofNat 24 (fld 23 15 e.recs.length + fld 14 0 e.lost.toNat)) (s.setEvq q { e with lost := 0 })
  else .word 0

/-- Words of flow contract f (R156–R159). -/
def flowReg (s : State) (f off : Nat) : RegVal :=
  let c := flowCfg s f
  let r := s.flowR f
  if off = 0 then mkWord (bit 23 c.valid + fld 22 21 c.cls.toNat + fld 20 18 c.bondFirst.toNat + fld 17 16 c.bondLog2.toNat
    + fld 15 12 c.crank.toNat + fld 11 0 c.winM1.toNat)
  else if off = 1 then .word c.guarantee
  else if off = 2 then .word c.ceiling
  else if off = 3 then mkWord (fld 23 12 c.keySlot.toNat + fld 11 6 c.queue.toNat)
  else if off = 4 then mkWord (bit 23 c.ctxV + fld 13 0 c.ctx.toNat)
  else if off = 5 then .word r.floor
  else if off = 6 then .word r.charged
  else if off = 7 then .word r.offered
  else if off = 8 then .word r.dispatched
  else if off = 9 then .word r.lastDisp
  else if off = 0xA then .clears r.missCount (s.setFlowR f { r with missCount := 0 })
  else if off = 0xB then .clears r.oobCount (s.setFlowR f { r with oobCount := 0 })
  else if off = 0xC then .clears r.unjudged (s.setFlowR f { r with unjudged := 0 })
  else if 0x10 ≤ off && off ≤ 0x3A then mapWord (fun i => c.provs.getLsbD i) 1024 (off - 0x10)
  else .word 0

/-- Some location of a granule of the province lies on a retired rank (R90). -/
def provRedirected (s : State) (p : Prov) : Bool :=
  (granules p).any (fun g => (chanSet (blockClass s.tables.provs (g / 32)) g).any (fun c =>
    let st := (s.rank c (g / 256)).st
    st = .retiredSpare || st = .retiredReserve))

/-- Words of province p (R87–R92). -/
def prvReg (s : State) (p off : Nat) : RegVal :=
  let c := provCfg s p
  let v := tget (0, 0) s.probes p
  let here := c.valid
  if off = 0 then mkWord (bit 23 c.valid + fld 22 21 c.kind.toNat + fld 20 19 c.cls.toNat + fld 9 0 c.base.toNat)
  else if off = 1 then mkWord (if here then fld 10 0 c.count.toNat else 0)
  else if off = 2 then mkWord (bit 23 c.enabled + bit 22 c.enc + bit 21 c.writable)
  else if off = 3 then
    if here then
      let n := holedCount s c
      let used := if c.kind = 1 then ((granules c).filter (fun g => (takenGrans s).contains g)).length else 0
      mkWord (bit 23 (decide (0 < n)) + bit 22 (provRedirected s c) + fld 21 11 n + fld 10 0 used)
    else .word 0
  else if 0x10 ≤ off && off ≤ 0x3A then
    if here then
      mapWord (fun i =>
        let g := c.base.toNat + i
        if c.kind = 1 then (takenGrans s).contains g else holed s g) c.count.toNat (off - 0x10)
    else .word 0
  else if off = 0x3B || off = 0x3C then .wide v.1 2 (off - 0x3B)
  else if off = 0x3D || off = 0x3E then .wide v.2.toNat 2 (off - 0x3D)
  else .word 0

/-! ### Values in the channel and port domains -/

/-- Words of port n (R121–R126). -/
def glkReg (s : State) (n off : Nat) : RegVal :=
  let p := s.port n
  let b := bondOf s.tables n
  match off with
  | 0 => mkWord (bit 21 p.disable)
  | 1 => mkWord (fld 23 20 p.st.code + fld 19 18 p.width.toNat + bit 17 p.pair + bit 16 p.foreign
      + bit 15 (decide (1024 ≤ p.markBeats)) + fld 14 3 p.rxSeq.toNat)
  | 2 => .word p.hostSeen
  | 3 => match b with
    | some b => .word b.2.host
    | none => .word 0
  | 4 => match b with
    | some b => mkWord (bit 23 true + fld 22 20 b.1 + fld 19 18 b.2.log2.toNat)
    | none => .word 0
  | 5 => mkWord (fld 23 20 p.signal.toNat + fld 19 16 p.inUse.toNat + fld 15 12 p.failed.toNat)
  | 6 => mkWord (fld 23 12 p.descFree + fld 11 0 (min 4095 p.dataFree))
  | 7 => mkWord (fld 16 0 p.markerOff.toNat)
  | 0x19 => .word p.recoveries
  | 0x1A => .clears p.cmpDiscard (s.setPort n { p with cmpDiscard := 0 })
  | off => if 0x10 ≤ off && off ≤ 0x18 then counterAt [p.fecCorr, p.fecUncorr, p.replays] (off - 0x10) else .word 0

/-- Words of channel controller c (R184–R188). -/
def chnReg (s : State) (c off : Nat) : RegVal :=
  let x := s.chan c
  match off with
  | 0 => mkWord (fld 23 18 x.pageIdle.toNat + fld 17 14 x.hitThresh.toNat + fld 13 10 s.tables.nrK.toNat)
  | 1 => mkWord (fld 23 22 x.target.toNat + fld 21 20 x.current.toNat + fld 19 18 x.opMax.toNat + fld 17 15 x.seq.code
      + fld 14 12 x.source.toNat)
  | 2 => mkWord (fld 23 21 x.st.code + bit 20 (bypass s c) + bit 19 x.wmode
      + bit 18 ((ranksOf s.variant).any (fun k => (s.tier (tierOf c k)).catchup))
      + fld 17 11 x.rdq.length + fld 10 5 x.wrq.length)
  | 3 => mkWord (fld 11 0 (min 0xFFF (actCap s c)))
  | 4 => .clears x.maxWait (s.setChan c { x with maxWait := 0 })
  | 5 => .clears x.maxWaitFx (s.setChan c { x with maxWaitFx := 0 })
  | 6 => mkWord (fld 14 0 (dirtyLines s c).length)
  | off => if 0x10 ≤ off && off ≤ 0x2A then
      counterAt [x.rdBursts, x.wrBursts, x.actsCnt, x.rowHits, x.rmw, x.nrfCnt, x.aged, x.turns, x.lbHits] (off - 0x10)
    else .word 0

/-- Bits of a per-rank flag, rank k in bit k. -/
def rankBits (g : Nat → Bool) : Nat := (List.range 5).foldl (fun a k => a + bit k (g k)) 0

/-- RFR_CH_RANK of rank k (R208). -/
def owedWord (s : State) (c k : Nat) : Nat :=
  let m := rankMaxOwed s c k
  let b := ((List.range 32).find? (fun b => owed s c k b = m)).getD 0
  fld 23 20 m + fld 19 15 b + fld 14 6 (((List.range 32).map (owed s c k)).foldl (· + ·) 0) + bit 5 (rankStopped s c k)

/-- Words of a channel's refresh block (R207–R210). -/
def rfrReg (s : State) (c off : Nat) : RegVal :=
  let x := s.rfrOf c
  if off = 0 then mkWord (fld 23 19 x.inSr.toNat + fld 18 14 x.inSlot.toNat)
  else if off ≤ 5 then (if rankPresent s.variant (off - 1) then mkWord (owedWord s c (off - 1)) else .absent)
  else if off = 6 then mkWord (fld 23 21 x.owedSel.toNat)
  else if off ≤ 0xC then
    mkWord (((List.range 6).filter (fun i => 6 * (off - 7) + i < 32)).foldl (fun a i =>
      a + fld (4 * i + 3) (4 * i) (owed s c x.owedSel.toNat (6 * (off - 7) + i))) 0)
  else if 0x10 ≤ off && off ≤ 0x1B then counterAt [x.issued, x.skipped, x.repaid, x.catchup] (off - 0x10)
  else .word 0

/-- ECC_REMAP_ENTRY of the entry that sel names (R245). -/
def remapValue (e : Ecc) : Nat :=
  match tfind e.remap e.sel.toNat with
  | none => 0
  | some r => bit 47 true + fld 46 45 r.st.code + fld 44 42 r.loc.rank + fld 41 39 (r.loc.bank / 4) + fld 38 37 r.loc.bank
      + fld 36 23 r.loc.row + fld 22 19 r.loc.col

/-- Words of a channel's integrity block (R241–R247). -/
def eccReg (s : State) (c off : Nat) : RegVal :=
  let e := s.eccOf c
  let pend := (e.remap.filter (fun r => r.2.st = .pending || (r.2.st = .rowQueued && !r.2.recorded))).length
  match off with
  | 0 => mkWord (bit 23 e.zephyrEn + fld 22 17 e.period.toNat + fld 16 11 e.periodDeg.toNat + bit 10 e.forceDeg)
  | 1 => mkWord (bit 23 s.tables.compat + fld 22 21 e.fill.toNat + fld 20 19 (zState s c) + bit 18 (degraded s c))
  | 2 => mkWord (fld 23 21 e.zRank + fld 20 0 (e.zLine / 4))
  | 3 => .word e.passes
  | 4 => .wide e.lastCe.toNat 2 0
  | 5 => .wide e.lastCe.toNat 2 1
  | 6 => .wide e.lastUe.toNat 2 0
  | 7 => .wide e.lastUe.toNat 2 1
  | 8 => mkWord (fld 23 19 e.remap.length + fld 18 14 pend + bit 13 (e.busy || e.rowsBusy ≠ []) + fld 12 10 e.result.toNat)
  | 9 => mkWord (fld 22 19 e.sel.toNat)
  | 0xA => .wide (remapValue e) 2 0
  | 0xB => .wide (remapValue e) 2 1
  | 0xC => mkWord (fld 23 12 e.rows.toNat + bit 11 e.exhausted)
  | off => if 0x10 ≤ off && off ≤ 0x2A then
      counterAt [e.ceCount, e.eraseFix, e.ueCount, e.poisonRd, e.writebacks, e.wbDropped, e.zreads, e.unwritten, e.fillLines]
        (off - 0x10)
    else .word 0

/-- An erasure word: `first` is the half's lowest lane (R275). -/
def erasedWord (xs : List Nat) (first : Nat) : Nat :=
  let a := xs[0]?
  let b := xs[1]?
  bit 23 a.isSome + fld 22 16 (match a with | some i => first + i | none => 0)
    + bit 15 b.isSome + fld 14 8 (match b with | some i => first + i | none => 0)

/-- Words of a channel's vertical lanes (R274–R276). -/
def tsvReg (s : State) (c off : Nat) : RegVal :=
  let t := s.tsvOf c
  let g := fun (i lo : Nat) => match tfind t.steered i with
    | some l => bit (lo + 5) true + fld (lo + 4) lo l
    | none => 0
  match off with
  | 0 => mkWord (fld 23 20 t.spareUsed.toNat + bit 19 t.caUsed + bit 18 t.clkUsed + fld 17 16 t.erasedA.length
      + fld 15 14 t.erasedB.length + fld 13 11 t.action.code)
  | 1 => mkWord (g 0 18 + g 1 12 + g 2 6 + g 3 0)
  | 2 => mkWord (bit 23 t.caLane.isSome + fld 22 19 (t.caLane.getD 0) + bit 18 t.clkPair.isSome + fld 17 17 (t.clkPair.getD 0))
  | 3 => mkWord (erasedWord t.erasedA 0)
  | 4 => mkWord (erasedWord t.erasedB 36)
  | 5 => mkWord (fld 23 17 t.runLane.toNat + fld 16 12 t.runCount)
  | 6 => mkWord (fld 22 16 t.sel.toNat)
  | 7 => .word t.suspects
  | 8 => .word t.cleared
  | 9 => .word t.caRetries
  | _ => .word 0

/-- TRN_EYE_RD (`wr` false) or TRN_EYE_WR of the selected lane and point (R404). -/
def eyeWord (s : State) (c : Nat) (wr : Bool) : Nat :=
  let t := s.trnOf c
  let lane := t.eyeLane.toNat
  let op := t.eyeOp.toNat
  if !wr && 72 ≤ lane then 0
  else
    let set := (tfind t.sets op).bind (fun d => tfind d.lanes lane)
    let dw := match set with
      | some l => if wr then (l.wrDelay, l.wrWidth) else (l.rdDelay, l.rdWidth)
      | none => (0, 0)
    fld 23 17 dw.1 + fld 16 10 dw.2 + fld 9 3 (trimTaps s c lane op (if !wr then 0 else if lane < 72 then 1 else 2))

/-- Beats of sweep that the Survey has behind it (R388). -/
def sweepDone (s : State) (c : Nat) : Nat :=
  let t := s.trnOf c
  t.work + (if t.action = .survey && !s.pwr.hold then s.elapsed - t.since else 0)

/-- TRN_STATUS.phase and byte_lane: 24 µs of control group, 18 byte lanes of 8.5 µs each, then the centre phase (R388); a lane
check sweeps its byte lane (R386). -/
def sweepPlace (s : State) (c : Nat) : Nat × Nat :=
  let w := sweepDone s c
  if surveying s c then
    if w < 24 then (0, 0) else if w < 177 then (1, (w - 24) * 2 / 17) else (2, 0)
  else if (s.tsvOf c).action = .check && !(s.tsvOf c).ctlCheck then (1, (s.trnOf c).byteLane.toNat)
  else (0, 0)

/-- Words of a channel's training block (R403–R405). -/
def trnReg (s : State) (c off : Nat) : RegVal :=
  let t := s.trnOf c
  let setWord := fun (op : Nat) => match tfind t.sets op with
    | some d => fld 23 12 (BitVec.ofInt 12 d.trained).toNat + fld 11 10 d.source.toNat
    | none => fld 23 12 0x800
  match off with
  | 0 => mkWord (bit 22 t.log + bit 21 t.restore)
  | 1 => mkWord (fld 23 21 t.action.code + fld 20 19 (sweepPlace s c).1 + fld 18 14 (sweepPlace s c).2 + bit 13 t.stale
      + fld 12 10 t.valid.toNat + fld 9 8 t.lastResult.toNat + fld 7 5 t.trigger.toNat)
  | 2 => mkWord (setWord 0)
  | 3 => mkWord (setWord 1)
  | 4 => mkWord (setWord 2)
  | 5 => mkWord (fld 23 12 (temp12 t.tCh).toNat + fld 11 0 (BitVec.ofInt 12 (driftOf s c)).toNat)
  | 6 => mkWord (fld 23 17 t.eyeLane.toNat + fld 16 15 t.eyeOp.toNat)
  | 7 => mkWord (eyeWord s c false)
  | 8 => mkWord (eyeWord s c true)
  | 0x10 => .word t.surveys
  | 0x11 => .word t.checkFails
  | 0x12 => .word t.suspends
  | _ => .word 0

/-- Words of a channel's test block (R406, R407); BST_RESULT's low word is read by `bstResult`. -/
def bstReg (s : State) (c off : Nat) : RegVal :=
  let b := s.bstOf c
  match off with
  | 1 => mkWord (fld 23 21 b.st.code + fld 20 18 b.result.toNat + fld 17 15 b.reason.toNat + fld 14 12 b.kind.toNat
      + fld 11 9 b.rank.toNat + fld 8 2 b.fifo.length + bit 1 b.fifoLost)
  | 3 => .wide 0 2 1
  | 4 => mkWord (fld 23 12 b.runs.toNat + fld 11 0 b.fails.toNat)
  | _ => .word 0

/-! ### One read -/

/-- What offset `off` of a unit holds, read on path n; reserved bits read 0 (R7). GAZ_STATUS is that of R49. -/
def regVal (s : State) (n : Nat) (u : UnitId) (off : Nat) : RegVal :=
  match u with
  | .table => .word ((gazTable s.variant).getD off 0)
  | .gaz => mkWord (bit 23 s.gazBuilt + fld 13 0 (if s.gazBuilt then gazEntries s.variant else 0))
  | .rst => rstReg s off
  | .img => imgReg s off
  | .sec => secReg s off
  | .flt => fltReg s n off
  | .mer => merReg s off
  | .pwr => pwrReg s off
  | .dom d => domReg s d off
  | .thm => thmReg s off
  | .hkp => hkpReg s off
  | .fus => fusReg s off
  | .log => logReg s n off
  | .tel => telReg s off
  | .cnt k => cntReg s k off
  | .cip => cipReg s off
  | .slot i => slotReg s i off
  | .chk x => chkReg s x off
  | .eng e => engReg s e off
  | .mig => migReg s off
  | .glk p => glkReg s p off
  | .tier t => tierReg s t off
  | .chn c => chnReg s c off
  | .rfr c => rfrReg s c off
  | .ecc c => eccReg s c off
  | .spr c => sprReg s c off
  | .tsv c => tsvReg s c off
  | .trn c => trnReg s c off
  | .bst c => bstReg s c off
  | .flw => flwReg s off
  | .flow f => flowReg s f off
  | .prv p => prvReg s p off

/-- The words of a value, low word first. -/
def wordsOf (v n : Nat) : List Word := (List.range n).map (fun i => BitVec.ofNat 24 (v / 2 ^ (24 * i)))

/-- A read on path n (R9, R10): the low word of a wide value takes the snapshot, its higher words return the path's. -/
def readVal (n : Nat) (r : RegVal) (s : State) : Status × Word × State :=
  match r with
  | .word w => (.ok, w, s)
  | .clears w after => (.ok, w, after)
  | .wide v k 0 => (.ok, BitVec.ofNat 24 v, s.modPath n (fun p => { p with snap := wordsOf v k }))
  | .wide _ _ (i + 1) => (.ok, (s.path n).snap.getD (i + 1) 0, s)
  | .absent => (.absent, 0, s)

/-- A read of one register on path n. -/
def readReg (n : Nat) (u : UnitId) (off : Nat) (s : State) : Status × Word × State :=
  match u with
  | .sec => if off = 3 then nonceRead n s else readVal n (regVal s n u off) s
  | .log => if off = 7 then logDataRead n s else readVal n (regVal s n u off) s
  | .bst c => if off = 2 then bstResult n c s else readVal n (regVal s n u off) s
  | u => readVal n (regVal s n u off) s

end Sys2Proof.Machine
end

