-- ==== Sys2Proof/Machine/Registers.lean ====
section
/-! DEFINITION. What a management write does at each address (R8, R12), the management commands that name an address
(REGISTER_WRITE, READ_CLEAR, SNAPSHOT_READ, LOWER_WORD_WRITE, MULTI_WORD_COMMIT), and DOMAIN_WAKE_DONE, after which the
accesses that waited for the domain complete (R47). -/

namespace Sys2Proof.Machine

/-! ### Plain fields, unit by unit -/

/-- Commit a value of `words` words whose highest word is at `off` of unit u; `g` stores it. -/
def commitAs (n : Nat) (u : UnitId) (off words cur : Nat) (data : Word) (s : State) (g : State → Nat → State) :
    Status × State :=
  let addr := addrOf u off
  let v := commitValue s n addr words cur data
  (.ok, g (dropHeld s n addr words) v)

/-- A lower word is held on the path (R12). -/
def holdAs (n : Nat) (u : UnitId) (off : Nat) (data : Word) (s : State) : Status × State :=
  (.ok, holdWord s n (addrOf u off) data)

/-- RST (R461). -/
def rstWrite (off : Nat) (data : Word) (s : State) : Status × State :=
  match off with
  | 0 => rstCtrlWrite data s
  | 1 => (.ok, { s with rst := { s.rst with bootBist := data.extractLsb' 22 2 } })
  | _ => (.ok, s)

/-- IMG (R331, R332). -/
def imgWrite (n off : Nat) (data : Word) (s : State) : Status × State :=
  match off with
  | 0 => imgCtrlWrite n data s
  | 3 => holdAs n .img 3 data s
  | 4 => commitAs n .img 4 2 s.img.target.toNat data s (fun s v => s.modImg (fun i => { i with target := BitVec.ofNat 48 v }))
  | 5 => imgDataWrite n data s
  | 7 => (.ok, s.modImg (fun i => { i with imageId := data }))
  | 8 => (.ok, s.modImg (fun i => { i with revision := data }))
  | 9 => (.ok, s.modImg (fun i => { i with amendSeq := data }))
  | _ => (.ok, s)

/-- SEC (R316, R317). -/
def secWrite (n off : Nat) (data : Word) (s : State) : Status × State :=
  if off = 1 then secCtrlWrite data s
  else if off = 2 then secSessionWrite n data s
  else if 0x10 ≤ off && off < 0x50 then peerSigWrite n off data s
  else (.ok, s)

/-- FLT (R354, R355, R357): settle = 0 is refused; irq clears by writing 1. -/
def fltWrite (n off : Nat) (data : Word) (s : State) : Status × State :=
  let x := s.flt
  match off with
  | 0 =>
    if data.extractLsb' 14 10 = 0 then (.refused, s)
    else (.ok, { s with flt := { x with
      settle := data.extractLsb' 14 10
      irqSev := data.extractLsb' 12 2
      irqEn := data.getLsbD 11 } })
  | 1 => (.ok, { s with flt := { x with irq := x.irq && !data.getLsbD 21 } })
  | 2 => holdAs n .flt 2 data s
  | 3 => firstWrite n data s
  | 4 => holdAs n .flt 4 data s
  | 5 => commitAs n .flt 5 2 x.stamp.toNat data s (fun s v => { s with flt := { s.flt with stamp := BitVec.ofNat 48 v } })
  | 8 => (.ok, s.modPath n (fun p => { p with fltSel := data &&& 0xFFFFF8 }))
  | _ => (.ok, s)

/-- MER (R65, R67). -/
def merWrite (n off : Nat) (data : Word) (s : State) : Status × State :=
  match off with
  | 0 => merCtrlWrite data s
  | 4 => holdAs n .mer 4 data s
  | 5 => commitAs n .mer 5 2 s.mer.epochNext.toNat data s (fun s v => s.setMer { s.mer with epochNext := BitVec.ofNat 48 v })
  | 6 => holdAs n .mer 6 data s
  | 7 => commitAs n .mer 7 2 s.mer.epochLoaded.toNat data s
      (fun s v => s.setMer { s.mer with epochLoaded := BitVec.ofNat 48 v })
  | _ => (.ok, s)

/-- PWR (R378, R379). -/
def pwrWrite (off : Nat) (data : Word) (s : State) : Status × State :=
  match off with
  | 0 => powerCapWrite data s
  | 6 => (.ok, { s with pwr := { s.pwr with
      gale := data.getLsbD 23
      galeDone := data.getLsbD 22
      galeKind := data.getLsbD 21
      galeSensor := data.extractLsb' 16 5
      galeRead := data.extractLsb' 4 12 } })
  | _ => (.ok, s)

/-- FUS (R428, R431). -/
def fusWrite (n off : Nat) (data : Word) (s : State) : Status × State :=
  match off with
  | 0 => fuseCmdWrite n data s
  | 1 => (.ok, s.modFus (fun f => { f with wdata := data }))
  | 0x10 => (.ok, s.modFus (fun f => { f with areaSel := data.extractLsb' 12 5 }))
  | _ => (.ok, s)

/-- LOG (R447). -/
def logRegWrite (n off : Nat) (data : Word) (s : State) : Status × State :=
  match off with
  | 0 => logClearWrite data s
  | 6 => (.ok, s.modPath n (fun p => { p with logAddr := data.extractLsb' 0 18 }))
  | _ => (.ok, s)

/-- TEL (R445). -/
def telWrite (off : Nat) (data : Word) (s : State) : Status × State :=
  match off with
  | 0 => (.ok, { s with tel := { s.tel with pause := data.getLsbD 23 } })
  | 7 => (.ok, { s with tel := { s.tel with seq := data } })
  | _ => (.ok, s)

/-- CIP (R313). -/
def cipWrite (n off : Nat) (data : Word) (s : State) : Status × State :=
  if off = 0 then slotCmdWrite n data s
  else if 0x10 ≤ off && off < 0x28 then wrapWrite n (off - 0x10) data s
  else (.ok, s)

/-- ENG (R294, R295). -/
def engWrite (e off : Nat) (data : Word) (s : State) : Status × State :=
  match off with
  | 0 => engCtrlWrite e data s
  | 5 => (.ok, s.modEng e (fun x => { x with qSel := data.extractLsb' 10 14 }))
  | _ => (.ok, s)

/-- SPR_CTRL and SPR_CFG (R269): a ceiling outside 313–1,100 is refused. -/
def migWrite (off : Nat) (data : Word) (s : State) : Status × State :=
  match off with
  | 0 => sprCtrlWrite data s
  | 1 =>
    let v := data.extractLsb' 13 11
    if v.toNat < 313 || 1100 < v.toNat then (.refused, s) else (.ok, { s with mig := { s.mig with ceiling := v } })
  | _ => (.ok, s)

/-- CHN (R184, R185). -/
def chnWrite (c off : Nat) (data : Word) (s : State) : Status × State :=
  match off with
  | 0 => (.ok, s.modChan c (fun x => { x with pageIdle := data.extractLsb' 18 6, hitThresh := data.extractLsb' 14 4 }))
  | 1 => opTargetWrite c data s
  | _ => (.ok, s)

/-- RFR of a channel (R206, R209): a selector of 5–7 is refused, the word of a rank that is absent is ABSENT. -/
def rfrWrite (c off : Nat) (data : Word) (s : State) : Status × State :=
  if off = 6 then
    (if 4 < (data.extractLsb' 21 3).toNat then (.refused, s)
     else (.ok, s.modRfrOf c (fun x => { x with owedSel := data.extractLsb' 21 3 })))
  else if off = 5 && !hasSpare s.variant then (.absent, s)
  else (.ok, s)

/-- ECC (R241, R244). -/
def eccWrite (c off : Nat) (data : Word) (s : State) : Status × State :=
  match off with
  | 0 => zcfgWrite c data s
  | 9 => remapCtrlWrite c data s
  | _ => (.ok, s)

/-- SPR of a channel (R271, R273). -/
def sprWrite (c off : Nat) (data : Word) (s : State) : Status × State :=
  if off = 6 then
    (if 4 < (data.extractLsb' 21 3).toNat then (.refused, s)
     else (.ok, s.modSprOf c (fun x => { x with sel := data.extractLsb' 21 3 })))
  else if off = 5 && !hasSpare s.variant then (.absent, s)
  else (.ok, s)

/-- TRN (R403, R404): a lane above 85 or point 3 is refused. -/
def trnWrite (c off : Nat) (data : Word) (s : State) : Status × State :=
  match off with
  | 0 => trnCtrlWrite c data s
  | 6 =>
    let lane := data.extractLsb' 17 7
    let op := data.extractLsb' 15 2
    if 85 < lane.toNat || op = 3 then (.refused, s)
    else (.ok, s.modTrnOf c (fun t => { t with eyeLane := lane, eyeOp := op }))
  | _ => (.ok, s)

/-- BST (R406): fifo_lost clears by writing 1. -/
def bstWrite (c off : Nat) (data : Word) (s : State) : Status × State :=
  match off with
  | 0 => bstCtrlWrite c data s
  | 1 => (.ok, s.modBstOf c (fun b => { b with fifoLost := b.fifoLost && !data.getLsbD 1 }))
  | _ => (.ok, s)

/-- FLW (R154): nothing is writable; the words of absent ports are ABSENT. -/
def flwWrite (off : Nat) (s : State) : Status × State :=
  if 0x180 ≤ off && off < 0x190 && !portPresent s.variant ((off - 0x180) / 2) then (.absent, s) else (.ok, s)

/-- PRV (R92). -/
def prvWrite (n p off : Nat) (data : Word) (s : State) : Status × State :=
  if off = 0x3B then holdAs n (.prv p) 0x3B data s
  else if off = 0x3C then probeWrite n p data s
  else (.ok, s)

/-- A write of one register on path n; what is written to reserved bits is ignored (R7). -/
def writeReg (n : Nat) (u : UnitId) (off : Nat) (data : Word) (s : State) : Status × State :=
  match u with
  | .table | .gaz | .thm | .hkp | .slot _ | .tier _ | .flow _ => (.ok, s)
  | .rst => rstWrite off data s
  | .img => imgWrite n off data s
  | .sec => secWrite n off data s
  | .flt => fltWrite n off data s
  | .mer => merWrite n off data s
  | .pwr => pwrWrite off data s
  | .dom d => if off = 0 then domCtrlWrite d data s else (.ok, s)
  | .fus => fusWrite n off data s
  | .log => logRegWrite n off data s
  | .tel => telWrite off data s
  | .cnt k => if off = 0 then counterWrite k data s else (.ok, s)
  | .cip => cipWrite n off data s
  | .chk x => chkWrite n x off data s
  | .eng e => engWrite e off data s
  | .mig => migWrite off data s
  | .glk p => if off = 0 then glkCtrlWrite p data s else (.ok, s)
  | .chn c => chnWrite c off data s
  | .rfr c => rfrWrite c off data s
  | .ecc c => eccWrite c off data s
  | .spr c => sprWrite c off data s
  | .tsv c => if off = 6 then tsvCtrlWrite c data s else (.ok, s)
  | .trn c => trnWrite c off data s
  | .bst c => bstWrite c off data s
  | .flw => flwWrite off s
  | .prv p => prvWrite n p off data s

/-! ### An access by its address -/

/-- An access to an address in no unit's extent completes REFUSED with data 0 (R5, R47), in its port's turn. -/
def noUnit (s : State) (via : Via) (write : Bool) (addr data : Word) : State :=
  if !mgtLive s via.port || !mgtTurn s via write addr data then s
  else if portHeld s via.port then
    { s with heldAcc := s.heldAcc ++ [{ via := via, write := write, addr := addr, data := data }] }
  else respond s via write addr .refused 0

/-- A management write at an address. -/
def writeAddr (s : State) (via : Via) (addr data : Word) : State :=
  match unitAt addr.toNat with
  | some (u, off) => mgmtWrite s via u off data (writeReg via.port u off data)
  | none => noUnit s via true addr data

/-- A management read at an address. -/
def readAddr (s : State) (via : Via) (addr : Word) : State :=
  match unitAt addr.toNat with
  | some (u, off) => mgmtRead s via u off (readReg via.port u off)
  | none => noUnit s via false addr 0

/-- The accesses that waited are judged again, in order; what must still wait waits again (R47, R117). -/
def replay (s : State) : State :=
  s.heldAcc.foldl (fun s a => if a.write then writeAddr s a.via a.addr a.data else readAddr s a.via a.addr)
    { s with heldAcc := [] }

/-- REGISTER_WRITE (R8): the address decides what the write does. -/
def execRegisterWrite (via : Via) (addr data : Word) (s : State) : Host.Outcome State Fault Refusal :=
  answer s (writeAddr s via addr data)

/-- READ_CLEAR (R9). -/
def execReadClear (via : Via) (addr : Word) (s : State) : Host.Outcome State Fault Refusal :=
  answer s (readAddr s via addr)

/-- SNAPSHOT_READ (R10). -/
def execSnapshotRead (via : Via) (addr : Word) (s : State) : Host.Outcome State Fault Refusal :=
  answer s (readAddr s via addr)

/-- LOWER_WORD_WRITE (R12). -/
def execLowerWordWrite (via : Via) (addr data : Word) (s : State) : Host.Outcome State Fault Refusal :=
  answer s (writeAddr s via addr data)

/-- MULTI_WORD_COMMIT (R12). -/
def execMultiWordCommit (via : Via) (addr data : Word) (s : State) : Host.Outcome State Fault Refusal :=
  answer s (writeAddr s via addr data)

/-- DOMAIN_WAKE_DONE (R360): the unit starts, and the accesses held for it complete. -/
def execDomainWakeDone (d : Nat) (s : State) : Host.Outcome State Fault Refusal :=
  answer s (replay (if 52 ≤ d && d < 72 then tierParkCheck (wakeDone s d) (d - 52) else wakeDone s d))

end Sys2Proof.Machine
end

