-- ==== Sys2Proof/Machine/Beat.lean ====
section
/-! DEFINITION. The beat edge (R51, R55, R59, R62–R64, R133, R144, R198): the count, an epoch load, and what is counted per
beat. -/

namespace Sys2Proof.Machine

/-- Flows whose window length does not divide 2^48 (R64). -/
def oddWindow (c : FlowCfg) : Bool := 2 ^ 48 % c.window ≠ 0

/-- What a jump of the count does to the schedules: open windows of the flows that `sel` picks close unjudged, and tiers
whose slots come to lie too far apart are charged. -/
def countJumps (s : State) (sel : FlowCfg → Bool) : State := chargeSlots (loadWindows s sel) (List.range 20)

/-- An epoch load (R55, R63): the count has its new value. -/
def epochLoad (s : State) : State :=
  let s := s.setMer { s.mer with
    count := s.mer.epochNext
    epochLoaded := s.mer.epochNext
    arm := false
    marked := false
    aligned := true }
  let s := resetInst { s with flw := { s.flw with clean := 0 } } 0x3B 0
  countJumps s (fun _ => true)

/-- The count advances, or is loaded at a marked edge while a load is armed. -/
def advanceCount (s : State) : State :=
  if s.mer.arm && s.mer.marked then epochLoad s
  else
    let n := s.mer.count + 1
    let s := s.setMer { s.mer with count := n, marked := false }
    if n = 0 then countJumps s oddWindow else s

/-- A port counts consecutive beats with a BEAT message, and its credit returns start anew (R122, R369). -/
def Port.beat (p : Port) : Port :=
  { p with
    markBeats := if p.markSeen then min 1024 (p.markBeats + 1) else 0
    markSeen := false
    retRead := 0
    retWrite := 0 }

/-- Counters of beats (R433). -/
def countBeat (s : State) : State :=
  let s := perf s 0x000 0 1
  let s := if s.flw.shortfall then perf s 0x104 0 1 else s
  let s := if s.pwr.hold then perf s 0x580 0 1 else s
  let s := if s.pwr.floorBound then perf s 0x582 0 1 else s
  foldS ((s.chans.filter (fun e => 64 ≤ e.2.rdq.length)).map (·.1)) (fun s c => perf s 0x208 c 1) s

/-- Per-beat caps start anew. -/
def freshBeat (s : State) : State :=
  { s with
    ports := remake {} Port.beat s.ports
    engs := remake {} (fun e => { e with issued := 0 }) s.engs
    chans := remake {} (fun ch => { ch with acts := 0 }) s.chans }

/-- The count of beats without a reference (R59). -/
def countLoss (s : State) : State :=
  if s.mer.st = .holdover then s.setMer { s.mer with lossBeats := sat s.mer.lossBeats 1 } else s

/-- BEAT_EDGE (R51). The crown's counters stand still once Gale has stopped its clocks (R375). An access held for a domain
that has left WAKING otherwise than to ON completes here. -/
def execBeatEdge (s : State) : Host.Outcome State Fault Refusal :=
  answer s (
    let s := { s with elapsed := s.elapsed + 1 }
    let s := refillCredits (countLoss (freshBeat s))
    let s := advanceCount s
    replay (startupNext (if s.flt.gale && s.pwr.galeDone then s else countBeat s)))

end Sys2Proof.Machine
end

