-- ==== Sys2Proof/Machine/Sideband.lean ====
section
/-! DEFINITION. The two-wire sideband (R48, R481, R482): its command and response phases and its interface reset. Its access
path is number 8 (R10). -/

namespace Sys2Proof.Machine

/-- The sideband's path. -/
def sbPath : Nat := 8

/-- Units of the sideband subset (R41, R48). -/
def inSubset : UnitId → Bool
  | .table | .gaz | .rst | .flt | .pwr | .dom _ | .thm | .hkp | .fus | .tier _ => true
  | _ => false

/-- A sideband read of one word (R36, R47, R48). -/
def sbRead (addr : Nat) (s : State) : Status × Word × State :=
  if !s.gazBuilt then (.refused, 0, s)
  else match unitAt addr with
    | none => (.refused, 0, s)
    | some (u, off) =>
      if !unitPresent s.variant u then (.absent, 0, s)
      else if !inSubset u then (.refused, 0, s)
      else match judgeAcc (gazTable s.variant).length s u off with
        | .ended st => (st, 0, s)
        | .held => (.fenced, 0, s)
        | .ok =>
          let r := readReg sbPath u off s
          let d := scanned r.2.2 (if r.1 = .ok then r.2.1 else 0)
          (r.1, d.1, d.2)

/-- The bytes of one group: status, then the data word, high byte first. -/
def sbGroup (st : Status) (w : Word) : List Byte :=
  [BitVec.ofNat 8 st.code, w.extractLsb' 16 8, w.extractLsb' 8 8, w.extractLsb' 0 8]

/-- `n` groups of a read response, from an address upward. -/
def sbGroups : Nat → Nat → State → List Byte × State
  | 0, _, s => ([], s)
  | n + 1, addr, s =>
    let r := sbRead addr s
    let rest := sbGroups n (addr + 1) r.2.2
    (sbGroup r.1 r.2.1 ++ rest.1, rest.2)

/-- Bytes that the manual does not state. -/
def sbOpen (n : Nat) (s : State) : List Byte × State :=
  let f := takeFree s
  ((List.range n).map (Config.sbByte f.1), f.2)

/-- SIDEBAND_COMMAND_PHASE: the command waits for its response phase. -/
def execSidebandCommandPhase (op : Byte) (addr data : Word) (s : State) : Host.Outcome State Fault Refusal :=
  answer s { s with sb := { s.sb with cmd := some (op, addr, data) } }

/-- What the response phase returns. -/
def sbResponse (groups : Nat) (s : State) : List Byte × State :=
  match s.sb.cmd with
  | some (op, addr, _) =>
    if op = 1 then sbGroups groups addr.toNat s
    else if op = 2 then ((sbGroup .refused 0 ++ List.replicate (4 * (groups - 1)) 0xFF).take (4 * groups), s)
    else sbOpen (4 * groups) s
  | none =>
    let r := sbOpen (4 * (groups - 1)) s
    ((sbGroup .refused 0 ++ r.1).take (4 * groups), r.2)

/-- SIDEBAND_RESPONSE_PHASE: `groups` groups of four bytes are read. -/
def execSidebandResponsePhase (groups : Nat) (s : State) : Host.Outcome State Fault Refusal :=
  answer s (
    let r := sbResponse groups s
    { r.2 with sb := { cmd := none, answered := r.1 } })

/-- SIDEBAND_INTERFACE_RESET (R481): a command waiting is dropped; the snapshot stays. -/
def execSidebandInterfaceReset (s : State) : Host.Outcome State Fault Refusal :=
  answer s { s with sb := {} }

end Sys2Proof.Machine
end

