-- ==== Sys2Proof/Machine/Dispatch.lean ====
section
/-! DEFINITION. One arm per command: each calls its meaning. -/

namespace Sys2Proof.Machine

/-- The effect of a command on everything but the queue. -/
def exec (i : Instr) (s : State) : Host.Outcome State Fault Refusal :=
  match i with
  | .registerWrite via addr data => Sys2Proof.Machine.execRegisterWrite via addr data s
  | .readClear via addr => Sys2Proof.Machine.execReadClear via addr s
  | .snapshotRead via addr => Sys2Proof.Machine.execSnapshotRead via addr s
  | .lowerWordWrite via addr data => Sys2Proof.Machine.execLowerWordWrite via addr data s
  | .multiWordCommit via addr data => Sys2Proof.Machine.execMultiWordCommit via addr data s
  | .sidebandCommandPhase op addr data => Sys2Proof.Machine.execSidebandCommandPhase op addr data s
  | .sidebandResponsePhase groups => Sys2Proof.Machine.execSidebandResponsePhase groups s
  | .sidebandInterfaceReset => Sys2Proof.Machine.execSidebandInterfaceReset s
  | .gazetteerBuild => Sys2Proof.Machine.execGazetteerBuild s
  | .beatEdge => Sys2Proof.Machine.execBeatEdge s
  | .referenceEdge devNs widthNs phaseNs => Sys2Proof.Machine.execReferenceEdge devNs widthNs phaseNs s
  | .referenceLoss frequency => Sys2Proof.Machine.execReferenceLoss frequency s
  | .merSourceWrite via data => Sys2Proof.Machine.execMerSourceWrite via data s
  | .merArmWrite via data => Sys2Proof.Machine.execMerArmWrite via data s
  | .phaseSlewComplete phaseNs => Sys2Proof.Machine.execPhaseSlewComplete phaseNs s
  | .holdoverLimit => Sys2Proof.Machine.execHoldoverLimit s
  | .provinceProbe via p data => Sys2Proof.Machine.execProvinceProbe via p data s
  | .portDetectSignal n lanes => Sys2Proof.Machine.execPortDetectSignal n lanes s
  | .trainingComplete n lanesOk => Sys2Proof.Machine.execTrainingComplete n lanesOk s
  | .trainingFail n => Sys2Proof.Machine.execTrainingFail n s
  | .trainingTimeout n => Sys2Proof.Machine.execTrainingTimeout n s
  | .trainFlitReceive n header head ident asks tail => Sys2Proof.Machine.execTrainFlitReceive n header head ident asks tail s
  | .recoveryEntry n why => Sys2Proof.Machine.execRecoveryEntry n why s
  | .recoveryComplete n lanesOk => Sys2Proof.Machine.execRecoveryComplete n lanesOk s
  | .recoveryAttemptFail n => Sys2Proof.Machine.execRecoveryAttemptFail n s
  | .glkRetrain via n data => Sys2Proof.Machine.execGlkRetrain via n data s
  | .glkPortReset via n data => Sys2Proof.Machine.execGlkPortReset via n data s
  | .flitReceive n arrival => Sys2Proof.Machine.execFlitReceive n arrival s
  | .nakReceive n seq => Sys2Proof.Machine.execNakReceive n seq s
  | .ackReceive n seq => Sys2Proof.Machine.execAckReceive n seq s
  | .creditMessage n cls count init => Sys2Proof.Machine.execCreditMessage n cls count init s
  | .beatMessage n epoch offset atPs phaseNs => Sys2Proof.Machine.execBeatMessage n epoch offset atPs phaseNs s
  | .creditReturn n descs datas => Sys2Proof.Machine.execCreditReturn n descs datas s
  | .flitSlot n => Sys2Proof.Machine.execFlitSlot n s
  | .completionFormed id => Sys2Proof.Machine.execCompletionFormed id s
  | .stackDownEnd n => Sys2Proof.Machine.execStackDownEnd n s
  | .galeOrderedSetEnd n => Sys2Proof.Machine.execGaleOrderedSetEnd n s
  | .eventRecordSend q => Sys2Proof.Machine.execEventRecordSend q s
  | .read64 h => Sys2Proof.Machine.execRead64 h s
  | .read128 h => Sys2Proof.Machine.execRead128 h s
  | .read256 h => Sys2Proof.Machine.execRead256 h s
  | .write64 h data => Sys2Proof.Machine.execWrite64 h data s
  | .write128 h data => Sys2Proof.Machine.execWrite128 h data s
  | .write256 h data => Sys2Proof.Machine.execWrite256 h data s
  | .mwrite64 h enables data => Sys2Proof.Machine.execMwrite64 h enables data s
  | .fence h => Sys2Proof.Machine.execFence h s
  | .flush h => Sys2Proof.Machine.execFlush h s
  | .engine h desc => Sys2Proof.Machine.execEngine h desc s
  | .reservedOpcode h op => Sys2Proof.Machine.execReservedOpcode h op s
  | .requestDispatch => Sys2Proof.Machine.execRequestDispatch s
  | .fenceComplete id => Sys2Proof.Machine.execFenceComplete id s
  | .flushComplete id => Sys2Proof.Machine.execFlushComplete id s
  | .flowWindowEdge f => Sys2Proof.Machine.execFlowWindowEdge f s
  | .budgetRecompute => Sys2Proof.Machine.execBudgetRecompute s
  | .evaluationBoundary => Sys2Proof.Machine.execEvaluationBoundary s
  | .commandIssue c nowPs => Sys2Proof.Machine.execCommandIssue c nowPs s
  | .ageCapReached c entry nowPs => Sys2Proof.Machine.execAgeCapReached c entry nowPs s
  | .pageIdleClose c rank bank nowPs => Sys2Proof.Machine.execPageIdleClose c rank bank nowPs s
  | .lineIdleWriteback c line => Sys2Proof.Machine.execLineIdleWriteback c line s
  | .firstTouchFillDone page => Sys2Proof.Machine.execFirstTouchFillDone page s
  | .opTargetWrite via c data => Sys2Proof.Machine.execOpTargetWrite via c data s
  | .opDrainComplete c => Sys2Proof.Machine.execOpDrainComplete c s
  | .pllLock c => Sys2Proof.Machine.execPllLock c s
  | .pllLockTimeout c => Sys2Proof.Machine.execPllLockTimeout c s
  | .selfRefreshExitDone c => Sys2Proof.Machine.execSelfRefreshExitDone c s
  | .patternCheckDone c failing => Sys2Proof.Machine.execPatternCheckDone c failing s
  | .readDataReturn c errA errB => Sys2Proof.Machine.execReadDataReturn c errA errB s
  | .lullSlotStart t => Sys2Proof.Machine.execLullSlotStart t s
  | .lullReservationEnd t => Sys2Proof.Machine.execLullReservationEnd t s
  | .housekeepingConversion code value => Sys2Proof.Machine.execHousekeepingConversion code value s
  | .housekeepingRoundEnd => Sys2Proof.Machine.execHousekeepingRoundEnd s
  | .zephyrRead c => Sys2Proof.Machine.execZephyrRead c s
  | .zephyrConfigWrite via c data => Sys2Proof.Machine.execZephyrConfigWrite via c data s
  | .commitPointTimer c => Sys2Proof.Machine.execCommitPointTimer c s
  | .remapCommitWrite via c data => Sys2Proof.Machine.execRemapCommitWrite via c data s
  | .repairCommitDone c => Sys2Proof.Machine.execRepairCommitDone c s
  | .rowRepairDone c => Sys2Proof.Machine.execRowRepairDone c s
  | .nativeFillDone => Sys2Proof.Machine.execNativeFillDone s
  | .sprRetire via data => Sys2Proof.Machine.execSprRetire via data s
  | .migrationStart => Sys2Proof.Machine.execMigrationStart s
  | .migrationPointerAdvance => Sys2Proof.Machine.execMigrationPointerAdvance s
  | .rescueSurveyDone c eyes => Sys2Proof.Machine.execRescueSurveyDone c eyes s
  | .laneCheckDone c eyes spareEye centreErrors spareErrors => Sys2Proof.Machine.execLaneCheckDone c eyes spareEye centreErrors spareErrors s
  | .tsvCheckWrite via c data => Sys2Proof.Machine.execTsvCheckWrite via c data s
  | .laneSteerStart c => Sys2Proof.Machine.execLaneSteerStart c s
  | .laneSteerDone c => Sys2Proof.Machine.execLaneSteerDone c s
  | .commandParityAlert c cmd => Sys2Proof.Machine.execCommandParityAlert c cmd s
  | .clockAlert c rank => Sys2Proof.Machine.execClockAlert c rank s
  | .controlCheckDone c badLane => Sys2Proof.Machine.execControlCheckDone c badLane s
  | .engineDescriptorStart e => Sys2Proof.Machine.execEngineDescriptorStart e s
  | .checkUnitClaim e => Sys2Proof.Machine.execCheckUnitClaim e s
  | .engineLineRequest e ns => Sys2Proof.Machine.execEngineLineRequest e ns s
  | .engineDone e => Sys2Proof.Machine.execEngineDone e s
  | .engineReset via e data => Sys2Proof.Machine.execEngineReset via e data s
  | .contextWrite via u offset data => Sys2Proof.Machine.execContextWrite via u offset data s
  | .nonceRead via => Sys2Proof.Machine.execNonceRead via s
  | .sessionOpen via data => Sys2Proof.Machine.execSessionOpen via data s
  | .sessionClose via data => Sys2Proof.Machine.execSessionClose via data s
  | .wrapWordWrite via idx data => Sys2Proof.Machine.execWrapWordWrite via idx data s
  | .slotLoad via data => Sys2Proof.Machine.execSlotLoad via data s
  | .slotClear via data => Sys2Proof.Machine.execSlotClear via data s
  | .slotCommandDone => Sys2Proof.Machine.execSlotCommandDone s
  | .zeroise via data => Sys2Proof.Machine.execZeroise via data s
  | .zeroisationDone verified => Sys2Proof.Machine.execZeroisationDone verified s
  | .lcAdvance via data => Sys2Proof.Machine.execLcAdvance via data s
  | .testAccessRequest kind => Sys2Proof.Machine.execTestAccessRequest kind s
  | .testAccessEnd => Sys2Proof.Machine.execTestAccessEnd s
  | .deviceKeyDerived => Sys2Proof.Machine.execDeviceKeyDerived s
  | .imageStart via data => Sys2Proof.Machine.execImageStart via data s
  | .imageDataWrite via data => Sys2Proof.Machine.execImageDataWrite via data s
  | .imageReceiveTimeout => Sys2Proof.Machine.execImageReceiveTimeout s
  | .signatureVerified => Sys2Proof.Machine.execSignatureVerified s
  | .admissionDone => Sys2Proof.Machine.execAdmissionDone s
  | .imageCommit via data => Sys2Proof.Machine.execImageCommit via data s
  | .imageAbort via data => Sys2Proof.Machine.execImageAbort via data s
  | .imageSwitch => Sys2Proof.Machine.execImageSwitch s
  | .qspiBootLoad headerA headerB => Sys2Proof.Machine.execQspiBootLoad headerA headerB s
  | .faultEvent evs => Sys2Proof.Machine.execFaultEvent evs s
  | .settleEnd src inst => Sys2Proof.Machine.execSettleEnd src inst s
  | .faultRingWrite => Sys2Proof.Machine.execFaultRingWrite s
  | .firstFaultRearm via data => Sys2Proof.Machine.execFirstFaultRearm via data s
  | .aliveToggle => Sys2Proof.Machine.execAliveToggle s
  | .domainEnableWrite via d data => Sys2Proof.Machine.execDomainEnableWrite via d data s
  | .domainWakeStart d => Sys2Proof.Machine.execDomainWakeStart d s
  | .domainWakeDone d => Sys2Proof.Machine.execDomainWakeDone d s
  | .domainParkDone d => Sys2Proof.Machine.execDomainParkDone d s
  | .domainCycleWaitEnd d => Sys2Proof.Machine.execDomainCycleWaitEnd d s
  | .domainTimeout d => Sys2Proof.Machine.execDomainTimeout d s
  | .powerCapWrite via data => Sys2Proof.Machine.execPowerCapWrite via data s
  | .supplyHoldEntry dram core => Sys2Proof.Machine.execSupplyHoldEntry dram core s
  | .supplyHoldRelease us => Sys2Proof.Machine.execSupplyHoldRelease us s
  | .supplyLost => Sys2Proof.Machine.execSupplyLost s
  | .galeWritebackDone => Sys2Proof.Machine.execGaleWritebackDone s
  | .galePark => Sys2Proof.Machine.execGalePark s
  | .surveyRequest via c data => Sys2Proof.Machine.execSurveyRequest via c data s
  | .surveyStart c => Sys2Proof.Machine.execSurveyStart c s
  | .surveyDone c eyes spareEyes => Sys2Proof.Machine.execSurveyDone c eyes spareEyes s
  | .bistStart via c data => Sys2Proof.Machine.execBistStart via c data s
  | .bistBegin c => Sys2Proof.Machine.execBistBegin c s
  | .bistAbort via c data => Sys2Proof.Machine.execBistAbort via c data s
  | .bistDone c fails => Sys2Proof.Machine.execBistDone c fails s
  | .bistFillDone c => Sys2Proof.Machine.execBistFillDone c s
  | .bstResultRead via c => Sys2Proof.Machine.execBstResultRead via c s
  | .fuseRead via data => Sys2Proof.Machine.execFuseRead via data s
  | .fuseProgram via data => Sys2Proof.Machine.execFuseProgram via data s
  | .fuseSeal via data => Sys2Proof.Machine.execFuseSeal via data s
  | .fuseLock via data => Sys2Proof.Machine.execFuseLock via data s
  | .genSecret via data => Sys2Proof.Machine.execGenSecret via data s
  | .fusePulseDone hi lo => Sys2Proof.Machine.execFusePulseDone hi lo s
  | .fuseLoadComplete => Sys2Proof.Machine.execFuseLoadComplete s
  | .counterSelect via n data => Sys2Proof.Machine.execCounterSelect via n data s
  | .telemetryDump => Sys2Proof.Machine.execTelemetryDump s
  | .dumpRecordWritten => Sys2Proof.Machine.execDumpRecordWritten s
  | .logbookRecordWrite => Sys2Proof.Machine.execLogbookRecordWrite s
  | .logbookRotation => Sys2Proof.Machine.execLogbookRotation s
  | .logClearPages via data => Sys2Proof.Machine.execLogClearPages via data s
  | .logClearRing via data => Sys2Proof.Machine.execLogClearRing via data s
  | .logClearJournal via data => Sys2Proof.Machine.execLogClearJournal via data s
  | .logClearTraining via data => Sys2Proof.Machine.execLogClearTraining via data s
  | .logClearSparing via data => Sys2Proof.Machine.execLogClearSparing via data s
  | .logClearDone => Sys2Proof.Machine.execLogClearDone s
  | .logDataRead via => Sys2Proof.Machine.execLogDataRead via s
  | .powergoodRise => Sys2Proof.Machine.execPowergoodRise s
  | .powergoodFall => Sys2Proof.Machine.execPowergoodFall s
  | .resetNLow ns => Sys2Proof.Machine.execResetNLow ns s
  | .resetNRise => Sys2Proof.Machine.execResetNRise s
  | .coldResetCommand via data => Sys2Proof.Machine.execColdResetCommand via data s
  | .warmResetCommand via data => Sys2Proof.Machine.execWarmResetCommand via data s
  | .channelResetCommand via data => Sys2Proof.Machine.execChannelResetCommand via data s
  | .tierResetCommand via data => Sys2Proof.Machine.execTierResetCommand via data s
  | .warmQuiesceDone => Sys2Proof.Machine.execWarmQuiesceDone s
  | .warmHeldEnd => Sys2Proof.Machine.execWarmHeldEnd s
  | .channelResetDone c => Sys2Proof.Machine.execChannelResetDone c s
  | .tierResetDone t => Sys2Proof.Machine.execTierResetDone t s
  | .stackReady => Sys2Proof.Machine.execStackReady s
  | .refclkLoss => Sys2Proof.Machine.execRefclkLoss s
  | .refclkRestored => Sys2Proof.Machine.execRefclkRestored s
  | .testEnFall => Sys2Proof.Machine.execTestEnFall s
  | .glkDisableWrite via n data => Sys2Proof.Machine.execGlkDisableWrite via n data s
  | .qspiCopyReadDone words => Sys2Proof.Machine.execQspiCopyReadDone words s
  | .secPeerSigWrite via offset data => Sys2Proof.Machine.execSecPeerSigWrite via offset data s
  | .vddAonDrop => Sys2Proof.Machine.execVddAonDrop s

end Sys2Proof.Machine
end

