-- ==== Sys2Proof/WellFormed.lean ====
section
/-! DEFINITION. Which commands are well-formed: every number names a unit that the PX16-F layout has (R1, R41), every
length is one the spec allows. A command that is not well-formed names nothing; the block's answer to it is that nothing
happens, or REFUSED where the spec says so. -/

namespace Sys2Proof

/-- The path of a management access names a port. -/
def Via.wf (v : Via) : Bool := decide (v.port < 8)

/-- A descriptor names a port, a flow of 14 bits, a province of 10 bits and a time within the beat (R104). -/
def ReqHdr.wf (h : ReqHdr) : Bool :=
  decide (h.port < 8) && decide (h.flow < 16384) && decide (h.province < 1024) && decide (h.ns < 1000)

/-- A port has four lanes (R93). -/
def Arrival.wf (a : Arrival) : Bool := decide (a.lanes.length ≤ 4)

/-- The event is of a source of the fault table (R335). -/
def FaultEv.wf (e : FaultEv) : Bool := decide (e.src ≤ 0x42) && decide (e.inst < 16384)

def LaneEye.wf (e : LaneEye) : Bool := decide (e.lane < 94)

/-- The failing place lies in a channel's ranks, banks and lanes (R17, R78). -/
def BistFail.wf (f : BistFail) : Bool :=
  decide (f.rank < 5) && decide (f.bg < 8) && decide (f.bank < 4) && decide (f.row < 16384) && decide (f.column < 16) &&
  decide (f.lane < 94)

/-- A channel number. -/
def chanNo (c : Nat) : Bool := decide (c < 32)

/-- A port number. -/
def portNo (n : Nat) : Bool := decide (n < 8)

/-- The command is well-formed. -/
def Instr.wf : Instr → Bool
  | .registerWrite via _ _ | .readClear via _ | .snapshotRead via _ | .lowerWordWrite via _ _ | .multiWordCommit via _ _
  | .merSourceWrite via _ | .merArmWrite via _ | .sprRetire via _ | .nonceRead via | .sessionOpen via _
  | .sessionClose via _ | .slotLoad via _ | .slotClear via _ | .zeroise via _ | .lcAdvance via _ | .imageStart via _
  | .imageDataWrite via _ | .imageCommit via _ | .imageAbort via _ | .firstFaultRearm via _ | .powerCapWrite via _
  | .fuseRead via _ | .fuseProgram via _ | .fuseSeal via _ | .fuseLock via _ | .genSecret via _ | .logClearPages via _
  | .logClearRing via _ | .logClearJournal via _ | .logClearTraining via _ | .logClearSparing via _ | .logDataRead via
  | .coldResetCommand via _ | .warmResetCommand via _ | .channelResetCommand via _ | .tierResetCommand via _ => via.wf
  | .sidebandCommandPhase _ _ _ | .sidebandInterfaceReset | .gazetteerBuild | .beatEdge | .referenceLoss _
  | .phaseSlewComplete _ | .holdoverLimit | .requestDispatch | .fenceComplete _ | .flushComplete _ | .completionFormed _
  | .budgetRecompute | .evaluationBoundary | .housekeepingRoundEnd | .nativeFillDone | .migrationStart
  | .migrationPointerAdvance | .slotCommandDone | .zeroisationDone _ | .testAccessRequest _ | .testAccessEnd
  | .deviceKeyDerived | .imageReceiveTimeout | .signatureVerified | .admissionDone | .imageSwitch | .faultRingWrite
  | .aliveToggle | .supplyLost | .galeWritebackDone | .galePark | .fusePulseDone _ _ | .fuseLoadComplete | .telemetryDump
  | .dumpRecordWritten | .logbookRecordWrite | .logbookRotation | .logClearDone | .powergoodRise | .powergoodFall
  | .resetNLow _ | .resetNRise | .warmQuiesceDone | .warmHeldEnd | .stackReady | .refclkLoss | .refclkRestored
  | .testEnFall | .vddAonDrop => true
  | .sidebandResponsePhase groups => decide (0 < groups)
  | .referenceEdge _ widthNs _ => decide (0 < widthNs)
  | .provinceProbe via p _ => via.wf && decide (p < 1024)
  | .portDetectSignal n _ | .trainingComplete n _ | .trainingFail n | .trainingTimeout n | .recoveryEntry n _
  | .recoveryComplete n _ | .recoveryAttemptFail n | .nakReceive n _ | .ackReceive n _ | .beatMessage n _ _ _ _
  | .creditReturn n _ _ | .flitSlot n | .stackDownEnd n | .galeOrderedSetEnd n => portNo n
  | .trainFlitReceive n header head ident asks tail => portNo n && decide (header.extractLsb' 124 4 = 5) &&
    head.length = 2 && ident.length = 3 && asks.length = 2 && tail.length = 225
  | .glkRetrain via n _ | .glkPortReset via n _ | .glkDisableWrite via n _ => via.wf && portNo n
  | .flitReceive n a => portNo n && a.wf
  | .creditMessage n cls _ _ => portNo n && (cls = 2 || cls = 3)
  | .eventRecordSend q => decide (q < 64)
  | .read64 h | .read128 h | .read256 h | .write64 h _ | .write128 h _ | .write256 h _ | .mwrite64 h _ _ | .fence h
  | .flush h | .engine h _ => h.wf
  | .reservedOpcode h op => h.wf && decide (11 ≤ op.toNat)
  | .flowWindowEdge f => decide (f < 16384)
  | .lineIdleWriteback c _ | .readDataReturn c _ _ | .zephyrRead c => chanNo c.ch
  | .rowRepairDone c => chanNo c.ch
  | .commandIssue c _ | .ageCapReached c _ _ | .opDrainComplete c | .pllLock c
  | .pllLockTimeout c | .selfRefreshExitDone c | .patternCheckDone c _
  | .commitPointTimer c | .repairCommitDone c | .laneSteerStart c | .laneSteerDone c | .surveyStart c
  | .bistBegin c | .bistFillDone c | .channelResetDone c => chanNo c
  | .pageIdleClose c rank bank _ => chanNo c && decide (rank < 5) && decide (bank < 32)
  | .firstTouchFillDone page => decide (page < 2 ^ 24)
  | .opTargetWrite via c _ | .zephyrConfigWrite via c _ | .remapCommitWrite via c _ | .tsvCheckWrite via c _
  | .surveyRequest via c _ | .bistStart via c _ | .bistAbort via c _ | .bstResultRead via c => via.wf && chanNo c
  | .lullSlotStart t | .lullReservationEnd t | .tierResetDone t => decide (t < 20)
  | .housekeepingConversion code value => decide (code.toNat < 2 ^ 24) && decide (-(2 ^ 31) ≤ value) && decide (value < 2 ^ 31)
  | .rescueSurveyDone c eyes => chanNo c && eyes.lanes.all LaneEye.wf && eyes.spares.all LaneEye.wf
  | .laneCheckDone c eyes spareEye _ _ => chanNo c && eyes.all LaneEye.wf && spareEye.wf
  | .commandParityAlert c cmd => chanNo c && decide (cmd.rank < 5)
  | .clockAlert c rank => chanNo c && decide (rank < 5)
  | .controlCheckDone c bad => chanNo c && (match bad with | some l => decide (72 ≤ l) && decide (l < 86) | none => true)
  | .engineDescriptorStart e | .checkUnitClaim e | .engineDone e => decide (e < 4)
  | .engineLineRequest e ns => decide (e < 4) && decide (ns < 1000)
  | .engineReset via e _ => via.wf && decide (e < 4)
  | .contextWrite via u offset _ => via.wf && decide (u < 16) && decide (0x10 ≤ offset) && decide (offset ≤ 0x1D)
  | .wrapWordWrite via i _ => via.wf && decide (i < 24)
  | .qspiBootLoad a b => decide (a.length ≤ 16) && decide (b.length ≤ 16)
  | .faultEvent evs => evs.all FaultEv.wf
  | .settleEnd src inst => decide (src ≤ 0x42) && decide (inst < 16384)
  | .domainEnableWrite via d _ => via.wf && decide (d < 72)
  | .domainWakeStart d | .domainWakeDone d | .domainParkDone d | .domainCycleWaitEnd d | .domainTimeout d =>
    decide (d < 72)
  | .supplyHoldEntry dram core => dram || core
  | .supplyHoldRelease us => decide (us < 2 ^ 24)
  | .surveyDone c eyes spareEyes => chanNo c && eyes.all LaneEye.wf && spareEyes.all LaneEye.wf
  | .bistDone c fails => chanNo c && fails.all BistFail.wf
  | .counterSelect via n _ => via.wf && decide (n < 256)
  | .qspiCopyReadDone words => decide (words.length ≤ 2 ^ 24)
  | .secPeerSigWrite via offset _ => via.wf && decide (0x10 ≤ offset) && decide (offset < 0x50)

end Sys2Proof
end

