-- ==== Sys2Proof/Safety.lean ====
section
/-! DEFINITION. What the claims speak of: a safe step, the invariants of the block, the canonical form of the stored
lines, and when a management access is served. -/

namespace Sys2Proof.Machine

/-- Keys of a table strictly rise from `lo` on. -/
def keysFrom {α : Type} : Nat → Tbl α → Bool
  | _, [] => true
  | lo, (k, _) :: r => decide (lo ≤ k) && keysFrom (k + 1) r

/-- The canonical form of one rank's stored lines: keys strictly rise, and a filled rank lists no zero line, which is what
an unlisted line of it reads as. (What an unlisted line of an unfilled rank reads as is a free value, log 5.) -/
def RankMem.wf (m : RankMem) : Bool :=
  keysFrom 0 m.lines && (!m.filled || m.lines.all (fun e => decide (e.2 ≠ zeroWords)))

/-- The canonical form of all stored lines. -/
def Memory.wf (m : Tbl RankMem) : Bool := twf {} m && m.all (fun e => e.2.wf)

end Sys2Proof.Machine

namespace Sys2Proof.Safety

open Sys2Proof.Machine

/-- A step is safe when it answers a next state: the block neither faults nor lacks a meaning. -/
def StepSafe (s : State) : Prop := ∃ t, step s = .next t

/-- IRQ_N is low exactly while FLT_STATUS.irq and irq_en are set, and in Fatal (R350). -/
def IrqFollows (s : State) : Prop := s.pins.irqN = !(s.flt.fatal || (s.flt.irq && s.flt.irqEn))

/-- The block has power and the management access of `via` to offset `off` of unit `u` is served: the port's channel
carries it, it is the oldest that the port has received and not answered, with this data (0 in a read), none of its accesses
is held, and nothing judges it away (R29, R47, R117, R305, R309). -/
def Served (s : State) (via : Via) (write : Bool) (u : UnitId) (off : Nat) (data : Word) : Prop :=
  s.pins.pwrgood = true ∧ mgtLive s via.port = true ∧ mgtTurn s via write (addrOf u off) data = true ∧
    portHeld s via.port = false ∧ portAcc (gazTable s.variant).length s via.port write u off = .ok

/-- The commands that act while PWRGOOD is low: the pins of power, reset, clock and test (R448, R450, R472, R475, R480). -/
def actsUnpowered : Instr → Bool
  | .powergoodRise | .powergoodFall | .vddAonDrop | .resetNLow _ | .resetNRise | .refclkLoss | .refclkRestored
  | .testEnFall => true
  | _ => false

/-- The parts of the state: one name per field that a command may change. -/
inductive Part where
  | pins
  | elapsed | clock | gazBuilt | paths | heldAcc | sb | rst | mer | ports | reqs | flowRt | flw | queues | tables | img
  | probes | chans | mem | ecc | inkAll | ink | filling | tiers | rfr | spr | ranks | mig | tsv | trn | bst | bstNext
  | engs | pool | ctxs | chks | cip | slots | sec | flt | pwr | doms | hkp | fus | tel | log | freeIdx
  deriving DecidableEq, Repr

/-- Two states agree on a part (IRQ_N, which follows the fault part by R350, aside). -/
def agrees (s t : State) : Part → Prop
  | .pins => { t.pins with irqN := true } = { s.pins with irqN := true }
  | .elapsed => t.elapsed = s.elapsed
  | .clock => t.clock = s.clock
  | .gazBuilt => t.gazBuilt = s.gazBuilt
  | .paths => t.paths = s.paths
  | .heldAcc => t.heldAcc = s.heldAcc
  | .sb => t.sb = s.sb
  | .rst => t.rst = s.rst
  | .mer => t.mer = s.mer
  | .ports => t.ports = s.ports
  | .reqs => t.reqs = s.reqs
  | .flowRt => t.flowRt = s.flowRt
  | .flw => t.flw = s.flw
  | .queues => t.queues = s.queues
  | .tables => t.tables = s.tables
  | .img => t.img = s.img
  | .probes => t.probes = s.probes
  | .chans => t.chans = s.chans
  | .mem => t.mem = s.mem
  | .ecc => t.ecc = s.ecc
  | .inkAll => t.inkAll = s.inkAll
  | .ink => t.ink = s.ink
  | .filling => t.filling = s.filling
  | .tiers => t.tiers = s.tiers
  | .rfr => t.rfr = s.rfr
  | .spr => t.spr = s.spr
  | .ranks => t.ranks = s.ranks
  | .mig => t.mig = s.mig
  | .tsv => t.tsv = s.tsv
  | .trn => t.trn = s.trn
  | .bst => t.bst = s.bst
  | .bstNext => t.bstNext = s.bstNext
  | .engs => t.engs = s.engs
  | .pool => t.pool = s.pool
  | .ctxs => t.ctxs = s.ctxs
  | .chks => t.chks = s.chks
  | .cip => t.cip = s.cip
  | .slots => t.slots = s.slots
  | .sec => t.sec = s.sec
  | .flt => t.flt = s.flt
  | .pwr => t.pwr = s.pwr
  | .doms => t.doms = s.doms
  | .hkp => t.hkp = s.hkp
  | .fus => t.fus = s.fus
  | .tel => t.tel = s.tel
  | .log => t.log = s.log
  | .freeIdx => t.freeIdx = s.freeIdx

/-- Everything but the parts named stays as it was: the frame of a command. -/
def Keeps (changed : List Part) (s t : State) : Prop := ∀ p, p ∉ changed → agrees s t p

/-- The opcode, header, stream bytes, data (first line in the highest bits, as R106 sends it) and byte enables of a data
request. -/
def asks : Instr → Option (Op × ReqHdr × List Byte × BitVec 2048 × BitVec 64)
  | .read64 h => some (.read64, h, [], 0, 0)
  | .read128 h => some (.read128, h, [], 0, 0)
  | .read256 h => some (.read256, h, [], 0, 0)
  | .write64 h d => some (.write64, h, bytesOf 64 d.toNat, d ++ (0 : BitVec 1536), 0)
  | .write128 h d => some (.write128, h, bytesOf 128 d.toNat, d ++ (0 : BitVec 1024), 0)
  | .write256 h d => some (.write256, h, bytesOf 256 d.toNat, d, 0)
  | .mwrite64 h en d => some (.mwrite64, h, maskedBytes en d, d ++ (0 : BitVec 1536), en)
  | _ => none

/-- The port of `h` takes requests, and a request with this opcode, header and these stream bytes is the oldest that it has
received and not looked up (R105, R106, R117). -/
def Arrived (s : State) (op : Nat) (h : ReqHdr) (bytes : List Byte) : Prop :=
  s.pins.pwrgood = true ∧ takesReqs s h.port = true ∧ heads s op h bytes = true

/-- What a cold reset leaves of the state before it: fuses and the Logbook, and nothing of the tiers, the channels, the
requests or the time unit. -/
def ColdFrom (s t : State) (cause : BitVec 3) : Prop :=
  t.rst = { cause := cause, bootBist := s.pins.bistSel } ∧ t.mer = {} ∧ t.elapsed = 0 ∧ t.gazBuilt = false ∧
    t.reqs = [] ∧ t.heldAcc = [] ∧ t.chans = [] ∧ t.ecc = [] ∧ t.doms = [] ∧ t.flt = {} ∧ t.img = {} ∧ t.slots = [] ∧
    t.sec = {} ∧ t.engs = [] ∧ t.bst = [] ∧ (∀ k, (t.rmem k).lines = [] ∧ (t.rmem k).filled = false) ∧
    (s.fus.op = none → t.fus.array = s.fus.array) ∧ t.fus.loaded = false ∧
    (s.log.clearing = [] → t.log.mem = s.log.mem) ∧ t.log.commits = s.log.commits ∧ t.log.map = s.log.map ∧
    t.log.waitMap = [] ∧ t.log.waitJrn = [] ∧ t.pins.alive = none ∧ t.pins.thermtripN = true

/-- What the quiesce of a warm reset leaves: nothing that has not passed lookup, no test, no descriptor, no load. -/
def QuiescedFrom (s t : State) (cause : BitVec 3) : Prop :=
  t.rst.phase = .quiesce ∧ t.rst.cause = cause ∧ t.rst.warm = true ∧ t.rst.warmCount = sat s.rst.warmCount 1 ∧
    t.rst.trigger = s.elapsed ∧ (∀ n, n < 8 → (t.port n).rxq = []) ∧ t.bst = [] ∧ t.pool = {} ∧
    (s.img.phase ≠ .switching → t.img.phase = .idle) ∧ t.mem = s.mem ∧ t.mer = s.mer

end Sys2Proof.Safety
end

