-- ==== Sys2Proof/Certificates/Slice0/Obligations.lean ====
section
/-! DEFINITION. The statements about the model, each a `Prop`. -/

open Sys2Proof Sys2Proof.Machine Sys2Proof.Safety

/-! ### The queue, power and IRQ_N -/

/-- One step takes the command at the front of the queue and runs it with the queue's rest. On an empty queue the
block idles (the model's choice, log 14). -/
def Obligations.StepRunsFront : Prop :=
  (∀ (c : Instr) (rest : List Instr) (s : State),
    step { s with pending := c :: rest } = exec c { s with pending := rest }) ∧
  (∀ s : State, s.pending = [] → step s = .next s)

/-- No command ever stops the block: with a command waiting, a step answers a next state whose queue is the rest, and
the variant stays. -/
def Obligations.EveryCommandAnswers : Prop :=
  ∀ (c : Instr) (rest : List Instr) (s : State), s.pending = c :: rest →
    ∃ t, step s = .next t ∧ t.pending = rest ∧ t.variant = s.variant

/-- A queue of commands is worked off first in, first out, in as many steps as it has commands. -/
def Obligations.QueueWorkedOff : Prop :=
  ∀ (cs later : List Instr) (s : State), s.pending = cs ++ later →
    ∃ t, Host.Core.run Sys2Proof.core cs.length s = .next t ∧ t.pending = later ∧ t.variant = s.variant

/-- IRQ_N follows R350 through every step, whatever the state. -/
def Obligations.IrqInvariant : Prop :=
  ∀ s t : State, IrqFollows s → step s = .next t → IrqFollows t

/-- IRQ_N follows R350 after reset. -/
def Obligations.IrqAtReset : Prop :=
  IrqFollows State.reset

/-- While PWRGOOD is low, only the pins of power, reset, clock and test do anything (the model's choice, log 22). -/
def Obligations.UnpoweredNothing : Prop :=
  ∀ (c : Instr) (s : State), s.pins.pwrgood = false → actsUnpowered c = false → exec c s = .next s

/-! ### Register access (R8–R12, R120) -/

/-- A write of an RW register sets its fields and completes OK on the path it came from: CHN_CFG of channel c. A read
of an RC register returns the value and clears it: CHN_MAX_WAIT of channel c. A read of the low word of a value of
several words returns that word and takes the path's snapshot of the whole value: CHN_RD_BURSTS. -/
def Obligations.RegistersReadAndWritten : Prop :=
  (∀ (s : State) (via : Via) (c : Nat) (data : Word), c < 32 → Served s via true (.chn c) 0 data →
    exec (.registerWrite via (addrOf (.chn c) 0) data) s =
      .next (fin s (respond (s.setChan c { s.chan c with
          pageIdle := data.extractLsb' 18 6
          hitThresh := data.extractLsb' 14 4 }) via true (addrOf (.chn c) 0) .ok 0))) ∧
  (∀ (s : State) (via : Via) (c : Nat), c < 32 → Served s via false (.chn c) 4 0 → s.sec.gate = false →
    exec (.readClear via (addrOf (.chn c) 4)) s =
      .next (fin s (respond (s.setChan c { s.chan c with maxWait := 0 }) via false (addrOf (.chn c) 4) .ok
        (s.chan c).maxWait))) ∧
  (∀ (s : State) (via : Via) (c : Nat), c < 32 → Served s via false (.chn c) 0x10 0 → s.sec.gate = false →
    exec (.snapshotRead via (addrOf (.chn c) 0x10)) s =
      .next (fin s (respond (s.setPath via.port { s.path via.port with
          snap := [(s.chan c).rdBursts.extractLsb' 0 24, (s.chan c).rdBursts.extractLsb' 24 24,
            (s.chan c).rdBursts.extractLsb' 48 24] }) via false (addrOf (.chn c) 0x10) .ok
        ((s.chan c).rdBursts.extractLsb' 0 24)))) ∧
  (∀ (s : State) (via : Via) (c : Nat), c < 32 → Served s via false (.chn c) 0x11 0 → s.sec.gate = false →
    exec (.snapshotRead via (addrOf (.chn c) 0x11)) s =
      .next (fin s (respond s via false (addrOf (.chn c) 0x11) .ok ((s.path via.port).snap.getD 1 0))))

/-- A lower word is held on its path and changes nothing else; the highest word commits the whole value in one step, a
lower word not written since the last commit keeping its current value: MER_EPOCH_NEXT. -/
def Obligations.MultiWordWrites : Prop :=
  (∀ (s : State) (via : Via) (data : Word), Served s via true .mer 4 data →
    exec (.lowerWordWrite via (addrOf .mer 4) data) s =
      .next (fin s (respond (s.setPath via.port { s.path via.port with
          held := tput (s.path via.port).held 0x050004 data }) via true (addrOf .mer 4) .ok 0))) ∧
  (∀ (s : State) (via : Via) (data : Word), Served s via true .mer 5 data →
    exec (.multiWordCommit via (addrOf .mer 5) data) s =
      .next (fin s (respond ((s.setPath via.port { s.path via.port with
          held := (s.path via.port).held.filter (fun e => e.1 < 0x050004 || 0x050005 < e.1) }).setMer { s.mer with
            epochNext := data ++ ((tfind (s.path via.port).held 0x050004).getD (s.mer.epochNext.extractLsb' 0 24)) })
        via true (addrOf .mer 5) .ok 0)))

/-- An access that no unit answers completes REFUSED with data 0, and a write to the unit of a port that the variant
lacks ABSENT. -/
def Obligations.AccessesTurnedAway : Prop :=
  (∀ (s : State) (via : Via) (addr data : Word), s.pins.pwrgood = true → mgtLive s via.port = true →
    portHeld s via.port = false → unitAt addr.toNat = none →
    (mgtTurn s via true addr data = true →
      exec (.registerWrite via addr data) s = .next (fin s (respond s via true addr .refused 0))) ∧
    (mgtTurn s via false addr 0 = true →
      exec (.snapshotRead via addr) s = .next (fin s (respond s via false addr .refused 0)))) ∧
  (∀ (s : State) (via : Via) (n : Nat) (data : Word), s.pins.pwrgood = true → mgtLive s via.port = true →
    portHeld s via.port = false → mgtTurn s via true (addrOf (.glk n) 0) data = true → s.gazBuilt = true → n < 8 → portPresent s.variant n = false →
    exec (.registerWrite via (addrOf (.glk n) 0) data) s =
      .next (fin s (respond s via true (addrOf (.glk n) 0) .absent 0)))

/-- R36: until the Gazetteer is built every management access on any path, at any address, completes REFUSED with data
0 and does nothing else. (An access of a port completes in its turn: it is the oldest that the port has not answered.)
-/
def Obligations.BeforeGazetteer : Prop :=
  ∀ (s : State), s.pins.pwrgood = true → s.gazBuilt = false →
    (∀ (via : Via) (addr data : Word), mgtLive s via.port = true → portHeld s via.port = false →
      (mgtTurn s via true addr data = true →
        exec (.registerWrite via addr data) s = .next (fin s (respond s via true addr .refused 0)) ∧
        exec (.lowerWordWrite via addr data) s = .next (fin s (respond s via true addr .refused 0)) ∧
        exec (.multiWordCommit via addr data) s = .next (fin s (respond s via true addr .refused 0))) ∧
      (mgtTurn s via false addr 0 = true →
        exec (.readClear via addr) s = .next (fin s (respond s via false addr .refused 0)) ∧
        exec (.snapshotRead via addr) s = .next (fin s (respond s via false addr .refused 0)))) ∧
    (∀ (via : Via) (u : UnitId) (off : Nat) (data : Word) (f : State → Status × State)
        (g : State → Status × Word × State), mgtLive s via.port = true → portHeld s via.port = false →
      (mgtTurn s via true (addrOf u off) data = true →
        mgmtWrite s via u off data f = respond s via true (addrOf u off) .refused 0) ∧
      (mgtTurn s via false (addrOf u off) 0 = true →
        mgmtRead s via u off g = respond s via false (addrOf u off) .refused 0)) ∧
    ∀ addr : Nat, sbRead addr s = (.refused, 0, s)

/-! ### The sideband (R481, R482) -/

/-- The command phase stores the command; the response to a write is REFUSED in its first byte and 0 in its data; a
read that the subset serves returns status and data, high byte first; START and STOP out of turn drop the command. -/
def Obligations.SidebandPhases : Prop :=
  (∀ (s : State) (op : Byte) (addr data : Word), s.pins.pwrgood = true →
    exec (.sidebandCommandPhase op addr data) s =
      .next (fin s { s with sb := { s.sb with cmd := some (op, addr, data) } })) ∧
  (∀ (s : State) (addr data : Word), s.pins.pwrgood = true → s.sb.cmd = some (2, addr, data) →
    exec (.sidebandResponsePhase 1) s =
      .next (fin s { s with sb := { cmd := none, answered := [4, 0, 0, 0] } })) ∧
  (∀ (s : State) (addr data w : Word) (u : State), s.pins.pwrgood = true → s.sb.cmd = some (1, addr, data) →
    sbRead addr.toNat s = (.ok, w, u) →
    exec (.sidebandResponsePhase 1) s =
      .next (fin s { u with sb := { cmd := none, answered := [0, w.extractLsb' 16 8, w.extractLsb' 8 8, w.extractLsb' 0 8] } })) ∧
  (∀ s : State, s.pins.pwrgood = true → exec .sidebandInterfaceReset s = .next (fin s { s with sb := {} }))

/-! ### Beats and Meridian (R51–R60, R62) -/

/-- MER_COUNT advances by exactly 1 at every beat edge, unless an armed load is marked, which loads MER_EPOCH_NEXT,
records the value, sets aligned and clears arm. (No access is held; one that completes here acts as its own command
does.) -/
def Obligations.BeatEdgeCounts : Prop :=
  ∀ s : State, s.pins.pwrgood = true → s.heldAcc = [] →
    ∃ t, exec .beatEdge s = .next t ∧ t.elapsed = s.elapsed + 1 ∧ t.mer.src = s.mer.src ∧ t.mer.st = s.mer.st ∧
      ((s.mer.arm && s.mer.marked) = false → t.mer.count = s.mer.count + 1 ∧ t.mer.aligned = s.mer.aligned) ∧
      ((s.mer.arm && s.mer.marked) = true →
        t.mer.count = s.mer.epochNext ∧ t.mer.epochLoaded = s.mer.epochNext ∧ t.mer.aligned = true ∧ t.mer.arm = false)

/-- FREE goes to QUALIFY when a source is selected, the 1,024th good edge in a row locks the unit, an edge outside 1
µs ± 2 % restarts the count and counts a failure, and selecting no source returns to FREE with aligned clear. Loss of
the reference takes LOCKED to HOLDOVER, raises MERIDIAN_HOLDOVER and leaves aligned and the count; at 100,000 beats
without a reference aligned clears and the fault is forced to Fence; once the phase error is within ±4 ns a
requalified unit enters LOCKED. (What an edge writes into MER_PHASE is the model's reading, log 124.) -/
def Obligations.MeridianLocksAndHolds : Prop :=
  (∀ (s : State) (via : Via) (data : Word), Served s via true .mer 0 data → s.mer.st = .free → s.mer.src = 0 →
    data.extractLsb' 22 2 ≠ 0 → portPresent s.variant (data.extractLsb' 19 3).toNat = true → data.getLsbD 18 = false →
    exec (.merSourceWrite via data) s =
      .next (fin s (respond (s.setMer { s.mer with
        src := data.extractLsb' 22 2
        markPort := data.extractLsb' 19 3
        st := .qualify
        qualifying := false
        slewing := false
        good := 0
        missing := 0
        seen := false
        qualFails := 0
        marked := false
        arm := false }) via true (addrOf .mer 0) .ok 0))) ∧
  (∀ (s : State) (dev phase : Int) (width : Nat), s.pins.pwrgood = true → s.mer.st = .qualify → s.mer.src = 1 →
    s.mer.seen = true → s.mer.good < 1023 → -20 ≤ dev → dev ≤ 20 →
    exec (.referenceEdge dev width phase) s = .next (fin s (s.setMer { s.mer with good := s.mer.good + 1 }))) ∧
  (∀ (s : State) (dev phase : Int) (width : Nat), s.pins.pwrgood = true → s.mer.st = .qualify → s.mer.src = 1 →
    s.mer.seen = true → s.mer.aligned = false → s.mer.good = 1023 → -20 ≤ dev → dev ≤ 20 →
    exec (.referenceEdge dev width phase) s = .next (fin s (s.setMer { s.mer with
      st := .locked, qualifying := false, slewing := false, good := 0, missing := 0, fenced := false }))) ∧
  (∀ (s : State) (dev phase : Int) (width : Nat), s.pins.pwrgood = true → s.mer.st = .qualify → s.mer.src = 1 →
    s.mer.seen = true → (dev < -20 ∨ 20 < dev) →
    ∃ t, exec (.referenceEdge dev width phase) s = .next t ∧ t.mer.st = .qualify ∧ t.mer.good = 0 ∧
      t.mer.qualFails = sat s.mer.qualFails 1 ∧ t.mer.aligned = s.mer.aligned ∧ t.flt = s.flt) ∧
  (∀ (s : State) (via : Via) (data : Word), Served s via true .mer 0 data → s.mer.src ≠ 0 → data.extractLsb' 22 2 = 0 →
    portPresent s.variant (data.extractLsb' 19 3).toNat = true → data.getLsbD 18 = false →
    ∃ t, exec (.merSourceWrite via data) s = .next t ∧ t.mer.st = .free ∧ t.mer.aligned = false ∧ t.mer.src = 0 ∧
      t.mer.count = s.mer.count) ∧
  (∀ s : State, s.pins.pwrgood = true → s.mer.st = .locked →
    ∃ t, exec (.referenceLoss false) s = .next t ∧ t.mer.st = .holdover ∧ t.mer.lossBeats = 2 ∧
      t.mer.aligned = s.mer.aligned ∧ t.mer.count = s.mer.count ∧
      t.flt.detected = s.flt.detected ++ [{ src := 0x3B, inst := 0, detail := 0 }]) ∧
  (∀ s : State, s.pins.pwrgood = true → s.mer.st = .holdover → 100000 ≤ s.mer.lossBeats.toNat → s.mer.fenced = false →
    exec .holdoverLimit s =
      .next (fin s (raiseForced (s.setMer { s.mer with aligned := false, fenced := true }) 0x3B 0))) ∧
  (∀ (s : State) (phase : Int), s.pins.pwrgood = true → s.mer.st = .holdover → s.mer.slewing = true → -4 ≤ phase →
    phase ≤ 4 → ∃ t, exec (.phaseSlewComplete phase) s = .next t ∧ t.mer.st = .locked ∧ t.mer.aligned = s.mer.aligned ∧
      t.mer.count = s.mer.count)

/-- A load is armed by MER_CTRL.arm, which is refused while an image switch-over is pending, and cancelled by a write
of 0; an epoch marker on the reference, or in a BEAT message of the marker port, then marks the next beat edge. -/
def Obligations.EpochLoadArmed : Prop :=
  (∀ (s : State) (via : Via) (data : Word), Served s via true .mer 0 data → data.extractLsb' 22 2 = s.mer.src →
    data.extractLsb' 19 3 = s.mer.markPort → portPresent s.variant s.mer.markPort.toNat = true →
    data.getLsbD 18 = true →
    exec (.merArmWrite via data) s =
      .next (fin s (if s.img.phase = .scheduled ∨ s.img.phase = .switching
        then respond s via true (addrOf .mer 0) .refused 0
        else respond (s.setMer { s.mer with arm := true }) via true (addrOf .mer 0) .ok 0))) ∧
  (∀ (s : State) (via : Via) (data : Word), Served s via true .mer 0 data → data.extractLsb' 22 2 = s.mer.src →
    data.extractLsb' 19 3 = s.mer.markPort → portPresent s.variant s.mer.markPort.toNat = true →
    data.getLsbD 18 = false →
    exec (.merArmWrite via data) s =
      .next (fin s (respond (s.setMer { s.mer with arm := false, marked := false }) via true (addrOf .mer 0) .ok 0))) ∧
  (∀ (s : State) (dev phase : Int) (width : Nat), s.pins.pwrgood = true → s.mer.st = .locked → s.mer.src = 2 →
    s.mer.arm = true → -20 ≤ dev → dev ≤ 20 → 600 ≤ width → width ≤ 900 →
    exec (.referenceEdge dev width phase) s = .next (fin s (s.setMer { s.mer with missing := 0, marked := true }))) ∧
  (∀ (s : State) (n : Nat) (offset : BitVec 17) (dev phase : Int), s.pins.pwrgood = true → flitsFlow s n = true →
    s.mer.markPort.toNat = n → s.mer.src = 1 → s.mer.arm = true →
    ∃ t, exec (.beatMessage n true offset dev phase) s = .next t ∧ t.mer = { s.mer with marked := true } ∧
      (t.port n).markerOff = offset ∧ (t.port n).markSeen = true ∧ t.port n = { s.port n with
        markSeen := true, markerOff := offset })

/-- The Gazetteer is built once, in the fuse step; ALIVE toggles where the count is a multiple of 1,024, once per
edge, and holds its level in Fatal. -/
def Obligations.GazetteerAndAlive : Prop :=
  (∀ s : State, s.pins.pwrgood = true → s.rst.phase = .fuse → s.gazBuilt = false →
    exec .gazetteerBuild s = .next (fin s { s with gazBuilt := true })) ∧
  (∀ (s : State) (b : Bool), s.pins.pwrgood = true → s.mer.count.toNat % 1024 = 0 → s.gazBuilt = true →
    s.flt.fatal = false → s.pins.aliveAt ≠ some s.elapsed → s.pins.alive = some b →
    exec .aliveToggle s =
      .next (fin s { s with pins := { s.pins with alive := some (!b), aliveAt := some s.elapsed } })) ∧
  (∀ s : State, s.pins.pwrgood = true → s.flt.fatal = true → exec .aliveToggle s = .next (fin s s))

/-! ### Garublink ports (R93–R126) -/

/-- Signal on every lane of a pair takes a port from DETECT to TRAIN with its credits reset; a training that ends
without success, or whose train flit names another link version, returns it to DETECT at once and raises no fault; an
accepted train flit records what the adapter announces. A completed training takes the port to ACTIVE (DOWN after
Fatal) at four lanes or at two lanes of a pair, with sequence numbers at 0, empty buffers, a new stream of bits (log
133) and the initial grant; two lanes raise GLK_LANE_DEGRADE, and a bound port whose identity is not its bond's is
foreign and raises GLK_FOREIGN. -/
def Obligations.PortTraining : Prop :=
  (∀ (s : State) (n : Nat) (lanes : BitVec 4), s.pins.pwrgood = true → portPresent s.variant n = true →
    (s.port n).st = .detect →
    (lanes.getLsbD 0 = true ∧ lanes.getLsbD 1 = true ∨ lanes.getLsbD 2 = true ∧ lanes.getLsbD 3 = true) →
    exec (.portDetectSignal n lanes) s =
      .next (fin s (s.setPort n { (s.port n).quiet with
        signal := lanes
        st := .train
        identSeen := false
        versionOk := true
        descCredit := 0
        dataCredit := 0
        mgtInUse := 0
        mgtRspCr := 0
        evtCr := 0 }))) ∧
  (∀ (s : State) (n : Nat), s.pins.pwrgood = true → (s.port n).st = .train →
    exec (.trainingFail n) s = .next (fin s (s.setPort n { s.port n with
      st := .detect, width := 0, pair := false, inUse := 0 })) ∧
    exec (.trainingTimeout n) s = .next (fin s (s.setPort n { s.port n with
      st := .detect, width := 0, pair := false, inUse := 0 }))) ∧
  (∀ (s : State) (n : Nat) (header : BitVec 128) (head ident asks tail payload : List Byte), s.pins.pwrgood = true →
    portPresent s.variant n = true → (s.port n).st = .train → header.extractLsb' 124 4 = 5 →
    payload = head ++ ident ++ asks ++ tail →
    ((payByte payload 0).extractLsb' 4 4 = 1 →
      exec (.trainFlitReceive n header head ident asks tail) s = .next (fin s (s.setPort n { s.port n with
        identSeen := true
        versionOk := true
        hostSeen := payByte payload 2 ++ payByte payload 3 ++ payByte payload 4
        preset := (payByte payload 5).extractLsb' 0 4
        widthAsked := (payByte payload 6).toNat }))) ∧
    ((payByte payload 0).extractLsb' 4 4 ≠ 1 →
      ∃ t, exec (.trainFlitReceive n header head ident asks tail) s = .next t ∧ (t.port n).st = .detect ∧
        Keeps [.ports] s t ∧ ∀ m, m ≠ n → t.port m = s.port m)) ∧
  (∀ (s : State) (n : Nat) (lanesOk : BitVec 4) (w : BitVec 2) (pair : Bool), s.pins.pwrgood = true →
    portPresent s.variant n = true → (s.port n).st = .train → (s.port n).versionOk = true →
    (s.port n).identSeen = true →
    (w = 2 ∧ pair = false ∧ lanesOk = 0xF ∨
      w = 1 ∧ pair = false ∧ lanesOk ≠ 0xF ∧ lanesOk.extractLsb' 0 2 = 3 ∨
      w = 1 ∧ pair = true ∧ lanesOk.extractLsb' 0 2 ≠ 3 ∧ lanesOk.extractLsb' 2 2 = 3) →
    ∃ t, exec (.trainingComplete n lanesOk) s = .next t ∧
      t.port n = { (s.port n).quiet with
        st := if s.flt.fatal then .down else .active
        width := w
        pair := pair
        failed := ~~~lanesOk
        inUse := if w = 2 then 0xF else if pair then 0xC else 0x3
        foreign := foreignNow s n
        rxSeq := 0
        txSeq := 0
        rxAny := false
        descFree := 1024
        dataFree := 2048
        descCredit := if grantsFull s then 1024 else 0
        dataCredit := if grantsFull s then 2048 else 0
        ctrlOut := [.credit 0 (if grantsFull s then 1024 else 0) true, .credit 1 (if grantsFull s then 2048 else 0) true,
          .credit 2 64 true]
        ctrlGap := 31
        mgtGap := 142
        ackGap := 0 } ∧
      t.flt = { s.flt with detected := s.flt.detected
        ++ (if w = 1 ∧ s.flt.fatal = false then [{ src := 0x00, inst := n, detail := 0 }] else [])
        ++ (if foreignNow s n = true ∧ (bondOf s.tables n).isSome = true then [{ src := 0x04, inst := n, detail := 0 }]
          else []) } ∧
      t.flw.due = true ∧ Keeps [.ports, .flt, .flw] s t ∧ ∀ m, m ≠ n → t.port m = s.port m)

/-- RECOVERY is entered from ACTIVE or DOWN and counted; completed, the port carries flits again and replays from the
number after the last good one; the first failed attempt starts a second, and the second one makes the port FAILED and
raises GLK_FAIL. GLK_CTRL: retrain takes a running port to RECOVERY without raising an event, reset takes it to DETECT
with its status cleared and its counting registers kept, and disable takes it to OFF. -/
def Obligations.PortRecoveryAndControl : Prop :=
  (∀ (s : State) (n : Nat) (why : RetrainTrigger), s.pins.pwrgood = true → portPresent s.variant n = true →
    ((s.port n).st = .active ∨ (s.port n).st = .down) →
    exec (.recoveryEntry n why) s =
      .next (fin s (raise (budgetDue (s.setPort n { s.port n with
        signal := match why with | .signalLoss gone => (s.port n).signal &&& ~~~gone | _ => (s.port n).signal
        st := .recovery
        secondTry := false
        recoveries := sat (s.port n).recoveries 1
        nakSeq := none
        nakRun := 0
        identSeen := false
        versionOk := true })) 0x03 n))) ∧
  (∀ (s : State) (n : Nat), s.pins.pwrgood = true → portPresent s.variant n = true → (s.port n).st = .recovery →
    (s.port n).identSeen = true → foreignNow s n = false → s.flt.fatal = false →
    ∃ t, exec (.recoveryComplete n 0xF) s = .next t ∧
      t.port n = { s.port n with
        st := .active
        width := 2
        pair := false
        failed := 0
        inUse := 0xF
        foreign := false
        replayBuf := afterSeq (s.port n).replayBuf (s.port n).lastGood
        resend := afterSeq (s.port n).replayBuf (s.port n).lastGood
        resendNak := false
        nakDue := false
        discarding := false
        rxLanes := []
        rxBits := []
        txBits := []
        secondTry := false } ∧
      t.flw.due = true ∧ Keeps [.ports, .flw] s t ∧ ∀ m, m ≠ n → t.port m = s.port m) ∧
  (∀ (s : State) (n : Nat), s.pins.pwrgood = true → (s.port n).st = .recovery → (s.port n).secondTry = false →
    exec (.recoveryAttemptFail n) s =
      .next (fin s (s.setPort n { s.port n with secondTry := true, identSeen := false, versionOk := true }))) ∧
  (∀ (s : State) (n : Nat), s.pins.pwrgood = true → (s.port n).st = .recovery → (s.port n).secondTry = true →
    (s.port n).unsent = [] → (s.port n).ctrlOut = [] →
    ∃ t, exec (.recoveryAttemptFail n) s = .next t ∧ t.port n = { (s.port n).freeDescs.quiet.noLanes with
        st := .failed
        orderedSet := none } ∧ (t.path n).session = none ∧
      t.flt = { s.flt with detected := s.flt.detected ++ [{ src := 0x01, inst := n, detail := 0 }] } ∧
      t.flw.due = true ∧ Keeps [.ports, .paths, .heldAcc, .reqs, .flw, .flt, .queues] s t) ∧
  (∀ (s : State) (via : Via) (n : Nat), n < 8 → Served s via true (.glk n) 0 0x800000 → portPresent s.variant n = true →
    (s.port n).st = .active →
    ∃ t, exec (.glkRetrain via n 0x800000) s = .next t ∧ (t.port n).st = .recovery ∧ (t.port n).disable = false ∧
      (t.port n).recoveries = sat (s.port n).recoveries 1 ∧ t.flt = s.flt ∧ Keeps [.ports, .flw] s t ∧
      ∀ m, m ≠ n → m ≠ via.port → t.port m = s.port m) ∧
  (∀ (s : State) (via : Via) (n : Nat), n < 8 → Served s via true (.glk n) 0 0x400000 → domOn s (1 + n) = true →
    underLogic s 1 n = false →
    ∃ t, exec (.glkPortReset via n 0x400000) s = .next t ∧ (t.port n).st = .detect ∧ (t.port n).disable = false ∧
      (t.port n).failed = 0 ∧ (t.port n).hostSeen = 0 ∧ (t.port n).descCredit = 0 ∧ (t.port n).replayBuf = [] ∧
      (t.port n).recoveries = (s.port n).recoveries ∧ (t.port n).replays = (s.port n).replays ∧
      (t.port n).fecUncorr = (s.port n).fecUncorr ∧ (t.path n).session = none ∧
      Keeps [.ports, .paths, .heldAcc, .reqs, .flw, .flt, .mer, .queues] s t) ∧
  (∀ (s : State) (via : Via) (n : Nat), n < 8 → Served s via true (.glk n) 0 0x200000 →
    ∃ t, exec (.glkDisableWrite via n 0x200000) s = .next t ∧ (t.port n).st = .off ∧ (t.port n).disable = true ∧
      Keeps [.ports, .paths, .heldAcc, .reqs, .flw, .flt, .queues] s t)

/-- The symbols that the lanes carried are decoded into flits (`u` is the port after that). A flit that fails its
check is discarded with a NAK due, unless it is a later one of a stream already NAKed (the model's reading, log 135);
an IDLE flit changes nothing; a REQ flit within the credits granted queues its descriptors with the bytes that follow
and consumes their credits, and one beyond them queues nothing and is a protocol error; an MGT flit queues its
request; a CTRL flit grants the credits of its message (the row of one message by itself: log 114). -/
def Obligations.FlitReceived : Prop :=
  (∀ (s u : State) (n : Nat) (a : Arrival) (f : RxFlit) (rest : List (Bool × Bool)), s.pins.pwrgood = true →
    flitsFlow s n = true → u = receiveLanes s n a.lanes → takeFlit (u.port n).rxBits = some (f, rest) →
    (f.bad = true ∨ f.passes (u.port n).rxSeq = false) →
    exec (.flitReceive n a) s = .next (fin s (u.setPort n (
      if (u.port n).discarding = true ∧ f.bad = false ∧ laterFlit (u.port n) f = true
      then { u.port n with rxBits := rest }
      else { u.port n with rxBits := rest, nakDue := true, discarding := true })))) ∧
  (∀ (s u : State) (n : Nat) (a : Arrival) (f : RxFlit) (rest : List (Bool × Bool)), s.pins.pwrgood = true →
    flitsFlow s n = true → u = receiveLanes s n a.lanes → takeFlit (u.port n).rxBits = some (f, rest) →
    f.bad = false → f.passes (u.port n).rxSeq = true → f.header.extractLsb' 124 4 = 0 →
    exec (.flitReceive n a) s = .next (fin s (u.setPort n { u.port n with rxBits := rest }))) ∧
  (∀ (s u : State) (n : Nat) (a : Arrival), s.pins.pwrgood = true → flitsFlow s n = true →
    u = receiveLanes s n a.lanes → takeFlit (u.port n).rxBits = none →
    exec (.flitReceive n a) s = .next (fin s u)) ∧
  (∀ (s u : State) (n : Nat) (a : Arrival) (f : RxFlit) (rest : List (Bool × Bool)) (ds : List RxDesc),
    s.pins.pwrgood = true → flitsFlow s n = true → u = receiveLanes s n a.lanes →
    takeFlit (u.port n).rxBits = some (f, rest) → f.bad = false → f.passes (u.port n).rxSeq = true →
    (s.port n).st = .active → f.header.extractLsb' 124 4 = 1 →
    ds = [{ flow := (f.header.extractLsb' 110 14).toNat, province := (f.header.extractLsb' 100 10).toNat,
            op := f.header.extractLsb' 96 4, tag := f.header.extractLsb' 84 12, line := f.header.extractLsb' 54 30 },
          { flow := (f.header.extractLsb' 110 14).toNat, province := (f.header.extractLsb' 100 10).toNat,
            op := f.header.extractLsb' 46 4, tag := f.header.extractLsb' 34 12, line := f.header.extractLsb' 4 30 }] →
    f.header.extractLsb' 96 4 ≠ 0 → f.header.extractLsb' 46 4 ≠ 0 →
    2 ≤ (u.port n).descCredit → descCreditsOf ds ≤ (u.port n).dataCredit →
    ∃ t, exec (.flitReceive n a) s = .next t ∧
      t.port n = { u.port n with
        rxBits := rest
        rxSeq := (u.port n).rxSeq + 1
        rxAny := true
        ackGap := (u.port n).ackGap + 1
        discarding := false
        nakDue := false
        rxq := giveBytes ((u.port n).rxq ++ ds) f.payload
        descFree := (u.port n).descFree - 2
        dataFree := (u.port n).dataFree - descCreditsOf ds
        descCredit := (u.port n).descCredit - 2
        dataCredit := (u.port n).dataCredit - descCreditsOf ds } ∧
      Keeps [.ports, .tel] s t ∧ ∀ m, m ≠ n → t.port m = s.port m) ∧
  (∀ (s u : State) (n : Nat) (a : Arrival) (f : RxFlit) (rest : List (Bool × Bool)), s.pins.pwrgood = true →
    flitsFlow s n = true → u = receiveLanes s n a.lanes → takeFlit (u.port n).rxBits = some (f, rest) →
    f.bad = false → f.passes (u.port n).rxSeq = true → (s.port n).st = .active → f.header.extractLsb' 124 4 = 1 →
    f.header.extractLsb' 96 4 ≠ 0 → f.header.extractLsb' 46 4 ≠ 0 → (u.port n).descCredit < 2 →
    ∃ t, exec (.flitReceive n a) s = .next t ∧ (t.port n).rxq = (s.port n).rxq ∧
      t.flt = { s.flt with detected := s.flt.detected ++ [{ src := 0x02, inst := n, detail := 0 }] } ∧
      Keeps [.ports, .tel, .flt] s t) ∧
  (∀ (s u : State) (n : Nat) (a : Arrival) (f : RxFlit) (rest : List (Bool × Bool)) (m : BitVec 64),
    s.pins.pwrgood = true → flitsFlow s n = true → u = receiveLanes s n a.lanes →
    takeFlit (u.port n).rxBits = some (f, rest) → f.bad = false → f.passes (u.port n).rxSeq = true →
    f.header.extractLsb' 124 4 = 4 → messagesOf f.payload = m :: List.replicate 28 0 → m.extractLsb' 60 4 = 2 →
    (u.port n).mgtInUse < 64 →
    ∃ t, exec (.flitReceive n a) s = .next t ∧ (t.port n).mgtIn = (s.port n).mgtIn ++
        [{ write := true, tag := m.extractLsb' 52 8, addr := m.extractLsb' 24 24, data := m.extractLsb' 0 24 }] ∧
      (t.port n).mgtInUse = (s.port n).mgtInUse + 1 ∧ (t.port n).rxSeq = (s.port n).rxSeq + 1 ∧
      Keeps [.ports, .tel] s t ∧ ∀ m, m ≠ n → t.port m = s.port m) ∧
  (∀ (s u : State) (n : Nat) (a : Arrival) (f : RxFlit) (rest : List (Bool × Bool)) (m : BitVec 64),
    s.pins.pwrgood = true → flitsFlow s n = true → u = receiveLanes s n a.lanes →
    takeFlit (u.port n).rxBits = some (f, rest) → f.bad = false → f.passes (u.port n).rxSeq = true →
    f.header.extractLsb' 124 4 = 3 → f.header.getLsbD 123 = false → f.header.getLsbD 110 = false →
    messagesOf f.payload = m :: List.replicate 28 0 → m.extractLsb' 56 8 = 1 → m.extractLsb' 52 4 = 3 →
    m.getLsbD 35 = false →
    ∃ t, exec (.flitReceive n a) s = .next t ∧
      (t.port n).evtCr = (s.port n).evtCr + (m.extractLsb' 36 16).toNat ∧ (t.port n).rxSeq = (s.port n).rxSeq + 1 ∧
      (t.port n).replayBuf = (s.port n).replayBuf ∧ Keeps [.ports, .tel] s t)

/-- An ACK, by itself or in a CTRL flit (log 114), takes the flits up to its number out of the replay buffer; a NAK
starts a resend from its number, the fourth in a row for one number starts RECOVERY, and so does one for a number
outside the buffer, which also raises GLK_PROTOCOL. A CREDIT message adds to the credits for MGT responses or EVT
records (init sets them); REQ credits return as buffers free, never more than the pools hold. -/
def Obligations.ReplayAndCredits : Prop :=
  (∀ (s : State) (n : Nat) (seq : BitVec 12) (old later : List (BitVec 12 × TxFlit)) (x : TxFlit),
    s.pins.pwrgood = true → flitsFlow s n = true → (s.port n).replayBuf = old ++ (seq, x) :: later →
    (∀ e ∈ old, e.1 ≠ seq) → (s.port n).resend = [] →
    exec (.ackReceive n seq) s = .next (fin s (s.setPort n { s.port n with replayBuf := later }))) ∧
  (∀ (s : State) (n : Nat) (seq : BitVec 12) (old later : List (BitVec 12 × TxFlit)) (x : TxFlit),
    s.pins.pwrgood = true → flitsFlow s n = true → (s.port n).replayBuf = old ++ (seq, x) :: later →
    (∀ e ∈ old, e.1 ≠ seq) → (s.port n).nakSeq ≠ some seq →
    exec (.nakReceive n seq) s = .next (fin s (s.setPort n { s.port n with
      nakSeq := some seq
      nakRun := 1
      resend := (seq, x) :: later
      resendNak := true }))) ∧
  (∀ (s : State) (n : Nat) (seq : BitVec 12), s.pins.pwrgood = true → flitsFlow s n = true →
    (∃ e ∈ (s.port n).replayBuf, e.1 = seq) → (s.port n).nakSeq = some seq → (s.port n).nakRun = 3 →
    ∃ t, exec (.nakReceive n seq) s = .next t ∧ (t.port n).st = .recovery ∧
      (t.port n).recoveries = sat (s.port n).recoveries 1 ∧ (t.port n).replayBuf = (s.port n).replayBuf ∧
      t.flt = { s.flt with detected := s.flt.detected ++ [{ src := 0x03, inst := n, detail := 0 }] } ∧
      Keeps [.ports, .flw, .flt] s t ∧ ∀ m, m ≠ n → t.port m = s.port m) ∧
  (∀ (s : State) (n : Nat) (seq : BitVec 12), s.pins.pwrgood = true → flitsFlow s n = true →
    (∀ e ∈ (s.port n).replayBuf, e.1 ≠ seq) →
    ∃ t, exec (.nakReceive n seq) s = .next t ∧ (t.port n).st = .recovery ∧
      t.flt = { s.flt with detected := s.flt.detected ++
        [{ src := 0x02, inst := n, detail := 0 }, { src := 0x03, inst := n, detail := 0 }] } ∧
      Keeps [.ports, .flw, .flt] s t ∧ ∀ m, m ≠ n → t.port m = s.port m) ∧
  (∀ (s : State) (n : Nat) (count : BitVec 16) (init : Bool), s.pins.pwrgood = true → flitsFlow s n = true →
    exec (.creditMessage n 2 count init) s = .next (fin s (s.setPort n { s.port n with
      mgtRspCr := (if init then 0 else (s.port n).mgtRspCr) + count.toNat })) ∧
    exec (.creditMessage n 3 count init) s = .next (fin s (s.setPort n { s.port n with
      evtCr := (if init then 0 else (s.port n).evtCr) + count.toNat }))) ∧
  (∀ (s : State) (n descs datas d u k : Nat), s.pins.pwrgood = true → portPresent s.variant n = true →
    (s.port n).st = .active → grantsFull s = true → s.pwr.hold = false → 64 ≤ s.pwr.kp.toNat →
    takeReads (s.port n).freed (min descs (1024 - (s.port n).descCredit)) (2 ^ 24) = (d, u) →
    k = min (min datas ((s.port n).dataFree - (s.port n).dataCredit)) (2 ^ 24) →
    exec (.creditReturn n descs datas) s = .next (fin s (s.setPort n { s.port n with
      freed := (s.port n).freed.drop d
      retRead := (s.port n).retRead + u
      retWrite := (s.port n).retWrite + k
      descCredit := (s.port n).descCredit + d
      dataCredit := (s.port n).dataCredit + k
      ctrlOut := (s.port n).ctrlOut ++ (if d = 0 then [] else [.credit 0 d false]) ++
        (if k = 0 then [] else [.credit 1 k false]) }))) ∧
  (∀ (s : State) (n descs datas : Nat), s.pins.pwrgood = true → (s.pwr.hold = true ∨ grantsFull s = false) →
    exec (.creditReturn n descs datas) s = .next (fin s s))

/-- A transmit slot sends a replay first, into which a due NAK breaks (the model's reading, log 116); with nothing to
replay it sends a due NAK, and where nothing waits an IDLE flit, which takes no sequence number; in TRAIN it sends a
TRAIN flit (its preset is free; its CRC prefix is the model's reading, log 138). Each flit goes out as its 256 bytes,
and a full pair of codewords goes to the lanes in use. An event record leaves its queue in order, as two messages on a
port of the queue's bond, against one EVT credit. -/
def Obligations.TransmitSlot : Prop :=
  (∀ (s : State) (n : Nat) (e : BitVec 12 × TxFlit) (r : List (BitVec 12 × TxFlit)) (b : List Bool),
    s.pins.pwrgood = true → flitsFlow s n = true → (s.port n).resend = e :: r → (s.port n).resendNak = false →
    (s.port n).nakDue = false → (s.port n).ackGap < 96 → e.2.isCtrl = false → e.2.isMgt = false →
    b = (s.port n).txBits ++ bitsOf (e.2.bytes e.1) →
    exec (.flitSlot n) s = .next (fin s (s.setPort n { s.port n with
      resend := r
      sent := some e.2
      txBits := if 10280 ≤ b.length then b.drop 10280 else b
      txLanes := if 10280 ≤ b.length then encodePair (lanesOn (s.port n).width) (b.take 10280) else (s.port n).txLanes
      ctrlGap := (s.port n).ctrlGap + 1
      mgtGap := (s.port n).mgtGap + 1 }))) ∧
  (∀ (s : State) (n : Nat), s.pins.pwrgood = true → flitsFlow s n = true →
    (s.port n).replayBuf.length < 512 → (s.port n).nakDue = true →
    ∃ t f, exec (.flitSlot n) s = .next t ∧ (t.port n).sent = some f ∧
      f = .ctrl (if (s.port n).rxAny then some ((s.port n).rxSeq - 1) else none) (some (s.port n).rxSeq)
        (((s.port n).ctrlOut ++ mgtCredit (s.port n)).take
          (ctrlTake 29 ((s.port n).ctrlOut ++ mgtCredit (s.port n)))) ∧
      (t.port n).nakDue = false ∧ (t.port n).ackGap = 0 ∧ (t.port n).txSeq = (s.port n).txSeq + 1 ∧
      (t.port n).replayBuf = (s.port n).replayBuf ++ [((s.port n).txSeq, f)] ∧ Keeps [.ports] s t ∧
      ∀ m, m ≠ n → t.port m = s.port m) ∧
  (∀ (s : State) (n : Nat) (b : List Bool), s.pins.pwrgood = true → flitsFlow s n = true → (s.port n).resend = [] →
    (s.port n).nakDue = false → (s.port n).ctrlOut = [] → (s.port n).ackGap = 0 →
    (s.port n).mgtInUse ≤ (s.port n).mgtIn.length → (s.port n).mgtOut = [] → (s.port n).cmpOut = [] →
    (s.port n).cmpPart = none →
    b = (s.port n).txBits ++ bitsOf (TxFlit.idle.bytes (s.port n).txSeq) →
    exec (.flitSlot n) s = .next (fin s (s.setPort n { s.port n with
      sent := some .idle
      txBits := if 10280 ≤ b.length then b.drop 10280 else b
      txLanes := if 10280 ≤ b.length then encodePair (lanesOn (s.port n).width) (b.take 10280) else (s.port n).txLanes
      ctrlGap := (s.port n).ctrlGap + 1
      mgtGap := (s.port n).mgtGap + 1 }))) ∧
  (∀ (s : State) (n : Nat), s.pins.pwrgood = true → portPresent s.variant n = true → (s.port n).st = .train →
    ∃ t preset width, exec (.flitSlot n) s = .next t ∧ (t.port n).sent = some (.train n preset width 0) ∧
      (t.port n).txSeq = (s.port n).txSeq ∧ (t.port n).replayBuf = (s.port n).replayBuf ∧
      Keeps [.ports, .freeIdx] s t ∧ ∀ m, m ≠ n → t.port m = s.port m) ∧
  (∀ (s : State) (q n : Nat) (r : BitVec 128) (rest : List (BitVec 128)), s.pins.pwrgood = true →
    (s.evq q).recs = r :: rest → (queueCfg s q).valid = true →
    (bondPorts (queueCfg s q).bondFirst.toNat (queueCfg s q).bondLog2.toNat).find? (fun m => flitsFlow s m) = some n →
    0 < (s.port n).evtCr →
    exec (.eventRecordSend q) s =
      .next (fin s ((s.setEvq q { s.evq q with recs := rest }).setPort n { s.port n with
        evtCr := (s.port n).evtCr - 1
        ctrlOut := (s.port n).ctrlOut ++ [.event q r] })))

/-- Stack-down signalling ends in DETECT, except that Gale's ends with the port OFF and its domain parked. -/
def Obligations.StackDownSignalling : Prop :=
  (∀ (s : State) (n : Nat), s.pins.pwrgood = true → (s.port n).st = .signalDown → (s.port n).orderedSet = some false →
    (s.port n).disable = false → domOn s (1 + n) = true → underLogic s 1 n = false →
    exec (.stackDownEnd n) s = .next (fin s (s.setPort n { s.port n with
      st := .detect, width := 0, pair := false, inUse := 0, orderedSet := none }))) ∧
  (∀ (s : State) (n : Nat), s.pins.pwrgood = true → (s.port n).st = .signalDown → (s.port n).orderedSet = some true →
    domPresent s.variant (1 + n) = true → domOn s (1 + n) = true →
    ∃ t, exec (.galeOrderedSetEnd n) s = .next t ∧ (t.port n).st = .off ∧ (t.dom (1 + n)).st = .off ∧
      Keeps [.ports, .paths, .heldAcc, .reqs, .flw, .flt, .doms, .queues] s t)

/-- R149: a record posted to a full queue is discarded, counted in the queue's lost count, which saturates at 31, and
in FLW_EQ_STATUS.lost, and detected as FLW_EQ_LOST once; the next record that enters carries the lost count, which
returns to 0; warm reset empties every queue. -/
def Obligations.EventQueueFull : Prop :=
  (∀ (s : State) (q ty flow : Nat) (irq : Bool) (detail : BitVec 40), 256 ≤ (s.evq q).recs.length →
    ∃ t, pushRecord s q ty flow irq detail = t ∧ (t.evq q).recs = (s.evq q).recs ∧
      (t.evq q).lostNow.toNat = min 31 ((s.evq q).lostNow.toNat + 1) ∧ (t.evq q).lost = sat (s.evq q).lost 1 ∧
      t.flt = { s.flt with detected := s.flt.detected ++ [{ src := 0x3A, inst := q, detail := 0 }] } ∧
      Keeps [.queues, .flt] s t) ∧
  (∀ (s : State) (q ty flow : Nat) (irq : Bool) (detail : BitVec 40), (s.evq q).recs.length < 256 →
    ∃ t r, pushRecord s q ty flow irq detail = t ∧ (t.evq q).recs = (s.evq q).recs ++ [r] ∧
      r.extractLsb' 80 5 = (s.evq q).lostNow ∧ (t.evq q).lostNow = 0 ∧ (t.evq q).lost = (s.evq q).lost ∧
      Keeps [.queues] s t) ∧
  (∀ (s : State) (q : Nat), s.pins.pwrgood = true → s.rst.phase = .quiesce → quiesceOver s = true →
    ∃ t, exec .warmQuiesceDone s = .next t ∧ (t.evq q).recs = [])

/-! ### Flow lookup and the data path (R76, R105, R129–R135, R161, R169–R177, R230–R232) -/

/-- A data request that passes every check of lookup is charged its units and waits for dispatch, with the DPA of its
province offset and with the province's cipher marking. What lookup answers, the first of ABSENT, REFUSED, FENCED,
OUT_OF_BUDGET that applies (the request is the oldest of its port, log 137): a flow that is not valid, not owned by
the port's bond or not permitted the province, a range that leaves the province, a misaligned offset, a spare province
and a write without permission are REFUSED; in Fatal what is not REFUSED is FENCED; a charge beyond the ceiling is
OUT_OF_BUDGET. -/
def Obligations.LookupJudges : Prop :=
  (∀ (s : State) (c : Instr) (op : Op) (h : ReqHdr) (bytes : List Byte) (data : BitVec 2048) (en : BitVec 64),
    asks c = some (op, h, bytes, data, en) → Arrived s op.code h bytes →
    lookupStatus s op (some h.port) h.flow h.province (h.line.toNat * 64) = .ok →
    ∃ t r, exec c s = .next t ∧ t.reqs = s.reqs ++ [r] ∧ r.id = s.flw.nextId ∧ t.flw.nextId = s.flw.nextId + 1 ∧
      r.port = h.port ∧ r.flow = h.flow ∧ r.province = h.province ∧ r.tag = h.tag ∧ r.op = op ∧ r.data = data ∧
      r.enables = en ∧ r.dpa = (provCfg s h.province).base.toNat * 2 ^ 26 + h.line.toNat * 64 ∧
      r.enc = (provCfg s h.province).enc ∧ r.stage = .waiting ∧ r.status = .ok ∧ r.units = op.units ∧
      r.linesDue = op.lines ∧ r.eng = none ∧
      (t.flowR h.flow).charged = sat (s.flowR h.flow).charged op.units ∧
      (∀ f, f ≠ h.flow → t.flowR f = s.flowR f) ∧ Keeps [.clock, .ports, .reqs, .flw, .flowRt, .tel] s t) ∧
  (∀ (s : State) (op : Op) (n flow prov off : Nat), op.isRead = true ∨ op.isWrite = true →
    ((flowCfg s flow).valid = false ∨ portOwns s n (flowCfg s flow) = false ∨
      (flowCfg s flow).provs.getLsbD prov = false ∨ (provCfg s prov).valid = false ∨ (provCfg s prov).enabled = false ∨
      (provCfg s prov).count.toNat * 2 ^ 26 < off + 64 * op.lines ∨ off % op.align ≠ 0 ∨ (provCfg s prov).kind = 1 ∨
      (op.isWrite = true ∧ ((provCfg s prov).kind = 2 ∨ (provCfg s prov).writable = false))) →
    lookupStatus s op (some n) flow prov off = .refused) ∧
  (∀ (s : State) (op : Op) (n flow prov off : Nat), s.flt.fatal = true ∨ s.sec.lc = 3 → op ≠ .engine →
    lookupStatus s op (some n) flow prov off = .refused ∨ lookupStatus s op (some n) flow prov off = .fenced) ∧
  (∀ (s : State) (op : Op) (n flow prov off : Nat), op.isRead = true ∨ op.isWrite = true → s.flt.fatal = false →
    s.sec.lc ≠ 3 → (flowCfg s flow).valid = true → portOwns s n (flowCfg s flow) = true →
    (flowCfg s flow).provs.getLsbD prov = true → provJudge s prov off (64 * op.lines) op.align op.isWrite = .ok →
    (provCfg s prov).enc = false →
    lookupStatus s op (some n) flow prov off =
      if chargePasses (flowCfg s flow) (s.flowR flow) op.units then .ok else .outOfBudget)

/-- A data request that lookup turns away is not charged: its completion can be formed at once, with that status and
no lines, and OUT_OF_BUDGET is counted on its flow. -/
def Obligations.RequestsTurnedAway : Prop :=
  ∀ (s : State) (c : Instr) (op : Op) (h : ReqHdr) (bytes : List Byte) (data : BitVec 2048) (en : BitVec 64),
    asks c = some (op, h, bytes, data, en) → Arrived s op.code h bytes →
    lookupStatus s op (some h.port) h.flow h.province (h.line.toNat * 64) ≠ .ok →
    ∃ t r, exec c s = .next t ∧ t.reqs = s.reqs ++ [r] ∧ r.id = s.flw.nextId ∧ r.tag = h.tag ∧ r.port = h.port ∧
      r.stage = .done ∧ r.status = lookupStatus s op (some h.port) h.flow h.province (h.line.toNat * 64) ∧
      r.units = 0 ∧ r.linesDue = 0 ∧ (t.flowR h.flow).charged = (s.flowR h.flow).charged ∧
      (t.flowR h.flow).oobCount = (if r.status = .outOfBudget then sat (s.flowR h.flow).oobCount 1
        else (s.flowR h.flow).oobCount) ∧ Keeps [.clock, .ports, .reqs, .flw, .flowRt, .tel] s t

/-- A reserved opcode completes REFUSED; a FENCE of a valid flow waits and completes once no earlier host request of
its flow is left; a FLUSH with nothing dirty waits only for what it awaits, and completes when that is nothing. -/
def Obligations.FenceFlushReserved : Prop :=
  (∀ (s : State) (h : ReqHdr) (op : BitVec 4), 11 ≤ op.toNat → Arrived s op.toNat h [] →
    ∃ t r, exec (.reservedOpcode h op) s = .next t ∧ t.reqs = s.reqs ++ [r] ∧ r.stage = .done ∧ r.status = .refused ∧
      r.tag = h.tag ∧ Keeps [.clock, .ports, .reqs, .flw, .flowRt, .tel] s t) ∧
  (∀ (s : State) (h : ReqHdr), Arrived s 8 h [] → s.flt.fatal = false → s.sec.lc ≠ 3 →
    (flowCfg s h.flow).valid = true → portOwns s h.port (flowCfg s h.flow) = true →
    ∃ t r, exec (.fence h) s = .next t ∧ t.reqs = s.reqs ++ [r] ∧ r.id = s.flw.nextId ∧ r.op = .fence ∧
      r.stage = .waiting ∧ r.status = .ok ∧ r.units = 0 ∧ (t.flowR h.flow).charged = (s.flowR h.flow).charged ∧
      Keeps [.clock, .ports, .reqs, .flw, .flowRt, .tel] s t) ∧
  (∀ (s : State) (h : ReqHdr), Arrived s 9 h [] → s.flt.fatal = false → s.sec.lc ≠ 3 →
    (flowCfg s h.flow).valid = true → portOwns s h.port (flowCfg s h.flow) = true → (∀ c, dirtyLines s c = []) →
    ∃ t r, exec (.flush h) s = .next t ∧ t.reqs = s.reqs ++ [r] ∧ r.id = s.flw.nextId ∧ r.op = .flush ∧
      r.stage = .flushing ∧ r.awaits = flushAwaits s (flowCfg s h.flow) ∧ r.units = 0 ∧
      Keeps [.clock, .ports, .reqs, .flw, .flowRt, .tel] s t) ∧
  (∀ (s : State) (r : Req), s.pins.pwrgood = true → findReq s r.id = some r → r.op = .fence → r.stage = .waiting →
    exec (.fenceComplete r.id) s =
      .next (fin s (if s.reqs.any (fun x => x.flow = r.flow && x.id < r.id && x.eng.isNone) then s
        else { s with reqs := s.reqs.map (fun x =>
          if x.id = r.id then { x with stage := .done, status := Status.first x.status .ok, linesDue := 0 } else x) }))) ∧
  (∀ (s : State) (r : Req), s.pins.pwrgood = true → findReq s r.id = some r → r.stage = .flushing →
    exec (.flushComplete r.id) s =
      .next (fin s (if r.awaits = [] then { s with reqs := s.reqs.map (fun x =>
          if x.id = r.id then { x with stage := .done, status := Status.first x.status .ok, linesDue := 0 } else x) } else s)))

/-- The request that dispatch picks, while no step of a migration goes first: a read of a page with no ink returns
zeros, UNWRITTEN, and touches no cell; a one-line read of a buffered line completes with its data; one that misses
queues its burst in the channel of its location; a write of one line enters the line buffer and completes; a write to
a page with no ink starts its first-touch fill. With nothing to serve, dispatch changes nothing. -/
def Obligations.DispatchServes : Prop :=
  (∀ (s : State) (r : Req), s.pins.pwrgood = true → migFirst s = false →
    pickReq s = some r → r.enc = false → r.op.isRead = true → inked s (r.dpa / 4096) = false →
    ∃ t, exec .requestDispatch s = .next t ∧
      t.reqs = s.reqs.map (fun x => if x.id = r.id then { x with
        stage := .done, status := .unwritten, linesDue := 0
        rdata := (List.range r.op.lines).map (fun i => (i, 0)) } else x) ∧
      (t.flowR r.flow).dispatched = sat (s.flowR r.flow).dispatched r.units ∧
      Keeps [.reqs, .flw, .flowRt, .ecc, .tel] s t) ∧
  (∀ (s : State) (r : Req) (l : LbLine) (loc : Loc), s.pins.pwrgood = true →
    migFirst s = false → pickReq s = some r → r.enc = false → r.op = .read64 → inked s (r.dpa / 4096) = true →
    locate s r.dpa = some loc → unreachable s loc = false → bypass s (homeChan s (r.dpa / 64)) = false →
    lbFind s (homeChan s (r.dpa / 64)) (r.dpa / 64) = some l → l.enc = false →
    ∃ t, exec .requestDispatch s = .next t ∧
      t.reqs = s.reqs.map (fun x => if x.id = r.id ∧ x.stage ≠ .done then { x with
        status := Status.first x.status .ok
        rdata := tput x.rdata 0 l.data
        linesDue := x.linesDue - 1
        stage := if x.linesDue ≤ 1 then .done else x.stage } else x) ∧
      (t.chan (homeChan s (r.dpa / 64))).lbHits = (s.chan (homeChan s (r.dpa / 64))).lbHits + 1 ∧
      Keeps [.reqs, .flw, .flowRt, .chans, .tel] s t) ∧
  (∀ (s : State) (r : Req) (loc : Loc), s.pins.pwrgood = true → migFirst s = false →
    pickReq s = some r → r.enc = false → r.op = .read64 → inked s (r.dpa / 4096) = true →
    locate s r.dpa = some loc → unreachable s loc = false → bypass s (homeChan s (r.dpa / 64)) = false →
    lbFind s (homeChan s (r.dpa / 64)) (r.dpa / 64) = none → canRead s loc.ch r.fixed = true →
    s.rst.chanBusy.contains loc.ch = false →
    ∃ t e, exec .requestDispatch s = .next t ∧ (t.chan loc.ch).rdq = (s.chan loc.ch).rdq ++ [e] ∧
      e.kind = .hostRead ∧ e.req = some r.id ∧ e.loc = loc ∧ e.cols = [loc.col] ∧ e.dpaLine = r.dpa / 64 ∧
      e.fixed = r.fixed ∧ e.since = nowPs s ∧
      t.reqs = s.reqs.map (fun x => if x.id = r.id then
        { x with stage := if x.stage = .done then .done else .channel } else x) ∧
      Keeps [.reqs, .flw, .flowRt, .chans] s t) ∧
  (∀ (s : State) (r : Req) (loc : Loc), s.pins.pwrgood = true → migFirst s = false →
    pickReq s = some r → r.enc = false → r.op = .write64 → r.poison = 0 → inked s (r.dpa / 4096) = true →
    locate s r.dpa = some loc → unreachable s loc = false → bypass s (homeChan s (r.dpa / 64)) = false →
    ∃ t, exec .requestDispatch s = .next t ∧
      (∃ l ∈ (t.chan (homeChan s (r.dpa / 64))).lb, l.dpaLine = r.dpa / 64 ∧ l.data = r.data.extractLsb' 1536 512) ∧
      (∀ x ∈ t.reqs, x.id = r.id → x.stage = .done) ∧
      Keeps [.reqs, .flw, .flowRt, .chans, .tel, .cip] s t) ∧
  (∀ (s : State) (r : Req) (loc : Loc), s.pins.pwrgood = true → migFirst s = false →
    pickReq s = some r → r.enc = false → r.op.isWrite = true → (r.op ≠ .mwrite64 ∨ r.enables ≠ 0) →
    inked s (r.dpa / 4096) = false → locate s r.dpa = some loc → unreachable s loc = false →
    ∃ t, exec .requestDispatch s = .next t ∧ t.filling = s.filling ++ [(r.dpa / 4096, r.id)] ∧
      Keeps [.reqs, .flw, .flowRt, .filling] s t) ∧
  (∀ s : State, s.pins.pwrgood = true → pickReq s = none → migFirst s = false →
    exec .requestDispatch s = .next (fin s s))

/-- The end of a first-touch fill inks its page and no other, and the fill is over; a dirty line not written for 100
µs is queued for write-back and stays in the buffer, clean. -/
def Obligations.InkAndIdleLines : Prop :=
  (∀ (s : State) (page : Nat), s.pins.pwrgood = true → (∃ e ∈ s.filling, e.1 = page) →
    ∃ t, exec (.firstTouchFillDone page) s = .next t ∧ inked t page = true ∧
      (∀ p, p ≠ page → inked t p = inked s p) ∧ t.filling = s.filling.filter (fun e => e.1 ≠ page) ∧
      Keeps [.ink, .filling, .ecc, .chans, .reqs, .flowRt, .tel, .cip] s t) ∧
  (∀ (s : State) (c line now : Nat) (l : LbLine) (loc : Loc), s.pins.pwrgood = true → lbFind s c line = some l →
    l.dirty = true → l.enc = false → l.written + 100 ≤ s.elapsed → canWrite s c false = true → s.pwr.hold = false →
    s.flt.fatal = false → locate s (line * 64) = some loc → unreachable s loc = false → loc.ch = c →
    s.rst.chanBusy.contains c = false → (∀ x ∈ (s.chan c).wrq, x.req = none) →
    ∃ t e, exec (.lineIdleWriteback ⟨c, now⟩ line) s = .next t ∧ (t.chan c).wrq = (s.chan c).wrq ++ [e] ∧
      e.kind = .writeBack ∧ e.loc = loc ∧ e.dpaLine = line ∧ e.words = [(loc.col, encodeLine l.data)] ∧
      (t.chan c).lb = (s.chan c).lb.map (fun x => if x.dpaLine = line then { x with dirty := false } else x) ∧
      Keeps [.clock, .chans, .tel] s t)

/-- A burst read without error settles its request's line with the data the burst carried; the completion of a request
whose outcome is known leaves on the port it came from, with its status, tag and data. -/
def Obligations.ReadsReturnAndComplete : Prop :=
  (∀ (s : State) (c now : Nat) (e : Entry) (col : Nat) (rest : List (Entry × Nat)) (r : Req) (x : Line),
    s.pins.pwrgood = true → (s.chan c).inflight = (e, col) :: rest → e.kind = .hostRead → e.req = some r.id →
    findReq s r.id = some r → r.stage ≠ .done → r.enc = false → e.dpaLine = r.dpa / 64 → col = e.loc.col →
    (e.stale = true ∨ bypass s (homeChan s (r.dpa / 64)) = true) → e.dpaLine ≠ dpaNone →
    (decodeLine s c e.got).a = .clean → (decodeLine s c e.got).b = .clean →
    (decodeLine s c e.got).words = e.got → lineOfHalves e.got = x → (s.trnOf c).checkDue = false →
    (s.tsvOf c).waits = [] → (s.eccOf c).visit = 0 →
    ∃ t, exec (.readDataReturn ⟨c, now⟩ 0 0) s = .next t ∧ (t.chan c).inflight = rest ∧
      t.reqs = s.reqs.map (fun y => if y.id = r.id ∧ y.stage ≠ .done then { y with
        status := Status.first y.status .ok
        rdata := tput y.rdata 0 x
        linesDue := y.linesDue - 1
        stage := if y.linesDue ≤ 1 then .done else y.stage } else y) ∧ Keeps [.clock, .chans, .reqs, .ecc, .tsv] s t) ∧
  (∀ (s : State) (r : Req), s.pins.pwrgood = true → findReq s r.id = some r → r.stage = .done → s.flt.fatal = false →
    r.eng = none → r.orphan = false → (s.port r.port).st = .active →
    exec (.completionFormed r.id) s =
      .next (fin s ({ s with reqs := s.reqs.filter (fun x => x.id ≠ r.id) }.setPort r.port { s.port r.port with
        cmpOut := (s.port r.port).cmpOut ++ [(Cmp.mk r.status
          (if r.status = Status.poisoned then r.linesPois else if r.status = Status.corrected then r.linesCorr else 0)
          false r.port r.tag (cmpData r))] })))

/-! ### Windows, budgets and probes (R92, R132–R146) -/

/-- A flow's window edge closes a window that offered its guarantee and dispatched less as a miss, counted and raised
as WINDOW_MISS, and opens the next with nothing charged and with the units still waiting counted as offered. -/
def Obligations.WindowEdge : Prop :=
  (∀ (s : State) (f : Nat), s.pins.pwrgood = true → (flowCfg s f).valid = true → atEdge s (flowCfg s f) = true →
    (s.flowR f).edge ≠ some s.elapsed → (flowCfg s f).cls.toNat < 2 → (s.flowR f).whole = true →
    (s.flowR f).spoiled = false → (flowCfg s f).guarantee ≤ (s.flowR f).offered →
    (s.flowR f).dispatched < (flowCfg s f).guarantee → (queueCfg s (flowCfg s f).queue.toNat).valid = false →
    ∃ t, exec (.flowWindowEdge f) s = .next t ∧ (t.flowR f).missCount = sat (s.flowR f).missCount 1 ∧
      (t.flowR f).lastMissed = true ∧ (t.flowR f).lastDisp = (s.flowR f).dispatched ∧ (t.flowR f).charged = 0 ∧
      (t.flowR f).dispatched = 0 ∧ (t.flowR f).offered = sat 0 (waitingUnits s f) ∧ (t.flowR f).edge = some s.elapsed ∧
      t.flt = { s.flt with detected := s.flt.detected ++ [{ src := 0x38, inst := f, detail := 0 }] } ∧
      Keeps [.flowRt, .flt, .reqs, .pool] s t ∧ ∀ g, g ≠ f → t.flowR g = s.flowR g) ∧
  (∀ (s : State) (f : Nat), s.pins.pwrgood = true → (flowCfg s f).valid = true → atEdge s (flowCfg s f) = true →
    (s.flowR f).edge ≠ some s.elapsed → (flowCfg s f).cls.toNat < 2 → (s.flowR f).whole = true →
    (s.flowR f).spoiled = false → (flowCfg s f).guarantee ≤ (s.flowR f).dispatched →
    ∃ t, exec (.flowWindowEdge f) s = .next t ∧ (t.flowR f).missCount = (s.flowR f).missCount ∧
      (t.flowR f).lastMissed = false ∧ (t.flowR f).charged = 0 ∧ t.flt = s.flt ∧ Keeps [.flowRt, .reqs, .pool] s t) ∧
  (∀ (s : State) (f : Nat), s.pins.pwrgood = true → (s.flowR f).edge = some s.elapsed →
    exec (.flowWindowEdge f) s = .next (fin s s))

/-- At a beat edge after a change, a recomputation that finds commitments fit sets every floor and clears its request;
one that finds them not fit enters SHORTFALL, counted and raised. The sixteenth clean evaluation window in a row ends
SHORTFALL at its boundary. A probe of a province commits the offset, masked to 36 bits, and shows the status and
location of its line. -/
def Obligations.BudgetsAndProbes : Prop :=
  (∀ s : State, s.pins.pwrgood = true → s.flw.due = true → s.flw.dueSince < s.elapsed → s.flw.shortfall = false →
    fullFits s = true →
    ∃ t, exec .budgetRecompute s = .next t ∧ t.flw.due = false ∧ t.flw.shortfall = false ∧ t.flw.entries = s.flw.entries ∧
      t.flw.budget = (List.range 32).map (fun c => (c, chanBudget s c)) ∧
      (∀ f ∈ validFlows s, (t.flowR f).floor = (flowCfg s f).guarantee) ∧ Keeps [.flw, .flowRt] s t) ∧
  (∀ s : State, s.pins.pwrgood = true → s.flw.due = true → s.flw.dueSince < s.elapsed → s.flw.shortfall = false →
    fullFits s = false → shortQueues s = [] →
    ∃ t, exec .budgetRecompute s = .next t ∧ t.flw.due = false ∧ t.flw.shortfall = true ∧
      t.flw.entries = sat s.flw.entries 1 ∧ t.flw.clean = 0 ∧
      t.flt = { s.flt with detected := s.flt.detected ++ [{ src := 0x39, inst := 0, detail := 0 }] } ∧
      Keeps [.flw, .flowRt, .flt] s t) ∧
  (∀ s : State, s.pins.pwrgood = true → s.flw.due = false ∨ s.elapsed ≤ s.flw.dueSince →
    exec .budgetRecompute s = .next (fin s s)) ∧
  (∀ s : State, s.pins.pwrgood = true → s.mer.count.toNat % 2 ^ s.tables.evalLog2.toNat = 0 →
    s.flw.lastEval ≠ some s.elapsed → s.flw.shortfall = true → s.flw.cleanSoFar = true → s.flw.clean = 15 →
    fullFits s = true → shortQueues s = [] →
    ∃ t, exec .evaluationBoundary s = .next t ∧ t.flw.shortfall = false ∧ t.flw.factor = 64 ∧ t.flw.shed = 0 ∧
      t.flw.clean = 0 ∧ t.flw.lastEval = some s.elapsed ∧ Keeps [.flw, .flowRt] s t) ∧
  (∀ (s : State) (via : Via) (p : Nat) (data : Word), p < 1024 → Served s via true (.prv p) 0x3C data →
    ∃ t v, exec (.provinceProbe via p data) s = .next t ∧
      v = ((data.toNat % 2 ^ 12) * 2 ^ 24 + ((tfind (s.path via.port).held (addrOf (.prv p) 0x3B).toNat).map
        (·.toNat)).getD ((tget (0, 0) s.probes p).1 % 2 ^ 24)) ∧
      tget (0, 0) t.probes p = (v, probeAt s p v) ∧ (∀ q, q ≠ p → tget (0, 0) t.probes q = tget (0, 0) s.probes q) ∧
      Keeps [.ports, .paths, .probes] s t)

/-! ### Move engines and check units (R278–R293) -/

/-- An ENGINE request in variant N completes ABSENT; a well-formed one of a valid flow enters its flow's queue, and
one that breaks a rule is REFUSED with its reason. An idle engine takes the head descriptor of the flow it serves
next; a CHECKSUM that waits for units claims the lowest free ones, at most four, and runs. -/
def Obligations.EngineWork : Prop :=
  (∀ (s : State) (h : ReqHdr) (desc : BitVec 512), Arrived s 10 h (bytesOf 64 desc.toNat) → s.variant = .N →
    ∃ t r, exec (.engine h desc) s = .next t ∧ t.reqs = s.reqs ++ [r] ∧ r.stage = .done ∧ r.status = .absent ∧
      t.pool = s.pool ∧ Keeps [.clock, .ports, .reqs, .flw, .flowRt, .tel] s t) ∧
  (∀ (s : State) (h : ReqHdr) (desc : BitVec 512) (d : Desc), Arrived s 10 h (bytesOf 64 desc.toNat) →
    s.flt.fatal = false → s.sec.lc ≠ 3 → s.variant ≠ .N → (flowCfg s h.flow).valid = true →
    portOwns s h.port (flowCfg s h.flow) = true →
    d = parseDesc h.flow (flowCfg s h.flow).queue.toNat s.flw.nextId desc → descReason s d desc = 0 →
    enginesFenced s = false → d.op ≠ 4 →
    ∃ t r, exec (.engine h desc) s = .next t ∧ t.reqs = s.reqs ++ [r] ∧ r.stage = .done ∧ r.status = .ok ∧
      r.tag = h.tag ∧ (engQ t h.flow).descs = (engQ s h.flow).descs ++ [d] ∧ (engQ t h.flow).lastTag = d.tag ∧
      Keeps [.clock, .ports, .reqs, .flw, .flowRt, .tel, .pool] s t) ∧
  (∀ (s : State) (h : ReqHdr) (desc : BitVec 512) (d : Desc), Arrived s 10 h (bytesOf 64 desc.toNat) →
    s.flt.fatal = false → s.sec.lc ≠ 3 → s.variant ≠ .N → (flowCfg s h.flow).valid = true →
    portOwns s h.port (flowCfg s h.flow) = true →
    d = parseDesc h.flow (flowCfg s h.flow).queue.toNat s.flw.nextId desc → descReason s d desc ≠ 0 →
    descReason s d desc ≠ 6 →
    ∃ t r, exec (.engine h desc) s = .next t ∧ t.reqs = s.reqs ++ [r] ∧ r.stage = .done ∧ r.status = .refused ∧
      t.pool.reason = BitVec.ofNat 4 (descReason s d desc) ∧ t.pool.queues = s.pool.queues ∧
      Keeps [.clock, .ports, .reqs, .flw, .flowRt, .tel, .pool] s t) ∧
  (∀ (s : State) (e f : Nat) (d : Desc), s.pins.pwrgood = true → engOn s e = true → (s.eng e).st = .idle →
    running s e = none → s.pwr.hold = false → pickEngFlow s = some f → (engQ s f).descs.head? = some d → d.started = false → d.op ≠ 4 →
    ∃ t, exec (.engineDescriptorStart e) s = .next t ∧ (t.eng e).st = .run ∧ (t.eng e).flow = f ∧ (t.eng e).op = d.op ∧
      (t.eng e).tag = d.tag ∧ (engQ t f).running = some e ∧
      (engQ t f).descs = { d with started := true } :: (engQ s f).descs.drop 1 ∧ Keeps [.engs, .pool] s t ∧
      ∀ x, x ≠ e → t.eng x = s.eng x) ∧
  (∀ (s : State) (e f : Nat) (d : Desc), s.pins.pwrgood = true → running s e = some (f, d) → (s.eng e).st = .waitUnit →
    freeUnits s ≠ [] →
    ∃ t, exec (.checkUnitClaim e) s = .next t ∧ (t.eng e).st = .run ∧
      (∀ u ∈ (freeUnits s).take 4, (t.chk u).busy = true ∧ (t.chk u).ctx = BitVec.ofNat 14 d.ctx ∧
        (t.chk u).engine = BitVec.ofNat 2 e) ∧
      (∀ u, u ∉ (freeUnits s).take 4 → t.chk u = s.chk u) ∧ Keeps [.engs, .chks] s t)

/-- A line request of a running FILL that passes lookup is charged to its flow; one that would leave the budget parks
the descriptor at its line; a descriptor whose lines are all done ends and frees its engine (its flow's queue is not
valid, so no record is posted). -/
def Obligations.EnginesRun : Prop :=
  (∀ (s : State) (e f ns : Nat) (d : Desc), s.pins.pwrgood = true → running s e = some (f, d) → engOn s e = true →
    (s.eng e).st = .run → s.pwr.hold = false → d.stop = none → d.aborting = false → d.out = [] → d.next < d.lines → orderHolds s d = false →
    d.op = 2 → d.second = false → (s.eng e).issued + d.step ≤ engCap s → s.rst.phase ≠ .quiesce → s.rst.phase ≠ .held →
    (lookupStatus s (opFor true d.step) none f d.dstPrv ((d.dstOff / 64 + d.next) * 64) = .ok →
      ∃ t r, exec (.engineLineRequest e ns) s = .next t ∧ t.reqs = s.reqs ++ [r] ∧ r.id = s.flw.nextId ∧
        r.op = opFor true d.step ∧ r.flow = f ∧ r.province = d.dstPrv ∧ r.data = d.payload d.step ∧ r.eng = some e ∧
        (t.flowR f).charged = sat (s.flowR f).charged (opFor true d.step).units ∧
        (t.eng e).issued = (s.eng e).issued + (opFor true d.step).units ∧
        Keeps [.reqs, .flw, .flowRt, .tel, .engs, .pool] s t) ∧
    (lookupStatus s (opFor true d.step) none f d.dstPrv ((d.dstOff / 64 + d.next) * 64) = .outOfBudget →
      ∃ t, exec (.engineLineRequest e ns) s = .next t ∧ t.reqs = s.reqs ∧ (t.eng e).st = .idle ∧
        (t.eng e).parks = (s.eng e).parks + 1 ∧ (engQ t f).parked = true ∧ (engQ t f).running = none ∧
        (engQ t f).descs = (engQ s f).descs ∧ Keeps [.engs, .pool, .chks] s t)) ∧
  (∀ (s : State) (e f : Nat) (d : Desc), s.pins.pwrgood = true → running s e = some (f, d) → d.out = [] →
    d.stop = none → d.lines ≤ d.next → d.op = 2 → s.flt.fatal = false → (s.eng e).st = .run →
    (flowCfg s d.flow).valid = true → (queueCfg s (flowCfg s d.flow).queue.toNat).valid = false →
    ∃ t, exec (.engineDone e) s = .next t ∧ (t.eng e).st = .idle ∧ (t.eng e).descs = (s.eng e).descs + 1 ∧
      (engQ t f).descs = (engQ s f).descs.drop 1 ∧ (engQ t f).running = none ∧ Keeps [.engs, .pool, .chks] s t)

/-- A reset of an engine with nothing running frees it and clears its progress; a context takes its width word through
the window of a check unit where the width is from 8 to 64 bits, and a busy context refuses. -/
def Obligations.EngineResetAndContexts : Prop :=
  (∀ (s : State) (via : Via) (e : Nat), e < 4 → Served s via true (.eng e) 0 0x800000 → running s e = none →
    ∃ t, exec (.engineReset via e 0x800000) s = .next t ∧ (t.eng e).st = .idle ∧ (t.eng e).lines = 0 ∧
      Keeps [.ports, .engs, .flt] s t ∧ ∀ x, x ≠ e → t.eng x = s.eng x) ∧
  (∀ (s : State) (via : Via) (u : Nat) (data : Word), u < 16 → Served s via true (.chk u) 0x11 data →
    (s.ctx (s.chk u).sel.toNat).busy = false → 8 ≤ (data.extractLsb' 17 7).toNat → (data.extractLsb' 17 7).toNat ≤ 64 →
    ∃ t, exec (.contextWrite via u 0x11 data) s = .next t ∧
      (t.ctx (s.chk u).sel.toNat).width = data.extractLsb' 17 7 ∧
      (t.ctx (s.chk u).sel.toNat).refin = data.getLsbD 16 ∧ (t.ctx (s.chk u).sel.toNat).refout = data.getLsbD 15 ∧
      (t.ctx (s.chk u).sel.toNat).aliveV = false ∧ Keeps [.ports, .ctxs] s t ∧
      ∀ i, i ≠ (s.chk u).sel.toNat → t.ctx i = s.ctx i) ∧
  (∀ (s : State) (via : Via) (u : Nat) (data : Word), u < 16 → Served s via true (.chk u) 0x11 data →
    (s.ctx (s.chk u).sel.toNat).busy = true →
    exec (.contextWrite via u 0x11 data) s = .next (fin s (respond s via true (addrOf (.chk u) 0x11) .refused 0)))

/-! ### Channels (R163–R168), refresh (R193–R201) and operating points (R182–R185) -/

/-- A command slot of an open channel performs the first legal command of R163's order: an activate opens its row, a
column read takes the words of its cell into the bursts under way, and a column write of a line stores its words
there, half by half, and at no other cell. (The buffer has no dirty line, so no write-back follows, and no idle rank
is visited.) A request that has waited 2 µs from its channel queue is marked aged and counted once; a row idle for its
page time with few hits is closed, when a precharge is legal. -/
def Obligations.ChannelCommands : Prop :=
  (∀ (s v u : State) (c now n g a : Nat) (wr : Bool) (e : Entry), s.pins.pwrgood = true → chanOn s c = true →
    now / 1000000 = s.elapsed → (s.chan c).st = .opened → dirtyLines s c = [] → (s.eccOf c).visit = 0 →
    n = nowPs (atPs s now) → v = promote (atPs s now) c n (fun _ => true) → u = setMode v c (busMode v c n) →
    best (cands u c n (some (u.chan c).wmode)) = some ⟨g, a, .act wr e⟩ →
    ∃ t, exec (.commandIssue c now) s = .next t ∧
      ((t.chan c).bank e.loc.rank e.loc.bank).openRow = some e.loc.row ∧
      ((t.chan c).bank e.loc.rank e.loc.bank).lastAct = some n ∧ (t.chan c).actsCnt = (s.chan c).actsCnt + 1 ∧
      (t.chan c).inflight = (s.chan c).inflight ∧ Keeps [.clock, .chans, .tel, .freeIdx] s t ∧
      ∀ d, d ≠ c → t.chan d = s.chan d) ∧
  (∀ (s v u : State) (c now n g a col : Nat) (e : Entry) (more : List Nat), s.pins.pwrgood = true →
    chanOn s c = true → now / 1000000 = s.elapsed → (s.chan c).st = .opened → dirtyLines s c = [] →
    (s.eccOf c).visit = 0 → n = nowPs (atPs s now) → v = promote (atPs s now) c n (fun _ => true) →
    u = setMode v c (busMode v c n) →
    best (cands u c n (some (u.chan c).wmode)) = some ⟨g, a, .col false e⟩ → e.cols = col :: more →
    ∃ t x, exec (.commandIssue c now) s = .next t ∧ (t.chan c).inflight = (s.chan c).inflight ++ [(x, col)] ∧
      x.got = cellRead s { e.loc with col := col } ∧ x.req = e.req ∧ x.loc = e.loc ∧
      (t.chan c).rdBursts = (s.chan c).rdBursts + 1 ∧ Keeps [.clock, .chans, .tel, .reqs] s t) ∧
  (∀ (s v u : State) (c now n g a col : Nat) (e : Entry) (w : Half × Half), s.pins.pwrgood = true →
    chanOn s c = true → now / 1000000 = s.elapsed → (s.chan c).st = .opened → dirtyLines s c = [] →
    (s.eccOf c).visit = 0 → n = nowPs (atPs s now) → v = promote (atPs s now) c n (fun _ => true) →
    u = setMode v c (busMode v c n) →
    best (cands u c n (some (u.chan c).wmode)) = some ⟨g, a, .col true e⟩ → e.cols = [col] →
    (e.kind = .writeBack ∨ e.kind = .bypassWrite ∨ e.kind = .maskedBurst) → e.words = [(col, w)] → e.loc.ch = c →
    remapAt s { e.loc with col := col } = none → mirrorOf s { e.loc with col := col } = none →
    ∃ t, exec (.commandIssue c now) s = .next t ∧
      cellRead t { e.loc with col := col } =
        (if e.mask.1 then w.1 else (cellRead s { e.loc with col := col }).1,
         if e.mask.2 then w.2 else (cellRead s { e.loc with col := col }).2) ∧
      (∀ l : Loc, (rankKey l.ch l.rank ≠ rankKey c e.loc.rank ∨
          (s.rmem (rankKey l.ch l.rank)).key l ≠ (s.rmem (rankKey l.ch l.rank)).key { e.loc with col := col }) →
        memRead t l = memRead s l) ∧
      (t.chan c).wrBursts = (s.chan c).wrBursts + 1 ∧ Keeps [.clock, .chans, .tel, .mem, .reqs] s t) ∧
  (∀ (s u : State) (c now : Nat) (e : Entry) (a b : List Entry), s.pins.pwrgood = true → now / 1000000 = s.elapsed →
    (s.chan c).rdq = a ++ e :: b → (∀ x ∈ a ++ b ++ (s.chan c).wrq, x.id ≠ e.id) → e.fixed = false → e.aged = false →
    e.since + 2000000 ≤ now → u = atPs s now →
    exec (.ageCapReached c e.id now) s = .next (fin s (u.setChan c { s.chan c with
      rdq := a ++ { e with aged := true } :: b
      aged := (s.chan c).aged + 1 }))) ∧
  (∀ (s u : State) (c k b now n : Nat), s.pins.pwrgood = true → chanOn s c = true → now / 1000000 = s.elapsed →
    (s.chan c).st = .opened → s.flt.fatal = false → (s.chan c).pageIdle ≠ 0 →
    ((s.chan c).bank k b).hits < (s.chan c).hitThresh.toNat → u = atPs s now → n = nowPs u →
    ((s.chan c).bank k b).idleFrom + (s.chan c).pageIdle.toNat * 10000 ≤ n → preLegal (s.chan c) k b n = true →
    exec (.pageIdleClose c k b now) s = .next (fin s (u.setChan c { s.chan c with
      banks := tset {} (s.chan c).banks (bankKey k b) { (s.chan c).bank k b with openRow := none, lastPre := some n } })))

/-- A tier's Lull slot starts where the count stands at its offset, at the tier's band; its reservation ends after the
band's beats, and nothing of the tier is in a slot then. -/
def Obligations.LullSlots : Prop :=
  (∀ (s : State) (t : Nat), s.pins.pwrgood = true → tierPresent s.variant t = true → sheetInForce s = true →
    (s.tier t).inSlot = false → domOn s (52 + t) = true → s.flt.gale = false →
    s.mer.count.toNat % 125 = (tget 0 s.tables.lull t).toNat → (s.tier t).lastSlot ≠ some s.elapsed →
    ∃ u, exec (.lullSlotStart t) s = .next u ∧
      u.tier t = { s.tier t with slotBand := (s.tier t).band, inSlot := true, lastSlot := some s.elapsed } ∧
      (∀ c ∈ chansOfTier t, noSlot s c (rankOfTier t) = false →
        tfind (u.rfrOf c).slotLeft (rankOfTier t) = some (slotCmds (s.tier t).band)) ∧
      (∀ x, x ≠ t → u.tier x = s.tier x) ∧ Keeps [.tiers, .rfr, .chans, .trn] s u) ∧
  (∀ (s : State) (t : Nat), s.pins.pwrgood = true → t < 20 → (s.tier t).inSlot = true →
    (s.tier t).lastSlot.getD 0 + (match (s.tier t).slotBand with | .b1 => 5 | .b2 => 10 | .b4 => 20) ≤ s.elapsed →
    ∃ u, exec (.lullReservationEnd t) s = .next u ∧ (u.tier t).inSlot = false ∧ (u.tier t).band = (s.tier t).band ∧
      Keeps [.tiers, .rfr, .trn, .flt] s u) ∧
  (∀ (s : State) (t : Nat), s.pins.pwrgood = true → (s.tier t).lastSlot = some s.elapsed →
    exec (.lullSlotStart t) s = .next (fin s s))

/-- A write of CHN_OP that may proceed starts the change of point, and a target below the image's limit or 3 is
REFUSED; the sequence drains, relocks, leaves self-refresh, is checked, and opens the channel at the new point. -/
def Obligations.OperatingPoint : Prop :=
  (∀ (s : State) (via : Via) (c : Nat) (data : Word), c < 32 → Served s via true (.chn c) 1 data →
    data.extractLsb' 22 2 ≠ 3 → (s.chan c).opMax ≤ data.extractLsb' 22 2 → data.extractLsb' 22 2 ≠ (s.chan c).current →
    (s.chan c).seq = .idle → (s.chan c).latched = none → bstHoldsPoint s c = false → chanFenced s c = false →
    pointHeld s c = false →
    ∃ t, exec (.opTargetWrite via c data) s = .next t ∧
      t.chan c = { s.chan c with
        seq := .drain, target := data.extractLsb' 22 2, goingTo := data.extractLsb' 22 2, source := 1, latched := none } ∧
      Keeps [.ports, .chans] s t ∧ ∀ d, d ≠ c → t.chan d = s.chan d) ∧
  (∀ (s : State) (via : Via) (c : Nat) (data : Word), c < 32 → Served s via true (.chn c) 1 data →
    (data.extractLsb' 22 2 = 3 ∨ data.extractLsb' 22 2 < (s.chan c).opMax) →
    exec (.opTargetWrite via c data) s = .next (fin s (respond s via true (addrOf (.chn c) 1) .refused 0))) ∧
  (∀ (s : State) (c : Nat), s.pins.pwrgood = true → seqRuns s c = true → drained s c = true → trnBusy s c = false →
    laneBusy s c = false → (s.chan c).seq = .drain → (s.chan c).st = .opened →
    ∃ t, exec (.opDrainComplete c) s = .next t ∧ (t.chan c).seq = .relock ∧ (t.chan c).st = .paused ∧
      (∀ e ∈ (t.chan c).banks, e.2.openRow = none) ∧ (∀ k ∈ ranksOf s.variant, (t.rfrOf c).inSr.getLsbD k = true) ∧
      Keeps [.chans, .rfr] s t) ∧
  (∀ (s : State) (c : Nat), s.pins.pwrgood = true → seqRuns s c = true → (s.chan c).seq = .relock →
    (∃ t, exec (.pllLock c) s = .next t ∧ t.chan c = { s.chan c with seq := .exit } ∧ Keeps [.chans, .trn] s t) ∧
    exec (.pllLockTimeout c) s = .next (fin s (raise s 0x0B c))) ∧
  (∀ (s : State) (c : Nat), s.pins.pwrgood = true → seqRuns s c = true → (s.chan c).seq = .exit →
    ∃ t, exec (.selfRefreshExitDone c) s = .next t ∧ t.chan c = { s.chan c with seq := .check } ∧
      (t.trnOf c).action = .check ∧ (∀ k < 5, (t.rfrOf c).inSr.getLsbD k =
        (decide (k ∈ ranksOf s.variant) && rankRests s c k)) ∧ Keeps [.chans, .rfr, .trn] s t) ∧
  (∀ (s : State) (c : Nat), s.pins.pwrgood = true → chanOn s c = true → chanFenced s c = false →
    (s.trnOf c).action = .check → (s.trnOf c).noSet = false → (s.trnOf c).wanted = none → (s.sprOf c).st ≠ .rescue →
    (s.chan c).seq = .check → (s.chan c).st = .paused → (s.chan c).latched = none → (s.bstOf c).st = .idle →
    (s.tsvOf c).action = .idle → (s.trnOf c).checkDue = false → (s.tsvOf c).waits = [] → s.rst.chanBusy = [] →
    s.pwr.hold = false →
    ∃ t, exec (.patternCheckDone c 0) s = .next t ∧ (t.chan c).st = .opened ∧ (t.chan c).seq = .idle ∧
      (t.chan c).current = (s.chan c).goingTo ∧ (t.trnOf c).action = .idle ∧
      (t.trnOf c).checkFails = (s.trnOf c).checkFails ∧ t.flw.due = true ∧ Keeps [.chans, .trn, .flw] s t)

/-! ### ECC, remap and repair (R213–R244), sparing and migration (R248–R261, R269) -/

/-- A commit point, timed or by a write of ECC_REMAP_CTRL, starts a commit; a timed one ends with result 2 in RETIRED
and with an invalid Repair bank (the model's reading, log 46); a finished commit stores its result and counts results
3 and 4; a repaired row is answered by its spare row, which holds each of the row's lines as its entry held it or as
its burst was corrected, what is lost as poison, and the row's remap entries become FREE. SPR_CTRL retires a rank in
service: it is PENDING with cause 4 behind the others, and the sparing map records it; a rank in another state is
REFUSED, and a rank that the variant lacks ABSENT. -/
def Obligations.CommitsAndRetirement : Prop :=
  (∀ (s : State) (c t : Nat), s.pins.pwrgood = true → (s.eccOf c).commitAt = some t → t ≤ s.elapsed →
    (s.eccOf c).noAuto = false → (s.eccOf c).rowsBusy = [] → (s.eccOf c).busy = false → s.sec.lc ≠ 3 →
    bankBad s.fus 4 = false → s.fus.op.isSome = true →
    exec (.commitPointTimer c) s =
      .next (fin s ((s.setEccOf c { s.eccOf c with busy := true }).setFus { s.fus with
        queue := queueJob s.fus.queue (.commit c) }))) ∧
  (∀ (s : State) (via : Via) (c : Nat) (data : Word), c < 32 → Served s via true (.ecc c) 9 data → data.getLsbD 23 = true →
    (s.eccOf c).rowsBusy = [] → (s.eccOf c).busy = false → s.sec.lc ≠ 3 → bankBad s.fus 4 = false →
    s.fus.op.isSome = true →
    ∃ t, exec (.remapCommitWrite via c data) s = .next t ∧
      t.eccOf c = { s.eccOf c with sel := data.extractLsb' 19 4, busy := true } ∧
      t.fus = { s.fus with queue := queueJob s.fus.queue (.commit c) } ∧ Keeps [.ports, .ecc, .fus] s t) ∧
  (∀ (s : State) (c t : Nat), s.pins.pwrgood = true → (s.eccOf c).commitAt = some t → t ≤ s.elapsed →
    (s.eccOf c).noAuto = false → (s.eccOf c).rowsBusy = [] → (s.eccOf c).busy = false → s.sec.lc = 3 ∨ bankBad s.fus 4 = true →
    exec (.commitPointTimer c) s =
      .next (fin s (s.setEccOf c { s.eccOf c with result := 2, noAuto := true, commitAt := none }))) ∧
  (∀ (s : State) (c : Nat), s.pins.pwrgood = true → commitFinished s c = true → (s.eccOf c).rowsBusy = [] →
    (s.eccOf c).waitLines = [] → s.fus.queue = [] →
    ∃ t, exec (.repairCommitDone c) s = .next t ∧ (t.eccOf c).busy = false ∧
      (t.eccOf c).result = (if s.fus.recRes = 0 then 1 else s.fus.recRes) ∧ t.fus.op = none ∧ t.fus.busy = false ∧
      t.fus.array = s.fus.array ∧
      t.flt = { s.flt with detected := s.flt.detected ++
        (if s.fus.recRes = 0 ∨ s.fus.recRes = 1 then [] else [{ src := 0x1B, inst := c, detail := 0 }]) } ∧
      Keeps [.ecc, .fus, .flt] s t) ∧
  (∀ (s : State) (c k b row i : Nat) (rest : List (Nat × Nat × Nat × Nat)) (errs : List (Nat × Half × Half)),
    s.pins.pwrgood = true → (s.eccOf c).rowsBusy = (k, b, row, i) :: rest →
    ∃ t, exec (.rowRepairDone ⟨c, errs⟩) s = .next t ∧
      tfind (t.rmem (rankKey c k)).repair (b * 16384 + row) = some i ∧ (t.eccOf c).rows = sat (s.eccOf c).rows 1 ∧
      (t.eccOf c).rowsBusy = rest ∧
      (∀ col < 16, ∀ l : Loc, l = { ch := c, rank := k, bank := b, row := row, col := col } →
        ∀ (w e : Half × Half) (d : Decoded), w = cellRead s l → e = (tfind errs col).getD (0, 0) →
        d = decodeLine s c (w.1 ^^^ e.1, w.2 ^^^ e.2) →
        cellRead t l = if (remapAt s l).isSome = true then w
          else if d.out = .clean ∨ d.out = .corrected then d.words else poisonWords) ∧
      (∀ e ∈ (t.eccOf c).remap, rowOf e.2.loc ≠ (k, b, row)) ∧
      Keeps [.ecc, .mem, .chans, .flt, .tel, .tsv, .trn, .flowRt, .log] s t) ∧
  (∀ (s : State) (via : Via) (data : Word) (c k : Nat), Served s via true .mig 0 data → data.getLsbD 23 = true →
    c = (data.extractLsb' 18 5).toNat → k = (data.extractLsb' 15 3).toNat → k ≤ 4 → rankPresent s.variant k = true →
    (s.rank c k).st = .inService →
    ∃ t, exec (.sprRetire via data) s = .next t ∧ t.rank c k = { s.rank c k with st := .pending, cause := 4 } ∧
      t.mig = { s.mig with order := s.mig.order ++ [rankKey c k] } ∧
      t.log.waitMap = s.log.waitMap ++ [(.rank (rankKey c k) { s.rank c k with st := .pending, cause := 4 }, s.mer.count)] ∧
      Keeps [.ports, .ranks, .mig, .log, .doms] s t) ∧
  (∀ (s : State) (via : Via) (data : Word) (c k : Nat), Served s via true .mig 0 data → data.getLsbD 23 = true →
    c = (data.extractLsb' 18 5).toNat → k = (data.extractLsb' 15 3).toNat →
    exec (.sprRetire via data) s = .next (fin s (
      if 4 < k then respond s via true (addrOf .mig 0) .refused 0
      else if rankPresent s.variant k = false then respond s via true (addrOf .mig 0) .absent 0
      else if (s.rank c k).st ≠ .inService ∧ (s.rank c k).st ≠ .spareHolding then
        respond s via true (addrOf .mig 0) .refused 0
      else respond (retireRank s c k 4) via true (addrOf .mig 0) .ok 0)))

/-- The migration engine takes the rank that R251 puts first: into rank 4 of its channel where that fits, else into
eight reserve granules; a rank with no target is fenced with reason 1. Dispatch gives a migration its turns: four
lines are read from the source into the staging's room, as one entry and four units of the window (the model's
reading, logs 64 and 119), and four lines of a full half go to the target. The pointer moves on by a chunk of 65,536
lines once everything of the chunk has been written, and not before; with the last chunk the rank is RETIRED to rank
4, which holds it, and the engine is idle. -/
def Obligations.Migration : Prop :=
  (∀ (s : State) (c k : Nat), s.pins.pwrgood = true → engineIdle s = true → nextPending s = some (rankKey c k) → k < 4 →
    mbistOn s c k = false → spareFits s c k = true → spareAway s c = false →
    ∃ t, exec .migrationStart s = .next t ∧ (t.rank c k).st = .migrating ∧ (t.rank c k).toRes = false ∧
      t.mig.st = .start ∧ t.mig.ch = c ∧ t.mig.rank = k ∧ t.mig.toRes = false ∧ t.mig.pointer = 0 ∧
      t.mig.order = s.mig.order.filter (· ≠ rankKey c k) ∧ (t.rfrOf c).inSr.getLsbD 4 = false ∧ t.mem = s.mem ∧
      t.tables = s.tables ∧ t.flt = s.flt) ∧
  (∀ (s : State) (c k : Nat) (gs : List Nat), s.pins.pwrgood = true → engineIdle s = true →
    nextPending s = some (rankKey c k) → k < 5 → mbistOn s c k = false → spareFits s c k = false →
    chooseGrans s c k = some gs →
    ∃ t, exec .migrationStart s = .next t ∧ (t.rank c k).st = .migrating ∧ (t.rank c k).toRes = true ∧
      (t.rank c k).grans = gs ∧ t.mig.st = .start ∧ t.mig.toRes = true ∧ t.mig.pointer = 0 ∧ t.mem = s.mem) ∧
  (∀ (s : State) (c k : Nat), s.pins.pwrgood = true → engineIdle s = true → nextPending s = some (rankKey c k) → k < 5 →
    mbistOn s c k = false → spareFits s c k = false → chooseGrans s c k = none → (s.rank c k).st = .pending →
    ∃ t, exec .migrationStart s = .next t ∧ (t.rank c k).st = .fenced ∧ (t.rank c k).why = 1 ∧ t.mig.st = .idle ∧
      t.mig.fences = sat s.mig.fences 1 ∧ t.mem = s.mem) ∧
  (∀ s : State, s.pins.pwrgood = true → migFirst s = true → drainCan s = false →
    migFills s = false → batchBlank s = false →
    ∃ t e, exec .requestDispatch s = .next t ∧ t.mig.readPos = s.mig.readPos + 4 ∧ t.mig.used = migUsed s + 4 ∧
      t.mig.win = s.elapsed / 64 ∧ t.mig.pointer = s.mig.pointer ∧
      (t.chan s.mig.ch).rdq = (s.chan s.mig.ch).rdq ++ [e] ∧ e.kind = .migRead ∧
      e.loc = copySource s s.mig.readPos ∧ e.cols = (List.range 4).map (e.loc.col + ·) ∧ e.fixed = false ∧
      Keeps [.flw, .mig, .chans] s t) ∧
  (∀ (s : State) (l : Loc), s.pins.pwrgood = true → migFirst s = true → drainCan s = true →
    toWrite s ≠ [] → copyTarget s s.mig.writePos = some l → (∀ x ∈ (s.chan l.ch).wrq, x.req = none) →
    ∃ t e, exec .requestDispatch s = .next t ∧ t.mig.writePos = s.mig.writePos + 4 ∧
      t.mig.pointer = s.mig.pointer ∧ (t.chan l.ch).wrq = (s.chan l.ch).wrq ++ [e] ∧ e.kind = .migWrite ∧ e.loc = l ∧
      e.dpaLine = s.mig.writePos ∧ e.cols = (toWrite s).map (fun j => l.col + (j - s.mig.writePos)) ∧
      Keeps [.flw, .mig, .chans] s t) ∧
  (∀ s : State, s.pins.pwrgood = true → copyRuns s = true → chunkDone s = true → s.mig.pointer + 65536 < 2 ^ 23 →
    ∃ t, exec .migrationPointerAdvance s = .next t ∧ t.mig = { s.mig with pointer := s.mig.pointer + 65536 } ∧
      Keeps [.mig, .flw, .chans, .reqs, .flowRt] s t) ∧
  (∀ s : State, s.pins.pwrgood = true → copyRuns s = false ∨ chunkDone s = false →
    exec .migrationPointerAdvance s = .next (fin s s)) ∧
  (∀ s : State, s.pins.pwrgood = true → copyRuns s = true → chunkDone s = true → s.mig.pointer + 65536 = 2 ^ 23 →
    s.mig.toRes = false → s.mig.rank < 4 → s.mig.ch < 32 →
    ∃ t, exec .migrationPointerAdvance s = .next t ∧ t.mig.st = .idle ∧ t.mig.pointer = 0 ∧
      t.mig.migrations = sat s.mig.migrations 1 ∧ (t.rank s.mig.ch s.mig.rank).st = .retiredSpare ∧
      (t.rank s.mig.ch 4).st = .spareHolding ∧ (t.rank s.mig.ch 4).holder = BitVec.ofNat 3 s.mig.rank)

/-- Zephyr queues the read of its next line where the pace allows it; its configuration is written whole, and a period
of 0 hours is REFUSED. -/
def Obligations.ZephyrScrubs : Prop :=
  (∀ (s u : State) (c now : Nat) (l : Loc), s.pins.pwrgood = true → zephyrRuns s c = true → s.pwr.hold = false →
    (s.eccOf c).zPlan ≠ (0, 0, 0) → (s.eccOf c).passOver = false → u = notePassed (atPs s now) c →
    (u.eccOf c).passOver = false → visitNext u c = false → paceAllows u c = true →
    locInked u (locOfIndex c (u.eccOf c).zRank (u.eccOf c).zLine) = true →
    route u routeFuel (locOfIndex c (u.eccOf c).zRank (u.eccOf c).zLine) = some l → canRead u l.ch false = true →
    s.rst.chanBusy.contains l.ch = false →
    ∃ t e, exec (.zephyrRead ⟨c, now⟩) s = .next t ∧ (t.chan l.ch).rdq = (s.chan l.ch).rdq ++ [e] ∧ e.kind = .scrub ∧
      e.loc = l ∧ e.cols = [l.col] ∧ e.fixed = false ∧ (t.eccOf c).zDone = (u.eccOf c).zDone + 1 ∧
      Keeps [.clock, .chans, .ecc] s t) ∧
  (∀ (s : State) (via : Via) (c : Nat) (data : Word), c < 32 → Served s via true (.ecc c) 0 data →
    (data.extractLsb' 17 6 = 0 ∨ data.extractLsb' 11 6 = 0) →
    exec (.zephyrConfigWrite via c data) s = .next (fin s (respond s via true (addrOf (.ecc c) 0) .refused 0))) ∧
  (∀ (s : State) (via : Via) (c : Nat) (data : Word), c < 32 → Served s via true (.ecc c) 0 data →
    data.extractLsb' 17 6 ≠ 0 → data.extractLsb' 11 6 ≠ 0 →
    ∃ t, exec (.zephyrConfigWrite via c data) s = .next t ∧ (t.eccOf c).zephyrEn = data.getLsbD 23 ∧
      (t.eccOf c).period = data.extractLsb' 17 6 ∧ (t.eccOf c).periodDeg = data.extractLsb' 11 6 ∧
      (t.eccOf c).forceDeg = data.getLsbD 10 ∧ (t.eccOf c).zRank = (s.eccOf c).zRank ∧
      (t.eccOf c).zLine = (s.eccOf c).zLine ∧ (t.eccOf c).remap = (s.eccOf c).remap ∧ Keeps [.ports, .ecc] s t)

/-! ### Lanes and Surveys (R258–R268, R383–R392) -/

/-- A requested check of a data lane pauses the channel and counts a suspect; sel above 85 is REFUSED. A check that
finds the lane good clears it; a confirmed bad lane waits to be steered to a good spare, and without one is erased:
the lane joins its half's erased lanes, LANE_ERASED is raised with it, and a lane record is due. -/
def Obligations.LaneChecks : Prop :=
  (∀ (s : State) (via : Via) (c : Nat) (data : Word), c < 32 → Served s via true (.tsv c) 6 data →
    85 < (data.extractLsb' 16 7).toNat →
    exec (.tsvCheckWrite via c data) s = .next (fin s (respond s via true (addrOf (.tsv c) 6) .refused 0))) ∧
  (∀ (s : State) (via : Via) (c : Nat) (data : Word), c < 32 → Served s via true (.tsv c) 6 data →
    (data.extractLsb' 16 7).toNat < 72 → data.getLsbD 23 = true → checkFree s c = true → (s.trnOf c).checkDue = false →
    (s.tsvOf c).waits = [] →
    ∃ t, exec (.tsvCheckWrite via c data) s = .next t ∧ t.tsvOf c = { s.tsvOf c with
        sel := data.extractLsb' 16 7
        suspects := sat (s.tsvOf c).suspects 1
        action := .check
        lane := (data.extractLsb' 16 7).toNat
        ctlCheck := false } ∧
      t.trnOf c = { s.trnOf c with trigger := 6, byteLane := BitVec.ofNat 5 ((data.extractLsb' 16 7).toNat / 4) } ∧
      (t.chan c).st = .paused ∧ Keeps [.ports, .tsv, .trn, .chans, .flowRt] s t) ∧
  (∀ (s : State) (c lane : Nat) (eyes : List LaneEye) (spare : LaneEye) (spErr : Bool), s.pins.pwrgood = true →
    (s.tsvOf c).action = .check → (s.tsvOf c).ctlCheck = false → sweepRuns s c = true → (s.tsvOf c).lane = lane →
    eyeGood lane (findEye eyes lane) = true → (s.trnOf c).checkDue = false →
    (∀ w ∈ (s.tsvOf c).waits, w = .data lane) →
    ∃ t, exec (.laneCheckDone c eyes spare false spErr) s = .next t ∧ (t.tsvOf c).action = .idle ∧
      (t.tsvOf c).cleared = sat (s.tsvOf c).cleared 1 ∧ (t.tsvOf c).erasedA = (s.tsvOf c).erasedA ∧
      (t.tsvOf c).waits = [] ∧ Keeps [.tsv, .trn, .chans] s t) ∧
  (∀ (s : State) (c lane : Nat) (eyes : List LaneEye) (spare : LaneEye) (cErr : Bool), s.pins.pwrgood = true →
    (s.tsvOf c).action = .check → (s.tsvOf c).ctlCheck = false → sweepRuns s c = true → (s.tsvOf c).lane = lane →
    (eyeGood lane (findEye eyes lane) = false ∨ cErr = true) → spareGone s c lane = false →
    eyeGood lane spare = true →
    exec (.laneCheckDone c eyes spare cErr false) s =
      .next (fin s (s.setTsvOf c { s.tsvOf c with action := .steerWait }))) ∧
  (∀ (s : State) (c lane : Nat) (eyes : List LaneEye) (spare : LaneEye) (cErr spErr : Bool), s.pins.pwrgood = true →
    (s.tsvOf c).action = .check → (s.tsvOf c).ctlCheck = false → sweepRuns s c = true → (s.tsvOf c).lane = lane →
    (eyeGood lane (findEye eyes lane) = false ∨ cErr = true) → lane < 36 →
    (s.tsvOf c).erasedA.contains lane = false → (s.tsvOf c).erasedA.length < 2 → spareGone s c lane = true →
    (s.sprOf c).st = .normal → (s.trnOf c).checkDue = false → (∀ w ∈ (s.tsvOf c).waits, w = .data lane) →
    ∃ t, exec (.laneCheckDone c eyes spare cErr spErr) s = .next t ∧ (t.tsvOf c).action = .idle ∧
      (t.tsvOf c).erasedA = (s.tsvOf c).erasedA ++ [lane] ∧ (t.sprOf c).st = .laneDegraded ∧
      (t.eccOf c).due = (s.eccOf c).due ++ [.lane lane 1] ∧
      t.flt = { s.flt with detected := s.flt.detected ++ [{ src := 0x13, inst := c, detail := BitVec.ofNat 24 lane }] } ∧
      Keeps [.tsv, .trn, .chans, .spr, .ecc, .flt] s t)

/-- A steer starts clear of Lull slots and closes the rows; done, the group's spare stands in the lane's position, the
steer is raised and recorded. -/
def Obligations.LaneSteered : Prop :=
  (∀ (s : State) (c : Nat), s.pins.pwrgood = true → (s.tsvOf c).action = .steerWait → slotsClear s c = true →
    s.pwr.hold = false → s.flt.fatal = false → chanFenced s c = false → (s.chan c).st ≠ .closed →
    ∃ t, exec (.laneSteerStart c) s = .next t ∧ t.tsvOf c = { s.tsvOf c with action := .steer } ∧
      (t.chan c).st = .paused ∧ (∀ e ∈ (t.chan c).banks, e.2.openRow = none) ∧ Keeps [.tsv, .chans, .flowRt] s t) ∧
  (∀ (s : State) (c lane : Nat), s.pins.pwrgood = true → (s.tsvOf c).action = .steer → (s.tsvOf c).lane = lane →
    lane < 72 → (s.trnOf c).checkDue = false → (∀ w ∈ (s.tsvOf c).waits, w = .data lane) →
    ∃ t, exec (.laneSteerDone c) s = .next t ∧ (t.tsvOf c).action = .idle ∧
      tfind (t.tsvOf c).steered (lane / 18) = some (lane % 18) ∧ (t.tsvOf c).spareUsed.getLsbD (lane / 18) = true ∧
      (t.eccOf c).due = (s.eccOf c).due ++ [.lane lane 0] ∧
      t.flt = { s.flt with detected := s.flt.detected ++ [{ src := 0x12, inst := c, detail := BitVec.ofNat 24 lane }] } ∧
      Keeps [.tsv, .trn, .chans, .ecc, .flt] s t)

/-- The third parity alert of a command in a row is counted and the command issued again; the fourth starts the check
of the control lanes; a clock alert starts it at once; a check that finds no lane counts CHN_CMD_UE for the rank, and
one that finds a lane with a good spare waits to steer it. (Which command failed is the command's operand, log 151.)
-/
def Obligations.ControlLanes : Prop :=
  (∀ (s : State) (c k cmd : Nat) (place : Word), s.pins.pwrgood = true → alertsTaken s c k = true →
    surveying s c = false → tget 0 (s.tsvOf c).noLane k < 2 → (s.tsvOf c).fails = (2, k, cmd) →
    exec (.commandParityAlert c ⟨k, cmd, place⟩) s = .next (fin s (s.setTsvOf c { s.tsvOf c with
      fails := (3, k, cmd), caRetries := sat (s.tsvOf c).caRetries 1 }))) ∧
  (∀ (s : State) (c k cmd : Nat) (place : Word), s.pins.pwrgood = true → alertsTaken s c k = true →
    tget 0 (s.tsvOf c).noLane k < 2 → (s.tsvOf c).fails = (3, k, cmd) → checkFree s c = true →
    (s.trnOf c).checkDue = false → (s.tsvOf c).waits = [] →
    ∃ t, exec (.commandParityAlert c ⟨k, cmd, place⟩) s = .next t ∧ (t.tsvOf c).action = .check ∧
      (t.tsvOf c).ctlCheck = true ∧ (t.tsvOf c).ctlFrom = some k ∧ (t.tsvOf c).failAt = place ∧
      (t.tsvOf c).suspects = sat (s.tsvOf c).suspects 1 ∧ (t.chan c).st = .paused ∧
      Keeps [.tsv, .chans, .flowRt] s t) ∧
  (∀ (s : State) (c k : Nat), s.pins.pwrgood = true → alertsTaken s c k = true → checkFree s c = true →
    (s.tsvOf c).clkRanks = [] → (s.trnOf c).checkDue = false → (s.tsvOf c).waits = [] →
    ∃ t, exec (.clockAlert c k) s = .next t ∧ (t.tsvOf c).action = .check ∧ (t.tsvOf c).ctlCheck = true ∧
      (t.tsvOf c).ctlFrom = none ∧ (t.tsvOf c).ctlRanks = [k] ∧ (t.tsvOf c).clkRanks = [] ∧ (t.chan c).st = .paused ∧
      Keeps [.tsv, .chans, .flowRt] s t) ∧
  (∀ (s : State) (c k : Nat), s.pins.pwrgood = true → (s.tsvOf c).action = .check → (s.tsvOf c).ctlCheck = true →
    sweepRuns s c = true → (s.tsvOf c).ctlFrom = some k → (s.trnOf c).checkDue = false → (s.tsvOf c).waits = [] →
    ∃ t, exec (.controlCheckDone c none) s = .next t ∧ (t.tsvOf c).action = .idle ∧
      (t.tsvOf c).cleared = sat (s.tsvOf c).cleared 1 ∧ (t.tsvOf c).caRetries = sat (s.tsvOf c).caRetries 1 ∧
      tget 0 (t.tsvOf c).noLane k = tget 0 (s.tsvOf c).noLane k + 1 ∧
      t.flt = { s.flt with detected := s.flt.detected ++
        [{ src := 0x08, inst := rankKey c k, detail := (s.tsvOf c).failAt }] } ∧
      Keeps [.tsv, .trn, .chans, .flt] s t) ∧
  (∀ (s : State) (c l : Nat), s.pins.pwrgood = true → (s.tsvOf c).action = .check → (s.tsvOf c).ctlCheck = true →
    sweepRuns s c = true → 72 ≤ l → l ≤ 85 → spareGone s c l = false →
    exec (.controlCheckDone c (some l)) s = .next (fin s (s.setTsvOf c { s.tsvOf c with
      action := .steerWait, lane := l, noLane := [], fails := (0, 0, 0) })))

/-- TRN_CTRL asks for a Survey; the Survey pauses the channel, or starts suspended while a Lull slot runs; done with
every lane good, its delays are stored as the valid set of the point, and the channel goes on. A rescue Survey that
finds every lane good uses every lane again and begins the evacuation: a rank 0 in service is PENDING with cause 5;
with a control lane bad and no spare left for it the channel is LOST. -/
def Obligations.Surveys : Prop :=
  (∀ (s : State) (via : Via) (c : Nat), c < 32 → Served s via true (.trn c) 0 0xC00000 → chanFenced s c = false →
    (s.trnOf c).action = .idle → (s.trnOf c).wanted = none → laneBusy s c = false →
    ∃ t, exec (.surveyRequest via c 0xC00000) s = .next t ∧
      t.trnOf c = { s.trnOf c with log := true, restore := false, wanted := some 2 } ∧ Keeps [.ports, .trn] s t) ∧
  (∀ (s : State) (via : Via) (c : Nat), c < 32 → Served s via true (.trn c) 0 0xC00000 → chanFenced s c = true →
    exec (.surveyRequest via c 0xC00000) s = .next (fin s (respond s via true (addrOf (.trn c) 0) .refused 0))) ∧
  (∀ (s : State) (c : Nat) (why : BitVec 3) (temp : Int), s.pins.pwrgood = true → (s.trnOf c).wanted = some why →
    surveyFree s c = true → (s.chan c).st = .opened → (s.trnOf c).tCh = some temp →
    ∃ t, exec (.surveyStart c) s = .next t ∧ t.trnOf c = { s.trnOf c with
        action := if (s.rfrOf c).inSlot = 0 then .survey else .suspended
        suspends := if (s.rfrOf c).inSlot = 0 then (s.trnOf c).suspends else sat (s.trnOf c).suspends 1
        work := 0
        since := s.elapsed
        trigger := why
        wanted := none
        startTemp := temp } ∧
      (t.chan c).st = .paused ∧ (t.tsvOf c).waits = [] ∧ (∀ e ∈ (t.chan c).banks, e.2.openRow = none) ∧
      Keeps [.trn, .tsv, .chans, .flowRt] s t) ∧
  (∀ (s : State) (c : Nat) (eyes spares : List LaneEye), s.pins.pwrgood = true → (s.trnOf c).action = .survey →
    (s.trnOf c).trigger ≠ 5 → sweepRuns s c = true → chanFenced s c = false → badLanes s c eyes = [] →
    (s.chan c).seq = .idle → (s.trnOf c).checkDue = false → (s.tsvOf c).waits = [] →
    ∃ t d, exec (.surveyDone c eyes spares) s = .next t ∧ (t.trnOf c).action = .idle ∧ (t.trnOf c).lastResult = 1 ∧
      (t.trnOf c).surveys = sat (s.trnOf c).surveys 1 ∧
      tfind (t.trnOf c).sets (s.chan c).current.toNat = some d ∧ d.source = 2 ∧ d.trained = (s.trnOf c).startTemp ∧
      (t.trnOf c).stale = false ∧ t.flt = s.flt ∧ t.spr = s.spr ∧ t.tsv = s.tsv) ∧
  (∀ (s : State) (c : Nat) (eyes spares : List LaneEye), s.pins.pwrgood = true → (s.sprOf c).st = .rescue →
    (s.trnOf c).action = .survey → (s.trnOf c).trigger = 5 → sweepRuns s c = true → s.mig.st = .idle →
    (∀ l < 86, eyeGood l (findEye eyes l) = true) → (∀ i ∈ (s.tsvOf c).erasedA ++ (s.tsvOf c).erasedB, i < 36) →
    (s.rank c 0).st = .inService → (s.trnOf c).checkDue = false → (s.tsvOf c).waits = [] →
    ∃ t, exec (.rescueSurveyDone c ⟨eyes, spares⟩) s = .next t ∧ (t.sprOf c).st = .evacuating ∧ (t.tsvOf c).erasedA = [] ∧
      (t.tsvOf c).erasedB = [] ∧ (t.rank c 0).st = .pending ∧ (t.rank c 0).cause = 5 ∧ (t.trnOf c).action = .idle) ∧
  (∀ (s : State) (c l : Nat) (eyes spares : List LaneEye), s.pins.pwrgood = true → (s.sprOf c).st = .rescue →
    (s.trnOf c).action = .survey → (s.trnOf c).trigger = 5 → sweepRuns s c = true → 72 ≤ l → l < 86 →
    eyeGood l (findEye eyes l) = false → spareGone s c l = true →
    ∃ t, exec (.rescueSurveyDone c ⟨eyes, spares⟩) s = .next t ∧ (t.sprOf c).st = .lost ∧ (t.chan c).st = .fenced)

/-! ### Built-in tests (R393–R407) -/

/-- A start that R394 permits waits in request order, and one it refuses gives its reason; a begun row test counts and
pauses its channel; a lane test without failures passes; the fill after an MBIST leaves every line of the rank reading
zeros; a waiting test aborts; the result register's read takes the head of the FIFO. -/
def Obligations.BuiltInTests : Prop :=
  (∀ (s : State) (via : Via) (c : Nat) (data : Word), c < 32 → Served s via true (.bst c) 0 data → data.getLsbD 23 = true →
    data.getLsbD 22 = false → (data.extractLsb' 19 3).toNat < 3 →
    rankPresent s.variant (data.extractLsb' 16 3).toNat = true →
    startReason s c (data.extractLsb' 19 3).toNat (data.extractLsb' 16 3).toNat (data.extractLsb' 10 3).toNat
      (data.extractLsb' 6 4).toNat (data.getLsbD 15) = 0 →
    exec (.bistStart via c data) s = .next (fin s (respond { s.setBstOf c { s.bstOf c with
        st := .wait
        result := 0
        reason := 0
        kind := data.extractLsb' 19 3
        rank := data.extractLsb' 16 3
        unit := data.extractLsb' 10 3
        inst := data.extractLsb' 6 4
        background := data.extractLsb' 13 2
        order := s.bstNext
        startup := false } with bstNext := s.bstNext + 1 } via true (addrOf (.bst c) 0) .ok 0))) ∧
  (∀ (s : State) (via : Via) (c : Nat) (data : Word), c < 32 → Served s via true (.bst c) 0 data → data.getLsbD 23 = true →
    data.getLsbD 22 = false → 3 < (data.extractLsb' 19 3).toNat → bstBusy s c = false → (s.bstOf c).st ≠ .wait →
    exec (.bistStart via c data) s = .next (fin s (respond (s.setBstOf c { s.bstOf c with result := 5, reason := 6 })
      via true (addrOf (.bst c) 0) .refused 0))) ∧
  (∀ (s : State) (c : Nat), s.pins.pwrgood = true → (s.bstOf c).st = .wait → s.flt.fatal = false →
    limitAllows s c = true → (s.bstOf c).kind = 2 →
    startReason (s.setBstOf c { s.bstOf c with st := .done }) c 2 (s.bstOf c).rank.toNat (s.bstOf c).unit.toNat
      (s.bstOf c).inst.toNat true = 0 →
    (s.chan c).current = 1 → (s.chan c).seq = .idle → (s.chan c).st ≠ .closed → chanFenced s c = false →
    ∃ t, exec (.bistBegin c) s = .next t ∧ t.bstOf c = { s.bstOf c with
        st := .run
        runs := sat (s.bstOf c).runs 1
        backTo := (s.chan c).target } ∧
      (t.chan c).st = .paused ∧ Keeps [.bst, .chans] s t) ∧
  (∀ (s : State) (c : Nat), s.pins.pwrgood = true → (s.bstOf c).st = .run → s.pwr.hold = false → s.flt.fatal = false →
    (s.rfrOf c).inSlot = 0 → (s.bstOf c).kind = 2 → s.rst.phase = .ready → (s.bstOf c).backTo = (s.chan c).current →
    (s.chan c).seq = .idle → (s.chan c).latched = none → (s.trnOf c).checkDue = false → (s.tsvOf c).waits = [] →
    ∃ t, exec (.bistDone c []) s = .next t ∧ t.bstOf c = { s.bstOf c with st := .done, result := 1 } ∧
      Keeps [.bst, .chans] s t) ∧
  (∀ (s : State) (c k : Nat), s.pins.pwrgood = true → (s.bstOf c).st = .refill → s.pwr.hold = false →
    s.flt.fatal = false → (s.bstOf c).kind = 0 → (s.bstOf c).rank.toNat = k → k < 4 → s.rst.phase = .ready →
    (s.bstOf c).backTo = (s.chan c).current → (s.chan c).seq = .idle → (s.chan c).latched = none →
    (s.trnOf c).checkDue = false → (s.tsvOf c).waits = [] →
    ∃ t, exec (.bistFillDone c) s = .next t ∧ t.bstOf c = { s.bstOf c with st := .done } ∧
      (∀ l : Loc, l.ch = c → l.rank = k → cellRead t l = zeroWords) ∧
      (∀ r, r ≠ rankKey c k → t.rmem r = s.rmem r) ∧ Keeps [.bst, .chans, .mem, .ecc] s t) ∧
  (∀ (s : State) (via : Via) (c : Nat), c < 32 → Served s via true (.bst c) 0 0x400000 → (s.bstOf c).st = .wait →
    s.rst.phase = .ready →
    exec (.bistAbort via c 0x400000) s = .next (fin s (respond (s.setBstOf c { s.bstOf c with st := .done, result := 4 })
      via true (addrOf (.bst c) 0) .ok 0))) ∧
  (∀ (s : State) (via : Via) (c : Nat) (v : W48) (more : List W48), c < 32 → Served s via false (.bst c) 2 0 →
    s.sec.gate = false → (s.bstOf c).fifo = v :: more →
    exec (.bstResultRead via c) s = .next (fin s (respond
      ((s.setBstOf c { s.bstOf c with fifo := more }).setPath via.port { s.path via.port with
        snap := [v.extractLsb' 0 24, v.extractLsb' 24 24] })
      via false (addrOf (.bst c) 2) .ok (v.extractLsb' 0 24))))

/-! ### Power domains (R359–R364) -/

/-- Disabling an ON domain that R359 lets park starts its park, and is REFUSED where it does not; enabling an OFF
domain that the floor admits starts its wake, and is REFUSED where it does not. The park ends OFF, with a tier's
contents lost; the cycle wait ends in a wake; the lowest queued domain that may start does; a port whose domain wakes
is idle again; a wake or park that takes too long raises PWR_DOMAIN. -/
def Obligations.DomainsParkAndWake : Prop :=
  (∀ (s : State) (via : Via) (d : Nat) (data : Word), d = 50 ∨ (41 ≤ d ∧ d ≤ 44 ∧ running s (d - 41) = none) →
    Served s via true (.dom d) 0 data → data.getLsbD 23 = false → (s.dom d).st = .on → parkAllowed s d = true →
    exec (.domainEnableWrite via d data) s = .next (fin s (respond (s.setDom d { s.dom d with
        st := .parking
        enable := false
        latched := false
        queued := false
        transitions := sat (s.dom d).transitions 1 }) via true (addrOf (.dom d) 0) .ok 0))) ∧
  (∀ (s : State) (via : Via) (d : Nat) (data : Word), 0 < d → d < 72 → Served s via true (.dom d) 0 data →
    data.getLsbD 23 = false → (s.dom d).st = .on → parkAllowed s d = false →
    exec (.domainEnableWrite via d data) s = .next (fin s (respond s via true (addrOf (.dom d) 0) .refused 0))) ∧
  (∀ (s : State) (via : Via) (d : Nat) (data : Word), 0 < d → d < 72 → Served s via true (.dom d) 0 data →
    data.getLsbD 23 = true → (s.dom d).st = .off → overFloor s d = false →
    ∃ t q, exec (.domainEnableWrite via d data) s = .next t ∧ t.dom d = { s.dom d with
        st := .waking
        enable := true
        latched := true
        queued := q
        waiting := false
        cycWaking := false
        transitions := sat (s.dom d).transitions 1 } ∧
      (q = false → wakeRoom s d = true) ∧ Keeps [.doms, .ports] s t) ∧
  (∀ (s : State) (via : Via) (d : Nat) (data : Word), 0 < d → d < 72 → Served s via true (.dom d) 0 data →
    data.getLsbD 23 = true → (s.dom d).st = .off → overFloor s d = true →
    exec (.domainEnableWrite via d data) s = .next (fin s (respond s via true (addrOf (.dom d) 0) .refused 0))) ∧
  (∀ (s : State) (d : Nat), s.pins.pwrgood = true → 52 ≤ d → d < 72 → (s.dom d).st = .parking →
    (s.dom d).heldOff = false →
    ∃ t, exec (.domainParkDone d) s = .next t ∧ t.dom d = { s.dom d with st := .off } ∧
      (∀ c ∈ chansOfTier (d - 52), (t.rmem (rankKey c (rankOfTier (d - 52)))).filled = false ∧
        (t.rmem (rankKey c (rankOfTier (d - 52)))).lines = []) ∧ Keeps [.doms, .mem, .freeIdx] s t) ∧
  (∀ (s : State) (d : Nat), s.pins.pwrgood = true → (s.dom d).st = .parking → d = 50 ∨ (1 ≤ d ∧ d ≤ 8) →
    exec (.domainParkDone d) s =
      .next (fin s (s.setDom d { s.dom d with st := if (s.dom d).heldOff then .held else .off }))) ∧
  (∀ (s : State) (d : Nat), s.pins.pwrgood = true → (s.dom d).st = .cycling → (s.dom d).waiting = true →
    ∃ t q, exec (.domainCycleWaitEnd d) s = .next t ∧ t.dom d = { s.dom d with
        st := .waking
        enable := true
        latched := true
        queued := q
        waiting := false
        cycWaking := false
        transitions := sat (s.dom d).transitions 1 } ∧ Keeps [.doms] s t) ∧
  (∀ (s : State) (d : Nat), s.pins.pwrgood = true → (readyWakes s).head? = some d →
    exec (.domainWakeStart d) s = .next (fin s (s.setDom d { s.dom d with queued := false }))) ∧
  (∀ (s : State) (d : Nat), s.pins.pwrgood = true → (s.dom d).st = .waking → (s.dom d).queued = false → s.heldAcc = [] →
    40 < d → d < 52 → exec (.domainWakeDone d) s = .next (fin s (s.setDom d { s.dom d with st := .on }))) ∧
  (∀ (s : State) (n : Nat), s.pins.pwrgood = true → n < 8 → (s.dom (n + 1)).st = .waking →
    (s.dom (n + 1)).queued = false → s.heldAcc = [] → (s.port n).st = .off →
    ∃ t, exec (.domainWakeDone (n + 1)) s = .next t ∧ t.dom (n + 1) = { s.dom (n + 1) with st := .on } ∧
      t.port n = { s.port n with
        st := if (s.port n).disable || underLogic s 1 n then .off else .detect } ∧ Keeps [.doms, .ports, .flw] s t) ∧
  (∀ (s : State) (d : Nat), s.pins.pwrgood = true →
    (s.dom d).st = .parking ∨ ((s.dom d).st = .waking ∧ (s.dom d).queued = false) →
    exec (.domainTimeout d) s = .next (fin s { s with flt := { s.flt with
      detected := s.flt.detected ++ [{ src := 0x23, inst := d, detail := 0 }] } }))

/-! ### Housekeeping, the power cap, supply hold and Gale (R365–R375) -/

/-- A conversion fills its channel's place in the round, channel 90 judges the reference check, the round's end
publishes it, and the fabric manager's cap is taken between 40 W and the sheet's limit. -/
def Obligations.HousekeepingRounds : Prop :=
  (∀ (s : State) (code : Word) (value : Int), s.pins.pwrgood = true → s.hkp.slot.toNat < 96 →
    convPresent s s.hkp.slot.toNat = true → convKept s s.hkp.slot.toNat = false → s.hkp.slot ≠ 90 →
    exec (.housekeepingConversion code value) s = .next (fin s { s with hkp := { s.hkp with
      slot := s.hkp.slot + 1
      now := tset {} s.hkp.now s.hkp.slot.toNat
        { code := code, value := value, atEnd := code = 0 || code = 0xFFFFFF } } })) ∧
  (∀ (s : State) (code : Word) (value : Int), s.pins.pwrgood = true → s.hkp.slot = 90 →
    ∃ t, exec (.housekeepingConversion code value) s = .next t ∧ t.hkp = { s.hkp with
        slot := 91
        now := tset {} s.hkp.now 90 { code := code, value := value, atEnd := code = 0 || code = 0xFFFFFF } } ∧
      t.flt.detected = s.flt.detected ++ (if refPasses t.hkp.now then [] else [{ src := 0x26, inst := 0, detail := 0 }])) ∧
  (∀ s : State, s.pins.pwrgood = true → s.hkp.slot = 96 →
    ∃ t, exec .housekeepingRoundEnd s = .next t ∧ t.hkp = { s.hkp with
      slot := 0
      refOk := refPasses s.hkp.now
      lastOk := refPasses s.hkp.now
      rounds := s.hkp.rounds + 1
      last := s.hkp.now
      now := [] }) ∧
  (∀ (s : State) (via : Via) (data : Word), Served s via true .pwr 0 data → 8 ≤ (data.extractLsb' 19 5).toNat →
    (data.extractLsb' 19 5).toNat ≤ s.tables.limit.toNat →
    exec (.powerCapWrite via data) s = .next (fin s (respond
      { s with pwr := { s.pwr with limFm := data.extractLsb' 19 5 } } via true (addrOf .pwr 0) .ok 0))) ∧
  (∀ (s : State) (via : Via) (data : Word), Served s via true .pwr 0 data →
    (data.extractLsb' 19 5).toNat < 8 ∨ s.tables.limit.toNat < (data.extractLsb' 19 5).toNat →
    exec (.powerCapWrite via data) s = .next (fin s (respond s via true (addrOf .pwr 0) .refused 0)))

/-- A comparator's trip enters the hold, counts it, shows its causes and raises their sources; the release ends it and
keeps the longest; a hold of 1 ms raises SUPPLY_LOST once. Under Gale the line buffers and write queues are left
empty, and PD9–PD51 end parked. -/
def Obligations.SupplyHoldAndGale : Prop :=
  (∀ (s : State) (dram core : Bool), s.pins.pwrgood = true → (dram || core) = true → s.pwr.hold = false → s.bst = [] →
    ∃ t, exec (.supplyHoldEntry dram core) s = .next t ∧ t.pwr = { s.pwr with
        hold := true
        lost := false
        causeDram := dram
        causeCore := core
        dramLow := s.pwr.dramLow || dram
        coreLow := s.pwr.coreLow || core
        holds := sat s.pwr.holds 1 } ∧
      t.flt = { s.flt with detected := s.flt.detected ++
        ((if dram then [{ src := 0x20, inst := 0, detail := 0 }] else []) ++
         (if core then [{ src := 0x21, inst := 0, detail := 0 }] else [])) } ∧
      Keeps [.pwr, .flt, .tel, .flowRt, .chans, .trn, .tsv] s t) ∧
  (∀ (s : State) (us : Nat), s.pins.pwrgood = true → s.pwr.hold = true →
    ∃ t, exec (.supplyHoldRelease us) s = .next t ∧ t.pwr = { s.pwr with
      hold := false
      dramLow := false
      coreLow := false
      holdMax := BitVec.ofNat 24 (max s.pwr.holdMax.toNat (min us (2 ^ 24 - 1))) } ∧
      Keeps [.pwr, .chans, .fus, .ecc, .trn, .tsv, .flowRt] s t) ∧
  (∀ s : State, s.pins.pwrgood = true → s.pwr.hold = true → s.pwr.lost = false →
    exec .supplyLost s = .next (fin s { s with
      pwr := { s.pwr with lost := true }
      flt := { s.flt with detected := s.flt.detected ++ [{ src := 0x22, inst := 0, detail := 0 }] } })) ∧
  (∀ s : State, s.pins.pwrgood = true → s.flt.gale = true → s.pwr.galeWb = false →
    s.pwr.hold = false ∨ s.pwr.lost = true →
    ∃ t, exec .galeWritebackDone s = .next t ∧ t.pwr.galeWb = true ∧
      (∀ c, c < 32 → (t.chan c).lb = [] ∧ (t.chan c).wrq = [] ∧ (t.chan c).wrWait = []) ∧
      Keeps [.pwr, .chans, .rfr, .mem, .ecc, .cip, .reqs, .tel, .mig] s t) ∧
  (∀ s : State, s.pins.pwrgood = true → s.flt.gale = true → s.pwr.galeWb = true → s.pwr.galeDone = false →
    ∃ t, exec .galePark s = .next t ∧ t.pwr = { s.pwr with galeDone := true } ∧
      (∀ d, 9 ≤ d → d < 52 → domPresent s.variant d = true → (t.dom d).st = .off ∨ (t.dom d).st = .held) ∧
      Keeps [.doms, .chans, .slots, .cip, .pwr, .mem, .ecc, .reqs, .tel, .mig] s t)

/-! ### The fault collector (R338–R355) -/

/-- An event below N counts at its instance; one that reaches N raises the instance's level, and is written with its
escalation; the first reportable one latches FLT_FIRST and opens a page; one under a mask is consequential to the
mask's cause and counts nowhere else; one of level Fatal stops the stack. CHK_FAULT takes its unit out of use at its
base level (the model's reading, log 25). A settle time over ends its masks; the head of the ring queue that belongs
to no page is written when 8 beats have passed and the bucket holds its words. -/
def Obligations.FaultEvents : Prop :=
  (∀ (s : State) (e : FaultEv) (x : Source), s.pins.pwrgood = true → s.flt.detected = [] → sourceOf e.src = some x →
    sourcePresent s.variant e.src = true → instPresent s.variant x.scope e.inst = true →
    gated s { src := e.src, inst := e.inst, detail := e.detail } = false → maskOf s e.src e.inst = none → e.src ≠ 0x3B →
    levelOf s e.src e.inst = 0 → cfgNote (cfgWord s e.src) = false → (srcInst s e.src e.inst).count = 0 →
    cfgN (cfgWord s e.src) ≠ 1 →
    exec (.faultEvent [e]) s = .next (fin s (setSrcInst s e.src e.inst { srcInst s e.src e.inst with
      level := 0
      touched := true
      count := 1
      start := s.elapsed
      events := (srcInst s e.src e.inst).events + 1 }))) ∧
  (∀ (s : State) (e : FaultEv) (x : Source), s.pins.pwrgood = true → s.flt.detected = [] → sourceOf e.src = some x →
    sourcePresent s.variant e.src = true → instPresent s.variant x.scope e.inst = true →
    gated s { src := e.src, inst := e.inst, detail := e.detail } = false → maskOf s e.src e.inst = none →
    0x27 ≤ e.src → e.src < 0x3B → levelOf s e.src e.inst = 0 → 0 < x.cap → (srcInst s e.src e.inst).count ≠ 0 →
    s.elapsed < (srcInst s e.src e.inst).start + cfgWindow (cfgWord s e.src) →
    cfgN (cfgWord s e.src) = (srcInst s e.src e.inst).count + 1 → s.flt.valid = true → s.flt.queue.length < 64 →
    ∃ t, exec (.faultEvent [e]) s = .next t ∧ srcInst t e.src e.inst = { srcInst s e.src e.inst with
        level := 1
        touched := true
        count := 0
        events := (srcInst s e.src e.inst).events + 1 } ∧
      t.flt.overflow = true ∧ t.flt.later = sat s.flt.later 1 ∧
      t.flt.irq = (s.flt.irq || decide (s.flt.irqSev.toNat ≤ 1)) ∧
      t.flt.queue = s.flt.queue ++ [
        { source := e.src, severity := 1, esc := true, conseq := false, first := false,
          inst := e.inst, cause := 0x7F, stamp := s.mer.count, detail := e.detail,
          page := s.flt.page.map (fun p => 16 * p.1 + p.2) }] ∧ Keeps [.flt] s t) ∧
  (∀ (s : State) (e : FaultEv) (x : Source), s.pins.pwrgood = true → s.flt.detected = [] → sourceOf e.src = some x →
    sourcePresent s.variant e.src = true → instPresent s.variant x.scope e.inst = true →
    gated s { src := e.src, inst := e.inst, detail := e.detail } = false → maskOf s e.src e.inst = none → e.src ≠ 0x3B →
    e.src ≠ 0x3F → levelOf s e.src e.inst = 1 → cfgN (cfgWord s e.src) = 0 → s.flt.valid = false → s.flt.pagesUsed < 16 →
    s.flt.queue.length < 64 →
    ∃ t, exec (.faultEvent [e]) s = .next t ∧ t.flt.valid = true ∧ t.flt.overflow = false ∧ t.flt.severity = 1 ∧
      t.flt.source = BitVec.ofNat 7 e.src ∧ t.flt.inst = BitVec.ofNat 14 e.inst ∧ t.flt.later = 0 ∧
      t.flt.stamp = s.mer.count ∧ t.flt.pagesUsed = s.flt.pagesUsed + 1 ∧
      t.flt.page = fillPage s.flt.page ++ [(s.flt.pagesUsed, 1)] ∧
      t.flt.queue = s.flt.queue ++ [
        { source := e.src, severity := 1, esc := false, conseq := false, first := true,
          inst := e.inst, cause := 0x7F, stamp := s.mer.count, detail := e.detail,
          page := s.flt.page.map (fun p => 16 * p.1 + p.2) ++ [16 * s.flt.pagesUsed] }] ∧ Keeps [.flt] s t) ∧
  (∀ (s : State) (u : Nat) (detail : Word), s.pins.pwrgood = true → s.flt.detected = [] → chkPresent s.variant u = true →
    gated s { src := 0x3F, inst := u, detail := detail } = false → maskOf s 0x3F u = none → levelOf s 0x3F u = 1 →
    cfgN (cfgWord s 0x3F) = 0 → s.flt.queue.length < 64 → (s.chk u).busy = false →
    ∃ t, exec (.faultEvent [{ src := 0x3F, inst := u, detail := detail }]) s = .next t ∧
      t.chk u = { s.chk u with out := true } ∧ (∀ v, v ≠ u → t.chk v = s.chk v) ∧ Keeps [.flt, .chks] s t) ∧
  (∀ (s : State) (e : FaultEv) (x : Source) (m : Mask), s.pins.pwrgood = true → s.flt.detected = [] →
    sourceOf e.src = some x → sourcePresent s.variant e.src = true → instPresent s.variant x.scope e.inst = true →
    gated s { src := e.src, inst := e.inst, detail := e.detail } = false → maskOf s e.src e.inst = some m →
    s.flt.queue.length < 64 →
    ∃ t, exec (.faultEvent [e]) s = .next t ∧
      srcInst t e.src e.inst = { srcInst s e.src e.inst with conseq := sat (srcInst s e.src e.inst).conseq 1 } ∧
      t.flt.valid = s.flt.valid ∧ t.flt.irq = s.flt.irq ∧ t.flt.fatal = s.flt.fatal ∧
      t.flt.queue = s.flt.queue ++ [
        { source := e.src, severity := 0, esc := false, conseq := true, first := false,
          inst := e.inst, cause := m.cause, stamp := s.mer.count, detail := e.detail,
          page := s.flt.page.map (fun p => 16 * p.1 + p.2) }] ∧ Keeps [.flt] s t) ∧
  (∀ (s : State) (e : FaultEv) (x : Source), s.pins.pwrgood = true → s.flt.detected = [] → sourceOf e.src = some x →
    sourcePresent s.variant e.src = true → instPresent s.variant x.scope e.inst = true →
    gated s { src := e.src, inst := e.inst, detail := e.detail } = false → maskOf s e.src e.inst = none →
    (e.src = 0x22 ∨ (0x27 ≤ e.src ∧ e.src < 0x3B) ∨ e.src = 0x3C ∨ 0x40 ≤ e.src) → levelOf s e.src e.inst = 3 →
    s.flt.fatal = false →
    ∃ t, exec (.faultEvent [e]) s = .next t ∧ t.flt.fatal = true ∧ t.pins.irqN = false ∧ t.reqs = [] ∧
      t.tel.stopped = true ∧ (∀ c, c < 32 → (t.chan c).rdq = [] ∧ (t.chan c).inflight = (s.chan c).inflight) ∧
      ∀ n, n < 8 → (s.port n).st = .active → (t.port n).st = .signalDown) ∧
  (∀ (s : State) (src inst : Nat), s.pins.pwrgood = true →
    exec (.settleEnd src inst) s = .next (fin s { s with flt := { s.flt with
      masks := s.flt.masks.filter (fun m => !(m.cause = src && m.inst = inst && decide (m.until_ ≤ s.elapsed))) } })) ∧
  (∀ (s : State) (e : RingEntry) (more : List RingEntry), s.pins.pwrgood = true → s.flt.queue = e :: more →
    s.log.waitMap = [] → s.log.waitSet = [] → e.size ≤ s.log.credits →
    (∀ b, s.flt.lastWrite = some b → b + 8 ≤ s.elapsed) → e.page = [] → s.flt.head < 4096 →
    ∃ t, exec .faultRingWrite s = .next t ∧ t.flt = { s.flt with
        queue := more
        head := if s.flt.head = 4095 then 256 else s.flt.head + 1
        lastWrite := some s.elapsed } ∧
      (∀ i, i < 5 → tget 0 t.log.mem (6 * s.flt.head + i) = e.words.getD i 0) ∧
      tget 0 t.log.mem (6 * s.flt.head + 5) = commitWord e.words ∧
      (∀ a, a < 6 * s.flt.head ∨ 6 * s.flt.head + 6 ≤ a → tget 0 t.log.mem a = tget 0 s.log.mem a) ∧
      t.log.credits = s.log.credits - 6 ∧ Keeps [.flt, .log] s t)

/-- R346: the first reportable event that is not consequential is latched while FLT_FIRST.valid is 0, with MER_COUNT;
while it is 1 every later reportable event sets overflow and adds 1 to later; writing 0, committed by the high word,
re-arms. -/
def Obligations.FirstFault : Prop :=
  (∀ (s : State) (j : Judged), s.flt.valid = false → reportable s j = true → j.cause = none →
    (report s j).flt.valid = true ∧ (report s j).flt.source = BitVec.ofNat 7 j.src ∧
      (report s j).flt.inst = BitVec.ofNat 14 j.inst ∧ (report s j).flt.severity = BitVec.ofNat 2 j.sev ∧
      (report s j).flt.stamp = s.mer.count ∧ (report s j).flt.overflow = false ∧ (report s j).flt.later = 0) ∧
  (∀ (s : State) (j : Judged), s.flt.valid = false → j.cause ≠ none ∨ reportable s j = false →
    (report s j).flt.valid = false) ∧
  (∀ (s : State) (j : Judged), s.flt.valid = true → reportable s j = true →
    (report s j).flt.valid = true ∧ (report s j).flt.overflow = true ∧ (report s j).flt.later = sat s.flt.later 1 ∧
      (report s j).flt.source = s.flt.source ∧ (report s j).flt.inst = s.flt.inst ∧
      (report s j).flt.severity = s.flt.severity ∧ (report s j).flt.stamp = s.flt.stamp) ∧
  (∀ (s : State) (via : Via), Served s via true .flt 3 0 →
    tfind (s.path via.port).held ((addrOf .flt 3).toNat - 1) = some 0 →
    ∃ t, exec (.firstFaultRearm via 0) s = .next t ∧ t.flt = { s.flt with
      valid := false
      overflow := false
      severity := 0
      source := 0
      inst := 0
      later := 0 } ∧ Keeps [.flt, .paths, .ports] s t)

/-! ### Telemetry and the Logbook (R434–R447) -/

/-- A counter takes a selection that changes it from zero, and a selection of no event is REFUSED. A dump beat takes
the record of that beat; a paused one skips it; the record written, head and sequence number advance. -/
def Obligations.CountersAndDumps : Prop :=
  (∀ (s : State) (via : Via) (n : Nat) (data : Word), n < 256 → Served s via true (.cnt n) 0 data →
    selectStatus s.variant data = .ok → data.extractLsb' 12 12 ≠ (counterOf s n).event →
    exec (.counterSelect via n data) s = .next (fin s (respond (setCounter s n
      { event := data.extractLsb' 12 12, all := data.getLsbD 11, inst := data.extractLsb' 0 8, wrap := false, value := 0 })
      via true (addrOf (.cnt n) 0) .ok 0))) ∧
  (∀ (s : State) (via : Via) (n : Nat) (data : Word), n < 256 → Served s via true (.cnt n) 0 data →
    data.extractLsb' 12 12 ≠ 0xFFF → eventRunOf (data.extractLsb' 12 12).toNat = none →
    exec (.counterSelect via n data) s = .next (fin s (respond s via true (addrOf (.cnt n) 0) .refused 0))) ∧
  (∀ s : State, s.pins.pwrgood = true → s.tables.dumpEn = true → s.img.inForce = true → s.tel.stopped = false →
    s.flt.fatal = false → dumpSlots s.tables ≠ 0 → s.mer.count.toNat % s.tables.dumpPer.toNat = 0 →
    s.tel.lastDump ≠ some s.elapsed → s.tel.pause = false → s.tel.busy = false → slotHoled s s.tel.head.toNat = false →
    ∃ t, exec .telemetryDump s = .next t ∧ t.tel = { s.tel with
        busy := true
        recLines := dumpRecord s
        recSlot := s.tel.head.toNat
        recStamp := s.mer.count
        since := 0
        lastDump := some s.elapsed
        heldSince := s.pwr.hold } ∧ Keeps [.tel, .flowRt] s t) ∧
  (∀ s : State, s.pins.pwrgood = true → s.tables.dumpEn = true → s.img.inForce = true → s.tel.stopped = false →
    s.flt.fatal = false → dumpSlots s.tables ≠ 0 → s.mer.count.toNat % s.tables.dumpPer.toNat = 0 →
    s.tel.lastDump ≠ some s.elapsed → s.tel.pause = true →
    exec .telemetryDump s = .next (fin s { s with tel := { s.tel with
      skipped := sat s.tel.skipped 1
      since := s.tel.since + 1
      lastDump := some s.elapsed
      heldSince := s.pwr.hold } })) ∧
  (∀ s : State, s.pins.pwrgood = true → s.tel.busy = true → s.pwr.hold = false → s.flt.fatal = false →
    ∃ t, exec .dumpRecordWritten s = .next t ∧ t.tel.busy = false ∧ t.tel.recLines = [] ∧
      t.tel.head = nextSlot s s.tel.recSlot ∧ t.tel.seq = s.tel.seq + 1 ∧ t.tel.lastStamp = s.tel.recStamp ∧
      Keeps [.tel, .chans, .mem, .ecc, .cip, .reqs, .ink, .filling] s t)

/-- The next record is written at its region's place, its commit word last, and the record then counts; the gap moves
after 2^20 words; a clear zeroes the commit words of its region, inside the bucket; a read gives the word at the
path's address, which advances. A bit of LOG_CLEAR makes the Logbook busy with the commit words of its region: the
pages, the circular ring, the journal, the training area; the sparing area's clear is a record that waits its turn. -/
def Obligations.Logbook : Prop :=
  (∀ (s : State) (r : LogRec) (stamp : W48) (ws : List Word) (lo hi at_ : Nat), s.pins.pwrgood = true →
    nextRecordOf s = some (r, stamp) → ws = recordWordsOf r stamp (takeFree s).1 → ws.length ≤ s.log.credits →
    r.region s.log = (lo, hi, at_) →
    ∃ t, exec .logbookRecordWrite s = .next t ∧
      (∀ i, i < ws.length → tget 0 t.log.mem (lo + (at_ - lo + i) % (hi - lo)) = ws.getD i 0) ∧
      (∀ a, (∀ i, i < ws.length → a ≠ lo + (at_ - lo + i) % (hi - lo)) → tget 0 t.log.mem a = tget 0 s.log.mem a) ∧
      lo + (at_ - lo + (ws.length - 1)) % (hi - lo) ∈ t.log.commits ∧
      t.log.credits = s.log.credits - ws.length ∧
      t.log.waitMap.length + t.log.waitSet.length + t.log.waitJrn.length + 1 =
        s.log.waitMap.length + s.log.waitSet.length + s.log.waitJrn.length ∧ Keeps [.log, .freeIdx] s t) ∧
  (∀ s : State, s.pins.pwrgood = true → 2 ^ 20 ≤ s.log.sinceGap →
    exec .logbookRotation s = .next (fin s { s with log := { s.log with
      gap := if s.log.gap = 0 then 340 else s.log.gap - 1
      sinceGap := s.log.sinceGap - 2 ^ 20 } })) ∧
  (∀ s : State, s.pins.pwrgood = true → s.log.busy = true →
    ∃ t, exec .logClearDone s = .next t ∧ (∀ a ∈ s.log.clearing, tget 0 t.log.mem a = 0) ∧
      (∀ a, a ∉ s.log.clearing → tget 0 t.log.mem a = tget 0 s.log.mem a) ∧ t.log.busy = false ∧ t.log.clearing = [] ∧
      t.log.credits = s.log.credits - s.log.clearing.length ∧ Keeps [.log] s t) ∧
  (∀ (s : State) (via : Via), Served s via false .log 7 0 → s.sec.gate = false → (s.path via.port).logAddr.toNat < 174080 →
    exec (.logDataRead via) s = .next (fin s (respond
      (s.setPath via.port { s.path via.port with logAddr := (s.path via.port).logAddr + 1 }) via false (addrOf .log 7) .ok
      (tget 0 s.log.mem (s.path via.port).logAddr.toNat)))) ∧
  (∀ (s : State) (via : Via), Served s via true .log 0 0x800000 →
    exec (.logClearPages via 0x800000) s = .next (fin s (respond { s with
      flt := { s.flt with pagesUsed := 0, page := [] }
      log := { s.log with
        busy := true
        clearing := s.log.clearing ++ (List.range 256).map (fun i => 6 * i + 5)
        commits := s.log.commits.filter (fun a => !((List.range 256).map (fun i => 6 * i + 5)).contains a) } }
      via true (addrOf .log 0) .ok 0))) ∧
  (∀ (s : State) (via : Via), Served s via true .log 0 0x400000 →
    exec (.logClearRing via 0x400000) s = .next (fin s (respond { s with log := { s.log with
        busy := true
        clearing := s.log.clearing ++ (List.range 3840).map (fun i => 6 * (256 + i) + 5)
        commits := s.log.commits.filter (fun a => !((List.range 3840).map (fun i => 6 * (256 + i) + 5)).contains a) } }
      via true (addrOf .log 0) .ok 0))) ∧
  (∀ (s : State) (via : Via), Served s via true .log 0 0x200000 →
    ∃ t, exec (.logClearJournal via 0x200000) s = .next t ∧ t.log = { s.log with
        busy := true
        clearing := s.log.clearing ++ s.log.commits.filter (fun a => decide (32768 ≤ a) && decide (a < 174080))
        commits := s.log.commits.filter (fun a => !(decide (32768 ≤ a) && decide (a < 174080))) } ∧
      Keeps [.log, .ports] s t) ∧
  (∀ (s : State) (via : Via), Served s via true .log 0 0x100000 →
    ∃ t, exec (.logClearTraining via 0x100000) s = .next t ∧ t.log = { s.log with
        busy := true
        sets := []
        clearing := s.log.clearing ++ s.log.commits.filter (fun a => decide (26624 ≤ a) && decide (a < 32768))
        commits := s.log.commits.filter (fun a => !(decide (26624 ≤ a) && decide (a < 32768))) } ∧
      Keeps [.log, .ports] s t) ∧
  (∀ (s : State) (via : Via), Served s via true .log 0 0x080000 →
    exec (.logClearSparing via 0x080000) s = .next (fin s (respond (logSet s .clear) via true (addrOf .log 0) .ok 0)))

/-! ### Security: sessions, slots, zeroisation, test access (R302–R317) -/

/-- A nonce is fresh, kept and snapshotted; peer, signature and wrap words are held on the path; an open session needs
a key that every check of R303 gives and consumes the nonce; a close zeroises; a slot load takes the key that R306
admits, zeroises the wrap buffer and, like a clear, takes effect when the command is done: the slot's next generation,
while requests that passed lookup keep the key of theirs. -/
def Obligations.SessionsAndSlots : Prop :=
  (∀ (s : State) (via : Via), Served s via false .sec 3 0 → s.sec.gate = false →
    exec (.nonceRead via) s = .next (fin s (respond
      ({ s with freeIdx := s.freeIdx + 1 }.setPath via.port { s.path via.port with
        nonce := some (Config.nonce s.freeIdx)
        snap := (List.range 4).map (fun i => (Config.nonce s.freeIdx).extractLsb' (24 * i) 24) })
      via false (addrOf .sec 3) .ok ((Config.nonce s.freeIdx).extractLsb' 0 24)))) ∧
  (∀ (s : State) (via : Via) (off : Nat) (data : Word), 0x10 ≤ off → off < 0x50 → Served s via true .sec off data →
    exec (.secPeerSigWrite via off data) s = .next (fin s (respond (s.setPath via.port
      (if off < 0x30 then { s.path via.port with peer := tset 0 (s.path via.port).peer (off - 0x10) data }
       else { s.path via.port with sig := tset 0 (s.path via.port).sig (off - 0x30) data }))
      via true (addrOf .sec off) .ok 0))) ∧
  (∀ (s : State) (via : Via) (data : Word), Served s via true .sec 2 data → data.getLsbD 23 = true → data.getLsbD 22 = false →
    exec (.sessionOpen via data) s = .next (fin s (match sessionKey s via.port with
      | some key => respond (s.setPath via.port { s.path via.port with nonce := none, session := some key })
          via true (addrOf .sec 2) .ok 0
      | none => respond (s.setPath via.port { s.path via.port with nonce := none })
          via true (addrOf .sec 2) .refused 0))) ∧
  (∀ (s : State) (via : Via) (data : Word), Served s via true .sec 2 data → data.getLsbD 23 = false → data.getLsbD 22 = true →
    (s.path via.port).session.isSome = true →
    exec (.sessionClose via data) s = .next (fin s (respond
      (s.setPath via.port { s.path via.port with session := none, wrap := [] }) via true (addrOf .sec 2) .ok 0))) ∧
  (∀ (s : State) (via : Via) (i : Nat) (data : Word), i < 24 → Served s via true .cip (0x10 + i) data →
    exec (.wrapWordWrite via i data) s = .next (fin s (respond
      (s.setPath via.port { s.path via.port with wrap := tset 0 (s.path via.port).wrap i data })
      via true (addrOf .cip (0x10 + i)) .ok 0))) ∧
  (∀ (s : State) (via : Via) (data : Word) (i : Nat), Served s via true .cip 0 data → data.getLsbD 23 = true →
    data.getLsbD 22 = false → i = (data.extractLsb' 10 12).toNat → s.cip.fenced = false → s.cip.cmd = none →
    ∃ t st, exec (.slotLoad via data) s = .next (fin s (respond t via true (addrOf .cip 0) st 0)) ∧
      (t.path via.port).wrap = [] ∧ t.cip.slot = BitVec.ofNat 12 i ∧
      ((loadOutcome s i via.port).1 = 1 → st = .ok ∧
        t.cip.cmd = some { slot := i, load := some ((loadOutcome s i via.port).2, via.port) }) ∧
      ((loadOutcome s i via.port).1 ≠ 1 → st = .refused ∧ t.cip.cmd = none ∧
        t.cip.result = BitVec.ofNat 3 (loadOutcome s i via.port).1) ∧ Keeps [.cip, .paths] s t) ∧
  (∀ (s : State) (via : Via) (data : Word) (i : Nat), Served s via true .cip 0 data → data.getLsbD 23 = false →
    data.getLsbD 22 = true → i = (data.extractLsb' 10 12).toNat → s.cip.cmd = none →
    exec (.slotClear via data) s = .next (fin s (respond { s with cip := { s.cip with
      slot := BitVec.ofNat 12 i
      cmd := some { slot := i, load := none } } } via true (addrOf .cip 0) .ok 0))) ∧
  (∀ (s : State) (i : Nat) (ld : Option (BitVec 512 × Nat)), s.pins.pwrgood = true →
    s.cip.cmd = some { slot := i, load := ld } →
    ∃ t, exec .slotCommandDone s = .next t ∧ t.cip.cmd = none ∧ t.cip.result = 1 ∧
      (t.slot i).gen = (s.slot i).gen + 1 ∧
      ((∃ r ∈ s.reqs, r.enc = true ∧ r.slot = i ∧ r.gen = (s.slot i).gen) →
        keyOf t i (s.slot i).gen = (s.slot i).key) ∧
      ((t.slot i).valid, (t.slot i).key) = (match ld with | some (key, _) => (true, key) | none => (false, 0)) ∧
      ((s.slot i).valid = true → ∀ c, c < 32 → ∀ l ∈ (t.chan c).lb, ¬(l.enc = true ∧ l.slot = i)) ∧
      (∀ k, k ≠ i → t.slot k = s.slot k) ∧ Keeps [.slots, .cip, .chans, .mem, .ecc, .reqs, .tel, .mig] s t)

/-- ZEROISE and a test access that R309 permits start zeroisation; verified, it ends with no secret left and opens the
gate that waits; unverified, it raises its Fatal source. A test access ends with the gate closed and the device key
due, which is then derived. A life-cycle advance takes the fuse controller to the next life-cycle word. -/
def Obligations.ZeroisationAndLifeCycle : Prop :=
  (∀ (s : State) (via : Via) (data : Word), Served s via true .sec 1 data → data.getLsbD 23 = true → data.getLsbD 22 = false →
    exec (.zeroise via data) s = .next (fin s (respond
      { s with sec := { s.sec with zst := .clearing, zKeep := false } } via true (addrOf .sec 1) .ok 0))) ∧
  (∀ (s : State) (kind : TestKind), s.pins.pwrgood = true → kind = .cipherBist ∨ s.sec.lc = 0 → s.sec.gate = false →
    exec (.testAccessRequest kind) s =
      .next (fin s { s with sec := { s.sec with wanted := some kind, zst := .clearing, zKeep := false } })) ∧
  (∀ s : State, s.pins.pwrgood = true → s.sec.zst = .clearing → encBusy s = false → s.sec.zKeep = false →
    ∃ t, exec (.zeroisationDone true) s = .next t ∧ t.slots = [] ∧ t.sec.devkey = none ∧
      (∀ n, n < 9 → (t.path n).session = none ∧ (t.path n).wrap = [] ∧ (t.path n).nonce = none) ∧ t.sec.zst = .done ∧
      t.sec.zcount = sat s.sec.zcount 1 ∧ t.sec.gate = (s.sec.gate || s.sec.wanted.isSome) ∧
      (∀ c, c < 32 → ∀ l ∈ (t.chan c).lb, l.enc = false) ∧
      Keeps [.slots, .cip, .chans, .mem, .ecc, .reqs, .tel, .mig, .sec, .paths, .flowRt] s t) ∧
  (∀ s : State, s.pins.pwrgood = true → s.sec.zst = .clearing → encBusy s = false →
    ∃ t, exec (.zeroisationDone false) s = .next t ∧ t.slots = [] ∧ t.sec.zst = .failed ∧ t.sec.gate = s.sec.gate ∧
      t.flt = { s.flt with detected := s.flt.detected ++ [{ src := 0x3C, inst := 0, detail := 0 }] } ∧
      Keeps [.slots, .cip, .chans, .mem, .ecc, .reqs, .tel, .mig, .sec, .paths, .flowRt, .flt] s t) ∧
  (∀ s : State, s.pins.pwrgood = true → s.sec.gate = true → s.sec.gateKind ≠ 1 →
    exec .testAccessEnd s = .next (fin s { s with sec := { s.sec with gate := false, gateKind := 0, keyDue := true } })) ∧
  (∀ s : State, s.pins.pwrgood = true → s.fus.loaded = true → s.sec.keyDue = true → s.sec.gate = false → s.sec.zst ≠ .clearing →
    bankBad s.fus 2 = false →
    ∃ t, exec .deviceKeyDerived s = .next t ∧ t.sec.devkey = some (deviceKey (rootSecret s.fus)) ∧
      t.sec.keyDue = false ∧ Keeps [.sec] s t) ∧
  (∀ (s : State) (via : Via) (data : Word) (target : BitVec 2), Served s via true .sec 1 data → data.getLsbD 23 = false →
    data.getLsbD 22 = true → target = data.extractLsb' 20 2 → s.sec.lc < target → s.flt.fatal = false → s.fus.op = none →
    s.fus.queue = [] → lcWords s.fus < target.toNat → s.fus.lcGoal ≤ target →
    ∃ t o, exec (.lcAdvance via data) s = .next t ∧ t.fus.op = some o ∧ t.fus.busy = true ∧ o.job = .lifeCycle ∧
      o.bank = 3 ∧ o.word = lcWords s.fus ∧ o.goal = secdedWord 0xFFFFFF ∧ t.fus.array = s.fus.array ∧
      Keeps [.fus, .ports] s t)

/-! ### Fuses (R408–R430) -/

/-- A fuse read gives the word as R411 resolves it, but a device secret's words read as zero with reason 8 (log 43); a
program, a seal, a lock and a secret that R414 and R415 admit start the controller on their words. -/
def Obligations.FuseCommands : Prop :=
  (∀ (s : State) (via : Via) (data : Word) (b w : Nat), Served s via true .fus 0 data → (data.extractLsb' 21 3).toNat = 1 →
    b = (data.extractLsb' 18 3).toNat → w = (data.extractLsb' 4 14).toNat → w < bankWords b → (b ≠ 2 ∨ 10 < w) →
    (fuseSense b (fuseAt s.fus b w)).1 ≠ 1 →
    exec (.fuseRead via data) s = .next (fin s (respond { s with fus := { s.fus with
      result := 1
      outcome := BitVec.ofNat 2 (fuseValue s.fus b w).1
      corrected := (fuseValue s.fus b w).2.2
      rdata := (fuseValue s.fus b w).2.1 } } via true (addrOf .fus 0) .ok 0))) ∧
  (∀ (s : State) (via : Via) (data : Word), Served s via true .fus 0 data → (data.extractLsb' 21 3).toNat = 1 →
    (data.extractLsb' 18 3).toNat = 2 → (data.extractLsb' 4 14).toNat ≤ 10 →
    exec (.fuseRead via data) s = .next (fin s (respond { s with fus := { s.fus with result := 8, rdata := 0 } }
      via true (addrOf .fus 0) .refused 0))) ∧
  (∀ (s : State) (via : Via) (data : Word) (b w : Nat) (goal : BitVec 30), Served s via true .fus 0 data →
    (data.extractLsb' 21 3).toNat = 2 → b = (data.extractLsb' 18 3).toNat → w = (data.extractLsb' 4 14).toNat →
    (s.sec.lc = 0 ∨ (s.path via.port).session.isSome = true) → s.fus.op = none → w < bankWords b →
    programPermit s b w false = 0 → goal = fuseCode b s.fus.wdata → programmable s.fus b w goal = true →
    bitsToSet (fuseAt s.fus b w).lo goal ≠ [] →
    exec (.fuseProgram via data) s = .next (fin s (respond
      { s with fus := { s.fus with op := some (mkOp s .cmd b w goal []), busy := true } }
      via true (addrOf .fus 0) .ok 0))) ∧
  (∀ (s : State) (via : Via) (data : Word) (b : Nat) (goal : BitVec 30), Served s via true .fus 0 data →
    (data.extractLsb' 21 3).toNat = 3 → b = (data.extractLsb' 18 3).toNat → b ≤ 4 → b ≠ 3 →
    (s.sec.lc = 0 ∨ (s.path via.port).session.isSome = true) → s.fus.op = none →
    programPermit s b (sealWord b) false = 0 → goal = fuseCode b (sealCrc s.fus b) →
    programmable s.fus b (sealWord b) goal = true → bitsToSet (fuseAt s.fus b (sealWord b)).lo goal ≠ [] →
    ∃ t, exec (.fuseSeal via data) s = .next t ∧
      t.fus = { s.fus with op := some (mkOp s .cmd b (sealWord b) goal []), busy := true } ∧
      Keeps [.fus, .flt, .log, .ports] s t) ∧
  (∀ (s : State) (via : Via) (data : Word) (b : Nat), Served s via true .fus 0 data →
    (data.extractLsb' 21 3).toNat = 4 → b = (data.extractLsb' 18 3).toNat → b ≤ 4 → b ≠ 3 → s.sec.lc = 0 →
    s.fus.op = none → sealHolds s.fus b = true → programmable s.fus 3 (lockWord b) (secdedWord 0xFFFFFF) = true →
    bitsToSet (fuseAt s.fus 3 (lockWord b)).lo (secdedWord 0xFFFFFF) ≠ [] →
    ∃ t, exec (.fuseLock via data) s = .next t ∧
      t.fus = { s.fus with op := some (mkOp s .cmd 3 (lockWord b) (secdedWord 0xFFFFFF) []), busy := true } ∧
      Keeps [.fus, .flt, .log, .ports] s t) ∧
  (∀ (s : State) (via : Via) (data : Word) (ws : List (BitVec 30)), Served s via true .fus 0 data →
    (data.extractLsb' 21 3).toNat = 5 → s.sec.lc = 0 → s.fus.op = none → programPermit s 2 0 false = 0 →
    (∀ w, w < 11 → fuseProgrammed (fuseAt s.fus 2 w) = false) →
    ws = (secretWords (Config.secret s.freeIdx)).map secdedWord → programmable s.fus 2 0 (ws.headD 0) = true →
    exec (.genSecret via data) s = .next (fin s (respond (settleOp { s with freeIdx := s.freeIdx + 1 } 16
      (mkOp s .cmd 2 0 (ws.headD 0) (((List.range 11).drop 1).map (fun i => (2, i, ws.getD i 0)))))
      via true (addrOf .fus 0) .ok 0)))

/-- A pulse sets its bit in the references that sense it; verified, the next bit follows, and after the last of a word
with none behind it the operation ends OK; not verified, the bit is pulsed again up to the fourth time, which ends it
in VERIFY_FAIL. -/
def Obligations.FusePulses : Prop :=
  (∀ (s : State) (o : FuseOp) (i j : Nat) (more : List Nat), s.pins.pwrgood = true → s.fus.op = some o → o.live = true →
    o.stopping = false → o.bits = i :: j :: more →
    ∃ t, exec (.fusePulseDone true true) s = .next t ∧
      t.fus.op = some { o with bits := j :: more, tries := 0, live := !s.pwr.hold } ∧
      tget {} t.fus.array (physKey s.fus o.bank o.word) =
        { hi := (fuseAt s.fus o.bank o.word).hi ||| BitVec.ofNat 30 (2 ^ i)
          lo := (fuseAt s.fus o.bank o.word).lo ||| BitVec.ofNat 30 (2 ^ i) } ∧
      (∀ k, k ≠ physKey s.fus o.bank o.word → tget {} t.fus.array k = tget {} s.fus.array k) ∧
      t.fus.pulses = sat s.fus.pulses 1 ∧ Keeps [.fus] s t) ∧
  (∀ (s : State) (o : FuseOp) (i : Nat), s.pins.pwrgood = true → s.fus.op = some o → o.live = true →
    o.stopping = false → o.bits = [i] → o.rest = [] → o.job = .cmd → s.fus.queue = [] →
    ∃ t, exec (.fusePulseDone true true) s = .next t ∧ t.fus.op = none ∧ t.fus.busy = false ∧ t.fus.result = 1 ∧
      t.fus.pulses = sat s.fus.pulses 1 ∧ Keeps [.fus] s t) ∧
  (∀ (s : State) (o : FuseOp) (i : Nat) (more : List Nat) (hi lo : Bool), s.pins.pwrgood = true → s.fus.op = some o →
    o.live = true → o.bits = i :: more → (hi && lo) = false → o.tries < 3 →
    ∃ t, exec (.fusePulseDone hi lo) s = .next t ∧ t.fus.op = some { o with tries := o.tries + 1 } ∧
      t.fus.pulses = sat s.fus.pulses 1 ∧ t.fus.verifyFails = s.fus.verifyFails ∧ Keeps [.fus] s t) ∧
  (∀ (s : State) (o : FuseOp) (i : Nat) (more : List Nat) (hi lo : Bool), s.pins.pwrgood = true → s.fus.op = some o →
    o.live = true → o.stopping = false → o.bits = i :: more → (hi && lo) = false → o.tries = 3 → o.job = .cmd →
    s.fus.queue = [] →
    ∃ t, exec (.fusePulseDone hi lo) s = .next t ∧ t.fus.op = none ∧ t.fus.result = 5 ∧
      t.fus.verifyFails = sat s.fus.verifyFails 1 ∧ t.fus.retries = sat s.fus.retries 1 ∧ Keeps [.fus] s t)

/-! ### Images (R325–R331) -/

/-- A start claims the idle loader; a word in form is kept; a commit of a READY image ahead of its target is
scheduled; an abort, or 100 ms without a word, abandons the load with reason 23; a boot load takes its first copy and
judges its form. -/
def Obligations.ImageLoads : Prop :=
  (∀ (s : State) (via : Via), Served s via true .img 0 0x800000 → s.flt.fatal = false → s.img.phase = .idle →
    exec (.imageStart via 0x800000) s = .next (fin s (respond { s with img := { s.img with
      phase := .receive
      owner := some via.port
      kind := false
      source := 0
      received := 0
      structural := false
      shadow := none
      words := []
      firstEdge := none } } via true (addrOf .img 0) .ok 0))) ∧
  (∀ (s : State) (via : Via) (data : Word), Served s via true .img 5 data → s.img.phase = .receive →
    s.img.owner = some via.port → formatBreach (s.img.words.reverse ++ [data]) = none →
    (s.img.words.reverse ++ [data])[2]?.map BitVec.toNat ≠ some (s.img.words.length + 1) →
    exec (.imageDataWrite via data) s = .next (fin s (respond { s with img := { s.img with
      words := data :: s.img.words
      received := s.img.received + 1
      kind := if s.img.received = 1 then data.getLsbD 0 else s.img.kind } } via true (addrOf .img 5) .ok 0))) ∧
  (∀ (s : State) (via : Via), Served s via true .img 0 0x400000 → s.img.owner = some via.port → s.img.phase = .ready →
    s.img.target = 0 ∨ s.mer.count.toNat + 1 < s.img.target.toNat → s.mer.arm = false →
    exec (.imageCommit via 0x400000) s = .next (fin s (respond { s with img := { s.img with
      phase := .scheduled
      firstEdge := if s.img.target = 0 then some (s.elapsed + 1) else none } } via true (addrOf .img 0) .ok 0))) ∧
  (∀ (s : State) (via : Via), Served s via true .img 0 0x200000 → s.img.owner = some via.port → s.img.phase ≠ .idle →
    s.img.phase ≠ .switching →
    exec (.imageAbort via 0x200000) s = .next (fin s (respond (abortImage s 23) via true (addrOf .img 0) .ok 0))) ∧
  (∀ s : State, s.pins.pwrgood = true → s.img.phase = .receive → s.img.owner.isSome = true →
    exec .imageReceiveTimeout s = .next (fin s { s with img := { s.img with
      phase := .idle
      owner := none
      reason := 23
      detail := 0
      refusals := sat s.img.refusals 1
      structural := false
      shadow := none
      words := []
      copies := []
      firstEdge := none } })) ∧
  (∀ (s : State) (a b : List Word) (c : Nat) (cs : List Nat), s.pins.pwrgood = true → s.pins.bootQspi = true →
    s.img.bootDue = true → s.rst.phase = .image → s.img.phase = .idle → s.img.inForce = false → s.flt.fatal = false →
    copyOrder a b = c :: cs →
    exec (.qspiBootLoad a b) s = .next (fin s { s with img := { s.img with
      bootDue := false
      copies := cs
      kind := false
      phase := .receive
      source := BitVec.ofNat 2 c
      words := []
      received := 0 } })) ∧
  (∀ (s : State) (words : List Word), s.pins.pwrgood = true → s.img.phase = .receive → s.img.owner = none →
    words.length ≠ 0 → words[2]?.map BitVec.toNat = some words.length → formatBreach words = none →
    exec (.qspiCopyReadDone words) s = .next (fin s { s with img := { s.img with
      phase := .verify
      words := words.reverse
      received := words.length
      kind := (words.getD 1 0).getLsbD 0 } }))

/-- An authentic image goes on to admission and another is refused with code 2; an admitted one becomes the shadow,
and one that fails a check is refused with the code and detail of the first; at its edge a live image comes into
force, a structural one starts a warm reset, and one that run-time state now forbids is refused. -/
def Obligations.ImagesJudgedAndSwitched : Prop :=
  (∀ (s : State) (n : Nat), s.pins.pwrgood = true → s.img.phase = .verify → s.img.owner = some n →
    exec .signatureVerified s = .next (fin s (
      if authentic s.fus s.img.words.reverse then { s with img := { s.img with phase := .admission } }
      else { s with
        img := { s.img.toIdle with reason := 2, detail := 0, refusals := sat s.img.refusals 1 }
        flt := { s.flt with detected := s.flt.detected ++ [{ src := 0x34, inst := 0, detail := 0 }] } }))) ∧
  (∀ (s : State) (n : Nat), s.pins.pwrgood = true → s.img.phase = .admission → s.img.owner = some n →
    exec .admissionDone s = .next (fin s (match judgeImage s (parseImage s.img.words.reverse) with
      | none => { s with img := { s.img with
          phase := .ready
          structural := isStructural s (parseImage s.img.words.reverse)
          shadow := some (tablesOf s (parseImage s.img.words.reverse))
          firstEdge := none } }
      | some r => { s with
        img := { s.img.toIdle with reason := BitVec.ofNat 5 r.1, detail := r.2, refusals := sat s.img.refusals 1 }
        flt := { s.flt with detected := s.flt.detected ++ [{ src := 0x34, inst := 0, detail := 0 }] } }))) ∧
  (∀ (s : State) (tb : Tables), s.pins.pwrgood = true → s.img.shadow = some tb → s.img.phase = .scheduled →
    switchDue s = true → judgeRun s (parseImage s.img.words.reverse) tb = none → s.img.inForce = true →
    s.img.structural = false →
    ∃ t, exec .imageSwitch s = .next t ∧ t.tables = tb ∧ t.img.phase = .idle ∧ t.img.shadow = none ∧
      t.img.owner = none ∧ t.img.inForce = true ∧ t.img.switched = s.mer.count ∧ t.img.loads = sat s.img.loads 1 ∧
      t.rst = s.rst) ∧
  (∀ (s : State) (tb : Tables), s.pins.pwrgood = true → s.img.shadow = some tb → s.img.phase = .scheduled →
    switchDue s = true → judgeRun s (parseImage s.img.words.reverse) tb = none → s.img.inForce = true →
    s.img.structural = true → s.rst.phase = .ready →
    ∃ t, exec .imageSwitch s = .next t ∧ t.tables = s.tables ∧ t.img.phase = .switching ∧ t.img.shadow = some tb ∧
      t.img.switched = s.mer.count ∧ t.rst.phase = .quiesce ∧ t.rst.cause = 4 ∧ t.rst.warm = true ∧
      t.rst.warmCount = sat s.rst.warmCount 1) ∧
  (∀ (s : State) (tb : Tables) (n : Nat) (r : Nat × Word), s.pins.pwrgood = true → s.img.shadow = some tb →
    s.img.phase = .scheduled → switchDue s = true → s.img.owner = some n →
    judgeRun s (parseImage s.img.words.reverse) tb = some r →
    exec .imageSwitch s = .next (fin s { s with
      img := { s.img.toIdle with reason := BitVec.ofNat 5 r.1, detail := r.2, refusals := sat s.img.refusals 1 }
      flt := { s.flt with detected := s.flt.detected ++ [{ src := 0x34, inst := 0, detail := 0 }] } }))

/-! ### Resets and the start (R448–R463, R472–R480) -/

/-- A fall of PWRGOOD, a drop of VDD_AON, the rise that follows and a cold command leave a cold state; the fuse load
ends in the image phase or, while a pin holds the stack, held; the rise of RESET_N, REFCLK and the fall of TEST_EN let
it go on. -/
def Obligations.ColdStart : Prop :=
  (∀ s : State, s.pins.pwrgood = true →
    ∃ t, exec .powergoodFall s = .next t ∧ t.pins.pwrgood = false ∧ ColdFrom s t 0) ∧
  (∀ s : State, s.pins.pwrgood = true →
    ∃ t, exec .vddAonDrop s = .next t ∧ t.pins.pwrgood = false ∧ ColdFrom s t 0) ∧
  (∀ s : State, s.pins.pwrgood = false →
    ∃ t, exec .powergoodRise s = .next t ∧ t.pins.pwrgood = true ∧ ColdFrom s t 0) ∧
  (∀ (s : State) (via : Via), Served s via true .rst 0 0x800000 →
    ∃ t, exec (.coldResetCommand via 0x800000) s = .next t ∧ t.pins.pwrgood = true ∧ ColdFrom s t 1) ∧
  (∀ s : State, s.pins.pwrgood = true → s.rst.phase = .fuse → s.gazBuilt = true →
    ∃ t, exec .fuseLoadComplete s = .next t ∧ t.fus.loaded = true ∧ t.fus.array = s.fus.array ∧
      t.sec.lc = BitVec.ofNat 2 (lcWords s.fus) ∧ t.flt.pagesUsed = pagesFound s ∧ t.flt.head = s.log.fHead ∧
      t.rst.phase = (if s.pins.resetN = false ∨ s.pins.refclk = false ∨ (s.pins.testEn = true ∧ lcWords s.fus ≠ 0)
        then .held else .image)) ∧
  (∀ s : State, s.rst.phase = .held → s.rst.warm = false → s.pins.pwrgood = true → s.pins.refclk = true →
    s.pins.testEn = false →
    ∃ t, exec .resetNRise s = .next t ∧ t.pins.resetN = true ∧ t.rst.phase = .image ∧ t.sec.keyDue = true ∧
      t.img.bootDue = s.pins.bootQspi ∧ Keeps [.pins, .rst, .img, .sec, .doms] s t) ∧
  (∀ s : State, s.rst.phase = .held → s.rst.warm = false → s.pins.pwrgood = true → s.pins.resetN = true →
    s.pins.testEn = false →
    ∃ t, exec .refclkRestored s = .next t ∧ t.pins.refclk = true ∧ t.rst.phase = .image ∧
      Keeps [.pins, .rst, .img, .sec, .doms] s t) ∧
  (∀ s : State, s.rst.phase = .held → s.rst.warm = false → s.pins.pwrgood = true → s.pins.resetN = true →
    s.pins.refclk = true →
    ∃ t, exec .testEnFall s = .next t ∧ t.pins.testEn = false ∧ t.rst.phase = .image ∧
      Keeps [.pins, .rst, .img, .sec, .doms] s t)

/-- A warm command, RESET_N low from 1 µs on and a lost REFCLK quiesce a ready stack. What is quiesced is held in
reset with its time (log 122) and Logbook kept; then Fatal ends and the image phase begins. Out of a hold the two pins
only rise. -/
def Obligations.WarmResets : Prop :=
  (∀ (s : State) (via : Via), Served s via true .rst 0 0x400000 → s.rst.phase = .ready →
    ∃ t, exec (.warmResetCommand via 0x400000) s = .next t ∧ QuiescedFrom s t 3) ∧
  (∀ (s : State) (ns : Nat), s.pins.pwrgood = true → s.rst.phase = .ready → 1000 ≤ ns →
    ∃ t, exec (.resetNLow ns) s = .next t ∧ t.pins.resetN = false ∧ QuiescedFrom s t 2) ∧
  (∀ (s : State) (ns : Nat), ns < 100 → exec (.resetNLow ns) s = .next (fin s s)) ∧
  (∀ s : State, s.pins.pwrgood = true → s.rst.phase = .ready → s.pins.refclk = true →
    ∃ t, exec .refclkLoss s = .next t ∧ t.pins.refclk = false ∧ QuiescedFrom s t 2) ∧
  (∀ s : State, s.rst.phase ≠ .held →
    exec .resetNRise s = .next (fin s { s with pins := { s.pins with resetN := true } }) ∧
    exec .refclkRestored s = .next (fin s { s with pins := { s.pins with refclk := true } }) ∧
    exec .testEnFall s = .next (fin s { s with pins := { s.pins with testEn := false } })) ∧
  (∀ s : State, s.pins.pwrgood = true → s.rst.phase = .quiesce → quiesceOver s = true →
    ∃ t, exec .warmQuiesceDone s = .next t ∧ t.rst.phase = .held ∧ t.reqs = [] ∧ t.heldAcc = [] ∧ t.engs = [] ∧
      t.probes = [] ∧ t.slots = [] ∧ t.flt.irq = false ∧ t.mer.count = s.mer.count ∧ t.mer.st = s.mer.st ∧
      t.mer.aligned = s.mer.aligned ∧ t.mer.src = s.mer.src ∧ t.elapsed = s.elapsed ∧ t.log = s.log ∧ t.fus.array = s.fus.array) ∧
  (∀ s : State, s.pins.pwrgood = true → s.rst.phase = .held → s.rst.warm = true → s.pins.resetN = true →
    s.pins.refclk = true → s.flt.gale = false → s.img.shadow = none →
    ∃ t, exec .warmHeldEnd s = .next t ∧ t.rst.phase = .image ∧ t.flt.fatal = false ∧ t.flt.gale = false ∧
      t.pins.thermtripN = true ∧ t.sec.keyDue = true ∧ t.img = { s.img with bootDue := s.pins.bootQspi } ∧
      t.mer = s.mer)

/-- A channel reset empties the channel and pauses it, its pending neighbour refreshes kept, and its end starts the
pattern check; a tier reset puts the tier's ranks into self-refresh, and its end takes the tier out of reset, with a
pattern check of each of its channels due or under way. The fill leaves every line of a rank whose domain is ON
reading zeros, and then the stack is ready. -/
def Obligations.PartResetsAndReady : Prop :=
  (∀ (s : State) (via : Via) (data : Word) (c : Nat), Served s via true .rst 0 data → data.getLsbD 23 = false →
    data.getLsbD 22 = false → data.getLsbD 21 = true → data.getLsbD 20 = false → c = (data.extractLsb' 15 5).toNat →
    (s.chan c).seq = .idle → trnBusy s c = false → laneBusy s c = false → bstBusy s c = false → resetRuns s = false →
    (s.sprOf c).st = .normal ∨ (s.sprOf c).st = .laneDegraded → (s.chan c).st ≠ .closed →
    ∃ t, exec (.channelResetCommand via data) s = .next t ∧ t.rst.chanBusy = [c] ∧ (t.chan c).inflight = [] ∧
      (t.chan c).banks = keepNrf (s.chan c).banks ∧ (t.chan c).st = .paused ∧ (t.chan c).rdq = [] ∧ (t.chan c).wrq = [] ∧
      (t.chan c).wrWait = (s.chan c).writes ∧
      Keeps [.reqs, .chans, .rfr, .rst, .ports] s t) ∧
  (∀ (s : State) (c : Nat), s.pins.pwrgood = true → s.rst.chanBusy = [c] → chanFenced s c = false →
    s.flt.fatal = false → (s.chan c).st ≠ .closed → (s.sprOf c).st ≠ .rescue →
    ∃ t, exec (.channelResetDone c) s = .next t ∧ t.rst.chanBusy = [] ∧ (t.trnOf c).action = .check ∧
      (t.chan c).st = .paused ∧ Keeps [.rst, .trn, .chans, .rfr, .reqs] s t) ∧
  (∀ (s : State) (via : Via) (data : Word) (n : Nat), Served s via true .rst 0 data → data.getLsbD 23 = false →
    data.getLsbD 22 = false → data.getLsbD 21 = false → data.getLsbD 20 = true → n = (data.extractLsb' 10 5).toNat →
    n < 20 → tierPresent s.variant n = true → domOn s (52 + n) = true → tierInUse s n = false → resetRuns s = false →
    ∃ t, exec (.tierResetCommand via data) s = .next t ∧ (t.tier n).inReset = true ∧ t.rst.tierBusy = some n ∧
      (∀ c ∈ chansOfTier n, (t.rfrOf c).inSr.getLsbD (rankOfTier n) = true) ∧
      Keeps [.tiers, .rst, .chans, .rfr, .ports] s t) ∧
  (∀ (s : State) (n : Nat), s.pins.pwrgood = true → s.rst.tierBusy = some n →
    ∃ t, exec (.tierResetDone n) s = .next t ∧ (t.tier n).inReset = false ∧ t.rst.tierBusy = none ∧
      (∀ c ∈ chansOfTier n, s.flt.fatal = false → chanFenced s c = false →
        (t.trnOf c).checkDue = true ∨ (t.trnOf c).action = .check) ∧
      Keeps [.tiers, .rst, .rfr, .trn, .chans, .flowRt] s t) ∧
  (∀ s : State, s.pins.pwrgood = true → s.rst.phase = .fill → s.rst.fillDue = true → s.rst.pagesDue = false →
    s.rst.fillsDue = [] → s.pwr.hold = false → s.flt.fatal = false → chansUp s = true → s.tables.compat = false →
    ∃ t, exec .nativeFillDone s = .next t ∧ t.rst = { s.rst with fillDue := false } ∧
      (∀ c k, c < 32 → rankPresent s.variant k = true → domOn s (52 + tierOf c k) = true →
        ∀ l : Loc, l.ch = c → l.rank = k → cellRead t l = zeroWords) ∧ Keeps [.rst, .mem, .ecc] s t) ∧
  (∀ s : State, s.pins.pwrgood = true → s.rst.phase = .fill → fillWaits s = false → s.flt.fatal = false →
    s.rst.warm = false →
    ∃ t, exec .stackReady s = .next t ∧ t.rst = { s.rst with
        phase := .ready
        readyStamp := s.mer.count
        readyBeats := BitVec.ofNat 24 (min (s.elapsed - s.rst.trigger) (2 ^ 24 - 1)) } ∧ Keeps [.rst, .ports] s t)
end

