-- ==== Sys2Proof/Laws/Tables.lean ====
section
/-! SUPPORT. The sparse tables: what a key reads as after a write, and the canonical form that every write keeps. -/

namespace Sys2Proof.Machine

@[simp] theorem tget_nil {α : Type} (d : α) (k : Nat) : tget d [] k = d := rfl
@[simp] theorem tfind_nil {α : Type} (k : Nat) : tfind ([] : Tbl α) k = none := rfl

theorem twfFrom_mono {α : Type} [DecidableEq α] (d : α) (t : Tbl α) {lo lo' : Nat} (h : lo' ≤ lo)
    (w : twfFrom d lo t = true) : twfFrom d lo' t = true := by
  cases t with
  | nil => rfl
  | cons e r =>
    obtain ⟨k, v⟩ := e
    simp only [twfFrom, Bool.and_eq_true, decide_eq_true_eq] at w ⊢
    exact ⟨⟨Nat.le_trans h w.1.1, w.1.2⟩, w.2⟩

theorem tget_tput_self {α : Type} (d : α) : ∀ (t : Tbl α) (k : Nat) (v : α), tget d (tput t k v) k = v
  | [], k, v => by simp [tput, tget]
  | (k', v') :: r, k, v => by
    by_cases h : k < k'
    · simp [tput, h, tget]
    · by_cases he : k = k'
      · simp [tput, he, tget]
      · have : k' ≠ k := fun x => he x.symm
        simp [tput, h, he, tget, this, tget_tput_self d r k v]

theorem tget_tput_ne {α : Type} (d : α) : ∀ (t : Tbl α) (k j : Nat) (v : α),
    j ≠ k → tget d (tput t k v) j = tget d t j
  | [], k, j, v, h => by
    have h' : k ≠ j := fun x => h x.symm
    simp [tput, tget, h']
  | (k', v') :: r, k, j, v, h => by
    have h' : k ≠ j := fun x => h x.symm
    by_cases hk : k < k'
    · simp [tput, hk, tget, h']
    · by_cases he : k = k'
      · subst he; simp [tput, tget, h']
      · rw [tput, if_neg hk, if_neg he, tget, tget, tget_tput_ne d r k j v h]

theorem tget_tdel_self {α : Type} (d : α) (t : Tbl α) (k : Nat) : tget d (tdel t k) k = d := by
  induction t with
  | nil => rfl
  | cons e r ih =>
    obtain ⟨k', v⟩ := e
    by_cases h : k' = k
    · subst h; simpa [tdel] using ih
    · simpa [tdel, h, tget] using ih

theorem tget_tdel_ne {α : Type} (d : α) (t : Tbl α) (k j : Nat) (h : j ≠ k) : tget d (tdel t k) j = tget d t j := by
  induction t with
  | nil => rfl
  | cons e r ih =>
    obtain ⟨k', v⟩ := e
    by_cases hk : k' = k
    · have hj : k' ≠ j := by omega
      subst hk; simpa [tdel, tget, hj] using ih
    · by_cases hj : k' = j
      · subst hj; simp [tdel, hk, tget]
      · simpa [tdel, hk, tget, hj] using ih

/-- A key reads what was last set. -/
@[simp] theorem tget_tset_self {α : Type} [DecidableEq α] (d : α) (t : Tbl α) (k : Nat) (v : α) :
    tget d (tset d t k v) k = v := by
  unfold tset
  split
  · next h => rw [tget_tdel_self, h]
  · exact tget_tput_self d t k v

/-- Other keys read as before. -/
theorem tget_tset_ne {α : Type} [DecidableEq α] (d : α) (t : Tbl α) (k j : Nat) (v : α) (h : j ≠ k) :
    tget d (tset d t k v) j = tget d t j := by
  unfold tset
  split
  · exact tget_tdel_ne d t k j h
  · exact tget_tput_ne d t k j v h

theorem tput_tput {α : Type} : ∀ (t : Tbl α) (k : Nat) (v w : α), tput (tput t k v) k w = tput t k w
  | [], k, v, w => by simp [tput]
  | (k', v') :: r, k, v, w => by
    by_cases h : k < k'
    · simp [tput, h]
    · by_cases he : k = k'
      · simp [tput, he]
      · simp [tput, h, he, tput_tput r k v w]

theorem tdel_tput {α : Type} : ∀ (t : Tbl α) (k : Nat) (v : α), tdel (tput t k v) k = tdel t k
  | [], k, v => by simp [tput, tdel]
  | (k', v') :: r, k, v => by
    by_cases h : k < k'
    · simp [tput, h, tdel]
    · by_cases he : k = k'
      · subst he; simp [tput, tdel]
      · have := tdel_tput r k v
        simp only [tdel] at this ⊢
        simp [tput, h, he, List.filter_cons, this]

/-- The later of two writes of a key stands, when the earlier one listed it. -/
theorem tset_tset {α : Type} [DecidableEq α] (d : α) (t : Tbl α) (k : Nat) (v w : α) (h : v ≠ d) :
    tset d (tset d t k v) k w = tset d t k w := by
  unfold tset
  rw [if_neg h, tput_tput, tdel_tput]

theorem twfFrom_tput {α : Type} [DecidableEq α] (d : α) : ∀ (t : Tbl α) (lo k : Nat) (v : α),
    twfFrom d lo t = true → lo ≤ k → v ≠ d → twfFrom d lo (tput t k v) = true
  | [], lo, k, v, _, h, hv => by simp [tput, twfFrom, hv, h]
  | (k', v') :: r, lo, k, v, w, h, hv => by
    simp only [twfFrom, Bool.and_eq_true, decide_eq_true_eq] at w
    by_cases hk : k < k'
    · simp [tput, hk, hv, twfFrom, h, w.1.2, w.2, Nat.succ_le_of_lt hk]
    · by_cases he : k = k'
      · subst he; simp [tput, hv, twfFrom, w.1.1, w.2]
      · simp [tput, hk, he, twfFrom, w.1.1, w.1.2, twfFrom_tput d r (k' + 1) k v w.2 (by omega) hv]

theorem twfFrom_tdel {α : Type} [DecidableEq α] (d : α) : ∀ (t : Tbl α) (lo k : Nat),
    twfFrom d lo t = true → twfFrom d lo (tdel t k) = true
  | [], _, _, _ => rfl
  | (k', v') :: r, lo, k, w => by
    simp only [twfFrom, Bool.and_eq_true, decide_eq_true_eq] at w
    have ih := twfFrom_tdel d r (k' + 1) k w.2
    by_cases he : k' = k
    · subst he
      have : tdel ((k', v') :: r) k' = tdel r k' := by simp [tdel]
      rw [this]
      exact twfFrom_mono d _ (by omega) ih
    · have : tdel ((k', v') :: r) k = (k', v') :: tdel r k := by simp [tdel, he]
      simp [this, twfFrom, w.1.1, w.1.2, ih]

/-- A write keeps the canonical form. -/
theorem twf_tset {α : Type} [DecidableEq α] (d : α) (t : Tbl α) (k : Nat) (v : α) (w : twf d t = true) :
    twf d (tset d t k v) = true := by
  unfold tset
  split
  · exact twfFrom_tdel d t 0 k w
  · next h => exact twfFrom_tput d t 0 k v w (Nat.zero_le k) h

/-- An optional entry reads what was last put. -/
@[simp] theorem tfind_tput_self {α : Type} : ∀ (t : Tbl α) (k : Nat) (v : α), tfind (tput t k v) k = some v
  | [], k, v => by simp [tput, tfind]
  | (k', v') :: r, k, v => by
    by_cases h : k < k'
    · simp [tput, h, tfind]
    · by_cases he : k = k'
      · simp [tput, he, tfind]
      · have : k' ≠ k := fun x => he x.symm
        simp [tput, h, he, tfind, this, tfind_tput_self r k v]

theorem tfind_tput_ne {α : Type} : ∀ (t : Tbl α) (k j : Nat) (v : α), j ≠ k → tfind (tput t k v) j = tfind t j
  | [], k, j, v, h => by
    have h' : k ≠ j := fun x => h x.symm
    simp [tput, tfind, h']
  | (k', v') :: r, k, j, v, h => by
    have h' : k ≠ j := fun x => h x.symm
    by_cases hk : k < k'
    · simp [tput, hk, tfind, h']
    · by_cases he : k = k'
      · subst he; simp [tput, tfind, h']
      · rw [tput, if_neg hk, if_neg he, tfind, tfind, tfind_tput_ne r k j v h]

@[simp] theorem tfind_tdel_self {α : Type} (t : Tbl α) (k : Nat) : tfind (tdel t k) k = none := by
  induction t with
  | nil => rfl
  | cons e r ih =>
    obtain ⟨k', v⟩ := e
    by_cases h : k' = k
    · subst h; simpa [tdel] using ih
    · simpa [tdel, h, tfind] using ih

theorem tfind_tdel_ne {α : Type} (t : Tbl α) (k j : Nat) (h : j ≠ k) : tfind (tdel t k) j = tfind t j := by
  induction t with
  | nil => rfl
  | cons e r ih =>
    obtain ⟨k', v⟩ := e
    by_cases hk : k' = k
    · have hj : k' ≠ j := by omega
      subst hk; simpa [tdel, tfind, hj] using ih
    · by_cases hj : k' = j
      · subst hj; simp [tdel, hk, tfind]
      · simpa [tdel, hk, tfind, hj] using ih

end Sys2Proof.Machine
end

