-- ==== Sys2Proof/Laws/State.lean ====
section
/-! SUPPORT. What each writer of a unit leaves alone, field by field (each a definitional equality), what its own unit reads
as afterwards, and what the shared operations of `Ops` leave alone. -/

namespace Sys2Proof.Machine

@[simp] theorem setPort_frame (s : State) (i : Nat) (v : Port) :
    (s.setPort i v).variant = s.variant ∧ (s.setPort i v).pins = s.pins ∧ (s.setPort i v).elapsed = s.elapsed ∧
    (s.setPort i v).clock = s.clock ∧
    (s.setPort i v).gazBuilt = s.gazBuilt ∧ (s.setPort i v).paths = s.paths ∧ (s.setPort i v).heldAcc = s.heldAcc ∧
    (s.setPort i v).sb = s.sb ∧ (s.setPort i v).rst = s.rst ∧ (s.setPort i v).mer = s.mer ∧
    (s.setPort i v).reqs = s.reqs ∧ (s.setPort i v).flowRt = s.flowRt ∧ (s.setPort i v).flw = s.flw ∧
    (s.setPort i v).queues = s.queues ∧ (s.setPort i v).tables = s.tables ∧ (s.setPort i v).img = s.img ∧
    (s.setPort i v).probes = s.probes ∧ (s.setPort i v).chans = s.chans ∧ (s.setPort i v).mem = s.mem ∧
    (s.setPort i v).ecc = s.ecc ∧ (s.setPort i v).inkAll = s.inkAll ∧ (s.setPort i v).ink = s.ink ∧
    (s.setPort i v).filling = s.filling ∧ (s.setPort i v).tiers = s.tiers ∧ (s.setPort i v).rfr = s.rfr ∧
    (s.setPort i v).spr = s.spr ∧ (s.setPort i v).ranks = s.ranks ∧ (s.setPort i v).mig = s.mig ∧
    (s.setPort i v).tsv = s.tsv ∧ (s.setPort i v).trn = s.trn ∧ (s.setPort i v).bst = s.bst ∧
    (s.setPort i v).bstNext = s.bstNext ∧ (s.setPort i v).engs = s.engs ∧ (s.setPort i v).pool = s.pool ∧
    (s.setPort i v).ctxs = s.ctxs ∧ (s.setPort i v).chks = s.chks ∧ (s.setPort i v).cip = s.cip ∧
    (s.setPort i v).slots = s.slots ∧ (s.setPort i v).sec = s.sec ∧ (s.setPort i v).flt = s.flt ∧
    (s.setPort i v).pwr = s.pwr ∧ (s.setPort i v).doms = s.doms ∧ (s.setPort i v).hkp = s.hkp ∧
    (s.setPort i v).fus = s.fus ∧ (s.setPort i v).tel = s.tel ∧ (s.setPort i v).log = s.log ∧
    (s.setPort i v).freeIdx = s.freeIdx ∧ (s.setPort i v).pending = s.pending := by
  and_intros <;> rfl

@[simp] theorem modPort_def (s : State) (i : Nat) (g : Port → Port) : s.modPort i g = s.setPort i (g (s.port i)) := rfl

@[simp] theorem port_setPort (s : State) (i : Nat) (v : Port) : (s.setPort i v).port i = v := tget_tset_self _ _ _ _

theorem setPort_setPort (s : State) (i : Nat) (v w : Port) (h : v ≠ {}) :
    (s.setPort i v).setPort i w = s.setPort i w := by
  simp only [State.setPort, tset_tset _ _ _ _ _ h]

theorem port_setPort_ne (s : State) (i j : Nat) (v : Port) (h : j ≠ i) : (s.setPort i v).port j = s.port j :=
  tget_tset_ne ({} : Port) s.ports i j v h

@[simp] theorem setPath_frame (s : State) (i : Nat) (v : Path) :
    (s.setPath i v).variant = s.variant ∧ (s.setPath i v).pins = s.pins ∧ (s.setPath i v).elapsed = s.elapsed ∧
    (s.setPath i v).clock = s.clock ∧
    (s.setPath i v).gazBuilt = s.gazBuilt ∧ (s.setPath i v).heldAcc = s.heldAcc ∧ (s.setPath i v).sb = s.sb ∧
    (s.setPath i v).rst = s.rst ∧ (s.setPath i v).mer = s.mer ∧ (s.setPath i v).ports = s.ports ∧
    (s.setPath i v).reqs = s.reqs ∧ (s.setPath i v).flowRt = s.flowRt ∧ (s.setPath i v).flw = s.flw ∧
    (s.setPath i v).queues = s.queues ∧ (s.setPath i v).tables = s.tables ∧ (s.setPath i v).img = s.img ∧
    (s.setPath i v).probes = s.probes ∧ (s.setPath i v).chans = s.chans ∧ (s.setPath i v).mem = s.mem ∧
    (s.setPath i v).ecc = s.ecc ∧ (s.setPath i v).inkAll = s.inkAll ∧ (s.setPath i v).ink = s.ink ∧
    (s.setPath i v).filling = s.filling ∧ (s.setPath i v).tiers = s.tiers ∧ (s.setPath i v).rfr = s.rfr ∧
    (s.setPath i v).spr = s.spr ∧ (s.setPath i v).ranks = s.ranks ∧ (s.setPath i v).mig = s.mig ∧
    (s.setPath i v).tsv = s.tsv ∧ (s.setPath i v).trn = s.trn ∧ (s.setPath i v).bst = s.bst ∧
    (s.setPath i v).bstNext = s.bstNext ∧ (s.setPath i v).engs = s.engs ∧ (s.setPath i v).pool = s.pool ∧
    (s.setPath i v).ctxs = s.ctxs ∧ (s.setPath i v).chks = s.chks ∧ (s.setPath i v).cip = s.cip ∧
    (s.setPath i v).slots = s.slots ∧ (s.setPath i v).sec = s.sec ∧ (s.setPath i v).flt = s.flt ∧
    (s.setPath i v).pwr = s.pwr ∧ (s.setPath i v).doms = s.doms ∧ (s.setPath i v).hkp = s.hkp ∧
    (s.setPath i v).fus = s.fus ∧ (s.setPath i v).tel = s.tel ∧ (s.setPath i v).log = s.log ∧
    (s.setPath i v).freeIdx = s.freeIdx ∧ (s.setPath i v).pending = s.pending := by
  and_intros <;> rfl

@[simp] theorem modPath_def (s : State) (i : Nat) (g : Path → Path) : s.modPath i g = s.setPath i (g (s.path i)) := rfl

@[simp] theorem path_setPath (s : State) (i : Nat) (v : Path) : (s.setPath i v).path i = v := tget_tset_self _ _ _ _

theorem setPath_setPath (s : State) (i : Nat) (v w : Path) (h : v ≠ {}) :
    (s.setPath i v).setPath i w = s.setPath i w := by
  simp only [State.setPath, tset_tset _ _ _ _ _ h]

theorem path_setPath_ne (s : State) (i j : Nat) (v : Path) (h : j ≠ i) : (s.setPath i v).path j = s.path j :=
  tget_tset_ne ({} : Path) s.paths i j v h

@[simp] theorem setFlowR_frame (s : State) (i : Nat) (v : FlowRt) :
    (s.setFlowR i v).variant = s.variant ∧ (s.setFlowR i v).pins = s.pins ∧ (s.setFlowR i v).elapsed = s.elapsed ∧
    (s.setFlowR i v).clock = s.clock ∧
    (s.setFlowR i v).gazBuilt = s.gazBuilt ∧ (s.setFlowR i v).paths = s.paths ∧ (s.setFlowR i v).heldAcc = s.heldAcc ∧
    (s.setFlowR i v).sb = s.sb ∧ (s.setFlowR i v).rst = s.rst ∧ (s.setFlowR i v).mer = s.mer ∧
    (s.setFlowR i v).ports = s.ports ∧ (s.setFlowR i v).reqs = s.reqs ∧ (s.setFlowR i v).flw = s.flw ∧
    (s.setFlowR i v).queues = s.queues ∧ (s.setFlowR i v).tables = s.tables ∧ (s.setFlowR i v).img = s.img ∧
    (s.setFlowR i v).probes = s.probes ∧ (s.setFlowR i v).chans = s.chans ∧ (s.setFlowR i v).mem = s.mem ∧
    (s.setFlowR i v).ecc = s.ecc ∧ (s.setFlowR i v).inkAll = s.inkAll ∧ (s.setFlowR i v).ink = s.ink ∧
    (s.setFlowR i v).filling = s.filling ∧ (s.setFlowR i v).tiers = s.tiers ∧ (s.setFlowR i v).rfr = s.rfr ∧
    (s.setFlowR i v).spr = s.spr ∧ (s.setFlowR i v).ranks = s.ranks ∧ (s.setFlowR i v).mig = s.mig ∧
    (s.setFlowR i v).tsv = s.tsv ∧ (s.setFlowR i v).trn = s.trn ∧ (s.setFlowR i v).bst = s.bst ∧
    (s.setFlowR i v).bstNext = s.bstNext ∧ (s.setFlowR i v).engs = s.engs ∧ (s.setFlowR i v).pool = s.pool ∧
    (s.setFlowR i v).ctxs = s.ctxs ∧ (s.setFlowR i v).chks = s.chks ∧ (s.setFlowR i v).cip = s.cip ∧
    (s.setFlowR i v).slots = s.slots ∧ (s.setFlowR i v).sec = s.sec ∧ (s.setFlowR i v).flt = s.flt ∧
    (s.setFlowR i v).pwr = s.pwr ∧ (s.setFlowR i v).doms = s.doms ∧ (s.setFlowR i v).hkp = s.hkp ∧
    (s.setFlowR i v).fus = s.fus ∧ (s.setFlowR i v).tel = s.tel ∧ (s.setFlowR i v).log = s.log ∧
    (s.setFlowR i v).freeIdx = s.freeIdx ∧ (s.setFlowR i v).pending = s.pending := by
  and_intros <;> rfl

@[simp] theorem modFlowR_def (s : State) (i : Nat) (g : FlowRt → FlowRt) : s.modFlowR i g = s.setFlowR i (g (s.flowR i)) := rfl

@[simp] theorem flowR_setFlowR (s : State) (i : Nat) (v : FlowRt) : (s.setFlowR i v).flowR i = v := tget_tset_self _ _ _ _

theorem setFlowR_setFlowR (s : State) (i : Nat) (v w : FlowRt) (h : v ≠ {}) :
    (s.setFlowR i v).setFlowR i w = s.setFlowR i w := by
  simp only [State.setFlowR, tset_tset _ _ _ _ _ h]

theorem flowR_setFlowR_ne (s : State) (i j : Nat) (v : FlowRt) (h : j ≠ i) : (s.setFlowR i v).flowR j = s.flowR j :=
  tget_tset_ne ({} : FlowRt) s.flowRt i j v h

@[simp] theorem setEvq_frame (s : State) (i : Nat) (v : EvQueue) :
    (s.setEvq i v).variant = s.variant ∧ (s.setEvq i v).pins = s.pins ∧ (s.setEvq i v).elapsed = s.elapsed ∧
    (s.setEvq i v).clock = s.clock ∧
    (s.setEvq i v).gazBuilt = s.gazBuilt ∧ (s.setEvq i v).paths = s.paths ∧ (s.setEvq i v).heldAcc = s.heldAcc ∧
    (s.setEvq i v).sb = s.sb ∧ (s.setEvq i v).rst = s.rst ∧ (s.setEvq i v).mer = s.mer ∧
    (s.setEvq i v).ports = s.ports ∧ (s.setEvq i v).reqs = s.reqs ∧ (s.setEvq i v).flowRt = s.flowRt ∧
    (s.setEvq i v).flw = s.flw ∧ (s.setEvq i v).tables = s.tables ∧ (s.setEvq i v).img = s.img ∧
    (s.setEvq i v).probes = s.probes ∧ (s.setEvq i v).chans = s.chans ∧ (s.setEvq i v).mem = s.mem ∧
    (s.setEvq i v).ecc = s.ecc ∧ (s.setEvq i v).inkAll = s.inkAll ∧ (s.setEvq i v).ink = s.ink ∧
    (s.setEvq i v).filling = s.filling ∧ (s.setEvq i v).tiers = s.tiers ∧ (s.setEvq i v).rfr = s.rfr ∧
    (s.setEvq i v).spr = s.spr ∧ (s.setEvq i v).ranks = s.ranks ∧ (s.setEvq i v).mig = s.mig ∧
    (s.setEvq i v).tsv = s.tsv ∧ (s.setEvq i v).trn = s.trn ∧ (s.setEvq i v).bst = s.bst ∧
    (s.setEvq i v).bstNext = s.bstNext ∧ (s.setEvq i v).engs = s.engs ∧ (s.setEvq i v).pool = s.pool ∧
    (s.setEvq i v).ctxs = s.ctxs ∧ (s.setEvq i v).chks = s.chks ∧ (s.setEvq i v).cip = s.cip ∧
    (s.setEvq i v).slots = s.slots ∧ (s.setEvq i v).sec = s.sec ∧ (s.setEvq i v).flt = s.flt ∧
    (s.setEvq i v).pwr = s.pwr ∧ (s.setEvq i v).doms = s.doms ∧ (s.setEvq i v).hkp = s.hkp ∧
    (s.setEvq i v).fus = s.fus ∧ (s.setEvq i v).tel = s.tel ∧ (s.setEvq i v).log = s.log ∧
    (s.setEvq i v).freeIdx = s.freeIdx ∧ (s.setEvq i v).pending = s.pending := by
  and_intros <;> rfl

@[simp] theorem modEvq_def (s : State) (i : Nat) (g : EvQueue → EvQueue) : s.modEvq i g = s.setEvq i (g (s.evq i)) := rfl

@[simp] theorem evq_setEvq (s : State) (i : Nat) (v : EvQueue) : (s.setEvq i v).evq i = v := tget_tset_self _ _ _ _

theorem setEvq_setEvq (s : State) (i : Nat) (v w : EvQueue) (h : v ≠ {}) :
    (s.setEvq i v).setEvq i w = s.setEvq i w := by
  simp only [State.setEvq, tset_tset _ _ _ _ _ h]

theorem evq_setEvq_ne (s : State) (i j : Nat) (v : EvQueue) (h : j ≠ i) : (s.setEvq i v).evq j = s.evq j :=
  tget_tset_ne ({} : EvQueue) s.queues i j v h

@[simp] theorem setChan_frame (s : State) (i : Nat) (v : Chan) :
    (s.setChan i v).variant = s.variant ∧ (s.setChan i v).pins = s.pins ∧ (s.setChan i v).elapsed = s.elapsed ∧
    (s.setChan i v).clock = s.clock ∧
    (s.setChan i v).gazBuilt = s.gazBuilt ∧ (s.setChan i v).paths = s.paths ∧ (s.setChan i v).heldAcc = s.heldAcc ∧
    (s.setChan i v).sb = s.sb ∧ (s.setChan i v).rst = s.rst ∧ (s.setChan i v).mer = s.mer ∧
    (s.setChan i v).ports = s.ports ∧ (s.setChan i v).reqs = s.reqs ∧ (s.setChan i v).flowRt = s.flowRt ∧
    (s.setChan i v).flw = s.flw ∧ (s.setChan i v).queues = s.queues ∧ (s.setChan i v).tables = s.tables ∧
    (s.setChan i v).img = s.img ∧ (s.setChan i v).probes = s.probes ∧ (s.setChan i v).mem = s.mem ∧
    (s.setChan i v).ecc = s.ecc ∧ (s.setChan i v).inkAll = s.inkAll ∧ (s.setChan i v).ink = s.ink ∧
    (s.setChan i v).filling = s.filling ∧ (s.setChan i v).tiers = s.tiers ∧ (s.setChan i v).rfr = s.rfr ∧
    (s.setChan i v).spr = s.spr ∧ (s.setChan i v).ranks = s.ranks ∧ (s.setChan i v).mig = s.mig ∧
    (s.setChan i v).tsv = s.tsv ∧ (s.setChan i v).trn = s.trn ∧ (s.setChan i v).bst = s.bst ∧
    (s.setChan i v).bstNext = s.bstNext ∧ (s.setChan i v).engs = s.engs ∧ (s.setChan i v).pool = s.pool ∧
    (s.setChan i v).ctxs = s.ctxs ∧ (s.setChan i v).chks = s.chks ∧ (s.setChan i v).cip = s.cip ∧
    (s.setChan i v).slots = s.slots ∧ (s.setChan i v).sec = s.sec ∧ (s.setChan i v).flt = s.flt ∧
    (s.setChan i v).pwr = s.pwr ∧ (s.setChan i v).doms = s.doms ∧ (s.setChan i v).hkp = s.hkp ∧
    (s.setChan i v).fus = s.fus ∧ (s.setChan i v).tel = s.tel ∧ (s.setChan i v).log = s.log ∧
    (s.setChan i v).freeIdx = s.freeIdx ∧ (s.setChan i v).pending = s.pending := by
  and_intros <;> rfl

@[simp] theorem modChan_def (s : State) (i : Nat) (g : Chan → Chan) : s.modChan i g = s.setChan i (g (s.chan i)) := rfl

@[simp] theorem chan_setChan (s : State) (i : Nat) (v : Chan) : (s.setChan i v).chan i = v := tget_tset_self _ _ _ _

theorem setChan_setChan (s : State) (i : Nat) (v w : Chan) (h : v ≠ {}) :
    (s.setChan i v).setChan i w = s.setChan i w := by
  simp only [State.setChan, tset_tset _ _ _ _ _ h]

theorem chan_setChan_ne (s : State) (i j : Nat) (v : Chan) (h : j ≠ i) : (s.setChan i v).chan j = s.chan j :=
  tget_tset_ne ({} : Chan) s.chans i j v h

@[simp] theorem setRmem_frame (s : State) (i : Nat) (v : RankMem) :
    (s.setRmem i v).variant = s.variant ∧ (s.setRmem i v).pins = s.pins ∧ (s.setRmem i v).elapsed = s.elapsed ∧
    (s.setRmem i v).clock = s.clock ∧
    (s.setRmem i v).gazBuilt = s.gazBuilt ∧ (s.setRmem i v).paths = s.paths ∧ (s.setRmem i v).heldAcc = s.heldAcc ∧
    (s.setRmem i v).sb = s.sb ∧ (s.setRmem i v).rst = s.rst ∧ (s.setRmem i v).mer = s.mer ∧
    (s.setRmem i v).ports = s.ports ∧ (s.setRmem i v).reqs = s.reqs ∧ (s.setRmem i v).flowRt = s.flowRt ∧
    (s.setRmem i v).flw = s.flw ∧ (s.setRmem i v).queues = s.queues ∧ (s.setRmem i v).tables = s.tables ∧
    (s.setRmem i v).img = s.img ∧ (s.setRmem i v).probes = s.probes ∧ (s.setRmem i v).chans = s.chans ∧
    (s.setRmem i v).ecc = s.ecc ∧ (s.setRmem i v).inkAll = s.inkAll ∧ (s.setRmem i v).ink = s.ink ∧
    (s.setRmem i v).filling = s.filling ∧ (s.setRmem i v).tiers = s.tiers ∧ (s.setRmem i v).rfr = s.rfr ∧
    (s.setRmem i v).spr = s.spr ∧ (s.setRmem i v).ranks = s.ranks ∧ (s.setRmem i v).mig = s.mig ∧
    (s.setRmem i v).tsv = s.tsv ∧ (s.setRmem i v).trn = s.trn ∧ (s.setRmem i v).bst = s.bst ∧
    (s.setRmem i v).bstNext = s.bstNext ∧ (s.setRmem i v).engs = s.engs ∧ (s.setRmem i v).pool = s.pool ∧
    (s.setRmem i v).ctxs = s.ctxs ∧ (s.setRmem i v).chks = s.chks ∧ (s.setRmem i v).cip = s.cip ∧
    (s.setRmem i v).slots = s.slots ∧ (s.setRmem i v).sec = s.sec ∧ (s.setRmem i v).flt = s.flt ∧
    (s.setRmem i v).pwr = s.pwr ∧ (s.setRmem i v).doms = s.doms ∧ (s.setRmem i v).hkp = s.hkp ∧
    (s.setRmem i v).fus = s.fus ∧ (s.setRmem i v).tel = s.tel ∧ (s.setRmem i v).log = s.log ∧
    (s.setRmem i v).freeIdx = s.freeIdx ∧ (s.setRmem i v).pending = s.pending := by
  and_intros <;> rfl

@[simp] theorem modRmem_def (s : State) (i : Nat) (g : RankMem → RankMem) : s.modRmem i g = s.setRmem i (g (s.rmem i)) := rfl

@[simp] theorem rmem_setRmem (s : State) (i : Nat) (v : RankMem) : (s.setRmem i v).rmem i = v := tget_tset_self _ _ _ _

theorem setRmem_setRmem (s : State) (i : Nat) (v w : RankMem) (h : v ≠ {}) :
    (s.setRmem i v).setRmem i w = s.setRmem i w := by
  simp only [State.setRmem, tset_tset _ _ _ _ _ h]

theorem rmem_setRmem_ne (s : State) (i j : Nat) (v : RankMem) (h : j ≠ i) : (s.setRmem i v).rmem j = s.rmem j :=
  tget_tset_ne ({} : RankMem) s.mem i j v h

@[simp] theorem setEccOf_frame (s : State) (i : Nat) (v : Ecc) :
    (s.setEccOf i v).variant = s.variant ∧ (s.setEccOf i v).pins = s.pins ∧ (s.setEccOf i v).elapsed = s.elapsed ∧
    (s.setEccOf i v).clock = s.clock ∧
    (s.setEccOf i v).gazBuilt = s.gazBuilt ∧ (s.setEccOf i v).paths = s.paths ∧ (s.setEccOf i v).heldAcc = s.heldAcc ∧
    (s.setEccOf i v).sb = s.sb ∧ (s.setEccOf i v).rst = s.rst ∧ (s.setEccOf i v).mer = s.mer ∧
    (s.setEccOf i v).ports = s.ports ∧ (s.setEccOf i v).reqs = s.reqs ∧ (s.setEccOf i v).flowRt = s.flowRt ∧
    (s.setEccOf i v).flw = s.flw ∧ (s.setEccOf i v).queues = s.queues ∧ (s.setEccOf i v).tables = s.tables ∧
    (s.setEccOf i v).img = s.img ∧ (s.setEccOf i v).probes = s.probes ∧ (s.setEccOf i v).chans = s.chans ∧
    (s.setEccOf i v).mem = s.mem ∧ (s.setEccOf i v).inkAll = s.inkAll ∧ (s.setEccOf i v).ink = s.ink ∧
    (s.setEccOf i v).filling = s.filling ∧ (s.setEccOf i v).tiers = s.tiers ∧ (s.setEccOf i v).rfr = s.rfr ∧
    (s.setEccOf i v).spr = s.spr ∧ (s.setEccOf i v).ranks = s.ranks ∧ (s.setEccOf i v).mig = s.mig ∧
    (s.setEccOf i v).tsv = s.tsv ∧ (s.setEccOf i v).trn = s.trn ∧ (s.setEccOf i v).bst = s.bst ∧
    (s.setEccOf i v).bstNext = s.bstNext ∧ (s.setEccOf i v).engs = s.engs ∧ (s.setEccOf i v).pool = s.pool ∧
    (s.setEccOf i v).ctxs = s.ctxs ∧ (s.setEccOf i v).chks = s.chks ∧ (s.setEccOf i v).cip = s.cip ∧
    (s.setEccOf i v).slots = s.slots ∧ (s.setEccOf i v).sec = s.sec ∧ (s.setEccOf i v).flt = s.flt ∧
    (s.setEccOf i v).pwr = s.pwr ∧ (s.setEccOf i v).doms = s.doms ∧ (s.setEccOf i v).hkp = s.hkp ∧
    (s.setEccOf i v).fus = s.fus ∧ (s.setEccOf i v).tel = s.tel ∧ (s.setEccOf i v).log = s.log ∧
    (s.setEccOf i v).freeIdx = s.freeIdx ∧ (s.setEccOf i v).pending = s.pending := by
  and_intros <;> rfl

@[simp] theorem modEccOf_def (s : State) (i : Nat) (g : Ecc → Ecc) : s.modEccOf i g = s.setEccOf i (g (s.eccOf i)) := rfl

@[simp] theorem eccOf_setEccOf (s : State) (i : Nat) (v : Ecc) : (s.setEccOf i v).eccOf i = v := tget_tset_self _ _ _ _

theorem setEccOf_setEccOf (s : State) (i : Nat) (v w : Ecc) (h : v ≠ {}) :
    (s.setEccOf i v).setEccOf i w = s.setEccOf i w := by
  simp only [State.setEccOf, tset_tset _ _ _ _ _ h]

theorem eccOf_setEccOf_ne (s : State) (i j : Nat) (v : Ecc) (h : j ≠ i) : (s.setEccOf i v).eccOf j = s.eccOf j :=
  tget_tset_ne ({} : Ecc) s.ecc i j v h

@[simp] theorem setTier_frame (s : State) (i : Nat) (v : Tier) :
    (s.setTier i v).variant = s.variant ∧ (s.setTier i v).pins = s.pins ∧ (s.setTier i v).elapsed = s.elapsed ∧
    (s.setTier i v).clock = s.clock ∧
    (s.setTier i v).gazBuilt = s.gazBuilt ∧ (s.setTier i v).paths = s.paths ∧ (s.setTier i v).heldAcc = s.heldAcc ∧
    (s.setTier i v).sb = s.sb ∧ (s.setTier i v).rst = s.rst ∧ (s.setTier i v).mer = s.mer ∧
    (s.setTier i v).ports = s.ports ∧ (s.setTier i v).reqs = s.reqs ∧ (s.setTier i v).flowRt = s.flowRt ∧
    (s.setTier i v).flw = s.flw ∧ (s.setTier i v).queues = s.queues ∧ (s.setTier i v).tables = s.tables ∧
    (s.setTier i v).img = s.img ∧ (s.setTier i v).probes = s.probes ∧ (s.setTier i v).chans = s.chans ∧
    (s.setTier i v).mem = s.mem ∧ (s.setTier i v).ecc = s.ecc ∧ (s.setTier i v).inkAll = s.inkAll ∧
    (s.setTier i v).ink = s.ink ∧ (s.setTier i v).filling = s.filling ∧ (s.setTier i v).rfr = s.rfr ∧
    (s.setTier i v).spr = s.spr ∧ (s.setTier i v).ranks = s.ranks ∧ (s.setTier i v).mig = s.mig ∧
    (s.setTier i v).tsv = s.tsv ∧ (s.setTier i v).trn = s.trn ∧ (s.setTier i v).bst = s.bst ∧
    (s.setTier i v).bstNext = s.bstNext ∧ (s.setTier i v).engs = s.engs ∧ (s.setTier i v).pool = s.pool ∧
    (s.setTier i v).ctxs = s.ctxs ∧ (s.setTier i v).chks = s.chks ∧ (s.setTier i v).cip = s.cip ∧
    (s.setTier i v).slots = s.slots ∧ (s.setTier i v).sec = s.sec ∧ (s.setTier i v).flt = s.flt ∧
    (s.setTier i v).pwr = s.pwr ∧ (s.setTier i v).doms = s.doms ∧ (s.setTier i v).hkp = s.hkp ∧
    (s.setTier i v).fus = s.fus ∧ (s.setTier i v).tel = s.tel ∧ (s.setTier i v).log = s.log ∧
    (s.setTier i v).freeIdx = s.freeIdx ∧ (s.setTier i v).pending = s.pending := by
  and_intros <;> rfl

@[simp] theorem modTier_def (s : State) (i : Nat) (g : Tier → Tier) : s.modTier i g = s.setTier i (g (s.tier i)) := rfl

@[simp] theorem tier_setTier (s : State) (i : Nat) (v : Tier) : (s.setTier i v).tier i = v := tget_tset_self _ _ _ _

theorem setTier_setTier (s : State) (i : Nat) (v w : Tier) (h : v ≠ {}) :
    (s.setTier i v).setTier i w = s.setTier i w := by
  simp only [State.setTier, tset_tset _ _ _ _ _ h]

theorem tier_setTier_ne (s : State) (i j : Nat) (v : Tier) (h : j ≠ i) : (s.setTier i v).tier j = s.tier j :=
  tget_tset_ne ({} : Tier) s.tiers i j v h

@[simp] theorem setRfrOf_frame (s : State) (i : Nat) (v : Rfr) :
    (s.setRfrOf i v).variant = s.variant ∧ (s.setRfrOf i v).pins = s.pins ∧ (s.setRfrOf i v).elapsed = s.elapsed ∧
    (s.setRfrOf i v).clock = s.clock ∧
    (s.setRfrOf i v).gazBuilt = s.gazBuilt ∧ (s.setRfrOf i v).paths = s.paths ∧ (s.setRfrOf i v).heldAcc = s.heldAcc ∧
    (s.setRfrOf i v).sb = s.sb ∧ (s.setRfrOf i v).rst = s.rst ∧ (s.setRfrOf i v).mer = s.mer ∧
    (s.setRfrOf i v).ports = s.ports ∧ (s.setRfrOf i v).reqs = s.reqs ∧ (s.setRfrOf i v).flowRt = s.flowRt ∧
    (s.setRfrOf i v).flw = s.flw ∧ (s.setRfrOf i v).queues = s.queues ∧ (s.setRfrOf i v).tables = s.tables ∧
    (s.setRfrOf i v).img = s.img ∧ (s.setRfrOf i v).probes = s.probes ∧ (s.setRfrOf i v).chans = s.chans ∧
    (s.setRfrOf i v).mem = s.mem ∧ (s.setRfrOf i v).ecc = s.ecc ∧ (s.setRfrOf i v).inkAll = s.inkAll ∧
    (s.setRfrOf i v).ink = s.ink ∧ (s.setRfrOf i v).filling = s.filling ∧ (s.setRfrOf i v).tiers = s.tiers ∧
    (s.setRfrOf i v).spr = s.spr ∧ (s.setRfrOf i v).ranks = s.ranks ∧ (s.setRfrOf i v).mig = s.mig ∧
    (s.setRfrOf i v).tsv = s.tsv ∧ (s.setRfrOf i v).trn = s.trn ∧ (s.setRfrOf i v).bst = s.bst ∧
    (s.setRfrOf i v).bstNext = s.bstNext ∧ (s.setRfrOf i v).engs = s.engs ∧ (s.setRfrOf i v).pool = s.pool ∧
    (s.setRfrOf i v).ctxs = s.ctxs ∧ (s.setRfrOf i v).chks = s.chks ∧ (s.setRfrOf i v).cip = s.cip ∧
    (s.setRfrOf i v).slots = s.slots ∧ (s.setRfrOf i v).sec = s.sec ∧ (s.setRfrOf i v).flt = s.flt ∧
    (s.setRfrOf i v).pwr = s.pwr ∧ (s.setRfrOf i v).doms = s.doms ∧ (s.setRfrOf i v).hkp = s.hkp ∧
    (s.setRfrOf i v).fus = s.fus ∧ (s.setRfrOf i v).tel = s.tel ∧ (s.setRfrOf i v).log = s.log ∧
    (s.setRfrOf i v).freeIdx = s.freeIdx ∧ (s.setRfrOf i v).pending = s.pending := by
  and_intros <;> rfl

@[simp] theorem modRfrOf_def (s : State) (i : Nat) (g : Rfr → Rfr) : s.modRfrOf i g = s.setRfrOf i (g (s.rfrOf i)) := rfl

@[simp] theorem rfrOf_setRfrOf (s : State) (i : Nat) (v : Rfr) : (s.setRfrOf i v).rfrOf i = v := tget_tset_self _ _ _ _

theorem setRfrOf_setRfrOf (s : State) (i : Nat) (v w : Rfr) (h : v ≠ {}) :
    (s.setRfrOf i v).setRfrOf i w = s.setRfrOf i w := by
  simp only [State.setRfrOf, tset_tset _ _ _ _ _ h]

theorem rfrOf_setRfrOf_ne (s : State) (i j : Nat) (v : Rfr) (h : j ≠ i) : (s.setRfrOf i v).rfrOf j = s.rfrOf j :=
  tget_tset_ne ({} : Rfr) s.rfr i j v h

@[simp] theorem setSprOf_frame (s : State) (i : Nat) (v : Spr) :
    (s.setSprOf i v).variant = s.variant ∧ (s.setSprOf i v).pins = s.pins ∧ (s.setSprOf i v).elapsed = s.elapsed ∧
    (s.setSprOf i v).clock = s.clock ∧
    (s.setSprOf i v).gazBuilt = s.gazBuilt ∧ (s.setSprOf i v).paths = s.paths ∧ (s.setSprOf i v).heldAcc = s.heldAcc ∧
    (s.setSprOf i v).sb = s.sb ∧ (s.setSprOf i v).rst = s.rst ∧ (s.setSprOf i v).mer = s.mer ∧
    (s.setSprOf i v).ports = s.ports ∧ (s.setSprOf i v).reqs = s.reqs ∧ (s.setSprOf i v).flowRt = s.flowRt ∧
    (s.setSprOf i v).flw = s.flw ∧ (s.setSprOf i v).queues = s.queues ∧ (s.setSprOf i v).tables = s.tables ∧
    (s.setSprOf i v).img = s.img ∧ (s.setSprOf i v).probes = s.probes ∧ (s.setSprOf i v).chans = s.chans ∧
    (s.setSprOf i v).mem = s.mem ∧ (s.setSprOf i v).ecc = s.ecc ∧ (s.setSprOf i v).inkAll = s.inkAll ∧
    (s.setSprOf i v).ink = s.ink ∧ (s.setSprOf i v).filling = s.filling ∧ (s.setSprOf i v).tiers = s.tiers ∧
    (s.setSprOf i v).rfr = s.rfr ∧ (s.setSprOf i v).ranks = s.ranks ∧ (s.setSprOf i v).mig = s.mig ∧
    (s.setSprOf i v).tsv = s.tsv ∧ (s.setSprOf i v).trn = s.trn ∧ (s.setSprOf i v).bst = s.bst ∧
    (s.setSprOf i v).bstNext = s.bstNext ∧ (s.setSprOf i v).engs = s.engs ∧ (s.setSprOf i v).pool = s.pool ∧
    (s.setSprOf i v).ctxs = s.ctxs ∧ (s.setSprOf i v).chks = s.chks ∧ (s.setSprOf i v).cip = s.cip ∧
    (s.setSprOf i v).slots = s.slots ∧ (s.setSprOf i v).sec = s.sec ∧ (s.setSprOf i v).flt = s.flt ∧
    (s.setSprOf i v).pwr = s.pwr ∧ (s.setSprOf i v).doms = s.doms ∧ (s.setSprOf i v).hkp = s.hkp ∧
    (s.setSprOf i v).fus = s.fus ∧ (s.setSprOf i v).tel = s.tel ∧ (s.setSprOf i v).log = s.log ∧
    (s.setSprOf i v).freeIdx = s.freeIdx ∧ (s.setSprOf i v).pending = s.pending := by
  and_intros <;> rfl

@[simp] theorem modSprOf_def (s : State) (i : Nat) (g : Spr → Spr) : s.modSprOf i g = s.setSprOf i (g (s.sprOf i)) := rfl

@[simp] theorem sprOf_setSprOf (s : State) (i : Nat) (v : Spr) : (s.setSprOf i v).sprOf i = v := tget_tset_self _ _ _ _

theorem setSprOf_setSprOf (s : State) (i : Nat) (v w : Spr) (h : v ≠ {}) :
    (s.setSprOf i v).setSprOf i w = s.setSprOf i w := by
  simp only [State.setSprOf, tset_tset _ _ _ _ _ h]

theorem sprOf_setSprOf_ne (s : State) (i j : Nat) (v : Spr) (h : j ≠ i) : (s.setSprOf i v).sprOf j = s.sprOf j :=
  tget_tset_ne ({} : Spr) s.spr i j v h

@[simp] theorem setTsvOf_frame (s : State) (i : Nat) (v : Tsv) :
    (s.setTsvOf i v).variant = s.variant ∧ (s.setTsvOf i v).pins = s.pins ∧ (s.setTsvOf i v).elapsed = s.elapsed ∧
    (s.setTsvOf i v).clock = s.clock ∧
    (s.setTsvOf i v).gazBuilt = s.gazBuilt ∧ (s.setTsvOf i v).paths = s.paths ∧ (s.setTsvOf i v).heldAcc = s.heldAcc ∧
    (s.setTsvOf i v).sb = s.sb ∧ (s.setTsvOf i v).rst = s.rst ∧ (s.setTsvOf i v).mer = s.mer ∧
    (s.setTsvOf i v).ports = s.ports ∧ (s.setTsvOf i v).reqs = s.reqs ∧ (s.setTsvOf i v).flowRt = s.flowRt ∧
    (s.setTsvOf i v).flw = s.flw ∧ (s.setTsvOf i v).queues = s.queues ∧ (s.setTsvOf i v).tables = s.tables ∧
    (s.setTsvOf i v).img = s.img ∧ (s.setTsvOf i v).probes = s.probes ∧ (s.setTsvOf i v).chans = s.chans ∧
    (s.setTsvOf i v).mem = s.mem ∧ (s.setTsvOf i v).ecc = s.ecc ∧ (s.setTsvOf i v).inkAll = s.inkAll ∧
    (s.setTsvOf i v).ink = s.ink ∧ (s.setTsvOf i v).filling = s.filling ∧ (s.setTsvOf i v).tiers = s.tiers ∧
    (s.setTsvOf i v).rfr = s.rfr ∧ (s.setTsvOf i v).spr = s.spr ∧ (s.setTsvOf i v).ranks = s.ranks ∧
    (s.setTsvOf i v).mig = s.mig ∧ (s.setTsvOf i v).trn = s.trn ∧ (s.setTsvOf i v).bst = s.bst ∧
    (s.setTsvOf i v).bstNext = s.bstNext ∧ (s.setTsvOf i v).engs = s.engs ∧ (s.setTsvOf i v).pool = s.pool ∧
    (s.setTsvOf i v).ctxs = s.ctxs ∧ (s.setTsvOf i v).chks = s.chks ∧ (s.setTsvOf i v).cip = s.cip ∧
    (s.setTsvOf i v).slots = s.slots ∧ (s.setTsvOf i v).sec = s.sec ∧ (s.setTsvOf i v).flt = s.flt ∧
    (s.setTsvOf i v).pwr = s.pwr ∧ (s.setTsvOf i v).doms = s.doms ∧ (s.setTsvOf i v).hkp = s.hkp ∧
    (s.setTsvOf i v).fus = s.fus ∧ (s.setTsvOf i v).tel = s.tel ∧ (s.setTsvOf i v).log = s.log ∧
    (s.setTsvOf i v).freeIdx = s.freeIdx ∧ (s.setTsvOf i v).pending = s.pending := by
  and_intros <;> rfl

@[simp] theorem modTsvOf_def (s : State) (i : Nat) (g : Tsv → Tsv) : s.modTsvOf i g = s.setTsvOf i (g (s.tsvOf i)) := rfl

@[simp] theorem tsvOf_setTsvOf (s : State) (i : Nat) (v : Tsv) : (s.setTsvOf i v).tsvOf i = v := tget_tset_self _ _ _ _

theorem setTsvOf_setTsvOf (s : State) (i : Nat) (v w : Tsv) (h : v ≠ {}) :
    (s.setTsvOf i v).setTsvOf i w = s.setTsvOf i w := by
  simp only [State.setTsvOf, tset_tset _ _ _ _ _ h]

theorem tsvOf_setTsvOf_ne (s : State) (i j : Nat) (v : Tsv) (h : j ≠ i) : (s.setTsvOf i v).tsvOf j = s.tsvOf j :=
  tget_tset_ne ({} : Tsv) s.tsv i j v h

@[simp] theorem setTrnOf_frame (s : State) (i : Nat) (v : Trn) :
    (s.setTrnOf i v).variant = s.variant ∧ (s.setTrnOf i v).pins = s.pins ∧ (s.setTrnOf i v).elapsed = s.elapsed ∧
    (s.setTrnOf i v).clock = s.clock ∧
    (s.setTrnOf i v).gazBuilt = s.gazBuilt ∧ (s.setTrnOf i v).paths = s.paths ∧ (s.setTrnOf i v).heldAcc = s.heldAcc ∧
    (s.setTrnOf i v).sb = s.sb ∧ (s.setTrnOf i v).rst = s.rst ∧ (s.setTrnOf i v).mer = s.mer ∧
    (s.setTrnOf i v).ports = s.ports ∧ (s.setTrnOf i v).reqs = s.reqs ∧ (s.setTrnOf i v).flowRt = s.flowRt ∧
    (s.setTrnOf i v).flw = s.flw ∧ (s.setTrnOf i v).queues = s.queues ∧ (s.setTrnOf i v).tables = s.tables ∧
    (s.setTrnOf i v).img = s.img ∧ (s.setTrnOf i v).probes = s.probes ∧ (s.setTrnOf i v).chans = s.chans ∧
    (s.setTrnOf i v).mem = s.mem ∧ (s.setTrnOf i v).ecc = s.ecc ∧ (s.setTrnOf i v).inkAll = s.inkAll ∧
    (s.setTrnOf i v).ink = s.ink ∧ (s.setTrnOf i v).filling = s.filling ∧ (s.setTrnOf i v).tiers = s.tiers ∧
    (s.setTrnOf i v).rfr = s.rfr ∧ (s.setTrnOf i v).spr = s.spr ∧ (s.setTrnOf i v).ranks = s.ranks ∧
    (s.setTrnOf i v).mig = s.mig ∧ (s.setTrnOf i v).tsv = s.tsv ∧ (s.setTrnOf i v).bst = s.bst ∧
    (s.setTrnOf i v).bstNext = s.bstNext ∧ (s.setTrnOf i v).engs = s.engs ∧ (s.setTrnOf i v).pool = s.pool ∧
    (s.setTrnOf i v).ctxs = s.ctxs ∧ (s.setTrnOf i v).chks = s.chks ∧ (s.setTrnOf i v).cip = s.cip ∧
    (s.setTrnOf i v).slots = s.slots ∧ (s.setTrnOf i v).sec = s.sec ∧ (s.setTrnOf i v).flt = s.flt ∧
    (s.setTrnOf i v).pwr = s.pwr ∧ (s.setTrnOf i v).doms = s.doms ∧ (s.setTrnOf i v).hkp = s.hkp ∧
    (s.setTrnOf i v).fus = s.fus ∧ (s.setTrnOf i v).tel = s.tel ∧ (s.setTrnOf i v).log = s.log ∧
    (s.setTrnOf i v).freeIdx = s.freeIdx ∧ (s.setTrnOf i v).pending = s.pending := by
  and_intros <;> rfl

@[simp] theorem modTrnOf_def (s : State) (i : Nat) (g : Trn → Trn) : s.modTrnOf i g = s.setTrnOf i (g (s.trnOf i)) := rfl

@[simp] theorem trnOf_setTrnOf (s : State) (i : Nat) (v : Trn) : (s.setTrnOf i v).trnOf i = v := tget_tset_self _ _ _ _

theorem setTrnOf_setTrnOf (s : State) (i : Nat) (v w : Trn) (h : v ≠ {}) :
    (s.setTrnOf i v).setTrnOf i w = s.setTrnOf i w := by
  simp only [State.setTrnOf, tset_tset _ _ _ _ _ h]

theorem trnOf_setTrnOf_ne (s : State) (i j : Nat) (v : Trn) (h : j ≠ i) : (s.setTrnOf i v).trnOf j = s.trnOf j :=
  tget_tset_ne ({} : Trn) s.trn i j v h

@[simp] theorem setBstOf_frame (s : State) (i : Nat) (v : Bst) :
    (s.setBstOf i v).variant = s.variant ∧ (s.setBstOf i v).pins = s.pins ∧ (s.setBstOf i v).elapsed = s.elapsed ∧
    (s.setBstOf i v).clock = s.clock ∧
    (s.setBstOf i v).gazBuilt = s.gazBuilt ∧ (s.setBstOf i v).paths = s.paths ∧ (s.setBstOf i v).heldAcc = s.heldAcc ∧
    (s.setBstOf i v).sb = s.sb ∧ (s.setBstOf i v).rst = s.rst ∧ (s.setBstOf i v).mer = s.mer ∧
    (s.setBstOf i v).ports = s.ports ∧ (s.setBstOf i v).reqs = s.reqs ∧ (s.setBstOf i v).flowRt = s.flowRt ∧
    (s.setBstOf i v).flw = s.flw ∧ (s.setBstOf i v).queues = s.queues ∧ (s.setBstOf i v).tables = s.tables ∧
    (s.setBstOf i v).img = s.img ∧ (s.setBstOf i v).probes = s.probes ∧ (s.setBstOf i v).chans = s.chans ∧
    (s.setBstOf i v).mem = s.mem ∧ (s.setBstOf i v).ecc = s.ecc ∧ (s.setBstOf i v).inkAll = s.inkAll ∧
    (s.setBstOf i v).ink = s.ink ∧ (s.setBstOf i v).filling = s.filling ∧ (s.setBstOf i v).tiers = s.tiers ∧
    (s.setBstOf i v).rfr = s.rfr ∧ (s.setBstOf i v).spr = s.spr ∧ (s.setBstOf i v).ranks = s.ranks ∧
    (s.setBstOf i v).mig = s.mig ∧ (s.setBstOf i v).tsv = s.tsv ∧ (s.setBstOf i v).trn = s.trn ∧
    (s.setBstOf i v).bstNext = s.bstNext ∧ (s.setBstOf i v).engs = s.engs ∧ (s.setBstOf i v).pool = s.pool ∧
    (s.setBstOf i v).ctxs = s.ctxs ∧ (s.setBstOf i v).chks = s.chks ∧ (s.setBstOf i v).cip = s.cip ∧
    (s.setBstOf i v).slots = s.slots ∧ (s.setBstOf i v).sec = s.sec ∧ (s.setBstOf i v).flt = s.flt ∧
    (s.setBstOf i v).pwr = s.pwr ∧ (s.setBstOf i v).doms = s.doms ∧ (s.setBstOf i v).hkp = s.hkp ∧
    (s.setBstOf i v).fus = s.fus ∧ (s.setBstOf i v).tel = s.tel ∧ (s.setBstOf i v).log = s.log ∧
    (s.setBstOf i v).freeIdx = s.freeIdx ∧ (s.setBstOf i v).pending = s.pending := by
  and_intros <;> rfl

@[simp] theorem modBstOf_def (s : State) (i : Nat) (g : Bst → Bst) : s.modBstOf i g = s.setBstOf i (g (s.bstOf i)) := rfl

@[simp] theorem bstOf_setBstOf (s : State) (i : Nat) (v : Bst) : (s.setBstOf i v).bstOf i = v := tget_tset_self _ _ _ _

theorem setBstOf_setBstOf (s : State) (i : Nat) (v w : Bst) (h : v ≠ {}) :
    (s.setBstOf i v).setBstOf i w = s.setBstOf i w := by
  simp only [State.setBstOf, tset_tset _ _ _ _ _ h]

theorem bstOf_setBstOf_ne (s : State) (i j : Nat) (v : Bst) (h : j ≠ i) : (s.setBstOf i v).bstOf j = s.bstOf j :=
  tget_tset_ne ({} : Bst) s.bst i j v h

@[simp] theorem setEng_frame (s : State) (i : Nat) (v : Eng) :
    (s.setEng i v).variant = s.variant ∧ (s.setEng i v).pins = s.pins ∧ (s.setEng i v).elapsed = s.elapsed ∧
    (s.setEng i v).clock = s.clock ∧
    (s.setEng i v).gazBuilt = s.gazBuilt ∧ (s.setEng i v).paths = s.paths ∧ (s.setEng i v).heldAcc = s.heldAcc ∧
    (s.setEng i v).sb = s.sb ∧ (s.setEng i v).rst = s.rst ∧ (s.setEng i v).mer = s.mer ∧
    (s.setEng i v).ports = s.ports ∧ (s.setEng i v).reqs = s.reqs ∧ (s.setEng i v).flowRt = s.flowRt ∧
    (s.setEng i v).flw = s.flw ∧ (s.setEng i v).queues = s.queues ∧ (s.setEng i v).tables = s.tables ∧
    (s.setEng i v).img = s.img ∧ (s.setEng i v).probes = s.probes ∧ (s.setEng i v).chans = s.chans ∧
    (s.setEng i v).mem = s.mem ∧ (s.setEng i v).ecc = s.ecc ∧ (s.setEng i v).inkAll = s.inkAll ∧
    (s.setEng i v).ink = s.ink ∧ (s.setEng i v).filling = s.filling ∧ (s.setEng i v).tiers = s.tiers ∧
    (s.setEng i v).rfr = s.rfr ∧ (s.setEng i v).spr = s.spr ∧ (s.setEng i v).ranks = s.ranks ∧
    (s.setEng i v).mig = s.mig ∧ (s.setEng i v).tsv = s.tsv ∧ (s.setEng i v).trn = s.trn ∧
    (s.setEng i v).bst = s.bst ∧ (s.setEng i v).bstNext = s.bstNext ∧ (s.setEng i v).pool = s.pool ∧
    (s.setEng i v).ctxs = s.ctxs ∧ (s.setEng i v).chks = s.chks ∧ (s.setEng i v).cip = s.cip ∧
    (s.setEng i v).slots = s.slots ∧ (s.setEng i v).sec = s.sec ∧ (s.setEng i v).flt = s.flt ∧
    (s.setEng i v).pwr = s.pwr ∧ (s.setEng i v).doms = s.doms ∧ (s.setEng i v).hkp = s.hkp ∧
    (s.setEng i v).fus = s.fus ∧ (s.setEng i v).tel = s.tel ∧ (s.setEng i v).log = s.log ∧
    (s.setEng i v).freeIdx = s.freeIdx ∧ (s.setEng i v).pending = s.pending := by
  and_intros <;> rfl

@[simp] theorem modEng_def (s : State) (i : Nat) (g : Eng → Eng) : s.modEng i g = s.setEng i (g (s.eng i)) := rfl

@[simp] theorem eng_setEng (s : State) (i : Nat) (v : Eng) : (s.setEng i v).eng i = v := tget_tset_self _ _ _ _

theorem setEng_setEng (s : State) (i : Nat) (v w : Eng) (h : v ≠ {}) :
    (s.setEng i v).setEng i w = s.setEng i w := by
  simp only [State.setEng, tset_tset _ _ _ _ _ h]

theorem eng_setEng_ne (s : State) (i j : Nat) (v : Eng) (h : j ≠ i) : (s.setEng i v).eng j = s.eng j :=
  tget_tset_ne ({} : Eng) s.engs i j v h

@[simp] theorem setCtx_frame (s : State) (i : Nat) (v : Ctx) :
    (s.setCtx i v).variant = s.variant ∧ (s.setCtx i v).pins = s.pins ∧ (s.setCtx i v).elapsed = s.elapsed ∧
    (s.setCtx i v).clock = s.clock ∧
    (s.setCtx i v).gazBuilt = s.gazBuilt ∧ (s.setCtx i v).paths = s.paths ∧ (s.setCtx i v).heldAcc = s.heldAcc ∧
    (s.setCtx i v).sb = s.sb ∧ (s.setCtx i v).rst = s.rst ∧ (s.setCtx i v).mer = s.mer ∧
    (s.setCtx i v).ports = s.ports ∧ (s.setCtx i v).reqs = s.reqs ∧ (s.setCtx i v).flowRt = s.flowRt ∧
    (s.setCtx i v).flw = s.flw ∧ (s.setCtx i v).queues = s.queues ∧ (s.setCtx i v).tables = s.tables ∧
    (s.setCtx i v).img = s.img ∧ (s.setCtx i v).probes = s.probes ∧ (s.setCtx i v).chans = s.chans ∧
    (s.setCtx i v).mem = s.mem ∧ (s.setCtx i v).ecc = s.ecc ∧ (s.setCtx i v).inkAll = s.inkAll ∧
    (s.setCtx i v).ink = s.ink ∧ (s.setCtx i v).filling = s.filling ∧ (s.setCtx i v).tiers = s.tiers ∧
    (s.setCtx i v).rfr = s.rfr ∧ (s.setCtx i v).spr = s.spr ∧ (s.setCtx i v).ranks = s.ranks ∧
    (s.setCtx i v).mig = s.mig ∧ (s.setCtx i v).tsv = s.tsv ∧ (s.setCtx i v).trn = s.trn ∧
    (s.setCtx i v).bst = s.bst ∧ (s.setCtx i v).bstNext = s.bstNext ∧ (s.setCtx i v).engs = s.engs ∧
    (s.setCtx i v).pool = s.pool ∧ (s.setCtx i v).chks = s.chks ∧ (s.setCtx i v).cip = s.cip ∧
    (s.setCtx i v).slots = s.slots ∧ (s.setCtx i v).sec = s.sec ∧ (s.setCtx i v).flt = s.flt ∧
    (s.setCtx i v).pwr = s.pwr ∧ (s.setCtx i v).doms = s.doms ∧ (s.setCtx i v).hkp = s.hkp ∧
    (s.setCtx i v).fus = s.fus ∧ (s.setCtx i v).tel = s.tel ∧ (s.setCtx i v).log = s.log ∧
    (s.setCtx i v).freeIdx = s.freeIdx ∧ (s.setCtx i v).pending = s.pending := by
  and_intros <;> rfl

@[simp] theorem modCtx_def (s : State) (i : Nat) (g : Ctx → Ctx) : s.modCtx i g = s.setCtx i (g (s.ctx i)) := rfl

@[simp] theorem ctx_setCtx (s : State) (i : Nat) (v : Ctx) : (s.setCtx i v).ctx i = v := tget_tset_self _ _ _ _

theorem setCtx_setCtx (s : State) (i : Nat) (v w : Ctx) (h : v ≠ {}) :
    (s.setCtx i v).setCtx i w = s.setCtx i w := by
  simp only [State.setCtx, tset_tset _ _ _ _ _ h]

theorem ctx_setCtx_ne (s : State) (i j : Nat) (v : Ctx) (h : j ≠ i) : (s.setCtx i v).ctx j = s.ctx j :=
  tget_tset_ne ({} : Ctx) s.ctxs i j v h

@[simp] theorem setChk_frame (s : State) (i : Nat) (v : Chk) :
    (s.setChk i v).variant = s.variant ∧ (s.setChk i v).pins = s.pins ∧ (s.setChk i v).elapsed = s.elapsed ∧
    (s.setChk i v).clock = s.clock ∧
    (s.setChk i v).gazBuilt = s.gazBuilt ∧ (s.setChk i v).paths = s.paths ∧ (s.setChk i v).heldAcc = s.heldAcc ∧
    (s.setChk i v).sb = s.sb ∧ (s.setChk i v).rst = s.rst ∧ (s.setChk i v).mer = s.mer ∧
    (s.setChk i v).ports = s.ports ∧ (s.setChk i v).reqs = s.reqs ∧ (s.setChk i v).flowRt = s.flowRt ∧
    (s.setChk i v).flw = s.flw ∧ (s.setChk i v).queues = s.queues ∧ (s.setChk i v).tables = s.tables ∧
    (s.setChk i v).img = s.img ∧ (s.setChk i v).probes = s.probes ∧ (s.setChk i v).chans = s.chans ∧
    (s.setChk i v).mem = s.mem ∧ (s.setChk i v).ecc = s.ecc ∧ (s.setChk i v).inkAll = s.inkAll ∧
    (s.setChk i v).ink = s.ink ∧ (s.setChk i v).filling = s.filling ∧ (s.setChk i v).tiers = s.tiers ∧
    (s.setChk i v).rfr = s.rfr ∧ (s.setChk i v).spr = s.spr ∧ (s.setChk i v).ranks = s.ranks ∧
    (s.setChk i v).mig = s.mig ∧ (s.setChk i v).tsv = s.tsv ∧ (s.setChk i v).trn = s.trn ∧
    (s.setChk i v).bst = s.bst ∧ (s.setChk i v).bstNext = s.bstNext ∧ (s.setChk i v).engs = s.engs ∧
    (s.setChk i v).pool = s.pool ∧ (s.setChk i v).ctxs = s.ctxs ∧ (s.setChk i v).cip = s.cip ∧
    (s.setChk i v).slots = s.slots ∧ (s.setChk i v).sec = s.sec ∧ (s.setChk i v).flt = s.flt ∧
    (s.setChk i v).pwr = s.pwr ∧ (s.setChk i v).doms = s.doms ∧ (s.setChk i v).hkp = s.hkp ∧
    (s.setChk i v).fus = s.fus ∧ (s.setChk i v).tel = s.tel ∧ (s.setChk i v).log = s.log ∧
    (s.setChk i v).freeIdx = s.freeIdx ∧ (s.setChk i v).pending = s.pending := by
  and_intros <;> rfl

@[simp] theorem modChk_def (s : State) (i : Nat) (g : Chk → Chk) : s.modChk i g = s.setChk i (g (s.chk i)) := rfl

@[simp] theorem chk_setChk (s : State) (i : Nat) (v : Chk) : (s.setChk i v).chk i = v := tget_tset_self _ _ _ _

theorem setChk_setChk (s : State) (i : Nat) (v w : Chk) (h : v ≠ {}) :
    (s.setChk i v).setChk i w = s.setChk i w := by
  simp only [State.setChk, tset_tset _ _ _ _ _ h]

theorem chk_setChk_ne (s : State) (i j : Nat) (v : Chk) (h : j ≠ i) : (s.setChk i v).chk j = s.chk j :=
  tget_tset_ne ({} : Chk) s.chks i j v h

@[simp] theorem setSlot_frame (s : State) (i : Nat) (v : KeySlot) :
    (s.setSlot i v).variant = s.variant ∧ (s.setSlot i v).pins = s.pins ∧ (s.setSlot i v).elapsed = s.elapsed ∧
    (s.setSlot i v).clock = s.clock ∧
    (s.setSlot i v).gazBuilt = s.gazBuilt ∧ (s.setSlot i v).paths = s.paths ∧ (s.setSlot i v).heldAcc = s.heldAcc ∧
    (s.setSlot i v).sb = s.sb ∧ (s.setSlot i v).rst = s.rst ∧ (s.setSlot i v).mer = s.mer ∧
    (s.setSlot i v).ports = s.ports ∧ (s.setSlot i v).reqs = s.reqs ∧ (s.setSlot i v).flowRt = s.flowRt ∧
    (s.setSlot i v).flw = s.flw ∧ (s.setSlot i v).queues = s.queues ∧ (s.setSlot i v).tables = s.tables ∧
    (s.setSlot i v).img = s.img ∧ (s.setSlot i v).probes = s.probes ∧ (s.setSlot i v).chans = s.chans ∧
    (s.setSlot i v).mem = s.mem ∧ (s.setSlot i v).ecc = s.ecc ∧ (s.setSlot i v).inkAll = s.inkAll ∧
    (s.setSlot i v).ink = s.ink ∧ (s.setSlot i v).filling = s.filling ∧ (s.setSlot i v).tiers = s.tiers ∧
    (s.setSlot i v).rfr = s.rfr ∧ (s.setSlot i v).spr = s.spr ∧ (s.setSlot i v).ranks = s.ranks ∧
    (s.setSlot i v).mig = s.mig ∧ (s.setSlot i v).tsv = s.tsv ∧ (s.setSlot i v).trn = s.trn ∧
    (s.setSlot i v).bst = s.bst ∧ (s.setSlot i v).bstNext = s.bstNext ∧ (s.setSlot i v).engs = s.engs ∧
    (s.setSlot i v).pool = s.pool ∧ (s.setSlot i v).ctxs = s.ctxs ∧ (s.setSlot i v).chks = s.chks ∧
    (s.setSlot i v).cip = s.cip ∧ (s.setSlot i v).sec = s.sec ∧ (s.setSlot i v).flt = s.flt ∧
    (s.setSlot i v).pwr = s.pwr ∧ (s.setSlot i v).doms = s.doms ∧ (s.setSlot i v).hkp = s.hkp ∧
    (s.setSlot i v).fus = s.fus ∧ (s.setSlot i v).tel = s.tel ∧ (s.setSlot i v).log = s.log ∧
    (s.setSlot i v).freeIdx = s.freeIdx ∧ (s.setSlot i v).pending = s.pending := by
  and_intros <;> rfl

@[simp] theorem modSlot_def (s : State) (i : Nat) (g : KeySlot → KeySlot) : s.modSlot i g = s.setSlot i (g (s.slot i)) := rfl

@[simp] theorem slot_setSlot (s : State) (i : Nat) (v : KeySlot) : (s.setSlot i v).slot i = v := tget_tset_self _ _ _ _

theorem setSlot_setSlot (s : State) (i : Nat) (v w : KeySlot) (h : v ≠ {}) :
    (s.setSlot i v).setSlot i w = s.setSlot i w := by
  simp only [State.setSlot, tset_tset _ _ _ _ _ h]

theorem slot_setSlot_ne (s : State) (i j : Nat) (v : KeySlot) (h : j ≠ i) : (s.setSlot i v).slot j = s.slot j :=
  tget_tset_ne ({} : KeySlot) s.slots i j v h

@[simp] theorem setDom_frame (s : State) (i : Nat) (v : Dom) :
    (s.setDom i v).variant = s.variant ∧ (s.setDom i v).pins = s.pins ∧ (s.setDom i v).elapsed = s.elapsed ∧
    (s.setDom i v).clock = s.clock ∧
    (s.setDom i v).gazBuilt = s.gazBuilt ∧ (s.setDom i v).paths = s.paths ∧ (s.setDom i v).heldAcc = s.heldAcc ∧
    (s.setDom i v).sb = s.sb ∧ (s.setDom i v).rst = s.rst ∧ (s.setDom i v).mer = s.mer ∧
    (s.setDom i v).ports = s.ports ∧ (s.setDom i v).reqs = s.reqs ∧ (s.setDom i v).flowRt = s.flowRt ∧
    (s.setDom i v).flw = s.flw ∧ (s.setDom i v).queues = s.queues ∧ (s.setDom i v).tables = s.tables ∧
    (s.setDom i v).img = s.img ∧ (s.setDom i v).probes = s.probes ∧ (s.setDom i v).chans = s.chans ∧
    (s.setDom i v).mem = s.mem ∧ (s.setDom i v).ecc = s.ecc ∧ (s.setDom i v).inkAll = s.inkAll ∧
    (s.setDom i v).ink = s.ink ∧ (s.setDom i v).filling = s.filling ∧ (s.setDom i v).tiers = s.tiers ∧
    (s.setDom i v).rfr = s.rfr ∧ (s.setDom i v).spr = s.spr ∧ (s.setDom i v).ranks = s.ranks ∧
    (s.setDom i v).mig = s.mig ∧ (s.setDom i v).tsv = s.tsv ∧ (s.setDom i v).trn = s.trn ∧
    (s.setDom i v).bst = s.bst ∧ (s.setDom i v).bstNext = s.bstNext ∧ (s.setDom i v).engs = s.engs ∧
    (s.setDom i v).pool = s.pool ∧ (s.setDom i v).ctxs = s.ctxs ∧ (s.setDom i v).chks = s.chks ∧
    (s.setDom i v).cip = s.cip ∧ (s.setDom i v).slots = s.slots ∧ (s.setDom i v).sec = s.sec ∧
    (s.setDom i v).flt = s.flt ∧ (s.setDom i v).pwr = s.pwr ∧ (s.setDom i v).hkp = s.hkp ∧
    (s.setDom i v).fus = s.fus ∧ (s.setDom i v).tel = s.tel ∧ (s.setDom i v).log = s.log ∧
    (s.setDom i v).freeIdx = s.freeIdx ∧ (s.setDom i v).pending = s.pending := by
  and_intros <;> rfl

@[simp] theorem modDom_def (s : State) (i : Nat) (g : Dom → Dom) : s.modDom i g = s.setDom i (g (s.dom i)) := rfl

@[simp] theorem dom_setDom (s : State) (i : Nat) (v : Dom) : (s.setDom i v).dom i = v := tget_tset_self _ _ _ _

theorem setDom_setDom (s : State) (i : Nat) (v w : Dom) (h : v ≠ {}) :
    (s.setDom i v).setDom i w = s.setDom i w := by
  simp only [State.setDom, tset_tset _ _ _ _ _ h]

theorem dom_setDom_ne (s : State) (i j : Nat) (v : Dom) (h : j ≠ i) : (s.setDom i v).dom j = s.dom j :=
  tget_tset_ne ({} : Dom) s.doms i j v h

@[simp] theorem raise_frame (s : State) (a b : Nat) (d : Word) :
    (raise s a b d).variant = s.variant ∧ (raise s a b d).pins = s.pins ∧ (raise s a b d).elapsed = s.elapsed ∧
    (raise s a b d).clock = s.clock ∧
    (raise s a b d).gazBuilt = s.gazBuilt ∧ (raise s a b d).paths = s.paths ∧ (raise s a b d).heldAcc = s.heldAcc ∧
    (raise s a b d).sb = s.sb ∧ (raise s a b d).rst = s.rst ∧ (raise s a b d).mer = s.mer ∧
    (raise s a b d).ports = s.ports ∧ (raise s a b d).reqs = s.reqs ∧ (raise s a b d).flowRt = s.flowRt ∧
    (raise s a b d).flw = s.flw ∧ (raise s a b d).queues = s.queues ∧ (raise s a b d).tables = s.tables ∧
    (raise s a b d).img = s.img ∧ (raise s a b d).probes = s.probes ∧ (raise s a b d).chans = s.chans ∧
    (raise s a b d).mem = s.mem ∧ (raise s a b d).ecc = s.ecc ∧ (raise s a b d).inkAll = s.inkAll ∧
    (raise s a b d).ink = s.ink ∧ (raise s a b d).filling = s.filling ∧ (raise s a b d).tiers = s.tiers ∧
    (raise s a b d).rfr = s.rfr ∧ (raise s a b d).spr = s.spr ∧ (raise s a b d).ranks = s.ranks ∧
    (raise s a b d).mig = s.mig ∧ (raise s a b d).tsv = s.tsv ∧ (raise s a b d).trn = s.trn ∧
    (raise s a b d).bst = s.bst ∧ (raise s a b d).bstNext = s.bstNext ∧ (raise s a b d).engs = s.engs ∧
    (raise s a b d).pool = s.pool ∧ (raise s a b d).ctxs = s.ctxs ∧ (raise s a b d).chks = s.chks ∧
    (raise s a b d).cip = s.cip ∧ (raise s a b d).slots = s.slots ∧ (raise s a b d).sec = s.sec ∧
    (raise s a b d).pwr = s.pwr ∧ (raise s a b d).doms = s.doms ∧ (raise s a b d).hkp = s.hkp ∧
    (raise s a b d).fus = s.fus ∧ (raise s a b d).tel = s.tel ∧ (raise s a b d).log = s.log ∧
    (raise s a b d).freeIdx = s.freeIdx ∧ (raise s a b d).pending = s.pending := by
  and_intros <;> rfl

@[simp] theorem raiseForced_frame (s : State) (a b : Nat) :
    (raiseForced s a b).variant = s.variant ∧ (raiseForced s a b).pins = s.pins ∧
    (raiseForced s a b).elapsed = s.elapsed ∧ (raiseForced s a b).clock = s.clock ∧
    (raiseForced s a b).gazBuilt = s.gazBuilt ∧
    (raiseForced s a b).paths = s.paths ∧ (raiseForced s a b).heldAcc = s.heldAcc ∧ (raiseForced s a b).sb = s.sb ∧
    (raiseForced s a b).rst = s.rst ∧ (raiseForced s a b).mer = s.mer ∧ (raiseForced s a b).ports = s.ports ∧
    (raiseForced s a b).reqs = s.reqs ∧ (raiseForced s a b).flowRt = s.flowRt ∧ (raiseForced s a b).flw = s.flw ∧
    (raiseForced s a b).queues = s.queues ∧ (raiseForced s a b).tables = s.tables ∧ (raiseForced s a b).img = s.img ∧
    (raiseForced s a b).probes = s.probes ∧ (raiseForced s a b).chans = s.chans ∧ (raiseForced s a b).mem = s.mem ∧
    (raiseForced s a b).ecc = s.ecc ∧ (raiseForced s a b).inkAll = s.inkAll ∧ (raiseForced s a b).ink = s.ink ∧
    (raiseForced s a b).filling = s.filling ∧ (raiseForced s a b).tiers = s.tiers ∧ (raiseForced s a b).rfr = s.rfr ∧
    (raiseForced s a b).spr = s.spr ∧ (raiseForced s a b).ranks = s.ranks ∧ (raiseForced s a b).mig = s.mig ∧
    (raiseForced s a b).tsv = s.tsv ∧ (raiseForced s a b).trn = s.trn ∧ (raiseForced s a b).bst = s.bst ∧
    (raiseForced s a b).bstNext = s.bstNext ∧ (raiseForced s a b).engs = s.engs ∧ (raiseForced s a b).pool = s.pool ∧
    (raiseForced s a b).ctxs = s.ctxs ∧ (raiseForced s a b).chks = s.chks ∧ (raiseForced s a b).cip = s.cip ∧
    (raiseForced s a b).slots = s.slots ∧ (raiseForced s a b).sec = s.sec ∧ (raiseForced s a b).pwr = s.pwr ∧
    (raiseForced s a b).doms = s.doms ∧ (raiseForced s a b).hkp = s.hkp ∧ (raiseForced s a b).fus = s.fus ∧
    (raiseForced s a b).tel = s.tel ∧ (raiseForced s a b).log = s.log ∧ (raiseForced s a b).freeIdx = s.freeIdx ∧
    (raiseForced s a b).pending = s.pending := by
  and_intros <;> rfl

@[simp] theorem perf_frame (s : State) (a b k : Nat) :
    (perf s a b k).variant = s.variant ∧ (perf s a b k).pins = s.pins ∧ (perf s a b k).elapsed = s.elapsed ∧
    (perf s a b k).clock = s.clock ∧
    (perf s a b k).gazBuilt = s.gazBuilt ∧ (perf s a b k).paths = s.paths ∧ (perf s a b k).heldAcc = s.heldAcc ∧
    (perf s a b k).sb = s.sb ∧ (perf s a b k).rst = s.rst ∧ (perf s a b k).mer = s.mer ∧
    (perf s a b k).ports = s.ports ∧ (perf s a b k).reqs = s.reqs ∧ (perf s a b k).flowRt = s.flowRt ∧
    (perf s a b k).flw = s.flw ∧ (perf s a b k).queues = s.queues ∧ (perf s a b k).tables = s.tables ∧
    (perf s a b k).img = s.img ∧ (perf s a b k).probes = s.probes ∧ (perf s a b k).chans = s.chans ∧
    (perf s a b k).mem = s.mem ∧ (perf s a b k).ecc = s.ecc ∧ (perf s a b k).inkAll = s.inkAll ∧
    (perf s a b k).ink = s.ink ∧ (perf s a b k).filling = s.filling ∧ (perf s a b k).tiers = s.tiers ∧
    (perf s a b k).rfr = s.rfr ∧ (perf s a b k).spr = s.spr ∧ (perf s a b k).ranks = s.ranks ∧
    (perf s a b k).mig = s.mig ∧ (perf s a b k).tsv = s.tsv ∧ (perf s a b k).trn = s.trn ∧
    (perf s a b k).bst = s.bst ∧ (perf s a b k).bstNext = s.bstNext ∧ (perf s a b k).engs = s.engs ∧
    (perf s a b k).pool = s.pool ∧ (perf s a b k).ctxs = s.ctxs ∧ (perf s a b k).chks = s.chks ∧
    (perf s a b k).cip = s.cip ∧ (perf s a b k).slots = s.slots ∧ (perf s a b k).sec = s.sec ∧
    (perf s a b k).flt = s.flt ∧ (perf s a b k).pwr = s.pwr ∧ (perf s a b k).doms = s.doms ∧
    (perf s a b k).hkp = s.hkp ∧ (perf s a b k).fus = s.fus ∧ (perf s a b k).log = s.log ∧
    (perf s a b k).freeIdx = s.freeIdx ∧ (perf s a b k).pending = s.pending := by
  and_intros <;> rfl

@[simp] theorem budgetDue_frame (s : State) :
    (budgetDue s).variant = s.variant ∧ (budgetDue s).pins = s.pins ∧ (budgetDue s).elapsed = s.elapsed ∧
    (budgetDue s).clock = s.clock ∧
    (budgetDue s).gazBuilt = s.gazBuilt ∧ (budgetDue s).paths = s.paths ∧ (budgetDue s).heldAcc = s.heldAcc ∧
    (budgetDue s).sb = s.sb ∧ (budgetDue s).rst = s.rst ∧ (budgetDue s).mer = s.mer ∧ (budgetDue s).ports = s.ports ∧
    (budgetDue s).reqs = s.reqs ∧ (budgetDue s).flowRt = s.flowRt ∧ (budgetDue s).queues = s.queues ∧
    (budgetDue s).tables = s.tables ∧ (budgetDue s).img = s.img ∧ (budgetDue s).probes = s.probes ∧
    (budgetDue s).chans = s.chans ∧ (budgetDue s).mem = s.mem ∧ (budgetDue s).ecc = s.ecc ∧
    (budgetDue s).inkAll = s.inkAll ∧ (budgetDue s).ink = s.ink ∧ (budgetDue s).filling = s.filling ∧
    (budgetDue s).tiers = s.tiers ∧ (budgetDue s).rfr = s.rfr ∧ (budgetDue s).spr = s.spr ∧
    (budgetDue s).ranks = s.ranks ∧ (budgetDue s).mig = s.mig ∧ (budgetDue s).tsv = s.tsv ∧
    (budgetDue s).trn = s.trn ∧ (budgetDue s).bst = s.bst ∧ (budgetDue s).bstNext = s.bstNext ∧
    (budgetDue s).engs = s.engs ∧ (budgetDue s).pool = s.pool ∧ (budgetDue s).ctxs = s.ctxs ∧
    (budgetDue s).chks = s.chks ∧ (budgetDue s).cip = s.cip ∧ (budgetDue s).slots = s.slots ∧
    (budgetDue s).sec = s.sec ∧ (budgetDue s).flt = s.flt ∧ (budgetDue s).pwr = s.pwr ∧ (budgetDue s).doms = s.doms ∧
    (budgetDue s).hkp = s.hkp ∧ (budgetDue s).fus = s.fus ∧ (budgetDue s).tel = s.tel ∧ (budgetDue s).log = s.log ∧
    (budgetDue s).freeIdx = s.freeIdx ∧ (budgetDue s).pending = s.pending := by
  and_intros <;> rfl

@[simp] theorem logMap_frame (s : State) (r : LogRec) :
    (logMap s r).variant = s.variant ∧ (logMap s r).pins = s.pins ∧ (logMap s r).elapsed = s.elapsed ∧
    (logMap s r).clock = s.clock ∧
    (logMap s r).gazBuilt = s.gazBuilt ∧ (logMap s r).paths = s.paths ∧ (logMap s r).heldAcc = s.heldAcc ∧
    (logMap s r).sb = s.sb ∧ (logMap s r).rst = s.rst ∧ (logMap s r).mer = s.mer ∧ (logMap s r).ports = s.ports ∧
    (logMap s r).reqs = s.reqs ∧ (logMap s r).flowRt = s.flowRt ∧ (logMap s r).flw = s.flw ∧
    (logMap s r).queues = s.queues ∧ (logMap s r).tables = s.tables ∧ (logMap s r).img = s.img ∧
    (logMap s r).probes = s.probes ∧ (logMap s r).chans = s.chans ∧ (logMap s r).mem = s.mem ∧
    (logMap s r).ecc = s.ecc ∧ (logMap s r).inkAll = s.inkAll ∧ (logMap s r).ink = s.ink ∧
    (logMap s r).filling = s.filling ∧ (logMap s r).tiers = s.tiers ∧ (logMap s r).rfr = s.rfr ∧
    (logMap s r).spr = s.spr ∧ (logMap s r).ranks = s.ranks ∧ (logMap s r).mig = s.mig ∧ (logMap s r).tsv = s.tsv ∧
    (logMap s r).trn = s.trn ∧ (logMap s r).bst = s.bst ∧ (logMap s r).bstNext = s.bstNext ∧
    (logMap s r).engs = s.engs ∧ (logMap s r).pool = s.pool ∧ (logMap s r).ctxs = s.ctxs ∧
    (logMap s r).chks = s.chks ∧ (logMap s r).cip = s.cip ∧ (logMap s r).slots = s.slots ∧ (logMap s r).sec = s.sec ∧
    (logMap s r).flt = s.flt ∧ (logMap s r).pwr = s.pwr ∧ (logMap s r).doms = s.doms ∧ (logMap s r).hkp = s.hkp ∧
    (logMap s r).fus = s.fus ∧ (logMap s r).tel = s.tel ∧ (logMap s r).freeIdx = s.freeIdx ∧
    (logMap s r).pending = s.pending := by
  and_intros <;> rfl

@[simp] theorem logSet_frame (s : State) (r : LogRec) :
    (logSet s r).variant = s.variant ∧ (logSet s r).pins = s.pins ∧ (logSet s r).elapsed = s.elapsed ∧
    (logSet s r).clock = s.clock ∧
    (logSet s r).gazBuilt = s.gazBuilt ∧ (logSet s r).paths = s.paths ∧ (logSet s r).heldAcc = s.heldAcc ∧
    (logSet s r).sb = s.sb ∧ (logSet s r).rst = s.rst ∧ (logSet s r).mer = s.mer ∧ (logSet s r).ports = s.ports ∧
    (logSet s r).reqs = s.reqs ∧ (logSet s r).flowRt = s.flowRt ∧ (logSet s r).flw = s.flw ∧
    (logSet s r).queues = s.queues ∧ (logSet s r).tables = s.tables ∧ (logSet s r).img = s.img ∧
    (logSet s r).probes = s.probes ∧ (logSet s r).chans = s.chans ∧ (logSet s r).mem = s.mem ∧
    (logSet s r).ecc = s.ecc ∧ (logSet s r).inkAll = s.inkAll ∧ (logSet s r).ink = s.ink ∧
    (logSet s r).filling = s.filling ∧ (logSet s r).tiers = s.tiers ∧ (logSet s r).rfr = s.rfr ∧
    (logSet s r).spr = s.spr ∧ (logSet s r).ranks = s.ranks ∧ (logSet s r).mig = s.mig ∧ (logSet s r).tsv = s.tsv ∧
    (logSet s r).trn = s.trn ∧ (logSet s r).bst = s.bst ∧ (logSet s r).bstNext = s.bstNext ∧
    (logSet s r).engs = s.engs ∧ (logSet s r).pool = s.pool ∧ (logSet s r).ctxs = s.ctxs ∧
    (logSet s r).chks = s.chks ∧ (logSet s r).cip = s.cip ∧ (logSet s r).slots = s.slots ∧ (logSet s r).sec = s.sec ∧
    (logSet s r).flt = s.flt ∧ (logSet s r).pwr = s.pwr ∧ (logSet s r).doms = s.doms ∧ (logSet s r).hkp = s.hkp ∧
    (logSet s r).fus = s.fus ∧ (logSet s r).tel = s.tel ∧ (logSet s r).freeIdx = s.freeIdx ∧
    (logSet s r).pending = s.pending := by
  and_intros <;> rfl

end Sys2Proof.Machine
end

