-- ==== Sys2Proof/Laws/Shared.lean ====
section
/-! SUPPORT. What the operations that every command goes through can do: its answer, IRQ_N and the queue, the answer to a
management access, and a served access. -/

namespace Sys2Proof.Machine

open Sys2Proof.Safety

@[simp] theorem fin_pending (s t : State) : (fin s t).pending = s.pending := rfl
@[simp] theorem fin_variant (s t : State) : (fin s t).variant = s.variant := rfl
@[simp] theorem fin_flt (s t : State) : (fin s t).flt = t.flt := rfl
@[simp] theorem fin_mer (s t : State) : (fin s t).mer = t.mer := rfl
@[simp] theorem fin_img (s t : State) : (fin s t).img = t.img := rfl
@[simp] theorem fin_ports (s t : State) : (fin s t).ports = t.ports := rfl
@[simp] theorem fin_rst (s t : State) : (fin s t).rst = t.rst := rfl
@[simp] theorem fin_mem (s t : State) : (fin s t).mem = t.mem := rfl
@[simp] theorem fin_reqs (s t : State) : (fin s t).reqs = t.reqs := rfl

theorem fin_irqFollows (s t : State) : IrqFollows (fin s t) := rfl

/-- A powered command answers its effect, finished. -/
theorem answer_on (s t : State) (h : s.pins.pwrgood = true) : answer s t = .next (fin s t) := by simp [answer, h]

/-- Without power a guarded command changes nothing. -/
theorem answer_off (s t : State) (h : s.pins.pwrgood = false) : answer s t = .next s := by simp [answer, h]

/-- All that a guarded command can answer. -/
theorem answer_cases (s t u : State) (h : answer s t = .next u) :
    (s.pins.pwrgood = true ∧ u = fin s t) ∨ (s.pins.pwrgood = false ∧ u = s) := by
  cases hp : s.pins.pwrgood
  · rw [answer_off s t hp] at h; cases h; exact .inr ⟨rfl, rfl⟩
  · rw [answer_on s t hp] at h; cases h; exact .inl ⟨rfl, rfl⟩

/-- A served write runs its handler and answers the status on the port it came from (R120). -/
theorem mgmtWrite_served (s : State) (via : Via) (u : UnitId) (off : Nat) (data : Word) (f : State → Status × State)
    (h : Served s via true u off data) :
    mgmtWrite s via u off data f = respond (f s).2 via true (addrOf u off) (f s).1 0 := by
  obtain ⟨-, hl, ht, hh, ha⟩ := h
  simp [mgmtWrite, hl, ht, hh, ha]

/-- A served read runs its handler, and answers its data where the status is OK (R13, R120). -/
theorem mgmtRead_served (s : State) (via : Via) (u : UnitId) (off : Nat) (f : State → Status × Word × State)
    (h : Served s via false u off 0) (hs : (f s).2.2.sec.gate = false) :
    mgmtRead s via u off f =
      respond (f s).2.2 via false (addrOf u off) (f s).1 (if (f s).1 = .ok then (f s).2.1 else 0) := by
  obtain ⟨-, hl, ht, hh, ha⟩ := h
  have ht' : mgtTurn s via false (addrOf u off) 0#24 = true := ht
  simp [mgmtRead, hl, ht', hh, ha, scanned, hs]

/-- A write that is judged away changes nothing but the answer. -/
theorem mgmtWrite_ended (s : State) (via : Via) (u : UnitId) (off : Nat) (data : Word) (f : State → Status × State)
    (st : Status) (hl : mgtLive s via.port = true) (ht : mgtTurn s via true (addrOf u off) data = true) (hh : portHeld s via.port = false)
    (ha : portAcc (gazTable s.variant).length s via.port true u off = .ended st) :
    mgmtWrite s via u off data f = respond s via true (addrOf u off) st 0 := by
  simp [mgmtWrite, hl, ht, hh, ha]

/-- An answer touches the answering port and nothing else. -/
theorem respond_frame (s : State) (via : Via) (w : Bool) (a : Word) (st : Status) (d : Word) :
    (respond s via w a st d) = s ∨ ∃ p, respond s via w a st d = s.setPort via.port p := by
  unfold respond
  split
  · exact .inl rfl
  · exact .inr ⟨_, rfl⟩

end Sys2Proof.Machine
end

