-- ==== Sys2Proof/Laws/Access.lean ====
section
/-! SUPPORT. The address map of the units: an address is its unit's base plus the offset in it, and where the units of a
channel lie. -/

namespace Sys2Proof.Machine

/-- The unit and offset of an address give the address back (R41, R47). -/
theorem unitAt_base (addr : Nat) (u : UnitId) (o : Nat) (h : unitAt addr = some (u, o)) : u.base + o = addr := by
  have fin : ∀ {v : UnitId} {x : Nat}, some (v, x) = some (u, o) → v.base + x = addr → u.base + o = addr := by
    intro v x e k
    cases e
    exact k
  simp only [unitAt, arrayAt, Bool.and_eq_true, decide_eq_true_eq] at h
  by_cases hp : addr / 65536 = 0
  · rw [if_pos hp] at h
    split at h <;> exact fin h (by simp only [UnitId.base]; omega)
  rw [if_neg hp] at h
  clear hp
  by_cases hp : addr / 65536 = 1
  · rw [if_pos hp] at h
    exact fin h (by simp only [UnitId.base]; omega)
  rw [if_neg hp] at h
  clear hp
  by_cases hp : addr / 65536 = 2
  · rw [if_pos hp] at h
    exact fin h (by simp only [UnitId.base]; omega)
  rw [if_neg hp] at h
  clear hp
  by_cases hp : addr / 65536 = 3
  · rw [if_pos hp] at h
    exact fin h (by simp only [UnitId.base]; omega)
  rw [if_neg hp] at h
  clear hp
  by_cases hp : addr / 65536 = 4
  · rw [if_pos hp] at h
    exact fin h (by simp only [UnitId.base]; omega)
  rw [if_neg hp] at h
  clear hp
  by_cases hp : addr / 65536 = 5
  · rw [if_pos hp] at h
    exact fin h (by simp only [UnitId.base]; omega)
  rw [if_neg hp] at h
  clear hp
  by_cases hp : addr / 65536 = 6
  · rw [if_pos hp] at h
    split at h <;> exact fin h (by simp only [UnitId.base]; omega)
  rw [if_neg hp] at h
  clear hp
  by_cases hp : addr / 65536 = 7
  · rw [if_pos hp] at h
    exact fin h (by simp only [UnitId.base]; omega)
  rw [if_neg hp] at h
  clear hp
  by_cases hp : addr / 65536 = 8
  · rw [if_pos hp] at h
    exact fin h (by simp only [UnitId.base]; omega)
  rw [if_neg hp] at h
  clear hp
  by_cases hp : addr / 65536 = 9
  · rw [if_pos hp] at h
    exact fin h (by simp only [UnitId.base]; omega)
  rw [if_neg hp] at h
  clear hp
  by_cases hp : addr / 65536 = 10
  · rw [if_pos hp] at h
    exact fin h (by simp only [UnitId.base]; omega)
  rw [if_neg hp] at h
  clear hp
  by_cases hp : addr / 65536 = 11
  · rw [if_pos hp] at h
    split at h <;> exact fin h (by simp only [UnitId.base]; omega)
  rw [if_neg hp] at h
  clear hp
  by_cases hp : addr / 65536 = 12
  · rw [if_pos hp] at h
    split at h <;> exact fin h (by simp only [UnitId.base]; omega)
  rw [if_neg hp] at h
  clear hp
  by_cases hp : addr / 65536 = 13
  · rw [if_pos hp] at h
    exact fin h (by simp only [UnitId.base]; omega)
  rw [if_neg hp] at h
  clear hp
  by_cases hp : addr / 65536 = 14
  · rw [if_pos hp] at h
    exact fin h (by simp only [UnitId.base]; omega)
  rw [if_neg hp] at h
  clear hp
  by_cases hp : addr / 65536 = 15
  · rw [if_pos hp] at h
    exact fin h (by simp only [UnitId.base]; omega)
  rw [if_neg hp] at h
  clear hp
  by_cases hp : 16 ≤ addr / 65536 ∧ addr / 65536 < 24
  · rw [if_pos hp] at h
    exact fin h (by simp only [UnitId.base]; omega)
  rw [if_neg hp] at h
  clear hp
  by_cases hp : addr / 65536 = 24
  · rw [if_pos hp] at h
    exact fin h (by simp only [UnitId.base]; omega)
  rw [if_neg hp] at h
  clear hp
  by_cases hp : 32 ≤ addr / 65536 ∧ addr / 65536 < 64
  · rw [if_pos hp] at h
    obtain ⟨q, hq⟩ : ∃ q, q = addr % 65536 / 4096 := ⟨_, rfl⟩
    rw [← hq] at h
    match q, hq, h with
    | 0, hq, h => exact fin h (by simp only [UnitId.base]; omega)
    | 1, hq, h => exact fin h (by simp only [UnitId.base]; omega)
    | 2, hq, h => exact fin h (by simp only [UnitId.base]; omega)
    | 3, hq, h => exact fin h (by simp only [UnitId.base]; omega)
    | 4, hq, h => exact fin h (by simp only [UnitId.base]; omega)
    | 5, hq, h => exact fin h (by simp only [UnitId.base]; omega)
    | k + 6, hq, h => exact fin h (by simp only [UnitId.base]; omega)
  rw [if_neg hp] at h
  clear hp
  by_cases hp : addr / 65536 = 64
  · rw [if_pos hp] at h
    exact fin h (by simp only [UnitId.base]; omega)
  rw [if_neg hp] at h
  clear hp
  by_cases hp : addr / 65536 = 65
  · rw [if_pos hp] at h
    exact fin h (by simp only [UnitId.base]; omega)
  rw [if_neg hp] at h
  clear hp
  by_cases hp : 128 ≤ addr / 65536 ∧ addr / 65536 < 144
  · rw [if_pos hp] at h
    exact fin h (by simp only [UnitId.base]; omega)
  rw [if_neg hp] at h
  clear hp
  cases h

/-- The units of a channel's page (R41). -/
theorem unitAt_page (addr c o : Nat) (hc : c < 32) (ho : o < 65536) (h : addr = 0x200000 + 0x10000 * c + o) :
    unitAt addr = (match o / 0x1000 with
      | 0 => some (.chn c, o) | 1 => some (.rfr c, o - 0x1000) | 2 => some (.ecc c, o - 0x2000)
      | 3 => some (.spr c, o - 0x3000) | 4 => some (.tsv c, o - 0x4000) | 5 => some (.trn c, o - 0x5000)
      | _ => some (.bst c, o - 0x6000)) := by
  have h1 : addr / 65536 = 0x20 + c := by omega
  have h2 : addr % 65536 = o := by omega
  have h3 : (0x20 + c) - 0x20 = c := by omega
  simp only [unitAt, h1, h2]
  iterate 18 rw [if_neg (by first | omega | (simp <;> omega))]
  rw [if_pos (by simp <;> omega), h3] <;> rfl

end Sys2Proof.Machine
end

