-- ==== Sys2Proof/Laws/Flits.lean ====
section
/-! SUPPORT. What a flit carries is what was sent: its bytes come back from its bits, and its fields from its bytes
(R98, R100); lanes that carry nothing. -/

namespace Sys2Proof.Machine

theorem byte_of_bits : ∀ b : Byte,
    BitVec.ofNat 8 (((List.range 8).map (fun i => b.getLsbD (7 - i))).foldl (fun a x => a * 2 + x.toNat) 0) = b := by
  decide

theorem bitsOf_cons (b : Byte) (bs : List Byte) :
    bitsOf (b :: bs) = (List.range 8).map (fun i => b.getLsbD (7 - i)) ++ bitsOf bs := rfl

theorem bitsOf_length (bs : List Byte) : (bitsOf bs).length = 8 * bs.length := by
  induction bs with
  | nil => rfl
  | cons b bs ih => rw [bitsOf_cons, List.length_append, ih]; simp; omega

/-- The bits of bytes give the bytes back (R98). -/
theorem bytesOfBits_bitsOf (bs : List Byte) : bytesOfBits bs.length (bitsOf bs) = bs := by
  induction bs with
  | nil => rfl
  | cons b bs ih =>
    have h : ((List.range 8).map (fun i => b.getLsbD (7 - i))).length = 8 := by simp
    simp only [List.length_cons, bytesOfBits, bitsOf_cons]
    rw [List.take_left' h, List.drop_left' h, byte_of_bits, ih]

theorem numOf_append (xs : List Byte) (b : Byte) : numOf (xs ++ [b]) = numOf xs * 256 + b.toNat := by
  simp [numOf, List.foldl_append]

@[simp] theorem bytesOf_length (k w : Nat) : (bytesOf k w).length = k := by simp [bytesOf]

theorem bytesOf_succ (k w : Nat) : bytesOf (k + 1) w = bytesOf k (w / 256) ++ [BitVec.ofNat 8 w] := by
  simp only [bytesOf, List.range_succ, List.map_append, List.map_cons, List.map_nil]
  congr 1
  · apply List.map_congr_left
    intro i hi
    have hi : i < k := List.mem_range.mp hi
    have e : 8 * (k + 1 - 1 - i) = 8 + 8 * (k - 1 - i) := by omega
    rw [e, Nat.shiftRight_add, Nat.shiftRight_eq_div_pow w 8]
  · simp

/-- A number that fits comes back from its bytes. -/
theorem numOf_bytesOf (k : Nat) : ∀ w, w < 256 ^ k → numOf (bytesOf k w) = w := by
  induction k with
  | zero => intro w h; have : w = 0 := by simpa using h
            subst this; rfl
  | succ k ih =>
    intro w h
    rw [bytesOf_succ, numOf_append, ih _ (Nat.div_lt_of_lt_mul (by rw [Nat.mul_comm, ← Nat.pow_succ]; exact h))]
    simp [BitVec.toNat_ofNat]; omega

/-- A flit sent as bits without an error is received with the header, payload and CRC it was sent with. -/
theorem takeFlit_sent (h : BitVec 128) (p : List Byte) (hp : p.length = 232) (c : BitVec 64)
    (rest : List (Bool × Bool)) :
    takeFlit ((bitsOf (bytesOf 16 h.toNat ++ p ++ bytesOf 8 c.toNat)).map (fun b => (b, false)) ++ rest) =
      some (⟨h, p, c, false⟩, rest) := by
  have len : (bytesOf 16 h.toNat ++ p ++ bytesOf 8 c.toNat).length = 256 := by simp [hp]
  generalize hb : bytesOf 16 h.toNat ++ p ++ bytesOf 8 c.toNat = bs at len
  have l2 : ((bitsOf bs).map (fun b => (b, false))).length = 2048 := by
    rw [List.length_map, bitsOf_length, len]
  have any : (((bitsOf bs).map (fun b => (b, false))).any (·.2)) = false := by simp
  have fst : ((bitsOf bs).map (fun b => (b, false))).map (·.1) = bitsOf bs := by simp [List.map_map, Function.comp_def]
  have by_ : bytesOfBits 256 (bitsOf bs) = bs := by rw [← len]; exact bytesOfBits_bitsOf bs
  have h16 : (bytesOf 16 h.toNat).length = 16 := bytesOf_length _ _
  have hd : bs.take 16 = bytesOf 16 h.toNat := by
    rw [← hb, List.append_assoc, List.take_left' h16]
  have pl : (bs.drop 16).take 232 = p := by
    rw [← hb, List.append_assoc, List.drop_left' h16, List.take_left' hp]
  have cr : (bs.drop 248).take 8 = bytesOf 8 c.toNat := by
    have : (bytesOf 16 h.toNat ++ p).length = 248 := by simp [hp]
    rw [← hb, List.drop_left' this, List.take_of_length_le (by simp)]
  have nh : numOf (bytesOf 16 h.toNat) = h.toNat := numOf_bytesOf 16 _ (Nat.lt_of_lt_of_le h.isLt (by decide))
  have nc : numOf (bytesOf 8 c.toNat) = c.toNat := numOf_bytesOf 8 _ (Nat.lt_of_lt_of_le c.isLt (by decide))
  unfold takeFlit
  simp only [List.take_left' l2, List.drop_left' l2, l2, if_true, any, fst, by_, rxFlitOf, hd, pl, cr, nh, nc,
    BitVec.ofNat_toNat, BitVec.setWidth_eq]

/-- Where the lanes hold nothing and nothing arrives, the port stays as it was. -/
theorem receiveLanes_silent (s : State) (n : Nat) (h : (s.port n).rxLanes = []) :
    (receiveLanes s n []).port n = s.port n := by
  have d : ∀ w, decodePairs w 8 [] = ([], [], 0, 0) := by
    intro w; unfold decodePairs; cases w <;> simp
  have p : ∀ (t : State) e k, (perf t e n k).port n = t.port n := fun _ _ _ => rfl
  unfold receiveLanes
  simp only [h, joinLanes, d, p]
  simp [← h]

end Sys2Proof.Machine
end

