-- ==== Sys2Proof/Laws/Frame.lean ====
section
/-! SUPPORT. Frames: what the end of a command and each writer of a unit keep of the parts of the state. -/

namespace Sys2Proof.Safety

open Sys2Proof.Machine

@[simp] theorem Keeps.refl (l : List Part) (s : State) : Keeps l s s := fun p _ => by cases p <;> rfl

theorem Keeps.trans {l : List Part} {s t u : State} (h : Keeps l s t) (k : Keeps l t u) : Keeps l s u := fun p hp => by
  have a := h p hp
  have b := k p hp
  cases p <;> exact Eq.trans b a

theorem Keeps.mono {l k : List Part} {s t : State} (h : Keeps l s t) (hl : ∀ p, p ∈ l → p ∈ k) : Keeps k s t :=
  fun p hp => h p (fun x => hp (hl p x))

/-- The end of a command keeps every part. -/
theorem Keeps.fin {l : List Part} {s t : State} (h : Keeps l s t) : Keeps l s (fin s t) := fun p hp => by
  have a := h p hp
  cases p <;> exact a

theorem Keeps.setPort {l : List Part} {s t : State} {i : Nat} {v : Port} (h : Keeps l s t) (hl : Part.ports ∈ l) :
    Keeps l s (t.setPort i v) := fun p hp => by
  have a := h p hp
  cases p <;> first | exact a | exact absurd hl hp

@[simp] theorem fin_port (s t : State) (i : Nat) : (Sys2Proof.Machine.fin s t).port i = t.port i := rfl

theorem Keeps.setPath {l : List Part} {s t : State} {i : Nat} {v : Path} (h : Keeps l s t) (hl : Part.paths ∈ l) :
    Keeps l s (t.setPath i v) := fun p hp => by
  have a := h p hp
  cases p <;> first | exact a | exact absurd hl hp

@[simp] theorem fin_path (s t : State) (i : Nat) : (Sys2Proof.Machine.fin s t).path i = t.path i := rfl

theorem Keeps.setFlowR {l : List Part} {s t : State} {i : Nat} {v : FlowRt} (h : Keeps l s t) (hl : Part.flowRt ∈ l) :
    Keeps l s (t.setFlowR i v) := fun p hp => by
  have a := h p hp
  cases p <;> first | exact a | exact absurd hl hp

@[simp] theorem fin_flowR (s t : State) (i : Nat) : (Sys2Proof.Machine.fin s t).flowR i = t.flowR i := rfl

theorem Keeps.setEvq {l : List Part} {s t : State} {i : Nat} {v : EvQueue} (h : Keeps l s t) (hl : Part.queues ∈ l) :
    Keeps l s (t.setEvq i v) := fun p hp => by
  have a := h p hp
  cases p <;> first | exact a | exact absurd hl hp

@[simp] theorem fin_evq (s t : State) (i : Nat) : (Sys2Proof.Machine.fin s t).evq i = t.evq i := rfl

theorem Keeps.setChan {l : List Part} {s t : State} {i : Nat} {v : Chan} (h : Keeps l s t) (hl : Part.chans ∈ l) :
    Keeps l s (t.setChan i v) := fun p hp => by
  have a := h p hp
  cases p <;> first | exact a | exact absurd hl hp

@[simp] theorem fin_chan (s t : State) (i : Nat) : (Sys2Proof.Machine.fin s t).chan i = t.chan i := rfl

theorem Keeps.setRmem {l : List Part} {s t : State} {i : Nat} {v : RankMem} (h : Keeps l s t) (hl : Part.mem ∈ l) :
    Keeps l s (t.setRmem i v) := fun p hp => by
  have a := h p hp
  cases p <;> first | exact a | exact absurd hl hp

@[simp] theorem fin_rmem (s t : State) (i : Nat) : (Sys2Proof.Machine.fin s t).rmem i = t.rmem i := rfl

theorem Keeps.setEccOf {l : List Part} {s t : State} {i : Nat} {v : Ecc} (h : Keeps l s t) (hl : Part.ecc ∈ l) :
    Keeps l s (t.setEccOf i v) := fun p hp => by
  have a := h p hp
  cases p <;> first | exact a | exact absurd hl hp

@[simp] theorem fin_eccOf (s t : State) (i : Nat) : (Sys2Proof.Machine.fin s t).eccOf i = t.eccOf i := rfl

theorem Keeps.setTier {l : List Part} {s t : State} {i : Nat} {v : Tier} (h : Keeps l s t) (hl : Part.tiers ∈ l) :
    Keeps l s (t.setTier i v) := fun p hp => by
  have a := h p hp
  cases p <;> first | exact a | exact absurd hl hp

@[simp] theorem fin_tier (s t : State) (i : Nat) : (Sys2Proof.Machine.fin s t).tier i = t.tier i := rfl

theorem Keeps.setRfrOf {l : List Part} {s t : State} {i : Nat} {v : Rfr} (h : Keeps l s t) (hl : Part.rfr ∈ l) :
    Keeps l s (t.setRfrOf i v) := fun p hp => by
  have a := h p hp
  cases p <;> first | exact a | exact absurd hl hp

@[simp] theorem fin_rfrOf (s t : State) (i : Nat) : (Sys2Proof.Machine.fin s t).rfrOf i = t.rfrOf i := rfl

theorem Keeps.setSprOf {l : List Part} {s t : State} {i : Nat} {v : Spr} (h : Keeps l s t) (hl : Part.spr ∈ l) :
    Keeps l s (t.setSprOf i v) := fun p hp => by
  have a := h p hp
  cases p <;> first | exact a | exact absurd hl hp

@[simp] theorem fin_sprOf (s t : State) (i : Nat) : (Sys2Proof.Machine.fin s t).sprOf i = t.sprOf i := rfl

theorem Keeps.setTsvOf {l : List Part} {s t : State} {i : Nat} {v : Tsv} (h : Keeps l s t) (hl : Part.tsv ∈ l) :
    Keeps l s (t.setTsvOf i v) := fun p hp => by
  have a := h p hp
  cases p <;> first | exact a | exact absurd hl hp

@[simp] theorem fin_tsvOf (s t : State) (i : Nat) : (Sys2Proof.Machine.fin s t).tsvOf i = t.tsvOf i := rfl

theorem Keeps.setTrnOf {l : List Part} {s t : State} {i : Nat} {v : Trn} (h : Keeps l s t) (hl : Part.trn ∈ l) :
    Keeps l s (t.setTrnOf i v) := fun p hp => by
  have a := h p hp
  cases p <;> first | exact a | exact absurd hl hp

@[simp] theorem fin_trnOf (s t : State) (i : Nat) : (Sys2Proof.Machine.fin s t).trnOf i = t.trnOf i := rfl

theorem Keeps.setBstOf {l : List Part} {s t : State} {i : Nat} {v : Bst} (h : Keeps l s t) (hl : Part.bst ∈ l) :
    Keeps l s (t.setBstOf i v) := fun p hp => by
  have a := h p hp
  cases p <;> first | exact a | exact absurd hl hp

@[simp] theorem fin_bstOf (s t : State) (i : Nat) : (Sys2Proof.Machine.fin s t).bstOf i = t.bstOf i := rfl

theorem Keeps.setEng {l : List Part} {s t : State} {i : Nat} {v : Eng} (h : Keeps l s t) (hl : Part.engs ∈ l) :
    Keeps l s (t.setEng i v) := fun p hp => by
  have a := h p hp
  cases p <;> first | exact a | exact absurd hl hp

@[simp] theorem fin_eng (s t : State) (i : Nat) : (Sys2Proof.Machine.fin s t).eng i = t.eng i := rfl

theorem Keeps.setCtx {l : List Part} {s t : State} {i : Nat} {v : Ctx} (h : Keeps l s t) (hl : Part.ctxs ∈ l) :
    Keeps l s (t.setCtx i v) := fun p hp => by
  have a := h p hp
  cases p <;> first | exact a | exact absurd hl hp

@[simp] theorem fin_ctx (s t : State) (i : Nat) : (Sys2Proof.Machine.fin s t).ctx i = t.ctx i := rfl

theorem Keeps.setChk {l : List Part} {s t : State} {i : Nat} {v : Chk} (h : Keeps l s t) (hl : Part.chks ∈ l) :
    Keeps l s (t.setChk i v) := fun p hp => by
  have a := h p hp
  cases p <;> first | exact a | exact absurd hl hp

@[simp] theorem fin_chk (s t : State) (i : Nat) : (Sys2Proof.Machine.fin s t).chk i = t.chk i := rfl

theorem Keeps.setSlot {l : List Part} {s t : State} {i : Nat} {v : KeySlot} (h : Keeps l s t) (hl : Part.slots ∈ l) :
    Keeps l s (t.setSlot i v) := fun p hp => by
  have a := h p hp
  cases p <;> first | exact a | exact absurd hl hp

@[simp] theorem fin_slot (s t : State) (i : Nat) : (Sys2Proof.Machine.fin s t).slot i = t.slot i := rfl

theorem Keeps.setDom {l : List Part} {s t : State} {i : Nat} {v : Dom} (h : Keeps l s t) (hl : Part.doms ∈ l) :
    Keeps l s (t.setDom i v) := fun p hp => by
  have a := h p hp
  cases p <;> first | exact a | exact absurd hl hp

@[simp] theorem fin_dom (s t : State) (i : Nat) : (Sys2Proof.Machine.fin s t).dom i = t.dom i := rfl

theorem Keeps.raise {l : List Part} {s t : State} (src inst : Nat) (d : Word) (h : Keeps l s t) (hl : Part.flt ∈ l) :
    Keeps l s (Sys2Proof.Machine.raise t src inst d) := fun p hp => by
  have a := h p hp
  cases p <;> first | exact a | exact absurd hl hp

theorem Keeps.perf {l : List Part} {s t : State} (ev i k : Nat) (h : Keeps l s t) (hl : Part.tel ∈ l) :
    Keeps l s (Sys2Proof.Machine.perf t ev i k) := fun p hp => by
  have a := h p hp
  cases p <;> first | exact a | exact absurd hl hp

theorem Keeps.budgetDue {l : List Part} {s t : State} (h : Keeps l s t) (hl : Part.flw ∈ l) :
    Keeps l s (Sys2Proof.Machine.budgetDue t ) := fun p hp => by
  have a := h p hp
  cases p <;> first | exact a | exact absurd hl hp

theorem Keeps.logMap {l : List Part} {s t : State} (r : LogRec) (h : Keeps l s t) (hl : Part.log ∈ l) :
    Keeps l s (Sys2Proof.Machine.logMap t r) := fun p hp => by
  have a := h p hp
  cases p <;> first | exact a | exact absurd hl hp

theorem Keeps.logSet {l : List Part} {s t : State} (r : LogRec) (h : Keeps l s t) (hl : Part.log ∈ l) :
    Keeps l s (Sys2Proof.Machine.logSet t r) := fun p hp => by
  have a := h p hp
  cases p <;> first | exact a | exact absurd hl hp

/-- An answer touches the ports. -/
theorem Keeps.respond {l : List Part} {s t : State} {via : Via} {w : Bool} {a d : Word} {st : Status} (h : Keeps l s t)
    (hl : Part.ports ∈ l) : Keeps l s (Sys2Proof.Machine.respond t via w a st d) := by
  rcases respond_frame t via w a st d with e | ⟨p, e⟩ <;> rw [e]
  · exact h
  · exact h.setPort hl

end Sys2Proof.Safety
end

