-- ==== Sys2Proof/Laws/Memory.lean ====
section
/-! SUPPORT. Stored lines: the memory operations keep the canonical form, a line reads as it was last written, and the
memory of reset is canonical. -/

namespace Sys2Proof.Machine

theorem keysFrom_mono {α : Type} (t : Tbl α) {lo lo' : Nat} (h : lo' ≤ lo) (w : keysFrom lo t = true) :
    keysFrom lo' t = true := by
  cases t with
  | nil => rfl
  | cons e r =>
    obtain ⟨k, v⟩ := e
    simp only [keysFrom, Bool.and_eq_true, decide_eq_true_eq] at w ⊢
    exact ⟨Nat.le_trans h w.1, w.2⟩

theorem keysFrom_tput {α : Type} : ∀ (t : Tbl α) (lo k : Nat) (v : α),
    keysFrom lo t = true → lo ≤ k → keysFrom lo (tput t k v) = true
  | [], lo, k, v, _, h => by simp [tput, keysFrom, h]
  | (k', v') :: r, lo, k, v, w, h => by
    simp only [keysFrom, Bool.and_eq_true, decide_eq_true_eq] at w
    by_cases hk : k < k'
    · simp [tput, hk, keysFrom, h, w.2, Nat.succ_le_of_lt hk]
    · by_cases he : k = k'
      · subst he; simp [tput, keysFrom, w.1, w.2]
      · simp [tput, hk, he, keysFrom, w.1, keysFrom_tput r (k' + 1) k v w.2 (by omega)]

theorem keysFrom_filter {α : Type} (p : Nat × α → Bool) : ∀ (t : Tbl α) (lo : Nat),
    keysFrom lo t = true → keysFrom lo (t.filter p) = true
  | [], _, _ => rfl
  | (k, v) :: r, lo, w => by
    simp only [keysFrom, Bool.and_eq_true, decide_eq_true_eq] at w
    have ih := keysFrom_filter p r (k + 1) w.2
    by_cases h : p (k, v) = true
    · simp [h, keysFrom, w.1, ih]
    · simp only [List.filter_cons, h, Bool.false_eq_true, if_false]
      exact keysFrom_mono _ (Nat.le_succ_of_le w.1) ih

theorem mem_tput {α : Type} : ∀ (t : Tbl α) (k : Nat) (v : α) (e : Nat × α), e ∈ tput t k v → e = (k, v) ∨ e ∈ t
  | [], k, v, e, h => by simpa [tput] using h
  | (k', v') :: r, k, v, e, h => by
    by_cases hk : k < k'
    · simp only [tput, hk, if_true, List.mem_cons] at h ⊢; exact h
    · by_cases he : k = k'
      · simp only [tput, he, if_true, if_false, Nat.lt_irrefl, List.mem_cons] at h ⊢
        rcases h with h | h
        · exact .inl h
        · exact .inr (.inr h)
      · simp only [tput, hk, he, if_false, List.mem_cons] at h ⊢
        rcases h with h | h
        · exact .inr (.inl h)
        · rcases mem_tput r k v e h with h | h
          · exact .inl h
          · exact .inr (.inr h)

/-- A rank's lines read what was last written, others as before. -/
theorem RankMem.get_set (m : RankMem) (rk key : Nat) (w : Half × Half) : (m.set key w).get rk key = w := by
  by_cases h : m.filled = true ∧ w = zeroWords
  · obtain ⟨hf, rfl⟩ := h
    simp [RankMem.set, RankMem.get, hf]
  · have h' : (m.filled && decide (w = zeroWords)) = false := by
      by_cases hf : m.filled = true
      · simpa [hf] using fun x => h ⟨hf, x⟩
      · simp [hf]
    simp [RankMem.set, RankMem.get, h']

theorem RankMem.get_set_ne (m : RankMem) (rk key j : Nat) (w : Half × Half) (h : j ≠ key) :
    (m.set key w).get rk j = m.get rk j := by
  by_cases hw : (m.filled && decide (w = zeroWords)) = true
  · simp only [RankMem.set, RankMem.get, hw, if_true, tfind_tdel_ne m.lines key j h]
  · simp only [RankMem.set, RankMem.get, hw, Bool.false_eq_true, if_false, tfind_tput_ne m.lines key j w h]

theorem RankMem.wf_set (m : RankMem) (key : Nat) (w : Half × Half) (h : m.wf = true) : (m.set key w).wf = true := by
  simp only [RankMem.wf, Bool.and_eq_true] at h
  by_cases hw : (m.filled && decide (w = zeroWords)) = true
  · simp only [RankMem.set, RankMem.wf, hw, if_true, Bool.and_eq_true]
    refine ⟨keysFrom_filter _ _ _ h.1, ?_⟩
    cases hf : m.filled
    · simp
    · simp only [hf, Bool.not_true, Bool.false_or, List.all_eq_true] at h ⊢
      intro e he
      exact h.2 e (List.mem_filter.mp he |>.1)
  · simp only [RankMem.set, RankMem.wf, hw, Bool.false_eq_true, if_false, Bool.and_eq_true]
    refine ⟨keysFrom_tput _ _ _ _ h.1 (Nat.zero_le _), ?_⟩
    cases hf : m.filled
    · simp
    · simp only [hf, Bool.not_true, Bool.false_or, List.all_eq_true, Bool.true_and, decide_eq_true_eq] at h hw ⊢
      intro e he
      rcases mem_tput _ _ _ _ he with rfl | he
      · exact hw
      · exact h.2 e he

theorem mem_of_tget {α : Type} (d : α) : ∀ (t : Tbl α) (k : Nat), tget d t k = d ∨ (k, tget d t k) ∈ t
  | [], _ => .inl rfl
  | (k', v') :: r, k => by
    by_cases h : k' = k
    · subst h; simp [tget]
    · simp only [tget, h, if_false]
      rcases mem_of_tget d r k with x | x
      · exact .inl x
      · exact .inr (List.mem_cons_of_mem _ x)

theorem mem_tset {α : Type} [DecidableEq α] (d : α) (t : Tbl α) (k : Nat) (v : α) (e : Nat × α)
    (h : e ∈ tset d t k v) : e = (k, v) ∨ e ∈ t := by
  unfold tset at h
  split at h
  · exact .inr ((List.mem_filter.mp h).1)
  · exact mem_tput t k v e h

theorem rankMem_wf_of (m : Tbl RankMem) (k : Nat) (h : Memory.wf m = true) : (tget {} m k).wf = true := by
  simp only [Memory.wf, Bool.and_eq_true, List.all_eq_true] at h
  rcases mem_of_tget {} m k with x | x
  · rw [x]; rfl
  · exact h.2 _ x

/-- The one update of a rank's memory keeps the canonical form when the rank's own does. -/
theorem memory_wf_modRmem (s : State) (k : Nat) (g : RankMem → RankMem) (h : Memory.wf s.mem = true)
    (hg : ∀ m : RankMem, m.wf = true → (g m).wf = true) : Memory.wf (s.modRmem k g).mem = true := by
  have hk := hg _ (rankMem_wf_of s.mem k h)
  simp only [Memory.wf, Bool.and_eq_true, List.all_eq_true] at h ⊢
  refine ⟨twf_tset _ _ _ _ h.1, fun e he => ?_⟩
  rcases mem_tset _ _ _ _ _ he with rfl | he
  · exact hk
  · exact h.2 e he

theorem rmem_modRmem_self (s : State) (k : Nat) (g : RankMem → RankMem) :
    (s.modRmem k g).rmem k = g (s.rmem k) := tget_tset_self ({} : RankMem) s.mem k (g (s.rmem k))

theorem rmem_modRmem_ne (s : State) (k j : Nat) (g : RankMem → RankMem) (h : j ≠ k) :
    (s.modRmem k g).rmem j = s.rmem j := tget_tset_ne ({} : RankMem) s.mem k j (g (s.rmem k)) h

@[simp] theorem modEccOf_mem (s : State) (c : Nat) (g : Ecc → Ecc) : (s.modEccOf c g).mem = s.mem := rfl

theorem memWrite_wf (s : State) (l : Loc) (w : Half × Half) (h : Memory.wf s.mem = true) :
    Memory.wf (memWrite s l w).mem = true :=
  memory_wf_modRmem s _ _ h (fun m hm => RankMem.wf_set m _ w hm)

theorem cellWrite_wf (s : State) (l : Loc) (w : Half × Half) (h : Memory.wf s.mem = true) :
    Memory.wf (cellWrite s l w).mem = true := by
  unfold cellWrite
  split
  · exact h
  · exact memWrite_wf s l w h

theorem fillRank_wf (s : State) (c k : Nat) (h : Memory.wf s.mem = true) : Memory.wf (fillRank s c k).mem = true := by
  rw [fillRank, modEccOf_mem]
  exact memory_wf_modRmem s _ _ h (fun _ _ => rfl)

theorem loseRank_wf (s : State) (c k : Nat) (h : Memory.wf s.mem = true) : Memory.wf (loseRank s c k).mem = true :=
  memory_wf_modRmem _ _ _ h (fun _ _ => rfl)

theorem fillRest_wf (s : State) (c k : Nat) (h : Memory.wf s.mem = true) : Memory.wf (fillRest s c k).mem = true := by
  rw [fillRest, modEccOf_mem]
  refine memory_wf_modRmem s _ _ h (fun m hm => ?_)
  simp only [RankMem.wf, Bool.and_eq_true] at hm ⊢
  refine ⟨keysFrom_filter _ _ _ hm.1, ?_⟩
  simp only [Bool.not_true, Bool.false_or, List.all_eq_true]
  intro e he
  have := (List.mem_filter.mp he).2
  simp only [Bool.and_eq_true] at this
  exact this.1

/-- A line reads, at the tier, as it was last written. -/
theorem memRead_memWrite (s : State) (l : Loc) (w : Half × Half) :
    memRead (memWrite s l w) l = w := by
  simp only [memRead, memWrite, rmem_modRmem_self s _ _]
  exact RankMem.get_set _ _ _ w

/-- Lines of another rank, and lines that another key holds, read as before. -/
theorem memRead_memWrite_ne (s : State) (l j : Loc) (w : Half × Half)
    (hj : rankKey j.ch j.rank ≠ rankKey l.ch l.rank ∨
      (s.rmem (rankKey j.ch j.rank)).key j ≠ (s.rmem (rankKey l.ch l.rank)).key l) :
    memRead (memWrite s l w) j = memRead s j := by
  by_cases hr : rankKey j.ch j.rank = rankKey l.ch l.rank
  · have hk := hj.resolve_left (fun x => x hr)
    rw [hr] at hk
    simp only [memRead, memWrite, hr, rmem_modRmem_self s _ _]
    exact RankMem.get_set_ne _ _ _ _ w hk
  · simp only [memRead, memWrite, rmem_modRmem_ne s _ _ _ hr]

/-- The memory of reset lists nothing and is canonical. -/
theorem reset_memory_wf : Memory.wf State.reset.mem = true := rfl

end Sys2Proof.Machine
end

