-- ==== Sys2Proof/Laws/Queues.lean ====
section
/-! SUPPORT. What the operations on requests, channel queues and the line buffer keep of the parts of the state. -/

namespace Sys2Proof.Safety

open Sys2Proof.Machine

/-- The parts that work on the queues of the data path touches. -/
def queueParts : List Part := [.chans, .reqs, .tel, .cip]

theorem Keeps.foldS {l : List Part} {s : State} {g : State → Nat → State} (hg : ∀ u i, Keeps l s u → Keeps l s (g u i))
    (xs : List Nat) : ∀ {t : State}, Keeps l s t → Keeps l s (Sys2Proof.Machine.foldS xs g t) := by
  induction xs with
  | nil => exact fun h => h
  | cons x r ih => exact fun h => ih (hg _ x h)

theorem Keeps.foldl {α : Type} {l : List Part} {s : State} {g : State → α → State}
    (hg : ∀ u i, Keeps l s u → Keeps l s (g u i)) (xs : List α) : ∀ {t : State}, Keeps l s t → Keeps l s (xs.foldl g t) := by
  induction xs with
  | nil => exact fun h => h
  | cons x r ih => exact fun h => ih (hg _ x h)

theorem Keeps.setReqs {l : List Part} {s t : State} {v : List Req} (h : Keeps l s t) (hl : Part.reqs ∈ l) :
    Keeps l s { t with reqs := v } := fun p hp => by
  have a := h p hp
  cases p <;> first | exact a | exact absurd hl hp

theorem Keeps.setCip {l : List Part} {s t : State} {v : Cip} (h : Keeps l s t) (hl : Part.cip ∈ l) :
    Keeps l s { t with cip := v } := fun p hp => by
  have a := h p hp
  cases p <;> first | exact a | exact absurd hl hp

theorem Keeps.setFlw {l : List Part} {s t : State} {v : FlowEng} (h : Keeps l s t) (hl : Part.flw ∈ l) :
    Keeps l s { t with flw := v } := fun p hp => by
  have a := h p hp
  cases p <;> first | exact a | exact absurd hl hp

/-- Naming a time touches the clock. -/
theorem Keeps.atPs {l : List Part} {s t : State} (now : Nat) (h : Keeps l s t) (hl : Part.clock ∈ l) :
    Keeps l s (Sys2Proof.Machine.atPs t now) := fun p hp => by
  have a := h p hp
  unfold Sys2Proof.Machine.atPs
  split
  · cases p <;> first | exact a | exact absurd hl hp
  · exact a

theorem Keeps.modReq {l : List Part} {s t : State} {id : Nat} {g : Req → Req} (h : Keeps l s t) (hl : Part.reqs ∈ l) :
    Keeps l s (Sys2Proof.Machine.modReq t id g) := h.setReqs hl

theorem Keeps.endReq {l : List Part} {s t : State} {id : Nat} {st : Status} (h : Keeps l s t) (hl : Part.reqs ∈ l) :
    Keeps l s (Sys2Proof.Machine.endReq t id st) := h.setReqs hl

theorem Keeps.lineDone {l : List Part} {s t : State} {id i : Nat} {st : Status} {d : Option Line} (h : Keeps l s t)
    (hl : Part.reqs ∈ l) : Keeps l s (Sys2Proof.Machine.lineDone t id i st d) := h.setReqs hl

theorem Keeps.addReq {l : List Part} {s t : State} {r : Req} (h : Keeps l s t) (hr : Part.reqs ∈ l) (hf : Part.flw ∈ l) :
    Keeps l s (Sys2Proof.Machine.addReq t r) := fun p hp => by
  have a := h p hp
  cases p <;> first | exact a | exact absurd hr hp | exact absurd hf hp

/-- A request that fails gives its charge back to its flow. -/
theorem Keeps.failReq {l : List Part} {s t : State} {id : Nat} {st : Status} (h : Keeps l s t) (hr : Part.reqs ∈ l)
    (hf : Part.flowRt ∈ l) : Keeps l s (Sys2Proof.Machine.failReq t id st) := by
  unfold Sys2Proof.Machine.failReq
  split
  · split
    · exact h
    · exact (h.setFlowR hf).endReq hr
  · exact h

theorem Keeps.popDesc {l : List Part} {s t : State} {n : Nat} (h : Keeps l s t) (hl : Part.ports ∈ l) :
    Keeps l s (Sys2Proof.Machine.popDesc t n) := h.setPort hl

theorem Keeps.countOutcome {l : List Part} {s t : State} {f : Nat} {st : Status} (h : Keeps l s t)
    (hf : Part.flowRt ∈ l) (ht : Part.tel ∈ l) : Keeps l s (Sys2Proof.Machine.countOutcome t f st) := by
  unfold Sys2Proof.Machine.countOutcome
  split
  · exact (h.setFlowR hf).perf _ _ _ ht
  · exact h.perf _ _ _ ht
  · exact h.perf _ _ _ ht
  · exact h
  · exact h.perf _ _ _ ht

theorem Keeps.charge {l : List Part} {s t : State} {f u ns : Nat} (h : Keeps l s t) (hl : Part.flowRt ∈ l) :
    Keeps l s (Sys2Proof.Machine.charge t f u ns) := h.setFlowR hl

theorem Keeps.admitReads {l : List Part} {s t : State} {c : Nat} (h : Keeps l s t) (hl : Part.chans ∈ l) :
    Keeps l s (Sys2Proof.Machine.admitReads t c) := by
  unfold Sys2Proof.Machine.admitReads
  split
  · exact h
  · exact h.setChan hl

theorem Keeps.admitWrites {l : List Part} {s t : State} {c : Nat} (h : Keeps l s t) (hl : Part.chans ∈ l)
    (hr : Part.reqs ∈ l) : Keeps l s (Sys2Proof.Machine.admitWrites t c) := by
  unfold Sys2Proof.Machine.admitWrites
  split
  · exact h
  · exact Keeps.foldS (fun u i k => k.endReq hr) _ (h.setChan hl)

theorem Keeps.pushRead {l : List Part} {s t : State} {e : Entry} (h : Keeps l s t) (hl : Part.chans ∈ l) :
    Keeps l s (Sys2Proof.Machine.pushRead t e) := (h.setChan hl).admitReads hl

theorem Keeps.pushWrite {l : List Part} {s t : State} {e : Entry} (h : Keeps l s t) (hl : Part.chans ∈ l)
    (hr : Part.reqs ∈ l) : Keeps l s (Sys2Proof.Machine.pushWrite t e) := (h.setChan hl).admitWrites hl hr

theorem Keeps.flushFenced {l : List Part} {s t : State} {c line : Nat} (h : Keeps l s t) (hl : Part.reqs ∈ l) :
    Keeps l s (Sys2Proof.Machine.flushFenced t c line) := h.setReqs hl

theorem Keeps.awaitLine {l : List Part} {s t : State} {f id c line : Nat} (h : Keeps l s t) (hl : Part.reqs ∈ l) :
    Keeps l s (Sys2Proof.Machine.awaitLine t f id c line) := h.setReqs hl

theorem Keeps.countEnc {l : List Part} {s t : State} {e : Bool} (h : Keeps l s t) (hq : queueParts ⊆ l) :
    Keeps l s (Sys2Proof.Machine.countEnc t e) := by
  unfold Sys2Proof.Machine.countEnc
  split
  · exact (h.setCip (hq (by decide))).perf _ _ _ (hq (by decide))
  · exact h

theorem Keeps.lbDrop {l : List Part} {s t : State} {c line : Nat} (h : Keeps l s t) (hl : Part.chans ∈ l) :
    Keeps l s (Sys2Proof.Machine.lbDrop t c line) := h.setChan hl

theorem Keeps.lbTouch {l : List Part} {s t : State} {c line : Nat} (h : Keeps l s t) (hl : Part.chans ∈ l) :
    Keeps l s (Sys2Proof.Machine.lbTouch t c line) := h.setChan hl

theorem Keeps.queueWb {l : List Part} {s t : State} {c : Nat} {x : LbLine} (h : Keeps l s t) (hq : queueParts ⊆ l) :
    Keeps l s (Sys2Proof.Machine.queueWb t c x) := by
  unfold Sys2Proof.Machine.queueWb
  split
  · exact h.flushFenced (hq (by decide))
  · split
    · exact h.flushFenced (hq (by decide))
    · exact ((h.countEnc hq).perf _ _ _ (hq (by decide))).pushWrite (hq (by decide)) (hq (by decide))

theorem Keeps.cleanLine {l : List Part} {s t : State} {c : Nat} {x : LbLine} (h : Keeps l s t) (hq : queueParts ⊆ l) :
    Keeps l s (Sys2Proof.Machine.cleanLine t c x) := (h.queueWb hq).setChan (hq (by decide))

theorem Keeps.refillWb {l : List Part} {s t : State} {c : Nat} (h : Keeps l s t) (hq : queueParts ⊆ l) :
    Keeps l s (Sys2Proof.Machine.refillWb t c) := by
  have : ∀ n t, Keeps l s t → Keeps l s (Sys2Proof.Machine.refillWbAux c n t) := by
    intro n
    induction n with
    | zero => exact fun t h => h
    | succ n ih =>
      intro t h
      unfold Sys2Proof.Machine.refillWbAux
      split
      · split
        · exact ih _ (h.cleanLine hq)
        · exact h
      · exact h
  exact this 48 t h

theorem Keeps.lbPut {l : List Part} {s t : State} {c : Nat} {x : LbLine} (h : Keeps l s t) (hq : queueParts ⊆ l) :
    Keeps l s (Sys2Proof.Machine.lbPut t c x) := by
  unfold Sys2Proof.Machine.lbPut
  refine Keeps.setChan ?_ (hq (by decide))
  split
  · split
    · exact (h.queueWb hq).lbDrop (hq (by decide))
    · exact h.lbDrop (hq (by decide))
  · exact h

theorem Keeps.dropMismatch {l : List Part} {s t : State} {c i : Nat} {r : Req} (h : Keeps l s t) (hq : queueParts ⊆ l) :
    Keeps l s (Sys2Proof.Machine.dropMismatch t c r i) := by
  unfold Sys2Proof.Machine.dropMismatch
  split
  · split
    · exact h
    · split
      · exact (h.queueWb hq).lbDrop (hq (by decide))
      · exact h.lbDrop (hq (by decide))
  · exact h

theorem Keeps.countHit {l : List Part} {s t : State} {c : Nat} {r : Req} (h : Keeps l s t) (hq : queueParts ⊆ l) :
    Keeps l s (Sys2Proof.Machine.countHit t c r) := by
  unfold Sys2Proof.Machine.countHit
  split
  · exact (h.setChan (hq (by decide))).perf _ _ _ (hq (by decide))
  · exact h

theorem Keeps.awaitWrite {l : List Part} {s t : State} {c : Nat} {r : Req} (h : Keeps l s t) (hq : queueParts ⊆ l) :
    Keeps l s (Sys2Proof.Machine.awaitWrite t r c) := Keeps.foldS (fun _ _ k => k.awaitLine (hq (by decide))) _ h

theorem Keeps.writePoisoned {l : List Part} {s t : State} {c i : Nat} {r : Req} {p : Loc} (h : Keeps l s t)
    (hq : queueParts ⊆ l) : Keeps l s (Sys2Proof.Machine.writePoisoned t r c p i) :=
  (h.lbDrop (hq (by decide))).pushWrite (hq (by decide)) (hq (by decide))

/-- A write's lines reach the buffer or the write queues, and touch nothing else. -/
theorem Keeps.writeLines {l : List Part} {s t : State} {c : Nat} {r : Req} {p : Loc} {d : Nat → Line} (h : Keeps l s t)
    (hq : queueParts ⊆ l) : Keeps l s (Sys2Proof.Machine.writeLines t r c p d) := by
  unfold Sys2Proof.Machine.writeLines
  refine Keeps.refillWb (Keeps.awaitWrite ?_ hq) hq
  dsimp only
  split
  · exact Keeps.pushWrite (Keeps.foldS (fun _ _ k => k.countEnc hq) _ h) (hq (by decide)) (hq (by decide))
  · refine Keeps.endReq (Keeps.foldS (fun _ _ k => ?_) _ (h.countHit hq)) (hq (by decide))
    split
    · exact k.writePoisoned hq
    · exact (k.dropMismatch hq).lbPut hq

/-- The zero lines of a fill likewise, and are counted. -/
theorem Keeps.zeroLines {l : List Part} {s t : State} {line : Nat} (h : Keeps l s t) (hq : queueParts ⊆ l)
    (he : Part.ecc ∈ l) : Keeps l s (Sys2Proof.Machine.zeroLines t line) := by
  unfold Sys2Proof.Machine.zeroLines
  have h' := h.setEccOf (i := homeChan t line) (v := { t.eccOf (homeChan t line) with
    fillLines := (t.eccOf (homeChan t line)).fillLines + 4 }) he
  dsimp only [State.modEccOf]
  split
  · split
    · exact h'
    · split
      · exact h'
      · exact h'.pushWrite (hq (by decide)) (hq (by decide))
  · exact (Keeps.foldS (fun _ _ k => k.lbPut hq) _ h').refillWb hq

theorem Keeps.triggerWrite {l : List Part} {s t : State} {r : Req} (h : Keeps l s t) (hq : queueParts ⊆ l)
    (hf : Part.flowRt ∈ l) : Keeps l s (Sys2Proof.Machine.triggerWrite t r) := by
  unfold Sys2Proof.Machine.triggerWrite
  split
  · exact h.failReq (hq (by decide)) hf
  · split
    · exact h.failReq (hq (by decide)) hf
    · exact h.writeLines hq

end Sys2Proof.Safety
end

