-- ==== Sys2Proof/Machine/Package.lean ====
section
/-! DEFINITION. The columns, rates, latency figures and limits of the stack (R16, R20–R22, R30–R33, R214), its balls
(R464–R467), its supplies and clocks (R468–R476), and what its pins carry (R477, R483–R486), with the package (R487, R488).
Commands change none of this; the definitions say what a reader of the block may rely on. -/

namespace Sys2Proof.Machine

/-! ### Columns and operating points (R20, R21, R31) -/

/-- A set of columns of a channel's vertical interface: active and spare columns (R20). A clock pair has two columns. -/
structure ColumnSet where
  active : Nat
  spare  : Nat
  deriving DecidableEq, Repr

def dataColumns : ColumnSet := ⟨72, 4⟩
def commandColumns : ColumnSet := ⟨12, 1⟩
def clockColumns : ColumnSet := ⟨4, 2⟩

/-- The columns of a channel: 95. -/
def channelColumns : Nat :=
  ([dataColumns, commandColumns, clockColumns].map (fun x => x.active + x.spare)).foldl (· + ·) 0

/-- Data rate per lane at a point, in MT/s (R21). -/
def laneRate (op : Nat) : Nat := match op with | 0 => 8800 | 1 => 6400 | _ => 3200

/-- Payload of a channel at a point, in MB/s: 64 data lanes of 8 bits to the byte (R21). -/
def channelPayload (op : Nat) : Nat := 64 * laneRate op / 8

/-- Payload of 32 channels, in MB/s. -/
def stackPayload (op : Nat) : Nat := 32 * channelPayload op

/-- What a port carries at 4 lanes, in kB/s: the line rate, after FEC, and as flit payload (R31). -/
def portLine : Nat := 4 * 212500000 / 8
def portAfterFec : Nat := portLine * 514 / 544
def portPayload : Nat := portAfterFec * 232 / 256

/-- Committed read or write data of a port, in MB/s, and of the variant's ports together (R31). -/
def portCommitted : Nat := 87500
def stackCommitted (v : Variant) : Nat := portCommitted * ((List.range 8).filter (portPresent v)).length

/-- A tier's repeaters run whenever VDD_DRAM is within its range, whatever the array domain or any reset but a cold one
does (R22). -/
def repeatersRun (vddDram : Int) : Bool := 1045 ≤ vddDram && vddDram ≤ 1155

/-! ### Latency of an unloaded 64 B read (R30, R214) -/

/-- The stages of a read of a closed page, in ns. -/
def readStages : List Nat := [58, 8, 9, 10, 8, 14, 15, 6, 7, 8, 4, 58]

def sumOf (xs : List Nat) : Nat := xs.foldl (· + ·) 0

/-- Where the line is found. -/
inductive ReadCase where
  | pageClosed | rowHit | bufferHit
  deriving DecidableEq, Repr

/-- Unloaded latency in ns: the row hit omits tRCD, a line-buffer hit replaces the 50 ns of the channel's stages with 21 ns,
and an encrypted province adds 11 ns to what comes from a tier. -/
def unloadedNs (w : ReadCase) (enc : Bool) : Nat :=
  match w with
  | .pageClosed => sumOf readStages + (if enc then 11 else 0)
  | .rowHit => sumOf readStages - 14 + (if enc then 11 else 0)
  | .bufferHit => sumOf readStages - 50 + 21

/-- Time of the check and correction decode of a line in ns (R214). -/
def decodeNs (o : LineOut) : Nat := match o with | .clean => 7 | _ => 19

/-! ### Power and temperature limits (R32, R33, R488) -/

/-- Shares of design power in W: SerDes, crown, tiers, I/O (R32). -/
def powerShares : List Nat := [48, 27, 30, 5]
def designPower : Nat := sumOf powerShares
def peakPower : Nat := 125

/-- The power limits that a power sheet may set, in W (R32). -/
def limitAllowed (w : Nat) : Bool := 40 ≤ w && w ≤ 125 && w % 5 = 0

/-- How a die operates at a temperature in 1/16 °C (R33). -/
inductive DieState where
  | below | full | derated | over | gale
  deriving DecidableEq, Repr

def crownState (t : Int) : DieState :=
  if t < 0 then .below else if t ≤ 1680 then .full else if t < 1840 then .over else .gale

def tierState (t : Int) : DieState :=
  if t < 0 then .below else if t ≤ 1520 then .full else if t ≤ 1680 then .derated else if t < 1760 then .over else .gale

/-- The lid temperature in 1/100 °C that keeps the crown at 105 °C or below at a power limit in W (R488). -/
def lidLimit (p : Nat) : Int := 10500 - 12 * p

/-! ### Balls (R464–R467) -/

inductive Rail where
  | core | sram | dram | vpp | sd | sdh | io | aon
  deriving DecidableEq, Repr

/-- Signals of the control and test clusters (R466). -/
inductive Signal where
  | pwrgood | resetN | alive | irqN | thermtripN | sbScl | sbSda | sbAddr (i : Nat) | bootSrc | bistSel (i : Nat) | testEn
  | qspiSck | qspiCsN | qspiIo (i : Nat) | tck | tms | tdi | tdo | trstN | vsense (rail : Rail) (n : Bool)
  deriving DecidableEq, Repr

/-- What a ball carries. `n` is the N side of a pair. -/
inductive Ball where
  | gnd | supply (r : Rail) | tx (port lane : Nat) (n : Bool) | rx (port lane : Nat) (n : Bool)
  | refclk (n : Bool) | mer (n : Bool) | signal (x : Signal) | reserved
  deriving DecidableEq, Repr

/-- First column of the lanes of port n (R465). -/
def laneColumn (port : Nat) : Nat := [3, 12, 24, 33].getD (port % 4) 0

/-- The port of one half whose eight lane balls hold a column, and the place among them. -/
def lanePlace (c : Nat) : Option (Nat × Nat) :=
  (List.range 4).findSome? (fun p => if laneColumn p ≤ c && c < laneColumn p + 8 then some (p, c - laneColumn p) else none)

def laneBall (c first : Nat) (mk : Nat → Nat → Bool → Ball) : Ball :=
  match lanePlace c with
  | some (p, i) => mk (first + p) (i / 2) (i % 2 = 1)
  | none => .gnd

/-- Rows 1–6 and 37–42 (R464, R465). -/
def edgeBall (r c : Nat) : Ball :=
  match r with
  | 2 => laneBall c 0 .tx
  | 5 => laneBall c 0 .rx
  | 41 => laneBall c 4 .tx
  | 38 => laneBall c 4 .rx
  | 3 => if c = 21 then .refclk false else if c = 22 then .refclk true else .gnd
  | 40 => if c = 21 then .mer false else if c = 22 then .mer true else .gnd
  | _ => .gnd

/-- The control and test clusters (R466): row, column and ball; a position that is not listed is GND. -/
def clusterBalls : List (Nat × Nat × Ball) :=
  [(11, 7, .signal .pwrgood), (11, 8, .signal .resetN), (11, 9, .signal .alive), (11, 10, .signal .irqN),
   (12, 7, .signal .thermtripN), (12, 9, .signal .sbScl), (12, 10, .signal .sbSda),
   (13, 7, .signal (.sbAddr 0)), (13, 8, .signal (.sbAddr 1)), (13, 9, .signal (.sbAddr 2)), (13, 10, .signal .bootSrc),
   (14, 7, .signal (.bistSel 0)), (14, 8, .signal (.bistSel 1)), (14, 9, .signal .testEn),
   (15, 7, .signal .qspiSck), (15, 9, .signal .qspiCsN), (15, 10, .signal (.qspiIo 0)),
   (16, 7, .signal (.qspiIo 1)), (16, 8, .signal (.qspiIo 2)), (16, 9, .signal (.qspiIo 3)),
   (17, 7, .supply .io), (17, 8, .supply .io), (17, 9, .supply .io), (17, 10, .supply .io),
   (18, 7, .supply .io), (18, 8, .supply .io), (18, 9, .supply .aon), (18, 10, .supply .aon),
   (19, 7, .supply .aon), (19, 8, .supply .aon), (19, 9, .supply .aon), (19, 10, .supply .aon),
   (20, 7, .supply .aon), (20, 8, .supply .aon)] ++
  [(27, 33, .signal .tck), (27, 34, .signal .tms), (27, 35, .signal .tdi), (27, 36, .signal .tdo),
   (28, 33, .signal .trstN), (28, 35, .supply .io), (28, 36, .supply .io),
   (29, 33, .signal (.vsense .core false)), (29, 34, .signal (.vsense .core true)),
   (29, 35, .signal (.vsense .dram false)), (29, 36, .signal (.vsense .dram true))]

def inCluster (r c : Nat) : Bool :=
  (11 ≤ r && r ≤ 20 && 7 ≤ c && c ≤ 10) || (27 ≤ r && r ≤ 32 && 33 ≤ c && c ≤ 36)

def clusterBall (r c : Nat) : Ball :=
  if 30 ≤ r then .reserved
  else match clusterBalls.find? (fun e => e.1 = r && e.2.1 = c) with
    | some e => e.2.2
    | none => .gnd

/-- Rows 11–32 (R464). -/
def middleBall (r c : Nat) : Ball :=
  if c = 1 || c = 42 then (if r ≤ 22 then .supply .vpp else .gnd)
  else if c = 6 || c = 37 then .gnd
  else if c ≤ 5 || 38 ≤ c then .supply .dram
  else if inCluster r c then clusterBall r c
  else if c ≤ 13 || 30 ≤ c then (if (r + c) % 2 = 0 then .supply .sram else .gnd)
  else if (r + c) % 2 = 1 then .supply .core
  else .gnd

/-- The ball in a row and column, 1–42 each, counted from the corner marked on the lid (R16, R464). -/
def ballAt (r c : Nat) : Ball :=
  if r ≤ 6 || 37 ≤ r then edgeBall r c
  else if r ≤ 9 || 34 ≤ r then (if c % 2 = 1 then .supply .sd else .gnd)
  else if r = 10 || r = 33 then (if c % 2 = 0 then .supply .sdh else .gnd)
  else middleBall r c

/-- Balls of the array that carry what `sel` picks (R467). -/
def ballCount (sel : Ball → Bool) : Nat :=
  sumOf ((List.range 42).map (fun r => ((List.range 42).filter (fun c => sel (ballAt (r + 1) (c + 1)))).length))

/-- The lane balls of a port that the variant lacks are not connected inside the package (R467). -/
def ballConnected (v : Variant) : Ball → Bool
  | .tx p _ _ | .rx p _ _ => portPresent v p
  | .reserved => false
  | _ => true

/-! ### Supplies (R468–R472) -/

/-- Nominal voltage, operating range and greatest noise of a rail, in 0.1 mV (R469). -/
def railRange : Rail → Nat × Nat × Nat × Nat
  | .core => (7500, 7125, 7875, 250)
  | .sram => (8000, 7600, 8400, 250)
  | .dram => (11000, 10450, 11550, 300)
  | .vpp => (18000, 17100, 18900, 500)
  | .sd => (8000, 7760, 8240, 100)
  | .sdh => (12000, 11640, 12360, 100)
  | .io => (18000, 17100, 18900, 500)
  | .aon => (8000, 7600, 8400, 250)

/-- Absolute maximum of a rail in mV; the minimum is −300 mV for each, and VDD_DRAM stays within 300 mV above VPP (R468). -/
def railMax : Rail → Int
  | .core => 900
  | .sram | .sd | .aon => 950
  | .dram => 1350
  | .sdh => 1450
  | .vpp | .io => 2100

def withinRatings (mV : Rail → Int) (r : Rail) : Bool :=
  -300 ≤ mV r && mV r ≤ railMax r && (r ≠ .dram || mV .dram ≤ mV .vpp + 300)

/-- Current of a rail at design power, its maximum, and its load step per µs, in 10 mA (R470). -/
def railCurrent : Rail → Nat × Nat × Nat
  | .sd => (3750, 4100, 500)
  | .sdh => (1500, 1700, 200)
  | .core => (2670, 3200, 1200)
  | .sram => (875, 1100, 400)
  | .dram => (2450, 3400, 1000)
  | .vpp => (167, 300, 50)
  | .io => (100, 150, 50)
  | .aon => (50, 100, 20)

/-- The order of R471: when each rail enters its range, when REFCLK does and when PWRGOOD rises, in µs. VDD_SRAM may lag
VDD_CORE by no more than 50 mV, which `sramLag` gives in mV. -/
def sequenced (at_ : Rail → Nat) (refclk pwrgood : Nat) (sramLag : Int) : Bool :=
  let stage2 := max (at_ .core) (at_ .sram)
  at_ .aon ≤ at_ .io && at_ .io ≤ min (at_ .core) (at_ .sram) && sramLag ≤ 50 &&
  stage2 ≤ at_ .vpp && at_ .vpp ≤ at_ .dram && at_ .dram ≤ min (at_ .sd) (at_ .sdh) &&
  refclk + 100 ≤ pwrgood && max (at_ .sd) (at_ .sdh) + 1000 ≤ pwrgood

/-- A power-down that R472 allows: PWRGOOD falls 100 µs before the first rail leaves its range, the rails fall in reverse
order, VDD_AON last. -/
def sequencedDown (at_ : Rail → Nat) (pwrgood : Nat) : Bool :=
  pwrgood + 100 ≤ min (at_ .sd) (at_ .sdh) && max (at_ .sd) (at_ .sdh) ≤ at_ .dram && at_ .dram ≤ at_ .vpp &&
  at_ .vpp ≤ min (at_ .core) (at_ .sram) && max (at_ .core) (at_ .sram) ≤ at_ .io && at_ .io ≤ at_ .aon

/-! ### Clocks, lanes and time input (R473–R476) -/

/-- The receiver's signal detect, by the peak-to-peak amplitude in mV; between the levels it keeps what it showed (R473:
present above 120, absent below 40; DEDUCED, log 159). -/
def signalDetect (mV : Nat) (was : Bool) : Bool := if 120 < mV then true else if mV < 40 then false else was

/-- The REFCLK monitor: no edge for 1 µs, or over 100 µs more than 1,000 ppm from nominal (R475). -/
def refclkLost (sinceEdgeNs : Nat) (ppm : Int) : Bool := 1000 ≤ sinceEdgeNs || 1000 < iabs ppm

/-- REFCLK meets R474 in frequency: 156.25 MHz ± 100 ppm. -/
def refclkGood (ppm : Int) : Bool := iabs ppm ≤ 100

/-- The input delay of MER on a stack lies between these, in 0.1 ns (R476), so that two stacks differ by at most 4 ns. -/
def merDelay : Nat × Nat := (12, 52)

/-! ### Pins (R477–R486) -/

/-- Input levels at VDD_IO in mV: at most the first is 0, at least the second is 1 (R477). -/
def inputLevels (vddIo : Nat) : Nat × Nat := (vddIo * 35 / 100, vddIo * 65 / 100)

/-- Pins that load nothing while the stack has no power (R477). -/
def failSafe : Signal → Bool
  | .irqN | .thermtripN | .alive | .sbScl | .sbSda => true
  | _ => false

/-- The flash command of R483 after the reset pair. -/
def flashReset : List Byte := [0x66, 0x99]
def flashRead : Byte := 0xEB

/-- The stack drives the QSPI outputs: only while its loader reads a boot copy (R484). -/
def qspiDriven (s : State) : Bool :=
  s.pins.pwrgood && s.rst.phase = .image && s.img.phase = .receive && s.img.owner.isNone && s.img.source ≠ 0

/-- A board controller may drive the shared flash bus (R484). -/
def flashShared (s : State) : Bool :=
  !s.pins.resetN || s.rst.phase = .bist || s.rst.phase = .fill || s.rst.phase = .ready

/-- The 7-bit sideband address (R479, R481). -/
def sbAddress (s : State) : BitVec 7 := 0b1011#4 ++ s.pins.sbAddr

/-- IDCODE (R485): the stepping is the low four bits of Cartouche word 5 [23:16] (DEDUCED, log 158). -/
def idcode (s : State) : BitVec 32 := (fuseValue s.fus 0 5).2.1.extractLsb' 16 4 ++ 0x5016#16 ++ 0x7AD#12

/-- Steps 1 and 2 of a cold start, or no PWRGOOD: every output is released or idle, save ALIVE, which toggles from step 1
(R486). -/
def outputsReleased (s : State) : Bool :=
  !s.pins.pwrgood || s.rst.phase = .fuse || (s.rst.phase = .held && !s.rst.warm)

/-! ### The package (R487) -/

/-- Body edge, ball pitch, ball diameter, seated height, height of the dies, coplanarity, all in µm, and the greatest static
lid load in N. -/
structure Outline where
  body        : Nat := 37500
  pitch       : Nat := 800
  ball        : Nat := 450
  height      : Nat := 3200
  dies        : Nat := 820
  coplanarity : Nat := 150
  lidLoad     : Nat := 150
  deriving DecidableEq, Repr

def outline : Outline := {}

end Sys2Proof.Machine
end

