-- ==== Sys2Proof/Tests/Slice0.lean ====
section
/-! SUPPORT. Tests of the model: what well-formedness refuses, one small step of some commands against the spec's rules,
and for every statement a state and operands that meet its hypotheses. -/

namespace Sys2Proof.Tests

open Sys2Proof.Machine Sys2Proof.Safety

/-! ### Small states -/

/-- The block in service: the Gazetteer built, port 0 ACTIVE, every domain ON. -/
def up : State := { State.reset with
  gazBuilt := true, rst := { phase := .ready, fillDue := false }, ports := [(0, { st := .active })],
  doms := (List.range 72).map (fun d => (d, ({ st := .on } : Dom))) }
/-- The block in service with this port 0; with this Meridian. -/
def port0 (p : Port) : State := { up with ports := [(0, p)] }
def mer0 (m : Mer) : State := { up with mer := m }
/-- The management path of port 0. -/
def p0 : Via := ⟨0, 5⟩
/-- One bond of port 0, one province of 64 MiB, one flow that may touch it. -/
def flow0 (f : FlowCfg) : State := { up with tables := {
  bonds := [(0, ⟨0, 0⟩)], provs := [(0, { valid := true, count := 1, enabled := true, writable := true })],
  flows := [(0, f)] } }
def plainFlow : FlowCfg := { valid := true, cls := 1, guarantee := 100, ceiling := 0xFFFFFF, provs := 1 }
def fl : State := flow0 plainFlow
def h0 : ReqHdr := ⟨0, 0, 0, 9, 0, 0⟩
/-- A READ64 of the first line of province 0, past lookup. -/
def rq : Req := {
  id := 4, port := 0, flow := 0, province := 0, tag := 9, op := .read64, dpa := 0, enc := false, slot := 0, gen := 0
  data := 0, enables := 0, units := 1, window := 0, counted := none, fixed := false, stage := .waiting, status := .ok
  linesCorr := 0, linesPois := 0, rdata := [], linesDue := 1, eng := none, awaits := [] }
def held (r : Req) : State := { fl with reqs := [r] }
def line0 : LbLine := { dpaLine := 0, data := 0, dirty := true, enc := false, slot := 0, gen := 0, written := 0 }
def loc0 : Loc := ⟨0, 0, 0, 0, 0⟩
/-- Its entry in the read queue of channel 0, issued; `entW` not issued yet, `entB` a write-back of the line. -/
def ent : Entry := {
  id := 3, kind := .hostRead, req := some 4, fixed := false, loc := loc0, cols := [0], words := [], mask := (true, true)
  dpaLine := 0, since := 0, aged := false, finder := 0, begun := true, stale := true, got := (0, 0), fromEntry := false }
def withChan (s : State) (c : Chan) : State := { s with chans := [(0, c)] }
/-- R278: a FILL of the first 64 bytes of province 0. -/
def fillWords : BitVec 512 := ((0x20 : BitVec 512) <<< 504) ||| ((63 : BitVec 512) <<< 336)
def fillDesc : Desc := parseDesc 0 0 0 fillWords
def desc (d : Desc) (r : Option Nat) (e : Eng) : State :=
  { fl with pool := { queues := [(0, { descs := [d], running := r })] }, engs := [(0, e)] }
/-- A sideband read of word 0 awaits its response phase. -/
def sbWait : State := { up with sb := { cmd := some (1, 0, 0) } }
def sbAnswer : Status × Word × State := sbRead (0 : Word).toNat sbWait
theorem sbAnswer_ok : sbAnswer.1 = .ok := by decide +kernel
theorem answer_split (x : Status × Word × State) (h : x.1 = .ok) : x = (.ok, x.2.1, x.2.2) := by
  obtain ⟨a, b, c⟩ := x; cases h; rfl
def opened (s : State) : State := withChan s { st := .opened }
def ch0 (c : Chan) : State := withChan up { c with st := .opened }
def entW : Entry := { ent with begun := false, stale := false }
def entB : Entry := { entW with kind := .writeBack, req := none, words := [(0, 0, 0)] }
def bankOpen : Tbl Bank := [(0, { openRow := some 0 })]
def lanes0 (t : Tsv) : State := { ch0 {} with tsv := [(0, t)] }
def good (l : Nat) : LaneEye := ⟨l, BitVec.allOnes 128, BitVec.allOnes 128⟩
def blind (l : Nat) : LaneEye := ⟨l, 0, 0⟩
/-- Every lane of a channel with a full eye. -/
def eyes86 : List LaneEye := (List.range 86).map good
def bistUp : State := { ch0 {} with hkp := { lastOk := true, last := (List.range 4).map (fun i => (70 + i, ⟨0, 1100, false⟩)) } }
def bst0 (b : Bst) : State := { bistUp with bst := [(0, b)] }
def order1 (k : Nat) (sp : RankSt) : State := { up with mig := { order := [k] }, ranks := [(k, { st := .pending }), (4, { st := sp })] }
/-- Rank 1 of channel 0 waits, rank 4 is unusable, and a reserve province of n granules stands at granule 776. -/
def reserve1 (n : Nat) : State := { order1 1 .spareUnusable with tables := { provs := [(0, { valid := true, kind := 1, cls := 2, base := 776, count := BitVec.ofNat 11 n })] } }
def zst : State := { ch0 {} with ecc := [(0, { zPlan := (0, 100, 1), passOver := false, zHours := 24 })] }
theorem eye_found : ∀ l < 86, findEye eyes86 l = good l := by decide +kernel
theorem good_passes (l : Nat) : eyeGood l (good l) = true := by
  have a : (decide (20 ≤ (eyeOf (BitVec.allOnes 128)).2) && decide (18 ≤ (eyeOf (BitVec.allOnes 128)).2)) = true := by
    decide +kernel
  have h : decide (24 ≤ (eyeOf (BitVec.allOnes 128)).2) = true := by decide +kernel
  unfold eyeGood good
  split
  · exact a
  · exact h
theorem eyes_pass : ∀ l < 86, eyeGood l (findEye eyes86 l) = true := fun l h => by rw [eye_found l h, good_passes]
theorem no_bad_lane (s : State) (c : Nat) : badLanes s c eyes86 = [] := by
  simp only [badLanes, List.append_eq_nil_iff, List.filter_eq_nil_iff, List.mem_map, List.mem_range]
  refine ⟨?_, ?_⟩
  · rintro _ ⟨l, hl, rfl⟩; simp [eyes_pass (72 + l) (by omega)]
  · intro l hl; simp [eyes_pass l (by omega)]
def dom0 (d : Nat) (x : Dom) : State := { up with doms := tset {} up.doms d x }
def flt0 (f : Flt) : State := { up with flt := f }
def src0 : Source := ⟨0, .stack, 0, 0, 0, 0, 0, false⟩
def fus0 (f : Fus) : State := { up with fus := f }
def dump0 (t : Tel) : State := { up with
  tables := { dumpEn := true, provs := [(0, { valid := true, kind := 2, count := 1 })] }, img := { inForce := true }, tel := t }
def img0 (i : Img) : State := { up with img := i }
def paths0 (p : Path) : State := { up with paths := [(0, p)] }
def word0 : FuseOp := { job := .cmd, bank := 0, word := 0, goal := 3, bits := [0, 1], tries := 0, rest := [], live := true, stopping := false }
/-- R318, R319: the shortest image that breaks no rule of form. -/
def leastImage : List Word :=
  [0x455042, 0x010000, 83, 0, 0, 0, 0, 0, 1] ++ List.replicate 39 0 ++ [0x010100, 51, 0] ++ List.replicate 32 0
/-- A blank word takes any code word. -/
theorem blank_takes (b w : Nat) (goal : BitVec 30) (h : (fuseSense b {}).1 = 0 ∧ (fuseSense b {}).2.2 = false) :
    programmable {} b w goal = true := by
  have : fuseAt {} b w = {} := rfl
  simp only [programmable, this, h]; simp
/-- The code word of data that is not 0 sets a bit, whatever its check bits are. -/
theorem word_sets (d : Word) (k : Nat) (hk : k < 24) (h : d.getLsbD k = true) : bitsToSet 0 (secdedWord d) ≠ [] := by
  have hd : d ≠ 0 := by rintro rfl; simp at h
  have hn : ¬ k + 6 < 6 := by omega
  have : k + 6 ∈ bitsToSet 0 (secdedWord d) := by
    simp only [bitsToSet, List.mem_filter, List.mem_range, secdedWord, if_neg hd, BitVec.getLsbD_append, if_neg hn,
      Nat.add_sub_cancel, h]
    simp; omega
  exact List.ne_nil_of_mem this
theorem record_fits (r : LogRec) (stamp : W48) (i : Nat) : (recordWordsOf r stamp i).length ≤ 6144 := by
  simp only [recordWordsOf, words48, List.length_append, List.length_cons, List.length_nil, List.length_take]; omega
/-- Bank 2 blank but for its seal word, which holds the CRC of 75 blank words (R415). -/
def seal2 : Fus := { array := [(2 * 32768 + 75, { hi := secdedWord 0x2E95BD, lo := secdedWord 0x2E95BD })] }
theorem data_of_code (d : Word) (x : BitVec 6) : (d ++ x).extractLsb' 6 24 = d := by
  apply BitVec.eq_of_getLsbD_eq
  intro i h
  have : ¬ 6 + i < 6 := by omega
  simp only [BitVec.getLsbD_extractLsb', h, decide_true, Bool.true_and, BitVec.getLsbD_append, if_neg this, Nat.add_sub_cancel_left]
theorem seal2_read : fuseSense 2 (fuseAt seal2 2 75) = (0, 0x2E95BD, false) := by
  have h : fuseAt seal2 2 75 = ⟨secdedWord 0x2E95BD, secdedWord 0x2E95BD⟩ := rfl
  have e : secdedWord 0x2E95BD = (0x2E95BD : Word) ++ Config.secded 0x2E95BD := rfl
  have x : (secdedWord 0x2E95BD).extractLsb' 6 24 = (0x2E95BD : Word) := by rw [e, data_of_code]
  have dec : secdedDecode (secdedWord 0x2E95BD) = some (0x2E95BD, false) := by
    unfold secdedDecode; rw [x]; exact if_pos rfl
  have f : fuseDecode 2 (secdedWord 0x2E95BD) = some (0x2E95BD, false) := dec
  rw [h]; unfold fuseSense; rw [if_neg (fun k => k rfl), f]
theorem seal2_blank (w : Nat) (h : w < 75) : fuseAt seal2 2 w = {} := by
  have h1 : ¬ 2 * 32768 + 75 = 2 * 32768 + w := by omega
  show (if 2 * 32768 + 75 = 2 * 32768 + w then _ else _) = _
  rw [if_neg h1]; rfl
theorem seal2_crc : sealCrc seal2 2 = 0x2E95BD := by
  have : bankData seal2 2 75 = List.replicate 75 0 := by
    apply List.ext_getElem (by simp [bankData])
    intro n h _
    have hn : n < 75 := by simpa [bankData] using h
    simp only [bankData, List.getElem_map, List.getElem_range, fuseValue, seal2_blank n hn, List.getElem_replicate]; rfl
  show crc24 (bankData seal2 2 75) = _
  rw [this]; decide +kernel
theorem seal2_holds : sealHolds seal2 2 = true := by
  have h75 : sealWord 2 = 75 := rfl
  have p : fuseProgrammed (fuseAt seal2 2 75) = true := by
    have : secdedWord 0x2E95BD ≠ 0 := by
      intro h; have := word_sets 0x2E95BD 0 (by decide) (by decide); rw [h] at this; exact this (by decide)
    have h : fuseAt seal2 2 75 = ⟨secdedWord 0x2E95BD, secdedWord 0x2E95BD⟩ := rfl
    rw [h]; unfold fuseProgrammed; rw [decide_eq_true this]; rfl
  have v : (fuseValue seal2 2 75).2.1 = 0x2E95BD := by
    unfold fuseValue fuseResolve; rw [seal2_read]; rfl
  unfold sealHolds
  rw [h75, p, v, seal2_crc]
  simp only [Bool.true_and, Bool.and_eq_true, List.all_eq_true, List.mem_range, decide_eq_true_eq, and_true]
  intro w hw
  by_cases e : w = 75
  · rw [e, seal2_read]
  · rw [seal2_blank w (by omega)]; rfl
theorem up_crc : sealCrc up.fus 2 = 0x2E95BD := by decide +kernel
theorem up_seal_sets : bitsToSet (fuseAt up.fus 2 (sealWord 2)).lo (fuseCode 2 (sealCrc up.fus 2)) ≠ [] := by
  rw [up_crc]; exact word_sets 0x2E95BD 0 (by decide) (by decide)
theorem up_seal_takes : programmable up.fus 2 (sealWord 2) (fuseCode 2 (sealCrc up.fus 2)) = true :=
  blank_takes 2 75 _ (by decide)
/-- Port 0 holds one management request that waits its turn; `came`: one request descriptor with its bytes. -/
def asked (s : State) (w : Bool) (addr data : Word) : State :=
  s.setPort 0 { s.port 0 with mgtIn := [{ write := w, tag := 5, addr := addr, data := data }] }
def came (s : State) (op : Nat) (bytes : List Byte) : State := s.setPort 0 { s.port 0 with
  rxq := [{ flow := 0, province := 0, op := BitVec.ofNat 4 op, tag := 9, line := 0, data := bytes }] }
/-- The bits of a flit under sequence number 0, none in an uncorrectable codeword. -/
def flitBits (h : BitVec 128) (p : List Byte) : List (Bool × Bool) :=
  (bitsOf (bytesOf 16 h.toNat ++ p ++ bytesOf 8 (flitCrc 0 h p).toNat)).map (·, false)
/-- Nothing arrives on the lanes. -/
def silent : Arrival := ⟨[], false, 0, 0⟩
def zeros (n : Nat) : List Byte := List.replicate n 0
theorem zeros_length (n : Nat) : (zeros n).length = n := List.length_replicate
/-- Rank 0 of channel 0 migrates to rank 4. -/
def migr (m : Mig) : State := { ch0 {} with mig := m, ranks := [(0, { st := .migrating }), (4, { st := .spareIdle })] }
/-- Port 0 holds bits decoded and not yet taken; nothing arrives on its lanes. -/
def heard (x : Port) (b : List (Bool × Bool)) : State := port0 { x with rxBits := b, width := 0 }
theorem heard_bits (x : Port) (b : List (Bool × Bool)) (hx : x.rxLanes = []) :
    (receiveLanes (heard x b) 0 []).port 0 = (heard x b).port 0 := receiveLanes_silent _ _ hx
theorem heard_flit (x : Port) (h : BitVec 128) (p : List Byte) (hp : p.length = 232) (hx : x.rxLanes = []) :
    takeFlit ((receiveLanes (heard x (flitBits h p)) 0 []).port 0).rxBits = some (⟨h, p, flitCrc 0 h p, false⟩, []) := by
  rw [heard_bits x _ hx]
  have := takeFlit_sent h p hp (flitCrc 0 h p) []
  rwa [List.append_nil] at this
theorem crc_passes (h : BitVec 128) (p : List Byte) (q : BitVec 12) (e : q = 0) :
    RxFlit.passes ⟨h, p, flitCrc 0 h p, false⟩ q = true := by subst e; exact decide_eq_true rfl
theorem crc_off : RxFlit.passes ⟨0, zeros 232, flitCrc 0 0 (zeros 232), false⟩ 1 = false := by decide +kernel

/-! ### Well-formedness: each check refuses an ill-formed term -/

def badVia : Via := ⟨8, 0⟩
def fail0 : BistFail := ⟨4, 7, 3, 16383, 15, 93, 0, false⟩

theorem test_wf_path : (Instr.registerWrite badVia 0 0).wf = false ∧ (Instr.readClear badVia 0).wf = false ∧
    (Instr.nonceRead badVia).wf = false ∧ (Instr.logDataRead ⟨7, 0⟩).wf = true := by decide
theorem test_wf_descriptor : (Instr.read64 { h0 with port := 8 }).wf = false ∧
    (Instr.read128 { h0 with flow := 16384 }).wf = false ∧ (Instr.write64 { h0 with province := 1024 } 0).wf = false ∧
    (Instr.fence { h0 with ns := 1000 }).wf = false ∧ (Instr.read256 ⟨7, 16383, 1023, 0, 0, 999⟩).wf = true := by decide
theorem test_wf_reserved_opcode : (Instr.reservedOpcode h0 10).wf = false ∧ (Instr.reservedOpcode h0 11).wf = true := by
  decide
theorem test_wf_flit_lanes : (Instr.flitReceive 0 ⟨[[], [], [], [], []], false, 0, 0⟩).wf = false ∧
    (Instr.flitReceive 8 silent).wf = false ∧ (Instr.flitReceive 7 silent).wf = true := by decide
theorem test_wf_port : (Instr.flitSlot 8).wf = false ∧ (Instr.glkRetrain p0 8 0).wf = false ∧
    (Instr.nakReceive 8 0).wf = false ∧ (Instr.flitSlot 7).wf = true := by decide
theorem test_wf_train_flit : (Instr.trainFlitReceive 0 ((5 : BitVec 128) <<< 124) [0, 0] [0, 0, 0] [0, 0] (zeros 224)).wf = false ∧
    (Instr.trainFlitReceive 0 0 [0, 0] [0, 0, 0] [0, 0] (zeros 225)).wf = false ∧
    (Instr.trainFlitReceive 0 ((5 : BitVec 128) <<< 124) [0, 0] [0, 0, 0] [0, 0] (zeros 225)).wf = true := by
  simp only [Instr.wf, zeros_length]; decide
theorem test_wf_credit_class : (Instr.creditMessage 0 1 1 false).wf = false ∧ (Instr.creditMessage 0 2 1 false).wf = true := by
  decide
theorem test_wf_sideband_groups : (Instr.sidebandResponsePhase 0).wf = false := by decide
theorem test_wf_reference_width : (Instr.referenceEdge 0 0 0).wf = false := by decide
theorem test_wf_channel : (Instr.commandIssue 32 0).wf = false ∧ (Instr.opTargetWrite p0 32 0).wf = false ∧
    (Instr.commandIssue 31 0).wf = true := by decide
theorem test_wf_bank : (Instr.pageIdleClose 0 5 0 0).wf = false ∧ (Instr.pageIdleClose 0 0 32 0).wf = false ∧
    (Instr.commandParityAlert 0 ⟨5, 0, 0⟩).wf = false ∧ (Instr.pageIdleClose 31 4 31 0).wf = true := by decide
theorem test_wf_tier : (Instr.lullSlotStart 20).wf = false ∧ (Instr.lullSlotStart 19).wf = true := by decide
theorem test_wf_queue_and_flow : (Instr.eventRecordSend 64).wf = false ∧ (Instr.flowWindowEdge 16384).wf = false ∧
    (Instr.provinceProbe p0 1024 0).wf = false ∧ (Instr.firstTouchFillDone (2 ^ 24)).wf = false := by decide
theorem test_wf_engine : (Instr.engineDone 4).wf = false ∧ (Instr.engineLineRequest 0 1000).wf = false ∧
    (Instr.engineReset p0 4 0).wf = false ∧ (Instr.contextWrite p0 16 0x10 0).wf = false ∧
    (Instr.contextWrite p0 0 0x1E 0).wf = false ∧ (Instr.contextWrite p0 15 0x1D 0).wf = true := by decide
theorem test_wf_secrets : (Instr.wrapWordWrite p0 24 0).wf = false ∧ (Instr.secPeerSigWrite p0 0x50 0).wf = false := by decide
theorem test_wf_fault_event : (Instr.faultEvent [⟨0x43, 0, 0⟩]).wf = false ∧ (Instr.faultEvent [⟨1, 16384, 0⟩]).wf = false ∧
    (Instr.settleEnd 0x43 0).wf = false := by decide
theorem test_wf_domain : (Instr.domainWakeDone 72).wf = false ∧ (Instr.domainEnableWrite p0 72 0).wf = false ∧
    (Instr.domainWakeDone 71).wf = true := by decide
theorem test_wf_supply : (Instr.supplyHoldEntry false false).wf = false ∧ (Instr.supplyHoldRelease (2 ^ 24)).wf = false := by
  decide
theorem test_wf_lanes : (Instr.surveyDone 0 [blind 94] []).wf = false ∧ (Instr.laneCheckDone 0 [blind 94] (blind 0) false false).wf = false ∧
    (Instr.laneCheckDone 0 [blind 93] (blind 94) false false).wf = false ∧
    (Instr.controlCheckDone 0 (some 71)).wf = false ∧ (Instr.controlCheckDone 0 (some 86)).wf = false := by decide
theorem test_wf_bist_place : (Instr.bistDone 0 [fail0]).wf = true ∧ (Instr.bistDone 0 [{ fail0 with rank := 5 }]).wf = false ∧
    (Instr.bistDone 0 [{ fail0 with bg := 8 }]).wf = false ∧ (Instr.bistDone 0 [{ fail0 with bank := 4 }]).wf = false ∧
    (Instr.bistDone 0 [{ fail0 with row := 16384 }]).wf = false ∧ (Instr.bistDone 0 [{ fail0 with column := 16 }]).wf = false ∧
    (Instr.bistDone 0 [{ fail0 with lane := 94 }]).wf = false := by decide
theorem test_wf_counter : (Instr.counterSelect p0 256 0).wf = false := by decide
theorem test_wf_conversion : (Instr.housekeepingConversion 0 (2 ^ 31)).wf = false := by decide
theorem test_wf_boot_header : (Instr.qspiBootLoad (List.replicate 17 0) []).wf = false := by decide

/-! ### One step each -/

/-- What a command leaves satisfies p. -/
def gives (c : Instr) (s : State) (p : State → Bool) : Bool :=
  match exec c s with
  | .next t => p t
  | _ => false

/-- The status of the last management answer of port 0. -/
def lastAnswer (s : State) : Option Status := (s.port 0).mgtOut.getLast?.map (·.status)

/-- R51: the beat count advances by one at the edge. -/
theorem test_beat_counts : gives .beatEdge (mer0 { count := 41 }) (fun t => decide (t.mer.count = 42)) = true := by decide
/-- The front of the queue runs, and leaves it. -/
theorem test_step_front : (match step { up with pending := [.beatEdge, .galePark] } with
    | .next t => decide (t.pending = [.galePark]) && decide (t.mer.count = 1) | _ => false) = true := by decide
/-- R29: an address with no unit is REFUSED. -/
theorem test_unmapped_refused : gives (.registerWrite p0 0xFFFFFF 0) (asked up true 0xFFFFFF 0) (fun t => decide (lastAnswer t = some .refused)) = true := by
  decide
/-- R53: the 1,024th good edge locks. -/
theorem test_edge_locks : gives (.referenceEdge 20 700 0) (mer0 { st := .qualify, src := 1, seen := true, good := 1023 })
    (fun t => decide (t.mer.st = .locked)) = true := by decide
/-- R53: an edge 21 ns off is no good edge. -/
theorem test_edge_discarded : gives (.referenceEdge 21 700 0) (mer0 { st := .qualify, src := 1, seen := true, good := 1023 })
    (fun t => decide (t.mer.st = .qualify)) = true := by decide
/-- R96: signal on lanes 0 and 1 takes the port to training. -/
theorem test_detect_trains : gives (.portDetectSignal 0 3) (port0 { st := .detect }) (fun t => decide ((t.port 0).st = .train)) = true := by
  decide
/-- R112: a NAK of a number outside the replay buffer starts a recovery. -/
theorem test_strange_nak : gives (.nakReceive 0 7) up (fun t => decide ((t.port 0).st = .recovery)) = true := by
  decide
/-- R129: a request of an invalid flow completes REFUSED. -/
theorem test_unknown_flow_refused : gives (.read64 h0) (came up 1 []) (fun t => t.reqs.map (fun r => (r.stage, r.status)) == [(.done, .refused)]) = true := by
  decide +kernel
/-- R131, R134: a request that passes waits for dispatch and is charged. -/
theorem test_read_passes : gives (.read128 h0) (came fl 2 []) (fun t => t.reqs.length == 1 && decide ((t.flowR 0).charged = 2)) = true := by
  decide +kernel
/-- R136, R137: a window whose guarantee was offered and not dispatched is a miss. -/
theorem test_window_miss : gives (.flowWindowEdge 0) { fl with flowRt := [(0, { offered := 100, dispatched := 99 })] }
    (fun t => decide ((t.flowR 0).missCount = 1)) = true := by decide
/-- R183: a write of target 3 is REFUSED. -/
theorem test_target_refused : gives (.opTargetWrite p0 0 0xC00000) (asked (ch0 {}) true (addrOf (.chn 0) 1) 0xC00000) (fun t => decide (lastAnswer t = some .refused)) = true := by
  decide
/-- R163: an activate opens the row. -/
theorem test_activate_opens : gives (.commandIssue 0 0) (ch0 { rdq := [entW] })
    (fun t => decide (((t.chan 0).bank 0 0).openRow = some 0)) = true := by decide +kernel
/-- R269: a rank number that the channel lacks is turned away. -/
theorem test_no_rank_retires : gives (.sprRetire p0 0x870000) (asked up true (addrOf .mig 0) 0x870000) (fun t => decide ((t.rank 1 6).st ≠ .pending) &&
    decide (lastAnswer t = some .refused)) = true := by decide
/-- R394: without rails in tolerance no test starts. -/
theorem test_bist_rails : gives (.bistStart p0 0 0x900000)
    (asked (ch0 {}) true (addrOf (.bst 0) 0) 0x900000) (fun t => decide ((t.bstOf 0).reason = 3)) = true := by decide
/-- R359: the domain of a working channel does not park. -/
theorem test_no_park : gives (.domainEnableWrite p0 9 0) (asked up true (addrOf (.dom 9) 0) 0) (fun t => decide ((t.dom 9).st = .on)) = true := by decide
/-- R367: a cap below 40 W is REFUSED and changes nothing. -/
theorem test_cap_refused : gives (.powerCapWrite p0 0x380000) (asked up true (addrOf .pwr 0) 0x380000) (fun t => decide (lastAnswer t = some .refused) &&
    decide (t.pwr.limFm = 22)) = true := by decide
/-- R346: the first reportable event is latched, and a later one does not displace it. -/
theorem test_first_fault : gives (.faultEvent [⟨0x13, 0, 0⟩, ⟨0x14, 0, 0⟩]) up (fun t => t.flt.valid &&
    decide (t.flt.source = 0x13)) = true := by decide +kernel
/-- R434: an event number that the table lacks is REFUSED. -/
theorem test_counter_refused : gives (.counterSelect p0 0 0xABC000) (asked up true (addrOf (.cnt 0) 0) 0xABC000) (fun t => decide (lastAnswer t = some .refused)) = true := by
  decide
/-- R413: a verified pulse sets its bit. -/
theorem test_pulse_sets : gives (.fusePulseDone true true) (fus0 { op := some { word0 with bits := [0, 1] } })
    (fun t => decide (t.fus.op.map (·.bits) = some [1])) = true := by decide
/-- R318, R325: a first word that is no image's aborts the load. -/
theorem test_wrong_magic : gives (.imageDataWrite p0 0) (asked (img0 { phase := .receive, owner := some 0 }) true (addrOf .img 5) 0)
    (fun t => decide (t.img.phase = .idle)) = true := by decide
/-- R448: a cold reset shows its cause and starts at the fuse load. -/
theorem test_cold_command : gives (.coldResetCommand p0 0x800000) (asked up true (addrOf .rst 0) 0x800000) (fun t => decide (t.rst.phase = .fuse)) = true := by decide
/-- R478: RESET_N low for less than 100 ns does nothing. -/
theorem test_short_reset : gives (.resetNLow 99) up (fun t => decide (t = up)) = true := by decide
/-- R117: a request that is not the oldest that the port holds does nothing. -/
theorem test_only_the_oldest : gives (.read64 h0) (came fl 2 []) (fun t => t.reqs == []) = true := by decide +kernel
/-- R99: the field is that of x^10 + x^3 + 1, where x^10 is x^3 + 1. -/
theorem test_field : kmul 512 2 = 9 ∧ kmul 9 (kinv 9) = 1 := by decide +kernel
/-- R99: thirty check symbols follow 514 message symbols. -/
theorem test_checks_of_nothing : kchecks [0, 0, 0] = List.replicate 30 0 := by decide +kernel
/-- R107: the stack's own TRAIN flit: revision, port, reserved, preset, width, last good number. -/
theorem test_train_content : (TxFlit.train 3 4 2 0x123).content = [0x10, 3, 0, 0, 0, 4, 2, 0x01, 0x23] := by decide
/-- R120: a write response carries op 4, the tag and the status. -/
theorem test_response_word : (MgtRsp.word { write := true, tag := 0xAB, status := .ok, addr := 0x123456, data := 0 }).extractLsb' 52 12 =
    0x4AB := by decide
/-- R465: G6_RX3_N is ball 38/31. -/
theorem test_ball_lane : ballAt 38 31 = .rx 6 3 true := by decide
/-- R467: how the 1,764 balls divide. -/
theorem test_ball_counts : ballCount (· = .gnd) = 909 ∧ ballCount (· = .supply .core) = 176 ∧ ballCount (· = .supply .dram) = 176 ∧
    ballCount (· = .supply .sd) = 126 ∧ ballCount (· = .supply .sram) = 122 ∧ ballCount (· = .supply .sdh) = 42 ∧
    ballCount (· = .supply .vpp) = 24 ∧ ballCount (· = .reserved) = 12 := by decide +kernel
/-- R365, R469: the converter judges the rails by the operating ranges, in 0.5 mV. -/
theorem test_rail_ranges : rails.map (fun x => (x.2.2.2.1 * 5, x.2.2.2.2 * 5)) =
    [Rail.core, .sram, .dram, .vpp, .sd, .sdh, .io, .aon].map (fun r => (((railRange r).2.1 : Int), ((railRange r).2.2.1 : Int))) := by
  decide
/-- R30: the figures of the table. -/
theorem test_latency : unloadedNs .pageClosed false = 205 ∧ unloadedNs .rowHit false = 191 ∧ unloadedNs .bufferHit true = 176 := by
  decide
/-- R21, R31: the rates of the tables. -/
theorem test_rates : stackPayload 0 = 2252800 ∧ stackPayload 1 = 1638400 ∧ stackPayload 2 = 819200 ∧ portLine = 106250000 := by decide
/-- R366: channel 90 judges the reference check. -/
theorem test_reference_check : gives (.housekeepingConversion 5 1990) { up with hkp := { slot := 90 } }
    (fun t => t.flt.detected.map (·.src) == [0x26]) = true := by decide
/-- R351: a first fault with every page used leaves the page under way open. -/
theorem test_pages_full : gives (.faultEvent [⟨0x13, 0, 0⟩]) (flt0 { pagesUsed := 16, page := [(15, 3)] })
    (fun t => t.flt.page == [(15, 4)] && t.flt.pagesUsed == 16) = true := by decide
/-- No row of the table has bits, so no word spells a command. -/
theorem test_no_word : decodeTableWord 8 0 = none ∧ decodeTableWord 24 0xFFFFFF = none := ⟨rfl, rfl⟩

/-! ### Witnesses: a state and operands that meet the hypotheses of each statement, clause by clause -/

theorem witness_StepRunsFront :
  ∃ (s : State),
    s.pending = [] :=
  ⟨up, by first | rfl | decide⟩

theorem witness_EveryCommandAnswers :
  ∃ (c : Instr) (rest : List Instr) (s : State),
    s.pending = c :: rest :=
  ⟨.beatEdge, [], { up with pending := [.beatEdge] }, by first | rfl | decide⟩

theorem witness_QueueWorkedOff :
  ∃ (cs later : List Instr) (s : State),
    s.pending = cs ++ later :=
  ⟨[.beatEdge], [.galePark], { up with pending := [.beatEdge, .galePark] }, by first | rfl | decide⟩

theorem witness_IrqInvariant :
  ∃ (s t : State),
    IrqFollows s ∧
    step s = .next t :=
  ⟨{ up with pending := [.holdoverLimit] }, up, by unfold IrqFollows; decide, rfl⟩

theorem witness_UnpoweredNothing :
  ∃ (c : Instr) (s : State),
    s.pins.pwrgood = false ∧
    actsUnpowered c = false :=
  ⟨.beatEdge, { up with pins := { pwrgood := false } }, by refine ⟨?_, ?_⟩ <;> first | rfl | decide⟩

theorem witness_RegistersReadAndWritten :
  (∃ (s : State) (via : Via) (c : Nat) (data : Word),
    c < 32 ∧
    Served s via true (.chn c) 0 data) ∧
  (∃ (s : State) (via : Via) (c : Nat),
    c < 32 ∧
    Served s via false (.chn c) 4 0 ∧
    s.sec.gate = false) ∧
  (∃ (s : State) (via : Via) (c : Nat),
    c < 32 ∧
    Served s via false (.chn c) 0x10 0 ∧
    s.sec.gate = false) ∧
  (∃ (s : State) (via : Via) (c : Nat),
    c < 32 ∧
    Served s via false (.chn c) 0x11 0 ∧
    s.sec.gate = false) :=
  by
  refine ⟨?_, ?_, ?_, ?_⟩
  · exact ⟨asked (up) true (addrOf (.chn (3)) 0) (0), p0, 3, 0, by refine ⟨?_, ⟨?_, ?_, ?_, ?_, ?_⟩⟩ <;> first | rfl | decide⟩
  · exact ⟨asked (up) false (addrOf (.chn (31)) 4) 0, p0, 31, by refine ⟨?_, ⟨?_, ?_, ?_, ?_, ?_⟩, ?_⟩ <;> first | rfl | decide⟩
  · exact ⟨asked (up) false (addrOf (.chn (31)) 0x10) 0, p0, 31, by refine ⟨?_, ⟨?_, ?_, ?_, ?_, ?_⟩, ?_⟩ <;> first | rfl | decide⟩
  · exact ⟨asked (up) false (addrOf (.chn (31)) 0x11) 0, p0, 31, by refine ⟨?_, ⟨?_, ?_, ?_, ?_, ?_⟩, ?_⟩ <;> first | rfl | decide⟩

theorem witness_MultiWordWrites :
  (∃ (s : State) (via : Via) (data : Word),
    Served s via true .mer 4 data) ∧
  (∃ (s : State) (via : Via) (data : Word),
    Served s via true .mer 5 data) :=
  by
  refine ⟨?_, ?_⟩
  · exact ⟨asked (up) true (addrOf .mer 4) (0), p0, 0, by unfold Served; first | rfl | decide⟩
  · exact ⟨asked (up) true (addrOf .mer 5) (0), p0, 0, by unfold Served; first | rfl | decide⟩

theorem witness_AccessesTurnedAway :
  (∃ (s : State) (via : Via) (addr data : Word),
    s.pins.pwrgood = true ∧
    mgtLive s via.port = true ∧
    portHeld s via.port = false ∧
    unitAt addr.toNat = none) ∧
  (∃ (s : State) (via : Via) (n : Nat) (data : Word),
    s.pins.pwrgood = true ∧
    mgtLive s via.port = true ∧
    portHeld s via.port = false ∧
    mgtTurn s via true (addrOf (.glk n) 0) data = true ∧
    s.gazBuilt = true ∧
    n < 8 ∧
    portPresent s.variant n = false) :=
  by
  refine ⟨?_, ?_⟩
  · exact ⟨asked up true 0xFFFFFF 0, p0, 0xFFFFFF, 0, by refine ⟨?_, ?_, ?_, ?_⟩ <;> first | rfl | decide⟩
  · exact ⟨asked { up with variant := .N } true (addrOf (.glk 7) 0) 0, p0, 7, 0, by refine ⟨?_, ?_, ?_, ?_, ?_, ?_, ?_⟩ <;> first | rfl | decide⟩

theorem witness_BeforeGazetteer :
  ∃ (s : State),
    s.pins.pwrgood = true ∧
    s.gazBuilt = false :=
  ⟨{ up with gazBuilt := false }, by refine ⟨?_, ?_⟩ <;> first | rfl | decide⟩

theorem witness_SidebandPhases :
  (∃ (s : State) (op : Byte) (addr data : Word),
    s.pins.pwrgood = true) ∧
  (∃ (s : State) (addr data : Word),
    s.pins.pwrgood = true ∧
    s.sb.cmd = some (2, addr, data)) ∧
  (∃ (s : State) (addr data w : Word) (u : State),
    s.pins.pwrgood = true ∧
    s.sb.cmd = some (1, addr, data) ∧
    sbRead addr.toNat s = (.ok, w, u)) ∧
  (∃ (s : State),
    s.pins.pwrgood = true) :=
  by
  refine ⟨?_, ?_, ?_, ?_⟩
  · exact ⟨up, 1, 0, 0, by first | rfl | decide⟩
  · exact ⟨{ up with sb := { cmd := some (2, 0, 0) } }, 0, 0, by refine ⟨?_, ?_⟩ <;> first | rfl | decide⟩
  · exact ⟨sbWait, 0, 0, sbAnswer.2.1, sbAnswer.2.2, rfl, rfl, answer_split sbAnswer sbAnswer_ok⟩
  · exact ⟨up, by first | rfl | decide⟩

theorem witness_BeatEdgeCounts :
  ∃ (s : State),
    s.pins.pwrgood = true ∧
    s.heldAcc = [] :=
  ⟨up, by refine ⟨?_, ?_⟩ <;> first | rfl | decide⟩

theorem witness_MeridianLocksAndHolds :
  (∃ (s : State) (via : Via) (data : Word),
    Served s via true .mer 0 data ∧
    s.mer.st = .free ∧
    s.mer.src = 0 ∧
    data.extractLsb' 22 2 ≠ 0 ∧
    portPresent s.variant (data.extractLsb' 19 3).toNat = true ∧
    data.getLsbD 18 = false) ∧
  (∃ (s : State) (dev phase : Int) (width : Nat),
    s.pins.pwrgood = true ∧
    s.mer.st = .qualify ∧
    s.mer.src = 1 ∧
    s.mer.seen = true ∧
    s.mer.good < 1023 ∧
    -20 ≤ dev ∧
    dev ≤ 20) ∧
  (∃ (s : State) (dev phase : Int) (width : Nat),
    s.pins.pwrgood = true ∧
    s.mer.st = .qualify ∧
    s.mer.src = 1 ∧
    s.mer.seen = true ∧
    s.mer.aligned = false ∧
    s.mer.good = 1023 ∧
    -20 ≤ dev ∧
    dev ≤ 20) ∧
  (∃ (s : State) (dev phase : Int) (width : Nat),
    s.pins.pwrgood = true ∧
    s.mer.st = .qualify ∧
    s.mer.src = 1 ∧
    s.mer.seen = true ∧
    ((dev < -20 ∨ 20 < dev))) ∧
  (∃ (s : State) (via : Via) (data : Word),
    Served s via true .mer 0 data ∧
    s.mer.src ≠ 0 ∧
    data.extractLsb' 22 2 = 0 ∧
    portPresent s.variant (data.extractLsb' 19 3).toNat = true ∧
    data.getLsbD 18 = false) ∧
  (∃ (s : State),
    s.pins.pwrgood = true ∧
    s.mer.st = .locked) ∧
  (∃ (s : State),
    s.pins.pwrgood = true ∧
    s.mer.st = .holdover ∧
    100000 ≤ s.mer.lossBeats.toNat ∧
    s.mer.fenced = false) ∧
  (∃ (s : State) (phase : Int),
    s.pins.pwrgood = true ∧
    s.mer.st = .holdover ∧
    s.mer.slewing = true ∧
    -4 ≤ phase ∧
    phase ≤ 4) :=
  by
  refine ⟨?_, ?_, ?_, ?_, ?_, ?_, ?_, ?_⟩
  · exact ⟨asked (up) true (addrOf .mer 0) (0x400000), p0, 0x400000, by refine ⟨⟨?_, ?_, ?_, ?_, ?_⟩, ?_, ?_, ?_, ?_, ?_⟩ <;> first | rfl | decide⟩
  · exact ⟨mer0 { st := .qualify, src := 1, seen := true }, 20, 0, 700, by refine ⟨?_, ?_, ?_, ?_, ?_, ?_, ?_⟩ <;> first | rfl | decide⟩
  · exact ⟨mer0 { st := .qualify, src := 1, seen := true, good := 1023 }, -20, 0, 700, by refine ⟨?_, ?_, ?_, ?_, ?_, ?_, ?_, ?_⟩ <;> first | rfl | decide⟩
  · exact ⟨mer0 { st := .qualify, src := 1, seen := true, good := 7 }, 21, 0, 700, by refine ⟨?_, ?_, ?_, ?_, ?_⟩ <;> first | rfl | decide⟩
  · exact ⟨asked (mer0 { st := .locked, src := 1 }) true (addrOf .mer 0) (0), p0, 0, by refine ⟨⟨?_, ?_, ?_, ?_, ?_⟩, ?_, ?_, ?_, ?_⟩ <;> first | rfl | decide⟩
  · exact ⟨mer0 { st := .locked, src := 1 }, by refine ⟨?_, ?_⟩ <;> first | rfl | decide⟩
  · exact ⟨mer0 { st := .holdover, src := 1, lossBeats := 100000 }, by refine ⟨?_, ?_, ?_, ?_⟩ <;> first | rfl | decide⟩
  · exact ⟨mer0 { st := .holdover, src := 1, slewing := true }, -4, by refine ⟨?_, ?_, ?_, ?_, ?_⟩ <;> first | rfl | decide⟩

theorem witness_EpochLoadArmed :
  (∃ (s : State) (via : Via) (data : Word),
    Served s via true .mer 0 data ∧
    data.extractLsb' 22 2 = s.mer.src ∧
    data.extractLsb' 19 3 = s.mer.markPort ∧
    portPresent s.variant s.mer.markPort.toNat = true ∧
    data.getLsbD 18 = true) ∧
  (∃ (s : State) (via : Via) (data : Word),
    Served s via true .mer 0 data ∧
    data.extractLsb' 22 2 = s.mer.src ∧
    data.extractLsb' 19 3 = s.mer.markPort ∧
    portPresent s.variant s.mer.markPort.toNat = true ∧
    data.getLsbD 18 = false) ∧
  (∃ (s : State) (dev phase : Int) (width : Nat),
    s.pins.pwrgood = true ∧
    s.mer.st = .locked ∧
    s.mer.src = 2 ∧
    s.mer.arm = true ∧
    -20 ≤ dev ∧
    dev ≤ 20 ∧
    600 ≤ width ∧
    width ≤ 900) ∧
  (∃ (s : State) (n : Nat) (offset : BitVec 17) (dev phase : Int),
    s.pins.pwrgood = true ∧
    flitsFlow s n = true ∧
    s.mer.markPort.toNat = n ∧
    s.mer.src = 1 ∧
    s.mer.arm = true) :=
  by
  refine ⟨?_, ?_, ?_, ?_⟩
  · exact ⟨asked (up) true (addrOf .mer 0) (0x040000), p0, 0x040000, by refine ⟨⟨?_, ?_, ?_, ?_, ?_⟩, ?_, ?_, ?_, ?_⟩ <;> first | rfl | decide⟩
  · exact ⟨asked (mer0 { arm := true, marked := true }) true (addrOf .mer 0) (0), p0, 0, by refine ⟨⟨?_, ?_, ?_, ?_, ?_⟩, ?_, ?_, ?_, ?_⟩ <;> first | rfl | decide⟩
  · exact ⟨mer0 { st := .locked, src := 2, arm := true }, 20, 0, 600, by refine ⟨?_, ?_, ?_, ?_, ?_, ?_, ?_, ?_⟩ <;> first | rfl | decide⟩
  · exact ⟨mer0 { st := .locked, src := 1, arm := true }, 0, 0, 0, 0, by refine ⟨?_, ?_, ?_, ?_, ?_⟩ <;> first | rfl | decide⟩

theorem witness_GazetteerAndAlive :
  (∃ (s : State),
    s.pins.pwrgood = true ∧
    s.rst.phase = .fuse ∧
    s.gazBuilt = false) ∧
  (∃ (s : State) (b : Bool),
    s.pins.pwrgood = true ∧
    s.mer.count.toNat % 1024 = 0 ∧
    s.gazBuilt = true ∧
    s.flt.fatal = false ∧
    s.pins.aliveAt ≠ some s.elapsed ∧
    s.pins.alive = some b) ∧
  (∃ (s : State),
    s.pins.pwrgood = true ∧
    s.flt.fatal = true) :=
  by
  refine ⟨?_, ?_, ?_⟩
  · exact ⟨{ State.reset with rst := { phase := .fuse } }, by refine ⟨?_, ?_, ?_⟩ <;> first | rfl | decide⟩
  · exact ⟨{ up with pins := { alive := some true } }, true, by refine ⟨?_, ?_, ?_, ?_, ?_, ?_⟩ <;> first | rfl | decide⟩
  · exact ⟨{ up with flt := { fatal := true } }, by refine ⟨?_, ?_⟩ <;> first | rfl | decide⟩

theorem witness_PortTraining :
  (∃ (s : State) (n : Nat) (lanes : BitVec 4),
    s.pins.pwrgood = true ∧
    portPresent s.variant n = true ∧
    (s.port n).st = .detect ∧
    ((lanes.getLsbD 0 = true ∧ lanes.getLsbD 1 = true ∨ lanes.getLsbD 2 = true ∧ lanes.getLsbD 3 = true))) ∧
  (∃ (s : State) (n : Nat),
    s.pins.pwrgood = true ∧
    (s.port n).st = .train) ∧
  (∃ (s : State) (n : Nat) (header : BitVec 128) (head ident asks tail payload : List Byte),
    s.pins.pwrgood = true ∧
    portPresent s.variant n = true ∧
    (s.port n).st = .train ∧
    header.extractLsb' 124 4 = 5 ∧
    payload = head ++ ident ++ asks ++ tail) ∧
  (∃ (s : State) (n : Nat) (lanesOk : BitVec 4) (w : BitVec 2) (pair : Bool),
    s.pins.pwrgood = true ∧
    portPresent s.variant n = true ∧
    (s.port n).st = .train ∧
    (s.port n).versionOk = true ∧
    (s.port n).identSeen = true ∧
    ((w = 2 ∧ pair = false ∧ lanesOk = 0xF ∨ w = 1 ∧ pair = false ∧ lanesOk ≠ 0xF ∧ lanesOk.extractLsb' 0 2 = 3 ∨ w = 1 ∧ pair = true ∧ lanesOk.extractLsb' 0 2 ≠ 3 ∧ lanesOk.extractLsb' 2 2 = 3))) :=
  by
  refine ⟨?_, ?_, ?_, ?_⟩
  · exact ⟨port0 { st := .detect }, 0, 3, by refine ⟨?_, ?_, ?_, ?_⟩ <;> first | rfl | decide⟩
  · exact ⟨port0 { st := .train }, 0, by refine ⟨?_, ?_⟩ <;> first | rfl | decide⟩
  · exact ⟨port0 { st := .train }, 0, (5 : BitVec 128) <<< 124, [0x10, 0], [0, 0, 0], [4, 0], [0], [0x10, 0, 0, 0, 0, 4, 0, 0], by refine ⟨?_, ?_, ?_, ?_, ?_⟩ <;> first | rfl | decide⟩
  · exact ⟨port0 { st := .train, identSeen := true }, 0, 0xF, 2, false, by refine ⟨?_, ?_, ?_, ?_, ?_, ?_⟩ <;> first | rfl | decide⟩

theorem witness_PortRecoveryAndControl :
  (∃ (s : State) (n : Nat) (why : RetrainTrigger),
    s.pins.pwrgood = true ∧
    portPresent s.variant n = true ∧
    (((s.port n).st = .active ∨ (s.port n).st = .down))) ∧
  (∃ (s : State) (n : Nat),
    s.pins.pwrgood = true ∧
    portPresent s.variant n = true ∧
    (s.port n).st = .recovery ∧
    (s.port n).identSeen = true ∧
    foreignNow s n = false ∧
    s.flt.fatal = false) ∧
  (∃ (s : State) (n : Nat),
    s.pins.pwrgood = true ∧
    (s.port n).st = .recovery ∧
    (s.port n).secondTry = false) ∧
  (∃ (s : State) (n : Nat),
    s.pins.pwrgood = true ∧
    (s.port n).st = .recovery ∧
    (s.port n).secondTry = true ∧
    (s.port n).unsent = [] ∧
    (s.port n).ctrlOut = []) ∧
  (∃ (s : State) (via : Via) (n : Nat),
    n < 8 ∧
    Served s via true (.glk n) 0 0x800000 ∧
    portPresent s.variant n = true ∧
    (s.port n).st = .active) ∧
  (∃ (s : State) (via : Via) (n : Nat),
    n < 8 ∧
    Served s via true (.glk n) 0 0x400000 ∧
    domOn s (1 + n) = true ∧
    underLogic s 1 n = false) ∧
  (∃ (s : State) (via : Via) (n : Nat),
    n < 8 ∧
    Served s via true (.glk n) 0 0x200000) :=
  by
  refine ⟨?_, ?_, ?_, ?_, ?_, ?_, ?_⟩
  · exact ⟨up, 0, .naks, by refine ⟨?_, ?_, ?_⟩ <;> first | rfl | decide⟩
  · exact ⟨{ port0 { st := .recovery, identSeen := true } with tables := { bonds := [(0, ⟨0, 0⟩)] } }, 0, by refine ⟨?_, ?_, ?_, ?_, ?_, ?_⟩ <;> first | rfl | decide⟩
  · exact ⟨port0 { st := .recovery }, 0, by refine ⟨?_, ?_, ?_⟩ <;> first | rfl | decide⟩
  · exact ⟨port0 { st := .recovery, secondTry := true }, 0, by refine ⟨?_, ?_, ?_, ?_, ?_⟩ <;> first | rfl | decide⟩
  · exact ⟨asked (up) true (addrOf (.glk (0)) 0) 0x800000, p0, 0, by refine ⟨?_, ⟨?_, ?_, ?_, ?_, ?_⟩, ?_, ?_⟩ <;> first | rfl | decide⟩
  · exact ⟨asked (up) true (addrOf (.glk (7)) 0) 0x400000, p0, 7, by refine ⟨?_, ⟨?_, ?_, ?_, ?_, ?_⟩, ?_, ?_⟩ <;> first | rfl | decide⟩
  · exact ⟨asked (up) true (addrOf (.glk (7)) 0) 0x200000, p0, 7, by refine ⟨?_, ⟨?_, ?_, ?_, ?_, ?_⟩⟩ <;> first | rfl | decide⟩

theorem witness_FlitReceived :
  (∃ (s u : State) (n : Nat) (a : Arrival) (f : RxFlit) (rest : List (Bool × Bool)),
    s.pins.pwrgood = true ∧
    flitsFlow s n = true ∧
    u = receiveLanes s n a.lanes ∧
    takeFlit (u.port n).rxBits = some (f, rest) ∧
    ((f.bad = true ∨ f.passes (u.port n).rxSeq = false))) ∧
  (∃ (s u : State) (n : Nat) (a : Arrival) (f : RxFlit) (rest : List (Bool × Bool)),
    s.pins.pwrgood = true ∧
    flitsFlow s n = true ∧
    u = receiveLanes s n a.lanes ∧
    takeFlit (u.port n).rxBits = some (f, rest) ∧
    f.bad = false ∧
    f.passes (u.port n).rxSeq = true ∧
    f.header.extractLsb' 124 4 = 0) ∧
  (∃ (s u : State) (n : Nat) (a : Arrival),
    s.pins.pwrgood = true ∧
    flitsFlow s n = true ∧
    u = receiveLanes s n a.lanes ∧
    takeFlit (u.port n).rxBits = none) ∧
  (∃ (s u : State) (n : Nat) (a : Arrival) (f : RxFlit) (rest : List (Bool × Bool)) (ds : List RxDesc),
    s.pins.pwrgood = true ∧
    flitsFlow s n = true ∧
    u = receiveLanes s n a.lanes ∧
    takeFlit (u.port n).rxBits = some (f, rest) ∧
    f.bad = false ∧
    f.passes (u.port n).rxSeq = true ∧
    (s.port n).st = .active ∧
    f.header.extractLsb' 124 4 = 1 ∧
    ds = [{ flow := (f.header.extractLsb' 110 14).toNat, province := (f.header.extractLsb' 100 10).toNat, op := f.header.extractLsb' 96 4, tag := f.header.extractLsb' 84 12, line := f.header.extractLsb' 54 30 }, { flow := (f.header.extractLsb' 110 14).toNat, province := (f.header.extractLsb' 100 10).toNat, op := f.header.extractLsb' 46 4, tag := f.header.extractLsb' 34 12, line := f.header.extractLsb' 4 30 }] ∧
    f.header.extractLsb' 96 4 ≠ 0 ∧
    f.header.extractLsb' 46 4 ≠ 0 ∧
    2 ≤ (u.port n).descCredit ∧
    descCreditsOf ds ≤ (u.port n).dataCredit) ∧
  (∃ (s u : State) (n : Nat) (a : Arrival) (f : RxFlit) (rest : List (Bool × Bool)),
    s.pins.pwrgood = true ∧
    flitsFlow s n = true ∧
    u = receiveLanes s n a.lanes ∧
    takeFlit (u.port n).rxBits = some (f, rest) ∧
    f.bad = false ∧
    f.passes (u.port n).rxSeq = true ∧
    (s.port n).st = .active ∧
    f.header.extractLsb' 124 4 = 1 ∧
    f.header.extractLsb' 96 4 ≠ 0 ∧
    f.header.extractLsb' 46 4 ≠ 0 ∧
    (u.port n).descCredit < 2) ∧
  (∃ (s u : State) (n : Nat) (a : Arrival) (f : RxFlit) (rest : List (Bool × Bool)) (m : BitVec 64),
    s.pins.pwrgood = true ∧
    flitsFlow s n = true ∧
    u = receiveLanes s n a.lanes ∧
    takeFlit (u.port n).rxBits = some (f, rest) ∧
    f.bad = false ∧
    f.passes (u.port n).rxSeq = true ∧
    f.header.extractLsb' 124 4 = 4 ∧
    messagesOf f.payload = m :: List.replicate 28 0 ∧
    m.extractLsb' 60 4 = 2 ∧
    (u.port n).mgtInUse < 64) ∧
  (∃ (s u : State) (n : Nat) (a : Arrival) (f : RxFlit) (rest : List (Bool × Bool)) (m : BitVec 64),
    s.pins.pwrgood = true ∧
    flitsFlow s n = true ∧
    u = receiveLanes s n a.lanes ∧
    takeFlit (u.port n).rxBits = some (f, rest) ∧
    f.bad = false ∧
    f.passes (u.port n).rxSeq = true ∧
    f.header.extractLsb' 124 4 = 3 ∧
    f.header.getLsbD 123 = false ∧
    f.header.getLsbD 110 = false ∧
    messagesOf f.payload = m :: List.replicate 28 0 ∧
    m.extractLsb' 56 8 = 1 ∧
    m.extractLsb' 52 4 = 3 ∧
    m.getLsbD 35 = false) :=
  by
  refine ⟨?_, ?_, ?_, ?_, ?_, ?_, ?_⟩
  · exact ⟨heard { st := .active, rxSeq := 1 } (flitBits 0 (zeros 232)), receiveLanes (heard { st := .active, rxSeq := 1 } (flitBits 0 (zeros 232))) 0 [], 0, silent, ⟨0, (zeros 232), flitCrc 0 0 (zeros 232), false⟩, [], rfl, rfl, rfl, heard_flit _ _ _ (zeros_length 232) rfl, Or.inr crc_off⟩
  · exact ⟨heard { st := .active } (flitBits 0 (zeros 232)), receiveLanes (heard { st := .active } (flitBits 0 (zeros 232))) 0 [], 0, silent, ⟨0, (zeros 232), flitCrc 0 0 (zeros 232), false⟩, [], rfl, rfl, rfl, heard_flit _ _ _ (zeros_length 232) rfl, rfl, crc_passes _ _ _ rfl, rfl⟩
  · exact ⟨up, receiveLanes up 0 [], 0, silent, by refine ⟨?_, ?_, ?_, ?_⟩ <;> decide +kernel⟩
  · exact ⟨heard { st := .active, descCredit := 2 } (flitBits (2 ^ 124 + 2 ^ 96 + 2 ^ 46) (zeros 232)), receiveLanes (heard { st := .active, descCredit := 2 } (flitBits (2 ^ 124 + 2 ^ 96 + 2 ^ 46) (zeros 232))) 0 [], 0, silent, ⟨(2 ^ 124 + 2 ^ 96 + 2 ^ 46), (zeros 232), flitCrc 0 (2 ^ 124 + 2 ^ 96 + 2 ^ 46) (zeros 232), false⟩, [], [⟨0, 0, 1, 0, 0, []⟩, ⟨0, 0, 1, 0, 0, []⟩], rfl, rfl, rfl, heard_flit _ _ _ (zeros_length 232) rfl, rfl, crc_passes _ _ _ rfl, rfl, by decide +kernel, by decide +kernel, by decide +kernel, by decide +kernel, by decide +kernel, by decide +kernel⟩
  · exact ⟨heard { st := .active, descCredit := 1 } (flitBits (2 ^ 124 + 2 ^ 96 + 2 ^ 46) (zeros 232)), receiveLanes (heard { st := .active, descCredit := 1 } (flitBits (2 ^ 124 + 2 ^ 96 + 2 ^ 46) (zeros 232))) 0 [], 0, silent, ⟨(2 ^ 124 + 2 ^ 96 + 2 ^ 46), (zeros 232), flitCrc 0 (2 ^ 124 + 2 ^ 96 + 2 ^ 46) (zeros 232), false⟩, [], rfl, rfl, rfl, heard_flit _ _ _ (zeros_length 232) rfl, rfl, crc_passes _ _ _ rfl, rfl, by decide +kernel, by decide +kernel, by decide +kernel, by decide +kernel⟩
  · exact ⟨heard { st := .active } (flitBits (2 ^ 126) (0x20 :: zeros 231)), receiveLanes (heard { st := .active } (flitBits (2 ^ 126) (0x20 :: zeros 231))) 0 [], 0, silent, ⟨(2 ^ 126), (0x20 :: zeros 231), flitCrc 0 (2 ^ 126) (0x20 :: zeros 231), false⟩, [], ((2 : BitVec 64) <<< 60), rfl, rfl, rfl, heard_flit _ _ _ (congrArg (· + 1) (zeros_length 231)) rfl, rfl, crc_passes _ _ _ rfl, by decide +kernel, by decide +kernel, by decide +kernel, by decide +kernel⟩
  · exact ⟨heard { st := .active } (flitBits (2 ^ 124 + 2 ^ 125) (1 :: 0x30 :: zeros 230)), receiveLanes (heard { st := .active } (flitBits (2 ^ 124 + 2 ^ 125) (1 :: 0x30 :: zeros 230))) 0 [], 0, silent, ⟨(2 ^ 124 + 2 ^ 125), (1 :: 0x30 :: zeros 230), flitCrc 0 (2 ^ 124 + 2 ^ 125) (1 :: 0x30 :: zeros 230), false⟩, [], ((0x13 : BitVec 64) <<< 52), rfl, rfl, rfl, heard_flit _ _ _ (congrArg (· + 1) (congrArg (· + 1) (zeros_length 230))) rfl, rfl, crc_passes _ _ _ rfl, by decide +kernel, by decide +kernel, by decide +kernel, by decide +kernel, by decide +kernel, by decide +kernel, by decide +kernel⟩

theorem witness_ReplayAndCredits :
  (∃ (s : State) (n : Nat) (seq : BitVec 12) (old later : List (BitVec 12 × TxFlit)) (x : TxFlit),
    s.pins.pwrgood = true ∧
    flitsFlow s n = true ∧
    (s.port n).replayBuf = old ++ (seq, x) :: later ∧
    ((∀ e ∈ old, e.1 ≠ seq)) ∧
    (s.port n).resend = []) ∧
  (∃ (s : State) (n : Nat) (seq : BitVec 12) (old later : List (BitVec 12 × TxFlit)) (x : TxFlit),
    s.pins.pwrgood = true ∧
    flitsFlow s n = true ∧
    (s.port n).replayBuf = old ++ (seq, x) :: later ∧
    ((∀ e ∈ old, e.1 ≠ seq)) ∧
    (s.port n).nakSeq ≠ some seq) ∧
  (∃ (s : State) (n : Nat) (seq : BitVec 12),
    s.pins.pwrgood = true ∧
    flitsFlow s n = true ∧
    ((∃ e ∈ (s.port n).replayBuf, e.1 = seq)) ∧
    (s.port n).nakSeq = some seq ∧
    (s.port n).nakRun = 3) ∧
  (∃ (s : State) (n : Nat) (seq : BitVec 12),
    s.pins.pwrgood = true ∧
    flitsFlow s n = true ∧
    ((∀ e ∈ (s.port n).replayBuf, e.1 ≠ seq))) ∧
  (∃ (s : State) (n : Nat) (count : BitVec 16) (init : Bool),
    s.pins.pwrgood = true ∧
    flitsFlow s n = true) ∧
  (∃ (s : State) (n descs datas d u k : Nat),
    s.pins.pwrgood = true ∧
    portPresent s.variant n = true ∧
    (s.port n).st = .active ∧
    grantsFull s = true ∧
    s.pwr.hold = false ∧
    64 ≤ s.pwr.kp.toNat ∧
    takeReads (s.port n).freed (min descs (1024 - (s.port n).descCredit)) (2 ^ 24) = (d, u) ∧
    k = min (min datas ((s.port n).dataFree - (s.port n).dataCredit)) (2 ^ 24)) ∧
  (∃ (s : State) (n descs datas : Nat),
    s.pins.pwrgood = true ∧
    ((s.pwr.hold = true ∨ grantsFull s = false))) :=
  by
  refine ⟨?_, ?_, ?_, ?_, ?_, ?_, ?_⟩
  · exact ⟨port0 { st := .active, replayBuf := [(4, .idle), (5, .idle)] }, 0, 5, [(4, .idle)], [], .idle, by refine ⟨?_, ?_, ?_, ?_, ?_⟩ <;> first | rfl | decide⟩
  · exact ⟨port0 { st := .active, replayBuf := [(4, .idle), (5, .idle)] }, 0, 5, [(4, .idle)], [], .idle, by refine ⟨?_, ?_, ?_, ?_, ?_⟩ <;> first | rfl | decide⟩
  · exact ⟨port0 { st := .active, replayBuf := [(5, .idle)], nakSeq := some 5, nakRun := 3 }, 0, 5, by refine ⟨?_, ?_, ?_, ?_, ?_⟩ <;> first | rfl | decide⟩
  · exact ⟨port0 { st := .active, replayBuf := [(5, .idle)] }, 0, 7, by refine ⟨?_, ?_, ?_⟩ <;> first | rfl | decide⟩
  · exact ⟨up, 0, 1, false, by refine ⟨?_, ?_⟩ <;> first | rfl | decide⟩
  · exact ⟨port0 { st := .active, freed := [1], descCredit := 1023, dataFree := 4 }, 0, 5, 3, 1, 1, 3, by refine ⟨?_, ?_, ?_, ?_, ?_, ?_, ?_, ?_⟩ <;> first | rfl | decide⟩
  · exact ⟨{ up with pwr := { hold := true } }, 0, 5, 3, by refine ⟨?_, ?_⟩ <;> first | rfl | decide⟩

theorem witness_TransmitSlot :
  (∃ (s : State) (n : Nat) (e : BitVec 12 × TxFlit) (r : List (BitVec 12 × TxFlit)) (b : List Bool),
    s.pins.pwrgood = true ∧
    flitsFlow s n = true ∧
    (s.port n).resend = e :: r ∧
    (s.port n).resendNak = false ∧
    (s.port n).nakDue = false ∧
    (s.port n).ackGap < 96 ∧
    e.2.isCtrl = false ∧
    e.2.isMgt = false ∧
    b = (s.port n).txBits ++ bitsOf (e.2.bytes e.1)) ∧
  (∃ (s : State) (n : Nat),
    s.pins.pwrgood = true ∧
    flitsFlow s n = true ∧
    (s.port n).replayBuf.length < 512 ∧
    (s.port n).nakDue = true) ∧
  (∃ (s : State) (n : Nat) (b : List Bool),
    s.pins.pwrgood = true ∧
    flitsFlow s n = true ∧
    (s.port n).resend = [] ∧
    (s.port n).nakDue = false ∧
    (s.port n).ctrlOut = [] ∧
    (s.port n).ackGap = 0 ∧
    (s.port n).mgtInUse ≤ (s.port n).mgtIn.length ∧
    (s.port n).mgtOut = [] ∧
    (s.port n).cmpOut = [] ∧
    (s.port n).cmpPart = none ∧
    b = (s.port n).txBits ++ bitsOf (TxFlit.idle.bytes (s.port n).txSeq)) ∧
  (∃ (s : State) (n : Nat),
    s.pins.pwrgood = true ∧
    portPresent s.variant n = true ∧
    (s.port n).st = .train) ∧
  (∃ (s : State) (q n : Nat) (r : BitVec 128) (rest : List (BitVec 128)),
    s.pins.pwrgood = true ∧
    (s.evq q).recs = r :: rest ∧
    (queueCfg s q).valid = true ∧
    (bondPorts (queueCfg s q).bondFirst.toNat (queueCfg s q).bondLog2.toNat).find? (fun m => flitsFlow s m) = some n ∧
    0 < (s.port n).evtCr) :=
  by
  refine ⟨?_, ?_, ?_, ?_, ?_⟩
  · exact ⟨port0 { st := .active, resend := [(5, .idle)] }, 0, (5, .idle), [], bitsOf (TxFlit.idle.bytes 5), rfl, rfl, rfl, rfl, rfl, by decide, rfl, rfl, (List.nil_append _).symm⟩
  · exact ⟨port0 { st := .active, nakDue := true }, 0, by refine ⟨?_, ?_, ?_, ?_⟩ <;> first | rfl | decide⟩
  · exact ⟨up, 0, bitsOf (TxFlit.idle.bytes 0), rfl, rfl, rfl, rfl, rfl, rfl, by decide, rfl, rfl, rfl, (List.nil_append _).symm⟩
  · exact ⟨port0 { st := .train }, 0, by refine ⟨?_, ?_, ?_⟩ <;> first | rfl | decide⟩
  · exact ⟨{ port0 { st := .active, evtCr := 1 } with queues := [(0, { recs := [7] })], tables := { queues := [(0, { valid := true })] } }, 0, 0, 7, [], by refine ⟨?_, ?_, ?_, ?_, ?_⟩ <;> first | rfl | decide⟩

theorem witness_StackDownSignalling :
  (∃ (s : State) (n : Nat),
    s.pins.pwrgood = true ∧
    (s.port n).st = .signalDown ∧
    (s.port n).orderedSet = some false ∧
    (s.port n).disable = false ∧
    domOn s (1 + n) = true ∧
    underLogic s 1 n = false) ∧
  (∃ (s : State) (n : Nat),
    s.pins.pwrgood = true ∧
    (s.port n).st = .signalDown ∧
    (s.port n).orderedSet = some true ∧
    domPresent s.variant (1 + n) = true ∧
    domOn s (1 + n) = true) :=
  by
  refine ⟨?_, ?_⟩
  · exact ⟨port0 { st := .signalDown, orderedSet := some false }, 0, by refine ⟨?_, ?_, ?_, ?_, ?_, ?_⟩ <;> first | rfl | decide⟩
  · exact ⟨port0 { st := .signalDown, orderedSet := some true }, 0, by refine ⟨?_, ?_, ?_, ?_, ?_⟩ <;> first | rfl | decide⟩

theorem witness_EventQueueFull :
  (∃ (s : State) (q ty flow : Nat) (irq : Bool) (detail : BitVec 40),
    256 ≤ (s.evq q).recs.length) ∧
  (∃ (s : State) (q ty flow : Nat) (irq : Bool) (detail : BitVec 40),
    (s.evq q).recs.length < 256) ∧
  (∃ (s : State) (q : Nat),
    s.pins.pwrgood = true ∧
    s.rst.phase = .quiesce ∧
    quiesceOver s = true) :=
  by
  refine ⟨?_, ?_, ?_⟩
  · exact ⟨{ up with queues := [(3, { recs := List.replicate 256 0 })] }, 3, 2, 0, true, 0, by decide +kernel⟩
  · exact ⟨{ up with queues := [(3, { recs := List.replicate 255 0 })] }, 3, 2, 0, true, 0, by decide +kernel⟩
  · exact ⟨{ up with rst := { phase := .quiesce, warm := true } }, 3, by refine ⟨?_, ?_, ?_⟩ <;> first | rfl | decide⟩

theorem witness_LookupJudges :
  (∃ (s : State) (c : Instr) (op : Op) (h : ReqHdr) (bytes : List Byte) (data : BitVec 2048) (en : BitVec 64),
    asks c = some (op, h, bytes, data, en) ∧
    Arrived s op.code h bytes ∧
    lookupStatus s op (some h.port) h.flow h.province (h.line.toNat * 64) = .ok) ∧
  (∃ (s : State) (op : Op) (n flow prov off : Nat),
    (op.isRead = true ∨ op.isWrite = true) ∧
    (((flowCfg s flow).valid = false ∨ portOwns s n (flowCfg s flow) = false ∨ (flowCfg s flow).provs.getLsbD prov = false ∨ (provCfg s prov).valid = false ∨ (provCfg s prov).enabled = false ∨ (provCfg s prov).count.toNat * 2 ^ 26 < off + 64 * op.lines ∨ off % op.align ≠ 0 ∨ (provCfg s prov).kind = 1 ∨ (op.isWrite = true ∧ ((provCfg s prov).kind = 2 ∨ (provCfg s prov).writable = false))))) ∧
  (∃ (s : State) (op : Op) (n flow prov off : Nat),
    (s.flt.fatal = true ∨ s.sec.lc = 3) ∧
    op ≠ .engine) ∧
  (∃ (s : State) (op : Op) (n flow prov off : Nat),
    (op.isRead = true ∨ op.isWrite = true) ∧
    s.flt.fatal = false ∧
    s.sec.lc ≠ 3 ∧
    (flowCfg s flow).valid = true ∧
    portOwns s n (flowCfg s flow) = true ∧
    (flowCfg s flow).provs.getLsbD prov = true ∧
    provJudge s prov off (64 * op.lines) op.align op.isWrite = .ok ∧
    (provCfg s prov).enc = false) :=
  by
  refine ⟨?_, ?_, ?_, ?_⟩
  · exact ⟨came fl 1 [], .read64 h0, .read64, h0, [], 0, 0, by refine ⟨?_, ⟨?_, ?_, ?_⟩, ?_⟩ <;> decide +kernel⟩
  · exact ⟨up, .read64, 0, 0, 0, 0, by refine ⟨?_, ?_⟩ <;> first | rfl | decide⟩
  · exact ⟨{ up with flt := { fatal := true } }, .read64, 0, 0, 0, 0, by refine ⟨?_, ?_⟩ <;> first | rfl | decide⟩
  · exact ⟨fl, .write64, 0, 0, 0, 64, by refine ⟨?_, ?_, ?_, ?_, ?_, ?_, ?_, ?_⟩ <;> decide +kernel⟩

theorem witness_RequestsTurnedAway :
  ∃ (s : State) (c : Instr) (op : Op) (h : ReqHdr) (bytes : List Byte) (data : BitVec 2048) (en : BitVec 64),
    asks c = some (op, h, bytes, data, en) ∧
    Arrived s op.code h bytes ∧
    lookupStatus s op (some h.port) h.flow h.province (h.line.toNat * 64) ≠ .ok :=
  ⟨came up 1 [], .read64 h0, .read64, h0, [], 0, 0, by refine ⟨?_, ⟨?_, ?_, ?_⟩, ?_⟩ <;> first | rfl | decide⟩

theorem witness_FenceFlushReserved :
  (∃ (s : State) (h : ReqHdr) (op : BitVec 4),
    11 ≤ op.toNat ∧
    Arrived s op.toNat h []) ∧
  (∃ (s : State) (h : ReqHdr),
    Arrived s 8 h [] ∧
    s.flt.fatal = false ∧
    s.sec.lc ≠ 3 ∧
    (flowCfg s h.flow).valid = true ∧
    portOwns s h.port (flowCfg s h.flow) = true) ∧
  (∃ (s : State) (h : ReqHdr),
    Arrived s 9 h [] ∧
    s.flt.fatal = false ∧
    s.sec.lc ≠ 3 ∧
    (flowCfg s h.flow).valid = true ∧
    portOwns s h.port (flowCfg s h.flow) = true ∧
    ((∀ c, dirtyLines s c = []))) ∧
  (∃ (s : State) (r : Req),
    s.pins.pwrgood = true ∧
    findReq s r.id = some r ∧
    r.op = .fence ∧
    r.stage = .waiting) ∧
  (∃ (s : State) (r : Req),
    s.pins.pwrgood = true ∧
    findReq s r.id = some r ∧
    r.stage = .flushing) :=
  by
  refine ⟨?_, ?_, ?_, ?_, ?_⟩
  · exact ⟨came up 11 [], h0, 11, by refine ⟨?_, ⟨?_, ?_, ?_⟩⟩ <;> first | rfl | decide⟩
  · exact ⟨came fl 8 [], h0, by refine ⟨⟨?_, ?_, ?_⟩, ?_, ?_, ?_, ?_⟩ <;> first | rfl | decide⟩
  · exact ⟨came fl 9 [], h0, ⟨rfl, rfl, by decide⟩, by decide, by decide, by decide, by decide, fun _ => rfl⟩
  · exact ⟨held { rq with op := .fence }, { rq with op := .fence }, by refine ⟨?_, ?_, ?_, ?_⟩ <;> first | rfl | decide⟩
  · exact ⟨held { rq with op := .flush, stage := .flushing }, { rq with op := .flush, stage := .flushing }, by refine ⟨?_, ?_, ?_⟩ <;> first | rfl | decide⟩

theorem witness_DispatchServes :
  (∃ (s : State) (r : Req),
    s.pins.pwrgood = true ∧
    migFirst s = false ∧
    pickReq s = some r ∧
    r.enc = false ∧
    r.op.isRead = true ∧
    inked s (r.dpa / 4096) = false) ∧
  (∃ (s : State) (r : Req) (l : LbLine) (loc : Loc),
    s.pins.pwrgood = true ∧
    migFirst s = false ∧
    pickReq s = some r ∧
    r.enc = false ∧
    r.op = .read64 ∧
    inked s (r.dpa / 4096) = true ∧
    locate s r.dpa = some loc ∧
    unreachable s loc = false ∧
    bypass s (homeChan s (r.dpa / 64)) = false ∧
    lbFind s (homeChan s (r.dpa / 64)) (r.dpa / 64) = some l ∧
    l.enc = false) ∧
  (∃ (s : State) (r : Req) (loc : Loc),
    s.pins.pwrgood = true ∧
    migFirst s = false ∧
    pickReq s = some r ∧
    r.enc = false ∧
    r.op = .read64 ∧
    inked s (r.dpa / 4096) = true ∧
    locate s r.dpa = some loc ∧
    unreachable s loc = false ∧
    bypass s (homeChan s (r.dpa / 64)) = false ∧
    lbFind s (homeChan s (r.dpa / 64)) (r.dpa / 64) = none ∧
    canRead s loc.ch r.fixed = true ∧
    s.rst.chanBusy.contains loc.ch = false) ∧
  (∃ (s : State) (r : Req) (loc : Loc),
    s.pins.pwrgood = true ∧
    migFirst s = false ∧
    pickReq s = some r ∧
    r.enc = false ∧
    r.op = .write64 ∧
    r.poison = 0 ∧
    inked s (r.dpa / 4096) = true ∧
    locate s r.dpa = some loc ∧
    unreachable s loc = false ∧
    bypass s (homeChan s (r.dpa / 64)) = false) ∧
  (∃ (s : State) (r : Req) (loc : Loc),
    s.pins.pwrgood = true ∧
    migFirst s = false ∧
    pickReq s = some r ∧
    r.enc = false ∧
    r.op.isWrite = true ∧
    ((r.op ≠ .mwrite64 ∨ r.enables ≠ 0)) ∧
    inked s (r.dpa / 4096) = false ∧
    locate s r.dpa = some loc ∧
    unreachable s loc = false) ∧
  (∃ (s : State),
    s.pins.pwrgood = true ∧
    pickReq s = none ∧
    migFirst s = false) :=
  by
  refine ⟨?_, ?_, ?_, ?_, ?_, ?_⟩
  · exact ⟨{ held rq with tables := { fl.tables with compat := true } }, rq, by refine ⟨?_, ?_, ?_, ?_, ?_, ?_⟩ <;> first | rfl | decide⟩
  · exact ⟨{ withChan (held rq) { st := .opened, lb := [line0] } with inkAll := true }, rq, line0, loc0, by refine ⟨?_, ?_, ?_, ?_, ?_, ?_, ?_, ?_, ?_, ?_, ?_⟩ <;> first | rfl | decide⟩
  · exact ⟨{ withChan (held rq) { st := .opened } with inkAll := true }, rq, loc0, by refine ⟨?_, ?_, ?_, ?_, ?_, ?_, ?_, ?_, ?_, ?_, ?_, ?_⟩ <;> first | rfl | decide⟩
  · exact ⟨{ withChan (held { rq with op := .write64 }) { st := .opened } with inkAll := true }, { rq with op := .write64 }, loc0, by refine ⟨?_, ?_, ?_, ?_, ?_, ?_, ?_, ?_, ?_, ?_⟩ <;> first | rfl | decide⟩
  · exact ⟨{ withChan (held { rq with op := .write64 }) { st := .opened } with tables := { fl.tables with compat := true } }, { rq with op := .write64 }, loc0, by refine ⟨?_, ?_, ?_, ?_, ?_, ?_, ?_, ?_, ?_⟩ <;> first | rfl | decide⟩
  · exact ⟨up, by refine ⟨?_, ?_, ?_⟩ <;> first | rfl | decide⟩

theorem witness_InkAndIdleLines :
  (∃ (s : State) (page : Nat),
    s.pins.pwrgood = true ∧
    ((∃ e ∈ s.filling, e.1 = page))) ∧
  (∃ (s : State) (c line now : Nat) (l : LbLine) (loc : Loc),
    s.pins.pwrgood = true ∧
    lbFind s c line = some l ∧
    l.dirty = true ∧
    l.enc = false ∧
    l.written + 100 ≤ s.elapsed ∧
    canWrite s c false = true ∧
    s.pwr.hold = false ∧
    s.flt.fatal = false ∧
    locate s (line * 64) = some loc ∧
    unreachable s loc = false ∧
    loc.ch = c ∧
    s.rst.chanBusy.contains c = false ∧
    ((∀ x ∈ (s.chan c).wrq, x.req = none))) :=
  by
  refine ⟨?_, ?_⟩
  · exact ⟨{ up with filling := [(7, 0)] }, 7, by refine ⟨?_, ?_⟩ <;> first | rfl | decide⟩
  · exact ⟨{ withChan up { st := .opened, lb := [line0] } with elapsed := 100 }, 0, 0, 0, line0, loc0, by refine ⟨?_, ?_, ?_, ?_, ?_, ?_, ?_, ?_, ?_, ?_, ?_, ?_, ?_⟩ <;> first | rfl | decide⟩

theorem witness_ReadsReturnAndComplete :
  (∃ (s : State) (c now : Nat) (e : Entry) (col : Nat) (rest : List (Entry × Nat)) (r : Req) (x : Line),
    s.pins.pwrgood = true ∧
    (s.chan c).inflight = (e, col) :: rest ∧
    e.kind = .hostRead ∧
    e.req = some r.id ∧
    findReq s r.id = some r ∧
    r.stage ≠ .done ∧
    r.enc = false ∧
    e.dpaLine = r.dpa / 64 ∧
    col = e.loc.col ∧
    ((e.stale = true ∨ bypass s (homeChan s (r.dpa / 64)) = true)) ∧
    e.dpaLine ≠ dpaNone ∧
    (decodeLine s c e.got).a = .clean ∧
    (decodeLine s c e.got).b = .clean ∧
    (decodeLine s c e.got).words = e.got ∧
    lineOfHalves e.got = x ∧
    (s.trnOf c).checkDue = false ∧
    (s.tsvOf c).waits = [] ∧
    (s.eccOf c).visit = 0) ∧
  (∃ (s : State) (r : Req),
    s.pins.pwrgood = true ∧
    findReq s r.id = some r ∧
    r.stage = .done ∧
    s.flt.fatal = false ∧
    r.eng = none ∧
    r.orphan = false ∧
    (s.port r.port).st = .active) :=
  by
  refine ⟨?_, ?_⟩
  · exact ⟨withChan (held { rq with stage := .channel }) { st := .opened, inflight := [(ent, 0)] }, 0, 0, ent, 0, [], { rq with stage := .channel }, 0, by refine ⟨?_, ?_, ?_, ?_, ?_, ?_, ?_, ?_, ?_, ?_, ?_, ?_, ?_, ?_, ?_, ?_, ?_, ?_⟩ <;> decide +kernel⟩
  · exact ⟨held { rq with stage := .done }, { rq with stage := .done }, by refine ⟨?_, ?_, ?_, ?_, ?_, ?_, ?_⟩ <;> first | rfl | decide⟩

theorem witness_WindowEdge :
  (∃ (s : State) (f : Nat),
    s.pins.pwrgood = true ∧
    (flowCfg s f).valid = true ∧
    atEdge s (flowCfg s f) = true ∧
    (s.flowR f).edge ≠ some s.elapsed ∧
    (flowCfg s f).cls.toNat < 2 ∧
    (s.flowR f).whole = true ∧
    (s.flowR f).spoiled = false ∧
    (flowCfg s f).guarantee ≤ (s.flowR f).offered ∧
    (s.flowR f).dispatched < (flowCfg s f).guarantee ∧
    (queueCfg s (flowCfg s f).queue.toNat).valid = false) ∧
  (∃ (s : State) (f : Nat),
    s.pins.pwrgood = true ∧
    (flowCfg s f).valid = true ∧
    atEdge s (flowCfg s f) = true ∧
    (s.flowR f).edge ≠ some s.elapsed ∧
    (flowCfg s f).cls.toNat < 2 ∧
    (s.flowR f).whole = true ∧
    (s.flowR f).spoiled = false ∧
    (flowCfg s f).guarantee ≤ (s.flowR f).dispatched) ∧
  (∃ (s : State) (f : Nat),
    s.pins.pwrgood = true ∧
    (s.flowR f).edge = some s.elapsed) :=
  by
  refine ⟨?_, ?_, ?_⟩
  · exact ⟨{ fl with flowRt := [(0, { offered := 100, dispatched := 99 })] }, 0, by refine ⟨?_, ?_, ?_, ?_, ?_, ?_, ?_, ?_, ?_, ?_⟩ <;> first | rfl | decide⟩
  · exact ⟨{ fl with flowRt := [(0, { offered := 100, dispatched := 100 })] }, 0, by refine ⟨?_, ?_, ?_, ?_, ?_, ?_, ?_, ?_⟩ <;> first | rfl | decide⟩
  · exact ⟨{ fl with flowRt := [(0, { edge := some 0 })] }, 0, by refine ⟨?_, ?_⟩ <;> first | rfl | decide⟩

theorem witness_BudgetsAndProbes :
  (∃ (s : State),
    s.pins.pwrgood = true ∧
    s.flw.due = true ∧
    s.flw.dueSince < s.elapsed ∧
    s.flw.shortfall = false ∧
    fullFits s = true) ∧
  (∃ (s : State),
    s.pins.pwrgood = true ∧
    s.flw.due = true ∧
    s.flw.dueSince < s.elapsed ∧
    s.flw.shortfall = false ∧
    fullFits s = false ∧
    shortQueues s = []) ∧
  (∃ (s : State),
    s.pins.pwrgood = true ∧
    (s.flw.due = false ∨ s.elapsed ≤ s.flw.dueSince)) ∧
  (∃ (s : State),
    s.pins.pwrgood = true ∧
    s.mer.count.toNat % 2 ^ s.tables.evalLog2.toNat = 0 ∧
    s.flw.lastEval ≠ some s.elapsed ∧
    s.flw.shortfall = true ∧
    s.flw.cleanSoFar = true ∧
    s.flw.clean = 15 ∧
    fullFits s = true ∧
    shortQueues s = []) ∧
  (∃ (s : State) (via : Via) (p : Nat) (data : Word),
    p < 1024 ∧
    Served s via true (.prv p) 0x3C data) :=
  by
  refine ⟨?_, ?_, ?_, ?_, ?_⟩
  · exact ⟨{ up with flw := { due := true }, elapsed := 1 }, by refine ⟨?_, ?_, ?_, ?_, ?_⟩ <;> first | rfl | decide⟩
  · exact ⟨{ fl with flw := { due := true }, elapsed := 1 }, by refine ⟨?_, ?_, ?_, ?_, ?_, ?_⟩ <;> decide +kernel⟩
  · exact ⟨up, by refine ⟨?_, ?_⟩ <;> first | rfl | decide⟩
  · exact ⟨{ up with flw := { shortfall := true, cleanSoFar := true, clean := 15 } }, by refine ⟨?_, ?_, ?_, ?_, ?_, ?_, ?_, ?_⟩ <;> first | rfl | decide⟩
  · exact ⟨asked (up) true (addrOf (.prv (1023)) 0x3C) (0), p0, 1023, 0, by refine ⟨?_, ⟨?_, ?_, ?_, ?_, ?_⟩⟩ <;> first | rfl | decide⟩

theorem witness_EngineWork :
  (∃ (s : State) (h : ReqHdr) (desc : BitVec 512),
    Arrived s 10 h (bytesOf 64 desc.toNat) ∧
    s.variant = .N) ∧
  (∃ (s : State) (h : ReqHdr) (desc : BitVec 512) (d : Desc),
    Arrived s 10 h (bytesOf 64 desc.toNat) ∧
    s.flt.fatal = false ∧
    s.sec.lc ≠ 3 ∧
    s.variant ≠ .N ∧
    (flowCfg s h.flow).valid = true ∧
    portOwns s h.port (flowCfg s h.flow) = true ∧
    d = parseDesc h.flow (flowCfg s h.flow).queue.toNat s.flw.nextId desc ∧
    descReason s d desc = 0 ∧
    enginesFenced s = false ∧
    d.op ≠ 4) ∧
  (∃ (s : State) (h : ReqHdr) (desc : BitVec 512) (d : Desc),
    Arrived s 10 h (bytesOf 64 desc.toNat) ∧
    s.flt.fatal = false ∧
    s.sec.lc ≠ 3 ∧
    s.variant ≠ .N ∧
    (flowCfg s h.flow).valid = true ∧
    portOwns s h.port (flowCfg s h.flow) = true ∧
    d = parseDesc h.flow (flowCfg s h.flow).queue.toNat s.flw.nextId desc ∧
    descReason s d desc ≠ 0 ∧
    descReason s d desc ≠ 6) ∧
  (∃ (s : State) (e f : Nat) (d : Desc),
    s.pins.pwrgood = true ∧
    engOn s e = true ∧
    (s.eng e).st = .idle ∧
    running s e = none ∧
    s.pwr.hold = false ∧
    pickEngFlow s = some f ∧
    (engQ s f).descs.head? = some d ∧
    d.started = false ∧
    d.op ≠ 4) ∧
  (∃ (s : State) (e f : Nat) (d : Desc),
    s.pins.pwrgood = true ∧
    running s e = some (f, d) ∧
    (s.eng e).st = .waitUnit ∧
    freeUnits s ≠ []) :=
  by
  refine ⟨?_, ?_, ?_, ?_, ?_⟩
  · exact ⟨came { up with variant := .N } 10 (bytesOf 64 0), h0, 0, by refine ⟨⟨?_, ?_, ?_⟩, ?_⟩ <;> decide +kernel⟩
  · exact ⟨came fl 10 (bytesOf 64 fillWords.toNat), h0, fillWords, fillDesc, by refine ⟨⟨?_, ?_, ?_⟩, ?_, ?_, ?_, ?_, ?_, ?_, ?_, ?_, ?_⟩ <;> decide +kernel⟩
  · exact ⟨came fl 10 (bytesOf 64 0), h0, 0, parseDesc 0 0 0 0, by refine ⟨⟨?_, ?_, ?_⟩, ?_, ?_, ?_, ?_, ?_, ?_, ?_, ?_⟩ <;> decide +kernel⟩
  · exact ⟨desc fillDesc none {}, 0, 0, fillDesc, by refine ⟨?_, ?_, ?_, ?_, ?_, ?_, ?_, ?_, ?_⟩ <;> decide +kernel⟩
  · exact ⟨desc { fillDesc with op := 4 } (some 0) { st := .waitUnit }, 0, 0, { fillDesc with op := 4 }, by refine ⟨?_, ?_, ?_, ?_⟩ <;> first | rfl | decide⟩

theorem witness_EnginesRun :
  (∃ (s : State) (e f ns : Nat) (d : Desc),
    s.pins.pwrgood = true ∧
    running s e = some (f, d) ∧
    engOn s e = true ∧
    (s.eng e).st = .run ∧
    s.pwr.hold = false ∧
    d.stop = none ∧
    d.aborting = false ∧
    d.out = [] ∧
    d.next < d.lines ∧
    orderHolds s d = false ∧
    d.op = 2 ∧
    d.second = false ∧
    (s.eng e).issued + d.step ≤ engCap s ∧
    s.rst.phase ≠ .quiesce ∧
    s.rst.phase ≠ .held) ∧
  (∃ (s : State) (e f : Nat) (d : Desc),
    s.pins.pwrgood = true ∧
    running s e = some (f, d) ∧
    d.out = [] ∧
    d.stop = none ∧
    d.lines ≤ d.next ∧
    d.op = 2 ∧
    s.flt.fatal = false ∧
    (s.eng e).st = .run ∧
    (flowCfg s d.flow).valid = true ∧
    (queueCfg s (flowCfg s d.flow).queue.toNat).valid = false) :=
  by
  refine ⟨?_, ?_⟩
  · exact ⟨desc { fillDesc with started := true } (some 0) { st := .run }, 0, 0, 5, { fillDesc with started := true }, by refine ⟨?_, ?_, ?_, ?_, ?_, ?_, ?_, ?_, ?_, ?_, ?_, ?_, ?_, ?_, ?_⟩ <;> decide +kernel⟩
  · exact ⟨desc { fillDesc with started := true, next := 1, done := 1 } (some 0) { st := .run }, 0, 0, { fillDesc with started := true, next := 1, done := 1 }, by refine ⟨?_, ?_, ?_, ?_, ?_, ?_, ?_, ?_, ?_, ?_⟩ <;> decide +kernel⟩

theorem witness_EngineResetAndContexts :
  (∃ (s : State) (via : Via) (e : Nat),
    e < 4 ∧
    Served s via true (.eng e) 0 0x800000 ∧
    running s e = none) ∧
  (∃ (s : State) (via : Via) (u : Nat) (data : Word),
    u < 16 ∧
    Served s via true (.chk u) 0x11 data ∧
    (s.ctx (s.chk u).sel.toNat).busy = false ∧
    8 ≤ (data.extractLsb' 17 7).toNat ∧
    (data.extractLsb' 17 7).toNat ≤ 64) ∧
  (∃ (s : State) (via : Via) (u : Nat) (data : Word),
    u < 16 ∧
    Served s via true (.chk u) 0x11 data ∧
    (s.ctx (s.chk u).sel.toNat).busy = true) :=
  by
  refine ⟨?_, ?_, ?_⟩
  · exact ⟨asked (up) true (addrOf (.eng (3)) 0) 0x800000, p0, 3, by refine ⟨?_, ⟨?_, ?_, ?_, ?_, ?_⟩, ?_⟩ <;> first | rfl | decide⟩
  · exact ⟨asked (up) true (addrOf (.chk (15)) 0x11) (0x100000), p0, 15, 0x100000, by refine ⟨?_, ⟨?_, ?_, ?_, ?_, ?_⟩, ?_, ?_, ?_⟩ <;> first | rfl | decide⟩
  · exact ⟨asked ({ up with ctxs := [(0, { busy := true })] }) true (addrOf (.chk (15)) 0x11) (0x100000), p0, 15, 0x100000, by refine ⟨?_, ⟨?_, ?_, ?_, ?_, ?_⟩, ?_⟩ <;> first | rfl | decide⟩

theorem witness_ChannelCommands :
  (∃ (s v u : State) (c now n g a : Nat) (wr : Bool) (e : Entry),
    s.pins.pwrgood = true ∧
    chanOn s c = true ∧
    now / 1000000 = s.elapsed ∧
    (s.chan c).st = .opened ∧
    dirtyLines s c = [] ∧
    (s.eccOf c).visit = 0 ∧
    n = nowPs (atPs s now) ∧
    v = promote (atPs s now) c n (fun _ => true) ∧
    u = setMode v c (busMode v c n) ∧
    best (cands u c n (some (u.chan c).wmode)) = some ⟨g, a, .act wr e⟩) ∧
  (∃ (s v u : State) (c now n g a col : Nat) (e : Entry) (more : List Nat),
    s.pins.pwrgood = true ∧
    chanOn s c = true ∧
    now / 1000000 = s.elapsed ∧
    (s.chan c).st = .opened ∧
    dirtyLines s c = [] ∧
    (s.eccOf c).visit = 0 ∧
    n = nowPs (atPs s now) ∧
    v = promote (atPs s now) c n (fun _ => true) ∧
    u = setMode v c (busMode v c n) ∧
    best (cands u c n (some (u.chan c).wmode)) = some ⟨g, a, .col false e⟩ ∧
    e.cols = col :: more) ∧
  (∃ (s v u : State) (c now n g a col : Nat) (e : Entry) (w : Half × Half),
    s.pins.pwrgood = true ∧
    chanOn s c = true ∧
    now / 1000000 = s.elapsed ∧
    (s.chan c).st = .opened ∧
    dirtyLines s c = [] ∧
    (s.eccOf c).visit = 0 ∧
    n = nowPs (atPs s now) ∧
    v = promote (atPs s now) c n (fun _ => true) ∧
    u = setMode v c (busMode v c n) ∧
    best (cands u c n (some (u.chan c).wmode)) = some ⟨g, a, .col true e⟩ ∧
    e.cols = [col] ∧
    ((e.kind = .writeBack ∨ e.kind = .bypassWrite ∨ e.kind = .maskedBurst)) ∧
    e.words = [(col, w)] ∧
    e.loc.ch = c ∧
    remapAt s { e.loc with col := col } = none ∧
    mirrorOf s { e.loc with col := col } = none) ∧
  (∃ (s u : State) (c now : Nat) (e : Entry) (a b : List Entry),
    s.pins.pwrgood = true ∧
    now / 1000000 = s.elapsed ∧
    (s.chan c).rdq = a ++ e :: b ∧
    ((∀ x ∈ a ++ b ++ (s.chan c).wrq, x.id ≠ e.id)) ∧
    e.fixed = false ∧
    e.aged = false ∧
    e.since + 2000000 ≤ now ∧
    u = atPs s now) ∧
  (∃ (s u : State) (c k b now n : Nat),
    s.pins.pwrgood = true ∧
    chanOn s c = true ∧
    now / 1000000 = s.elapsed ∧
    (s.chan c).st = .opened ∧
    s.flt.fatal = false ∧
    (s.chan c).pageIdle ≠ 0 ∧
    ((s.chan c).bank k b).hits < (s.chan c).hitThresh.toNat ∧
    u = atPs s now ∧
    n = nowPs u ∧
    ((s.chan c).bank k b).idleFrom + (s.chan c).pageIdle.toNat * 10000 ≤ n ∧
    preLegal (s.chan c) k b n = true) :=
  by
  refine ⟨?_, ?_, ?_, ?_, ?_⟩
  · exact ⟨ch0 { rdq := [entW] }, promote (atPs (ch0 { rdq := [entW] }) 0) 0 0 (fun _ => true), setMode (promote (atPs (ch0 { rdq := [entW] }) 0) 0 0 (fun _ => true)) 0 (busMode (promote (atPs (ch0 { rdq := [entW] }) 0) 0 0 (fun _ => true)) 0 0), 0, 0, 0, 5, 3, false, entW, by refine ⟨?_, ?_, ?_, ?_, ?_, ?_, ?_, ?_, ?_, ?_⟩ <;> first | rfl | decide⟩
  · exact ⟨ch0 { rdq := [entW], banks := bankOpen }, promote (atPs (ch0 { rdq := [entW], banks := bankOpen }) 0) 0 0 (fun _ => true), setMode (promote (atPs (ch0 { rdq := [entW], banks := bankOpen }) 0) 0 0 (fun _ => true)) 0 (busMode (promote (atPs (ch0 { rdq := [entW], banks := bankOpen }) 0) 0 0 (fun _ => true)) 0 0), 0, 0, 0, 4, 3, 0, entW, [], by refine ⟨?_, ?_, ?_, ?_, ?_, ?_, ?_, ?_, ?_, ?_, ?_⟩ <;> first | rfl | decide⟩
  · exact ⟨ch0 { wrq := [entB], banks := bankOpen }, promote (atPs (ch0 { wrq := [entB], banks := bankOpen }) 0) 0 0 (fun _ => true), setMode (promote (atPs (ch0 { wrq := [entB], banks := bankOpen }) 0) 0 0 (fun _ => true)) 0 (busMode (promote (atPs (ch0 { wrq := [entB], banks := bankOpen }) 0) 0 0 (fun _ => true)) 0 0), 0, 0, 0, 4, 3, 0, entB, (0, 0), by refine ⟨?_, ?_, ?_, ?_, ?_, ?_, ?_, ?_, ?_, ?_, ?_, ?_, ?_, ?_, ?_, ?_⟩ <;> first | rfl | decide⟩
  · exact ⟨{ ch0 { rdq := [entW] } with elapsed := 2 }, atPs ({ ch0 { rdq := [entW] } with elapsed := 2 }) 2000000, 0, 2000000, entW, [], [], by refine ⟨?_, ?_, ?_, ?_, ?_, ?_, ?_, ?_⟩ <;> first | rfl | decide⟩
  · exact ⟨ch0 { banks := [(0, { openRow := some 0, lastCol := some 0 })] }, atPs (ch0 { banks := [(0, { openRow := some 0, lastCol := some 0 })] }) 120000, 0, 0, 0, 120000, 120000, by refine ⟨?_, ?_, ?_, ?_, ?_, ?_, ?_, ?_, ?_, ?_, ?_⟩ <;> first | rfl | decide⟩

theorem witness_LullSlots :
  (∃ (s : State) (t : Nat),
    s.pins.pwrgood = true ∧
    tierPresent s.variant t = true ∧
    sheetInForce s = true ∧
    (s.tier t).inSlot = false ∧
    domOn s (52 + t) = true ∧
    s.flt.gale = false ∧
    s.mer.count.toNat % 125 = (tget 0 s.tables.lull t).toNat ∧
    (s.tier t).lastSlot ≠ some s.elapsed) ∧
  (∃ (s : State) (t : Nat),
    s.pins.pwrgood = true ∧
    t < 20 ∧
    (s.tier t).inSlot = true ∧
    (s.tier t).lastSlot.getD 0 + (match (s.tier t).slotBand with | .b1 => 5 | .b2 => 10 | .b4 => 20) ≤ s.elapsed) ∧
  (∃ (s : State) (t : Nat),
    s.pins.pwrgood = true ∧
    (s.tier t).lastSlot = some s.elapsed) :=
  by
  refine ⟨?_, ?_, ?_⟩
  · exact ⟨{ up with tables := { lull := [(4, 7)] }, mer := { count := 7 } }, 4, by refine ⟨?_, ?_, ?_, ?_, ?_, ?_, ?_, ?_⟩ <;> first | rfl | decide⟩
  · exact ⟨{ up with tiers := [(4, { inSlot := true })], elapsed := 20 }, 4, by refine ⟨?_, ?_, ?_, ?_⟩ <;> first | rfl | decide⟩
  · exact ⟨{ up with tiers := [(4, { lastSlot := some 0 })] }, 4, by refine ⟨?_, ?_⟩ <;> first | rfl | decide⟩

theorem witness_OperatingPoint :
  (∃ (s : State) (via : Via) (c : Nat) (data : Word),
    c < 32 ∧
    Served s via true (.chn c) 1 data ∧
    data.extractLsb' 22 2 ≠ 3 ∧
    (s.chan c).opMax ≤ data.extractLsb' 22 2 ∧
    data.extractLsb' 22 2 ≠ (s.chan c).current ∧
    (s.chan c).seq = .idle ∧
    (s.chan c).latched = none ∧
    bstHoldsPoint s c = false ∧
    chanFenced s c = false ∧
    pointHeld s c = false) ∧
  (∃ (s : State) (via : Via) (c : Nat) (data : Word),
    c < 32 ∧
    Served s via true (.chn c) 1 data ∧
    ((data.extractLsb' 22 2 = 3 ∨ data.extractLsb' 22 2 < (s.chan c).opMax))) ∧
  (∃ (s : State) (c : Nat),
    s.pins.pwrgood = true ∧
    seqRuns s c = true ∧
    drained s c = true ∧
    trnBusy s c = false ∧
    laneBusy s c = false ∧
    (s.chan c).seq = .drain ∧
    (s.chan c).st = .opened) ∧
  (∃ (s : State) (c : Nat),
    s.pins.pwrgood = true ∧
    seqRuns s c = true ∧
    (s.chan c).seq = .relock) ∧
  (∃ (s : State) (c : Nat),
    s.pins.pwrgood = true ∧
    seqRuns s c = true ∧
    (s.chan c).seq = .exit) ∧
  (∃ (s : State) (c : Nat),
    s.pins.pwrgood = true ∧
    chanOn s c = true ∧
    chanFenced s c = false ∧
    (s.trnOf c).action = .check ∧
    (s.trnOf c).noSet = false ∧
    (s.trnOf c).wanted = none ∧
    (s.sprOf c).st ≠ .rescue ∧
    (s.chan c).seq = .check ∧
    (s.chan c).st = .paused ∧
    (s.chan c).latched = none ∧
    (s.bstOf c).st = .idle ∧
    (s.tsvOf c).action = .idle ∧
    (s.trnOf c).checkDue = false ∧
    (s.tsvOf c).waits = [] ∧
    s.rst.chanBusy = [] ∧
    s.pwr.hold = false) :=
  by
  refine ⟨?_, ?_, ?_, ?_, ?_, ?_⟩
  · exact ⟨asked (ch0 {}) true (addrOf (.chn (0)) 1) (0x400000), p0, 0, 0x400000, by refine ⟨?_, ⟨?_, ?_, ?_, ?_, ?_⟩, ?_, ?_, ?_, ?_, ?_, ?_, ?_, ?_⟩ <;> first | rfl | decide⟩
  · exact ⟨asked (ch0 {}) true (addrOf (.chn (0)) 1) (0xC00000), p0, 0, 0xC00000, by refine ⟨?_, ⟨?_, ?_, ?_, ?_, ?_⟩, ?_⟩ <;> first | rfl | decide⟩
  · exact ⟨ch0 { seq := .drain }, 0, by refine ⟨?_, ?_, ?_, ?_, ?_, ?_, ?_⟩ <;> first | rfl | decide⟩
  · exact ⟨ch0 { seq := .relock }, 0, by refine ⟨?_, ?_, ?_⟩ <;> first | rfl | decide⟩
  · exact ⟨ch0 { seq := .exit }, 0, by refine ⟨?_, ?_, ?_⟩ <;> first | rfl | decide⟩
  · exact ⟨{ withChan up { seq := .check, st := .paused } with trn := [(0, { action := .check })] }, 0, by refine ⟨?_, ?_, ?_, ?_, ?_, ?_, ?_, ?_, ?_, ?_, ?_, ?_, ?_, ?_, ?_, ?_⟩ <;> first | rfl | decide⟩

theorem witness_CommitsAndRetirement :
  (∃ (s : State) (c t : Nat),
    s.pins.pwrgood = true ∧
    (s.eccOf c).commitAt = some t ∧
    t ≤ s.elapsed ∧
    (s.eccOf c).noAuto = false ∧
    (s.eccOf c).rowsBusy = [] ∧
    (s.eccOf c).busy = false ∧
    s.sec.lc ≠ 3 ∧
    bankBad s.fus 4 = false ∧
    s.fus.op.isSome = true) ∧
  (∃ (s : State) (via : Via) (c : Nat) (data : Word),
    c < 32 ∧
    Served s via true (.ecc c) 9 data ∧
    data.getLsbD 23 = true ∧
    (s.eccOf c).rowsBusy = [] ∧
    (s.eccOf c).busy = false ∧
    s.sec.lc ≠ 3 ∧
    bankBad s.fus 4 = false ∧
    s.fus.op.isSome = true) ∧
  (∃ (s : State) (c t : Nat),
    s.pins.pwrgood = true ∧
    (s.eccOf c).commitAt = some t ∧
    t ≤ s.elapsed ∧
    (s.eccOf c).noAuto = false ∧
    (s.eccOf c).rowsBusy = [] ∧
    (s.eccOf c).busy = false ∧
    (s.sec.lc = 3 ∨ bankBad s.fus 4 = true)) ∧
  (∃ (s : State) (c : Nat),
    s.pins.pwrgood = true ∧
    commitFinished s c = true ∧
    (s.eccOf c).rowsBusy = [] ∧
    (s.eccOf c).waitLines = [] ∧
    s.fus.queue = []) ∧
  (∃ (s : State) (c k b row i : Nat) (rest : List (Nat × Nat × Nat × Nat)) (errs : List (Nat × Half × Half)),
    s.pins.pwrgood = true ∧
    (s.eccOf c).rowsBusy = (k, b, row, i) :: rest) ∧
  (∃ (s : State) (via : Via) (data : Word) (c k : Nat),
    Served s via true .mig 0 data ∧
    data.getLsbD 23 = true ∧
    c = (data.extractLsb' 18 5).toNat ∧
    k = (data.extractLsb' 15 3).toNat ∧
    k ≤ 4 ∧
    rankPresent s.variant k = true ∧
    (s.rank c k).st = .inService) ∧
  (∃ (s : State) (via : Via) (data : Word) (c k : Nat),
    Served s via true .mig 0 data ∧
    data.getLsbD 23 = true ∧
    c = (data.extractLsb' 18 5).toNat ∧
    k = (data.extractLsb' 15 3).toNat) :=
  by
  refine ⟨?_, ?_, ?_, ?_, ?_, ?_, ?_⟩
  · exact ⟨{ up with ecc := [(0, { commitAt := some 0 })], fus := { op := some { job := .commit 0, bank := 4, word := 0, goal := 0, bits := [], tries := 0, rest := [], live := true, stopping := false } } }, 0, 0, by refine ⟨?_, ?_, ?_, ?_, ?_, ?_, ?_, ?_, ?_⟩ <;> first | rfl | decide⟩
  · exact ⟨asked ({ up with fus := { op := some { job := .commit 0, bank := 4, word := 0, goal := 0, bits := [], tries := 0, rest := [], live := true, stopping := false } } }) true (addrOf (.ecc (0)) 9) (0x800000), p0, 0, 0x800000, by refine ⟨?_, ⟨?_, ?_, ?_, ?_, ?_⟩, ?_, ?_, ?_, ?_, ?_, ?_⟩ <;> first | rfl | decide⟩
  · exact ⟨{ up with ecc := [(0, { commitAt := some 0 })], sec := { lc := 3 } }, 0, 0, by refine ⟨?_, ?_, ?_, ?_, ?_, ?_, ?_⟩ <;> first | rfl | decide⟩
  · exact ⟨{ up with fus := { op := some { job := .commit 0, bank := 4, word := 0, goal := 0, bits := [], tries := 0, rest := [], live := true, stopping := false } } }, 0, by refine ⟨?_, ?_, ?_, ?_, ?_⟩ <;> first | rfl | decide⟩
  · exact ⟨{ up with ecc := [(0, { rowsBusy := [(0, 0, 5, 1)] })] }, 0, 0, 0, 5, 1, [], [], by refine ⟨?_, ?_⟩ <;> first | rfl | decide⟩
  · exact ⟨asked (up) true (addrOf .mig 0) (0x800000), p0, 0x800000, 0, 0, by refine ⟨⟨?_, ?_, ?_, ?_, ?_⟩, ?_, ?_, ?_, ?_, ?_, ?_⟩ <;> first | rfl | decide⟩
  · exact ⟨asked (up) true (addrOf .mig 0) (0x870000), p0, 0x870000, 1, 6, by refine ⟨⟨?_, ?_, ?_, ?_, ?_⟩, ?_, ?_, ?_⟩ <;> first | rfl | decide⟩

theorem witness_Migration :
  (∃ (s : State) (c k : Nat),
    s.pins.pwrgood = true ∧
    engineIdle s = true ∧
    nextPending s = some (rankKey c k) ∧
    k < 4 ∧
    mbistOn s c k = false ∧
    spareFits s c k = true ∧
    spareAway s c = false) ∧
  (∃ (s : State) (c k : Nat) (gs : List Nat),
    s.pins.pwrgood = true ∧
    engineIdle s = true ∧
    nextPending s = some (rankKey c k) ∧
    k < 5 ∧
    mbistOn s c k = false ∧
    spareFits s c k = false ∧
    chooseGrans s c k = some gs) ∧
  (∃ (s : State) (c k : Nat),
    s.pins.pwrgood = true ∧
    engineIdle s = true ∧
    nextPending s = some (rankKey c k) ∧
    k < 5 ∧
    mbistOn s c k = false ∧
    spareFits s c k = false ∧
    chooseGrans s c k = none ∧
    (s.rank c k).st = .pending) ∧
  (∃ (s : State),
    s.pins.pwrgood = true ∧
    migFirst s = true ∧
    drainCan s = false ∧
    migFills s = false ∧
    batchBlank s = false) ∧
  (∃ (s : State) (l : Loc),
    s.pins.pwrgood = true ∧
    migFirst s = true ∧
    drainCan s = true ∧
    toWrite s ≠ [] ∧
    copyTarget s s.mig.writePos = some l ∧
    ((∀ x ∈ (s.chan l.ch).wrq, x.req = none))) ∧
  (∃ (s : State),
    s.pins.pwrgood = true ∧
    copyRuns s = true ∧
    chunkDone s = true ∧
    s.mig.pointer + 65536 < 2 ^ 23) ∧
  (∃ (s : State),
    s.pins.pwrgood = true ∧
    (copyRuns s = false ∨ chunkDone s = false)) ∧
  (∃ (s : State),
    s.pins.pwrgood = true ∧
    copyRuns s = true ∧
    chunkDone s = true ∧
    s.mig.pointer + 65536 = 2 ^ 23 ∧
    s.mig.toRes = false ∧
    s.mig.rank < 4 ∧
    s.mig.ch < 32) :=
  by
  refine ⟨?_, ?_, ?_, ?_, ?_, ?_, ?_, ?_⟩
  · exact ⟨order1 1 .spareIdle, 0, 1, by refine ⟨?_, ?_, ?_, ?_, ?_, ?_, ?_⟩ <;> first | rfl | decide⟩
  · exact ⟨reserve1 8, 0, 1, [776, 777, 778, 779, 780, 781, 782, 783], by refine ⟨?_, ?_, ?_, ?_, ?_, ?_, ?_⟩ <;> decide +kernel⟩
  · exact ⟨reserve1 7, 0, 1, by refine ⟨?_, ?_, ?_, ?_, ?_, ?_, ?_, ?_⟩ <;> decide +kernel⟩
  · exact ⟨migr { st := .copy }, by refine ⟨?_, ?_, ?_, ?_, ?_⟩ <;> first | rfl | decide⟩
  · exact ⟨migr { st := .copy, readPos := 65536, staged := [(0, (0, 0))] }, ⟨0, 4, 0, 0, 0⟩, by refine ⟨?_, ?_, ?_, ?_, ?_, ?_⟩ <;> first | rfl | decide⟩
  · exact ⟨migr { st := .copy, readPos := 65536, writePos := 65536 }, by refine ⟨?_, ?_, ?_, ?_⟩ <;> decide +kernel⟩
  · exact ⟨up, by refine ⟨?_, ?_⟩ <;> decide +kernel⟩
  · exact ⟨migr { st := .copy, pointer := 8323072, readPos := 8388608, writePos := 8388608 }, by refine ⟨?_, ?_, ?_, ?_, ?_, ?_, ?_⟩ <;> decide +kernel⟩

theorem witness_ZephyrScrubs :
  (∃ (s u : State) (c now : Nat) (l : Loc),
    s.pins.pwrgood = true ∧
    zephyrRuns s c = true ∧
    s.pwr.hold = false ∧
    (s.eccOf c).zPlan ≠ (0, 0, 0) ∧
    (s.eccOf c).passOver = false ∧
    u = notePassed (atPs s now) c ∧
    (u.eccOf c).passOver = false ∧
    visitNext u c = false ∧
    paceAllows u c = true ∧
    locInked u (locOfIndex c (u.eccOf c).zRank (u.eccOf c).zLine) = true ∧
    route u routeFuel (locOfIndex c (u.eccOf c).zRank (u.eccOf c).zLine) = some l ∧
    canRead u l.ch false = true ∧
    s.rst.chanBusy.contains l.ch = false) ∧
  (∃ (s : State) (via : Via) (c : Nat) (data : Word),
    c < 32 ∧
    Served s via true (.ecc c) 0 data ∧
    ((data.extractLsb' 17 6 = 0 ∨ data.extractLsb' 11 6 = 0))) ∧
  (∃ (s : State) (via : Via) (c : Nat) (data : Word),
    c < 32 ∧
    Served s via true (.ecc c) 0 data ∧
    data.extractLsb' 17 6 ≠ 0 ∧
    data.extractLsb' 11 6 ≠ 0) :=
  by
  refine ⟨?_, ?_, ?_⟩
  · exact ⟨zst, notePassed (atPs zst 0) 0, 0, 0, loc0, by refine ⟨?_, ?_, ?_, ?_, ?_, ?_, ?_, ?_, ?_, ?_, ?_, ?_, ?_⟩ <;> first | rfl | decide⟩
  · exact ⟨asked (up) true (addrOf (.ecc (0)) 0) (0x020000), p0, 0, 0x020000, by refine ⟨?_, ⟨?_, ?_, ?_, ?_, ?_⟩, ?_⟩ <;> first | rfl | decide⟩
  · exact ⟨asked (up) true (addrOf (.ecc (0)) 0) (0x020800), p0, 0, 0x020800, by refine ⟨?_, ⟨?_, ?_, ?_, ?_, ?_⟩, ?_, ?_⟩ <;> first | rfl | decide⟩

theorem witness_LaneChecks :
  (∃ (s : State) (via : Via) (c : Nat) (data : Word),
    c < 32 ∧
    Served s via true (.tsv c) 6 data ∧
    85 < (data.extractLsb' 16 7).toNat) ∧
  (∃ (s : State) (via : Via) (c : Nat) (data : Word),
    c < 32 ∧
    Served s via true (.tsv c) 6 data ∧
    (data.extractLsb' 16 7).toNat < 72 ∧
    data.getLsbD 23 = true ∧
    checkFree s c = true ∧
    (s.trnOf c).checkDue = false ∧
    (s.tsvOf c).waits = []) ∧
  (∃ (s : State) (c lane : Nat) (eyes : List LaneEye) (spare : LaneEye) (spErr : Bool),
    s.pins.pwrgood = true ∧
    (s.tsvOf c).action = .check ∧
    (s.tsvOf c).ctlCheck = false ∧
    sweepRuns s c = true ∧
    (s.tsvOf c).lane = lane ∧
    eyeGood lane (findEye eyes lane) = true ∧
    (s.trnOf c).checkDue = false ∧
    ((∀ w ∈ (s.tsvOf c).waits, w = .data lane))) ∧
  (∃ (s : State) (c lane : Nat) (eyes : List LaneEye) (spare : LaneEye) (cErr : Bool),
    s.pins.pwrgood = true ∧
    (s.tsvOf c).action = .check ∧
    (s.tsvOf c).ctlCheck = false ∧
    sweepRuns s c = true ∧
    (s.tsvOf c).lane = lane ∧
    ((eyeGood lane (findEye eyes lane) = false ∨ cErr = true)) ∧
    spareGone s c lane = false ∧
    eyeGood lane spare = true) ∧
  (∃ (s : State) (c lane : Nat) (eyes : List LaneEye) (spare : LaneEye) (cErr spErr : Bool),
    s.pins.pwrgood = true ∧
    (s.tsvOf c).action = .check ∧
    (s.tsvOf c).ctlCheck = false ∧
    sweepRuns s c = true ∧
    (s.tsvOf c).lane = lane ∧
    ((eyeGood lane (findEye eyes lane) = false ∨ cErr = true)) ∧
    lane < 36 ∧
    (s.tsvOf c).erasedA.contains lane = false ∧
    (s.tsvOf c).erasedA.length < 2 ∧
    spareGone s c lane = true ∧
    (s.sprOf c).st = .normal ∧
    (s.trnOf c).checkDue = false ∧
    ((∀ w ∈ (s.tsvOf c).waits, w = .data lane))) :=
  by
  refine ⟨?_, ?_, ?_, ?_, ?_⟩
  · exact ⟨asked (up) true (addrOf (.tsv (0)) 6) (0x560000), p0, 0, 0x560000, by refine ⟨?_, ⟨?_, ?_, ?_, ?_, ?_⟩, ?_⟩ <;> first | rfl | decide⟩
  · exact ⟨asked (ch0 {}) true (addrOf (.tsv (0)) 6) (0x800000), p0, 0, 0x800000, by refine ⟨?_, ⟨?_, ?_, ?_, ?_, ?_⟩, ?_, ?_, ?_, ?_, ?_⟩ <;> first | rfl | decide⟩
  · exact ⟨lanes0 { action := .check, lane := 5 }, 0, 5, [good 5], blind 5, false, by refine ⟨?_, ?_, ?_, ?_, ?_, ?_, ?_, ?_⟩ <;> decide +kernel⟩
  · exact ⟨lanes0 { action := .check, lane := 5 }, 0, 5, [blind 5], good 5, false, by refine ⟨?_, ?_, ?_, ?_, ?_, ?_, ?_, ?_⟩ <;> decide +kernel⟩
  · exact ⟨lanes0 { action := .check, lane := 5, spareUsed := 1 }, 0, 5, [blind 5], blind 5, false, false, by refine ⟨?_, ?_, ?_, ?_, ?_, ?_, ?_, ?_, ?_, ?_, ?_, ?_, ?_⟩ <;> first | rfl | decide⟩

theorem witness_LaneSteered :
  (∃ (s : State) (c : Nat),
    s.pins.pwrgood = true ∧
    (s.tsvOf c).action = .steerWait ∧
    slotsClear s c = true ∧
    s.pwr.hold = false ∧
    s.flt.fatal = false ∧
    chanFenced s c = false ∧
    (s.chan c).st ≠ .closed) ∧
  (∃ (s : State) (c lane : Nat),
    s.pins.pwrgood = true ∧
    (s.tsvOf c).action = .steer ∧
    (s.tsvOf c).lane = lane ∧
    lane < 72 ∧
    (s.trnOf c).checkDue = false ∧
    ((∀ w ∈ (s.tsvOf c).waits, w = .data lane))) :=
  by
  refine ⟨?_, ?_⟩
  · exact ⟨lanes0 { action := .steerWait, lane := 5 }, 0, by refine ⟨?_, ?_, ?_, ?_, ?_, ?_, ?_⟩ <;> first | rfl | decide⟩
  · exact ⟨lanes0 { action := .steer, lane := 71 }, 0, 71, by refine ⟨?_, ?_, ?_, ?_, ?_, ?_⟩ <;> first | rfl | decide⟩

theorem witness_ControlLanes :
  (∃ (s : State) (c k cmd : Nat) (place : Word),
    s.pins.pwrgood = true ∧
    alertsTaken s c k = true ∧
    surveying s c = false ∧
    tget 0 (s.tsvOf c).noLane k < 2 ∧
    (s.tsvOf c).fails = (2, k, cmd)) ∧
  (∃ (s : State) (c k cmd : Nat) (place : Word),
    s.pins.pwrgood = true ∧
    alertsTaken s c k = true ∧
    tget 0 (s.tsvOf c).noLane k < 2 ∧
    (s.tsvOf c).fails = (3, k, cmd) ∧
    checkFree s c = true ∧
    (s.trnOf c).checkDue = false ∧
    (s.tsvOf c).waits = []) ∧
  (∃ (s : State) (c k : Nat),
    s.pins.pwrgood = true ∧
    alertsTaken s c k = true ∧
    checkFree s c = true ∧
    (s.tsvOf c).clkRanks = [] ∧
    (s.trnOf c).checkDue = false ∧
    (s.tsvOf c).waits = []) ∧
  (∃ (s : State) (c k : Nat),
    s.pins.pwrgood = true ∧
    (s.tsvOf c).action = .check ∧
    (s.tsvOf c).ctlCheck = true ∧
    sweepRuns s c = true ∧
    (s.tsvOf c).ctlFrom = some k ∧
    (s.trnOf c).checkDue = false ∧
    (s.tsvOf c).waits = []) ∧
  (∃ (s : State) (c l : Nat),
    s.pins.pwrgood = true ∧
    (s.tsvOf c).action = .check ∧
    (s.tsvOf c).ctlCheck = true ∧
    sweepRuns s c = true ∧
    72 ≤ l ∧
    l ≤ 85 ∧
    spareGone s c l = false) :=
  by
  refine ⟨?_, ?_, ?_, ?_, ?_⟩
  · exact ⟨lanes0 { fails := (2, 3, 7) }, 0, 3, 7, 0, by refine ⟨?_, ?_, ?_, ?_, ?_⟩ <;> first | rfl | decide⟩
  · exact ⟨lanes0 { fails := (3, 3, 7) }, 0, 3, 7, 0, by refine ⟨?_, ?_, ?_, ?_, ?_, ?_, ?_⟩ <;> first | rfl | decide⟩
  · exact ⟨lanes0 {}, 0, 3, by refine ⟨?_, ?_, ?_, ?_, ?_, ?_⟩ <;> first | rfl | decide⟩
  · exact ⟨lanes0 { action := .check, ctlCheck := true, ctlFrom := some 3 }, 0, 3, by refine ⟨?_, ?_, ?_, ?_, ?_, ?_, ?_⟩ <;> first | rfl | decide⟩
  · exact ⟨lanes0 { action := .check, ctlCheck := true }, 0, 85, by refine ⟨?_, ?_, ?_, ?_, ?_, ?_, ?_⟩ <;> first | rfl | decide⟩

theorem witness_Surveys :
  (∃ (s : State) (via : Via) (c : Nat),
    c < 32 ∧
    Served s via true (.trn c) 0 0xC00000 ∧
    chanFenced s c = false ∧
    (s.trnOf c).action = .idle ∧
    (s.trnOf c).wanted = none ∧
    laneBusy s c = false) ∧
  (∃ (s : State) (via : Via) (c : Nat),
    c < 32 ∧
    Served s via true (.trn c) 0 0xC00000 ∧
    chanFenced s c = true) ∧
  (∃ (s : State) (c : Nat) (why : BitVec 3) (temp : Int),
    s.pins.pwrgood = true ∧
    (s.trnOf c).wanted = some why ∧
    surveyFree s c = true ∧
    (s.chan c).st = .opened ∧
    (s.trnOf c).tCh = some temp) ∧
  (∃ (s : State) (c : Nat) (eyes spares : List LaneEye),
    s.pins.pwrgood = true ∧
    (s.trnOf c).action = .survey ∧
    (s.trnOf c).trigger ≠ 5 ∧
    sweepRuns s c = true ∧
    chanFenced s c = false ∧
    badLanes s c eyes = [] ∧
    (s.chan c).seq = .idle ∧
    (s.trnOf c).checkDue = false ∧
    (s.tsvOf c).waits = []) ∧
  (∃ (s : State) (c : Nat) (eyes spares : List LaneEye),
    s.pins.pwrgood = true ∧
    (s.sprOf c).st = .rescue ∧
    (s.trnOf c).action = .survey ∧
    (s.trnOf c).trigger = 5 ∧
    sweepRuns s c = true ∧
    s.mig.st = .idle ∧
    ((∀ l < 86, eyeGood l (findEye eyes l) = true)) ∧
    ((∀ i ∈ (s.tsvOf c).erasedA ++ (s.tsvOf c).erasedB, i < 36)) ∧
    (s.rank c 0).st = .inService ∧
    (s.trnOf c).checkDue = false ∧
    (s.tsvOf c).waits = []) ∧
  (∃ (s : State) (c l : Nat) (eyes spares : List LaneEye),
    s.pins.pwrgood = true ∧
    (s.sprOf c).st = .rescue ∧
    (s.trnOf c).action = .survey ∧
    (s.trnOf c).trigger = 5 ∧
    sweepRuns s c = true ∧
    72 ≤ l ∧
    l < 86 ∧
    eyeGood l (findEye eyes l) = false ∧
    spareGone s c l = true) :=
  by
  refine ⟨?_, ?_, ?_, ?_, ?_, ?_⟩
  · exact ⟨asked (up) true (addrOf (.trn (31)) 0) 0xC00000, p0, 31, by refine ⟨?_, ⟨?_, ?_, ?_, ?_, ?_⟩, ?_, ?_, ?_, ?_⟩ <;> first | rfl | decide⟩
  · exact ⟨asked ({ up with spr := [(31, { st := .fenced })] }) true (addrOf (.trn (31)) 0) 0xC00000, p0, 31, by refine ⟨?_, ⟨?_, ?_, ?_, ?_, ?_⟩, ?_⟩ <;> first | rfl | decide⟩
  · exact ⟨{ ch0 {} with trn := [(0, { wanted := some 3, tCh := some 1000 })] }, 0, 3, 1000, by refine ⟨?_, ?_, ?_, ?_, ?_⟩ <;> first | rfl | decide⟩
  · exact ⟨{ ch0 {} with trn := [(0, { action := .survey, trigger := 3 })] }, 0, eyes86, [], rfl, rfl, by decide, rfl, by decide, no_bad_lane _ _, rfl, rfl, rfl⟩
  · exact ⟨{ ch0 {} with trn := [(0, { action := .survey, trigger := 5 })], spr := [(0, { st := .rescue })] }, 0, eyes86, [], rfl, rfl, rfl, rfl, rfl, rfl, eyes_pass, by decide, rfl, rfl, rfl⟩
  · exact ⟨{ ch0 {} with tsv := [(0, { caUsed := true })], trn := [(0, { action := .survey, trigger := 5 })], spr := [(0, { st := .rescue })] }, 0, 72, [], [], by refine ⟨?_, ?_, ?_, ?_, ?_, ?_, ?_, ?_, ?_⟩ <;> first | rfl | decide⟩

theorem witness_BuiltInTests :
  (∃ (s : State) (via : Via) (c : Nat) (data : Word),
    c < 32 ∧
    Served s via true (.bst c) 0 data ∧
    data.getLsbD 23 = true ∧
    data.getLsbD 22 = false ∧
    (data.extractLsb' 19 3).toNat < 3 ∧
    rankPresent s.variant (data.extractLsb' 16 3).toNat = true ∧
    startReason s c (data.extractLsb' 19 3).toNat (data.extractLsb' 16 3).toNat (data.extractLsb' 10 3).toNat (data.extractLsb' 6 4).toNat (data.getLsbD 15) = 0) ∧
  (∃ (s : State) (via : Via) (c : Nat) (data : Word),
    c < 32 ∧
    Served s via true (.bst c) 0 data ∧
    data.getLsbD 23 = true ∧
    data.getLsbD 22 = false ∧
    3 < (data.extractLsb' 19 3).toNat ∧
    bstBusy s c = false ∧
    (s.bstOf c).st ≠ .wait) ∧
  (∃ (s : State) (c : Nat),
    s.pins.pwrgood = true ∧
    (s.bstOf c).st = .wait ∧
    s.flt.fatal = false ∧
    limitAllows s c = true ∧
    (s.bstOf c).kind = 2 ∧
    startReason (s.setBstOf c { s.bstOf c with st := .done }) c 2 (s.bstOf c).rank.toNat (s.bstOf c).unit.toNat (s.bstOf c).inst.toNat true = 0 ∧
    (s.chan c).current = 1 ∧
    (s.chan c).seq = .idle ∧
    (s.chan c).st ≠ .closed ∧
    chanFenced s c = false) ∧
  (∃ (s : State) (c : Nat),
    s.pins.pwrgood = true ∧
    (s.bstOf c).st = .run ∧
    s.pwr.hold = false ∧
    s.flt.fatal = false ∧
    (s.rfrOf c).inSlot = 0 ∧
    (s.bstOf c).kind = 2 ∧
    s.rst.phase = .ready ∧
    (s.bstOf c).backTo = (s.chan c).current ∧
    (s.chan c).seq = .idle ∧
    (s.chan c).latched = none ∧
    (s.trnOf c).checkDue = false ∧
    (s.tsvOf c).waits = []) ∧
  (∃ (s : State) (c k : Nat),
    s.pins.pwrgood = true ∧
    (s.bstOf c).st = .refill ∧
    s.pwr.hold = false ∧
    s.flt.fatal = false ∧
    (s.bstOf c).kind = 0 ∧
    (s.bstOf c).rank.toNat = k ∧
    k < 4 ∧
    s.rst.phase = .ready ∧
    (s.bstOf c).backTo = (s.chan c).current ∧
    (s.chan c).seq = .idle ∧
    (s.chan c).latched = none ∧
    (s.trnOf c).checkDue = false ∧
    (s.tsvOf c).waits = []) ∧
  (∃ (s : State) (via : Via) (c : Nat),
    c < 32 ∧
    Served s via true (.bst c) 0 0x400000 ∧
    (s.bstOf c).st = .wait ∧
    s.rst.phase = .ready) ∧
  (∃ (s : State) (via : Via) (c : Nat) (v : W48) (more : List W48),
    c < 32 ∧
    Served s via false (.bst c) 2 0 ∧
    s.sec.gate = false ∧
    (s.bstOf c).fifo = v :: more) :=
  by
  refine ⟨?_, ?_, ?_, ?_, ?_, ?_, ?_⟩
  · exact ⟨asked (bistUp) true (addrOf (.bst (0)) 0) (0x900000), p0, 0, 0x900000, by refine ⟨?_, ⟨?_, ?_, ?_, ?_, ?_⟩, ?_, ?_, ?_, ?_, ?_⟩ <;> first | rfl | decide⟩
  · exact ⟨asked (bistUp) true (addrOf (.bst (0)) 0) (0xA00000), p0, 0, 0xA00000, by refine ⟨?_, ⟨?_, ?_, ?_, ?_, ?_⟩, ?_, ?_, ?_, ?_, ?_⟩ <;> first | rfl | decide⟩
  · exact ⟨{ bst0 { st := .wait, kind := 2 } with chans := [(0, { st := .opened, current := 1 })] }, 0, by refine ⟨?_, ?_, ?_, ?_, ?_, ?_, ?_, ?_, ?_, ?_⟩ <;> first | rfl | decide⟩
  · exact ⟨bst0 { st := .run, kind := 2 }, 0, by refine ⟨?_, ?_, ?_, ?_, ?_, ?_, ?_, ?_, ?_, ?_, ?_, ?_⟩ <;> first | rfl | decide⟩
  · exact ⟨bst0 { st := .refill, kind := 0, rank := 3 }, 0, 3, by refine ⟨?_, ?_, ?_, ?_, ?_, ?_, ?_, ?_, ?_, ?_, ?_, ?_, ?_⟩ <;> first | rfl | decide⟩
  · exact ⟨asked (bst0 { st := .wait }) true (addrOf (.bst (0)) 0) 0x400000, p0, 0, by refine ⟨?_, ⟨?_, ?_, ?_, ?_, ?_⟩, ?_, ?_⟩ <;> first | rfl | decide⟩
  · exact ⟨asked (bst0 { st := .done, fifo := [1, 2] }) false (addrOf (.bst (0)) 2) 0, p0, 0, 1, [2], by refine ⟨?_, ⟨?_, ?_, ?_, ?_, ?_⟩, ?_, ?_⟩ <;> first | rfl | decide⟩

theorem witness_DomainsParkAndWake :
  (∃ (s : State) (via : Via) (d : Nat) (data : Word),
    (d = 50 ∨ (41 ≤ d ∧ d ≤ 44 ∧ running s (d - 41) = none)) ∧
    Served s via true (.dom d) 0 data ∧
    data.getLsbD 23 = false ∧
    (s.dom d).st = .on ∧
    parkAllowed s d = true) ∧
  (∃ (s : State) (via : Via) (d : Nat) (data : Word),
    0 < d ∧
    d < 72 ∧
    Served s via true (.dom d) 0 data ∧
    data.getLsbD 23 = false ∧
    (s.dom d).st = .on ∧
    parkAllowed s d = false) ∧
  (∃ (s : State) (via : Via) (d : Nat) (data : Word),
    0 < d ∧
    d < 72 ∧
    Served s via true (.dom d) 0 data ∧
    data.getLsbD 23 = true ∧
    (s.dom d).st = .off ∧
    overFloor s d = false) ∧
  (∃ (s : State) (via : Via) (d : Nat) (data : Word),
    0 < d ∧
    d < 72 ∧
    Served s via true (.dom d) 0 data ∧
    data.getLsbD 23 = true ∧
    (s.dom d).st = .off ∧
    overFloor s d = true) ∧
  (∃ (s : State) (d : Nat),
    s.pins.pwrgood = true ∧
    52 ≤ d ∧
    d < 72 ∧
    (s.dom d).st = .parking ∧
    (s.dom d).heldOff = false) ∧
  (∃ (s : State) (d : Nat),
    s.pins.pwrgood = true ∧
    (s.dom d).st = .parking ∧
    (d = 50 ∨ (1 ≤ d ∧ d ≤ 8))) ∧
  (∃ (s : State) (d : Nat),
    s.pins.pwrgood = true ∧
    (s.dom d).st = .cycling ∧
    (s.dom d).waiting = true) ∧
  (∃ (s : State) (d : Nat),
    s.pins.pwrgood = true ∧
    (readyWakes s).head? = some d) ∧
  (∃ (s : State) (d : Nat),
    s.pins.pwrgood = true ∧
    (s.dom d).st = .waking ∧
    (s.dom d).queued = false ∧
    s.heldAcc = [] ∧
    40 < d ∧
    d < 52) ∧
  (∃ (s : State) (n : Nat),
    s.pins.pwrgood = true ∧
    n < 8 ∧
    (s.dom (n + 1)).st = .waking ∧
    (s.dom (n + 1)).queued = false ∧
    s.heldAcc = [] ∧
    (s.port n).st = .off) ∧
  (∃ (s : State) (d : Nat),
    s.pins.pwrgood = true ∧
    ((s.dom d).st = .parking ∨ ((s.dom d).st = .waking ∧ (s.dom d).queued = false))) :=
  by
  refine ⟨?_, ?_, ?_, ?_, ?_, ?_, ?_, ?_, ?_, ?_, ?_⟩
  · exact ⟨asked (up) true (addrOf (.dom (50)) 0) (0), p0, 50, 0, Or.inl rfl, by unfold Served; decide, by decide, by decide, by decide⟩
  · exact ⟨asked (up) true (addrOf (.dom (9)) 0) (0), p0, 9, 0, by refine ⟨?_, ?_, ⟨?_, ?_, ?_, ?_, ?_⟩, ?_, ?_, ?_⟩ <;> first | rfl | decide⟩
  · exact ⟨asked (dom0 50 {}) true (addrOf (.dom (50)) 0) (0x800000), p0, 50, 0x800000, by refine ⟨?_, ?_, ⟨?_, ?_, ?_, ?_, ?_⟩, ?_, ?_, ?_⟩ <;> first | rfl | decide⟩
  · exact ⟨asked ({ dom0 50 {} with pwr := { floor := 8 }, tables := { limit := 8 } }) true (addrOf (.dom (50)) 0) (0x800000), p0, 50, 0x800000, by refine ⟨?_, ?_, ⟨?_, ?_, ?_, ?_, ?_⟩, ?_, ?_, ?_⟩ <;> first | rfl | decide⟩
  · exact ⟨dom0 52 { st := .parking }, 52, by refine ⟨?_, ?_, ?_, ?_, ?_⟩ <;> first | rfl | decide⟩
  · exact ⟨dom0 8 { st := .parking }, 8, by refine ⟨?_, ?_, ?_⟩ <;> first | rfl | decide⟩
  · exact ⟨dom0 8 { st := .cycling, waiting := true }, 8, by refine ⟨?_, ?_, ?_⟩ <;> first | rfl | decide⟩
  · exact ⟨dom0 50 { st := .waking, queued := true }, 50, by refine ⟨?_, ?_⟩ <;> first | rfl | decide⟩
  · exact ⟨dom0 51 { st := .waking }, 51, by refine ⟨?_, ?_, ?_, ?_, ?_, ?_⟩ <;> first | rfl | decide⟩
  · exact ⟨dom0 8 { st := .waking }, 7, by refine ⟨?_, ?_, ?_, ?_, ?_, ?_⟩ <;> first | rfl | decide⟩
  · exact ⟨dom0 8 { st := .waking }, 8, by refine ⟨?_, ?_⟩ <;> first | rfl | decide⟩

theorem witness_HousekeepingRounds :
  (∃ (s : State) (code : Word) (value : Int),
    s.pins.pwrgood = true ∧
    s.hkp.slot.toNat < 96 ∧
    convPresent s s.hkp.slot.toNat = true ∧
    convKept s s.hkp.slot.toNat = false ∧
    s.hkp.slot ≠ 90) ∧
  (∃ (s : State) (code : Word) (value : Int),
    s.pins.pwrgood = true ∧
    s.hkp.slot = 90) ∧
  (∃ (s : State),
    s.pins.pwrgood = true ∧
    s.hkp.slot = 96) ∧
  (∃ (s : State) (via : Via) (data : Word),
    Served s via true .pwr 0 data ∧
    8 ≤ (data.extractLsb' 19 5).toNat ∧
    (data.extractLsb' 19 5).toNat ≤ s.tables.limit.toNat) ∧
  (∃ (s : State) (via : Via) (data : Word),
    Served s via true .pwr 0 data ∧
    ((data.extractLsb' 19 5).toNat < 8 ∨ s.tables.limit.toNat < (data.extractLsb' 19 5).toNat)) :=
  by
  refine ⟨?_, ?_, ?_, ?_, ?_⟩
  · exact ⟨{ up with hkp := { slot := 95 } }, 0, 0, by refine ⟨?_, ?_, ?_, ?_, ?_⟩ <;> first | rfl | decide⟩
  · exact ⟨{ up with hkp := { slot := 90 } }, 0, 0, by refine ⟨?_, ?_⟩ <;> first | rfl | decide⟩
  · exact ⟨{ up with hkp := { slot := 96 } }, by refine ⟨?_, ?_⟩ <;> first | rfl | decide⟩
  · exact ⟨asked (up) true (addrOf .pwr 0) (0x400000), p0, 0x400000, by refine ⟨⟨?_, ?_, ?_, ?_, ?_⟩, ?_, ?_⟩ <;> first | rfl | decide⟩
  · exact ⟨asked (up) true (addrOf .pwr 0) (0x380000), p0, 0x380000, by refine ⟨⟨?_, ?_, ?_, ?_, ?_⟩, ?_⟩ <;> first | rfl | decide⟩

theorem witness_SupplyHoldAndGale :
  (∃ (s : State) (dram core : Bool),
    s.pins.pwrgood = true ∧
    (dram || core) = true ∧
    s.pwr.hold = false ∧
    s.bst = []) ∧
  (∃ (s : State) (us : Nat),
    s.pins.pwrgood = true ∧
    s.pwr.hold = true) ∧
  (∃ (s : State),
    s.pins.pwrgood = true ∧
    s.pwr.hold = true ∧
    s.pwr.lost = false) ∧
  (∃ (s : State),
    s.pins.pwrgood = true ∧
    s.flt.gale = true ∧
    s.pwr.galeWb = false ∧
    (s.pwr.hold = false ∨ s.pwr.lost = true)) ∧
  (∃ (s : State),
    s.pins.pwrgood = true ∧
    s.flt.gale = true ∧
    s.pwr.galeWb = true ∧
    s.pwr.galeDone = false) :=
  by
  refine ⟨?_, ?_, ?_, ?_, ?_⟩
  · exact ⟨up, true, false, by refine ⟨?_, ?_, ?_, ?_⟩ <;> first | rfl | decide⟩
  · exact ⟨{ up with pwr := { hold := true } }, 5, by refine ⟨?_, ?_⟩ <;> first | rfl | decide⟩
  · exact ⟨{ up with pwr := { hold := true } }, by refine ⟨?_, ?_, ?_⟩ <;> first | rfl | decide⟩
  · exact ⟨flt0 { gale := true }, by refine ⟨?_, ?_, ?_, ?_⟩ <;> first | rfl | decide⟩
  · exact ⟨{ flt0 { gale := true } with pwr := { galeWb := true } }, by refine ⟨?_, ?_, ?_, ?_⟩ <;> first | rfl | decide⟩

theorem witness_FaultEvents :
  (∃ (s : State) (e : FaultEv) (x : Source),
    s.pins.pwrgood = true ∧
    s.flt.detected = [] ∧
    sourceOf e.src = some x ∧
    sourcePresent s.variant e.src = true ∧
    instPresent s.variant x.scope e.inst = true ∧
    gated s { src := e.src, inst := e.inst, detail := e.detail } = false ∧
    maskOf s e.src e.inst = none ∧
    e.src ≠ 0x3B ∧
    levelOf s e.src e.inst = 0 ∧
    cfgNote (cfgWord s e.src) = false ∧
    (srcInst s e.src e.inst).count = 0 ∧
    cfgN (cfgWord s e.src) ≠ 1) ∧
  (∃ (s : State) (e : FaultEv) (x : Source),
    s.pins.pwrgood = true ∧
    s.flt.detected = [] ∧
    sourceOf e.src = some x ∧
    sourcePresent s.variant e.src = true ∧
    instPresent s.variant x.scope e.inst = true ∧
    gated s { src := e.src, inst := e.inst, detail := e.detail } = false ∧
    maskOf s e.src e.inst = none ∧
    0x27 ≤ e.src ∧
    e.src < 0x3B ∧
    levelOf s e.src e.inst = 0 ∧
    0 < x.cap ∧
    (srcInst s e.src e.inst).count ≠ 0 ∧
    s.elapsed < (srcInst s e.src e.inst).start + cfgWindow (cfgWord s e.src) ∧
    cfgN (cfgWord s e.src) = (srcInst s e.src e.inst).count + 1 ∧
    s.flt.valid = true ∧
    s.flt.queue.length < 64) ∧
  (∃ (s : State) (e : FaultEv) (x : Source),
    s.pins.pwrgood = true ∧
    s.flt.detected = [] ∧
    sourceOf e.src = some x ∧
    sourcePresent s.variant e.src = true ∧
    instPresent s.variant x.scope e.inst = true ∧
    gated s { src := e.src, inst := e.inst, detail := e.detail } = false ∧
    maskOf s e.src e.inst = none ∧
    e.src ≠ 0x3B ∧
    e.src ≠ 0x3F ∧
    levelOf s e.src e.inst = 1 ∧
    cfgN (cfgWord s e.src) = 0 ∧
    s.flt.valid = false ∧
    s.flt.pagesUsed < 16 ∧
    s.flt.queue.length < 64) ∧
  (∃ (s : State) (u : Nat) (detail : Word),
    s.pins.pwrgood = true ∧
    s.flt.detected = [] ∧
    chkPresent s.variant u = true ∧
    gated s { src := 0x3F, inst := u, detail := detail } = false ∧
    maskOf s 0x3F u = none ∧
    levelOf s 0x3F u = 1 ∧
    cfgN (cfgWord s 0x3F) = 0 ∧
    s.flt.queue.length < 64 ∧
    (s.chk u).busy = false) ∧
  (∃ (s : State) (e : FaultEv) (x : Source) (m : Mask),
    s.pins.pwrgood = true ∧
    s.flt.detected = [] ∧
    sourceOf e.src = some x ∧
    sourcePresent s.variant e.src = true ∧
    instPresent s.variant x.scope e.inst = true ∧
    gated s { src := e.src, inst := e.inst, detail := e.detail } = false ∧
    maskOf s e.src e.inst = some m ∧
    s.flt.queue.length < 64) ∧
  (∃ (s : State) (e : FaultEv) (x : Source),
    s.pins.pwrgood = true ∧
    s.flt.detected = [] ∧
    sourceOf e.src = some x ∧
    sourcePresent s.variant e.src = true ∧
    instPresent s.variant x.scope e.inst = true ∧
    gated s { src := e.src, inst := e.inst, detail := e.detail } = false ∧
    maskOf s e.src e.inst = none ∧
    ((e.src = 0x22 ∨ (0x27 ≤ e.src ∧ e.src < 0x3B) ∨ e.src = 0x3C ∨ 0x40 ≤ e.src)) ∧
    levelOf s e.src e.inst = 3 ∧
    s.flt.fatal = false) ∧
  (∃ (s : State) (src inst : Nat),
    s.pins.pwrgood = true) ∧
  (∃ (s : State) (e : RingEntry) (more : List RingEntry),
    s.pins.pwrgood = true ∧
    s.flt.queue = e :: more ∧
    s.log.waitMap = [] ∧
    s.log.waitSet = [] ∧
    e.size ≤ s.log.credits ∧
    ((∀ b, s.flt.lastWrite = some b → b + 8 ≤ s.elapsed)) ∧
    e.page = [] ∧
    s.flt.head < 4096) :=
  by
  refine ⟨?_, ?_, ?_, ?_, ?_, ?_, ?_, ?_⟩
  · exact ⟨up, ⟨0x0C, 31, 0⟩, (sourceOf 0x0C).getD src0, by refine ⟨?_, ?_, ?_, ?_, ?_, ?_, ?_, ?_, ?_, ?_, ?_, ?_⟩ <;> first | rfl | decide⟩
  · exact ⟨flt0 { valid := true, insts := [(instKey 0x2A 0, { count := cfgN (cfgWord up 0x2A) - 1 })] }, ⟨0x2A, 0, 0⟩, (sourceOf 0x2A).getD src0, by refine ⟨?_, ?_, ?_, ?_, ?_, ?_, ?_, ?_, ?_, ?_, ?_, ?_, ?_, ?_, ?_, ?_⟩ <;> first | rfl | decide⟩
  · exact ⟨up, ⟨0x13, 0, 0⟩, (sourceOf 0x13).getD src0, by refine ⟨?_, ?_, ?_, ?_, ?_, ?_, ?_, ?_, ?_, ?_, ?_, ?_, ?_, ?_⟩ <;> first | rfl | decide⟩
  · exact ⟨up, 15, 0, by refine ⟨?_, ?_, ?_, ?_, ?_, ?_, ?_, ?_, ?_⟩ <;> first | rfl | decide⟩
  · exact ⟨flt0 { masks := [{ what := .channel 31, cause := 1, inst := 0, until_ := 10, units := [], flow := none }] }, ⟨0x0C, 31, 0⟩, (sourceOf 0x0C).getD src0, { what := .channel 31, cause := 1, inst := 0, until_ := 10, units := [], flow := none }, by refine ⟨?_, ?_, ?_, ?_, ?_, ?_, ?_, ?_⟩ <;> first | rfl | decide⟩
  · exact ⟨up, ⟨0x28, 0, 0⟩, (sourceOf 0x28).getD src0, by refine ⟨?_, ?_, ?_, ?_, ?_, ?_, ?_, ?_, ?_, ?_⟩ <;> first | rfl | decide⟩
  · exact ⟨up, 0x0C, 31, by first | rfl | decide⟩
  · exact ⟨flt0 { queue := [{ source := 1, severity := 1, esc := false, conseq := false, first := false, inst := 0, cause := 0, stamp := 0, detail := 0, page := [] }] }, { source := 1, severity := 1, esc := false, conseq := false, first := false, inst := 0, cause := 0, stamp := 0, detail := 0, page := [] }, [], by refine ⟨?_, ?_, ?_, ?_, ?_, ?_, ?_, ?_⟩ <;> first | rfl | decide⟩

theorem witness_FirstFault :
  (∃ (s : State) (j : Judged),
    s.flt.valid = false ∧
    reportable s j = true ∧
    j.cause = none) ∧
  (∃ (s : State) (j : Judged),
    s.flt.valid = false ∧
    (j.cause ≠ none ∨ reportable s j = false)) ∧
  (∃ (s : State) (j : Judged),
    s.flt.valid = true ∧
    reportable s j = true) ∧
  (∃ (s : State) (via : Via),
    Served s via true .flt 3 0 ∧
    tfind (s.path via.port).held ((addrOf .flt 3).toNat - 1) = some 0) :=
  by
  refine ⟨?_, ?_, ?_, ?_⟩
  · exact ⟨up, { src := 1, inst := 0, detail := 0, sev := 1, esc := false, cause := none, rescue := false }, by refine ⟨?_, ?_, ?_⟩ <;> first | rfl | decide⟩
  · exact ⟨up, { src := 1, inst := 0, detail := 0, sev := 0, esc := false, cause := none, rescue := false }, by refine ⟨?_, ?_⟩ <;> first | rfl | decide⟩
  · exact ⟨flt0 { valid := true }, { src := 1, inst := 0, detail := 0, sev := 1, esc := false, cause := none, rescue := false }, by refine ⟨?_, ?_⟩ <;> first | rfl | decide⟩
  · exact ⟨asked (paths0 { held := [((addrOf .flt 3).toNat - 1, 0)] }) true (addrOf .flt 3) 0, p0, by refine ⟨⟨?_, ?_, ?_, ?_, ?_⟩, ?_⟩ <;> first | rfl | decide⟩

theorem witness_CountersAndDumps :
  (∃ (s : State) (via : Via) (n : Nat) (data : Word),
    n < 256 ∧
    Served s via true (.cnt n) 0 data ∧
    selectStatus s.variant data = .ok ∧
    data.extractLsb' 12 12 ≠ (counterOf s n).event) ∧
  (∃ (s : State) (via : Via) (n : Nat) (data : Word),
    n < 256 ∧
    Served s via true (.cnt n) 0 data ∧
    data.extractLsb' 12 12 ≠ 0xFFF ∧
    eventRunOf (data.extractLsb' 12 12).toNat = none) ∧
  (∃ (s : State),
    s.pins.pwrgood = true ∧
    s.tables.dumpEn = true ∧
    s.img.inForce = true ∧
    s.tel.stopped = false ∧
    s.flt.fatal = false ∧
    dumpSlots s.tables ≠ 0 ∧
    s.mer.count.toNat % s.tables.dumpPer.toNat = 0 ∧
    s.tel.lastDump ≠ some s.elapsed ∧
    s.tel.pause = false ∧
    s.tel.busy = false ∧
    slotHoled s s.tel.head.toNat = false) ∧
  (∃ (s : State),
    s.pins.pwrgood = true ∧
    s.tables.dumpEn = true ∧
    s.img.inForce = true ∧
    s.tel.stopped = false ∧
    s.flt.fatal = false ∧
    dumpSlots s.tables ≠ 0 ∧
    s.mer.count.toNat % s.tables.dumpPer.toNat = 0 ∧
    s.tel.lastDump ≠ some s.elapsed ∧
    s.tel.pause = true) ∧
  (∃ (s : State),
    s.pins.pwrgood = true ∧
    s.tel.busy = true ∧
    s.pwr.hold = false ∧
    s.flt.fatal = false) :=
  by
  refine ⟨?_, ?_, ?_, ?_, ?_⟩
  · exact ⟨asked (up) true (addrOf (.cnt (255)) 0) (0x200000), p0, 255, 0x200000, by refine ⟨?_, ⟨?_, ?_, ?_, ?_, ?_⟩, ?_, ?_⟩ <;> first | rfl | decide⟩
  · exact ⟨asked (up) true (addrOf (.cnt (255)) 0) (0xABC000), p0, 255, 0xABC000, by refine ⟨?_, ⟨?_, ?_, ?_, ?_, ?_⟩, ?_, ?_⟩ <;> first | rfl | decide⟩
  · exact ⟨dump0 {}, by refine ⟨?_, ?_, ?_, ?_, ?_, ?_, ?_, ?_, ?_, ?_, ?_⟩ <;> first | rfl | decide⟩
  · exact ⟨dump0 { pause := true }, by refine ⟨?_, ?_, ?_, ?_, ?_, ?_, ?_, ?_, ?_⟩ <;> first | rfl | decide⟩
  · exact ⟨dump0 { busy := true }, by refine ⟨?_, ?_, ?_, ?_⟩ <;> first | rfl | decide⟩

theorem witness_Logbook :
  (∃ (s : State) (r : LogRec) (stamp : W48) (ws : List Word) (lo hi at_ : Nat),
    s.pins.pwrgood = true ∧
    nextRecordOf s = some (r, stamp) ∧
    ws = recordWordsOf r stamp (takeFree s).1 ∧
    ws.length ≤ s.log.credits ∧
    r.region s.log = (lo, hi, at_)) ∧
  (∃ (s : State),
    s.pins.pwrgood = true ∧
    2 ^ 20 ≤ s.log.sinceGap) ∧
  (∃ (s : State),
    s.pins.pwrgood = true ∧
    s.log.busy = true) ∧
  (∃ (s : State) (via : Via),
    Served s via false .log 7 0 ∧
    s.sec.gate = false ∧
    (s.path via.port).logAddr.toNat < 174080) ∧
  (∃ (s : State) (via : Via),
    Served s via true .log 0 0x800000) ∧
  (∃ (s : State) (via : Via),
    Served s via true .log 0 0x400000) ∧
  (∃ (s : State) (via : Via),
    Served s via true .log 0 0x200000) ∧
  (∃ (s : State) (via : Via),
    Served s via true .log 0 0x100000) ∧
  (∃ (s : State) (via : Via),
    Served s via true .log 0 0x080000) :=
  by
  refine ⟨?_, ?_, ?_, ?_, ?_, ?_, ?_, ?_, ?_⟩
  · exact ⟨{ up with log := { waitMap := [(.clear, 7)] } }, .clear, 7, recordWordsOf .clear 7 (takeFree ({ up with log := { waitMap := [(.clear, 7)] } })).1, 24576, 26624, 24576, rfl, rfl, rfl, record_fits _ _ _, rfl⟩
  · exact ⟨{ up with log := { sinceGap := 2 ^ 20 } }, by refine ⟨?_, ?_⟩ <;> first | rfl | decide⟩
  · exact ⟨{ up with log := { busy := true } }, by refine ⟨?_, ?_⟩ <;> first | rfl | decide⟩
  · exact ⟨asked (paths0 { logAddr := 174079 }) false (addrOf .log 7) 0, p0, by refine ⟨⟨?_, ?_, ?_, ?_, ?_⟩, ?_, ?_⟩ <;> first | rfl | decide⟩
  · exact ⟨asked (paths0 { session := some 0 }) true (addrOf .log 0) 0x800000, p0, by unfold Served; first | rfl | decide⟩
  · exact ⟨asked (paths0 { session := some 0 }) true (addrOf .log 0) 0x400000, p0, by unfold Served; first | rfl | decide⟩
  · exact ⟨asked (paths0 { session := some 0 }) true (addrOf .log 0) 0x200000, p0, by unfold Served; first | rfl | decide⟩
  · exact ⟨asked (paths0 { session := some 0 }) true (addrOf .log 0) 0x100000, p0, by unfold Served; first | rfl | decide⟩
  · exact ⟨asked (paths0 { session := some 0 }) true (addrOf .log 0) 0x080000, p0, by unfold Served; first | rfl | decide⟩

theorem witness_SessionsAndSlots :
  (∃ (s : State) (via : Via),
    Served s via false .sec 3 0 ∧
    s.sec.gate = false) ∧
  (∃ (s : State) (via : Via) (off : Nat) (data : Word),
    0x10 ≤ off ∧
    off < 0x50 ∧
    Served s via true .sec off data) ∧
  (∃ (s : State) (via : Via) (data : Word),
    Served s via true .sec 2 data ∧
    data.getLsbD 23 = true ∧
    data.getLsbD 22 = false) ∧
  (∃ (s : State) (via : Via) (data : Word),
    Served s via true .sec 2 data ∧
    data.getLsbD 23 = false ∧
    data.getLsbD 22 = true ∧
    (s.path via.port).session.isSome = true) ∧
  (∃ (s : State) (via : Via) (i : Nat) (data : Word),
    i < 24 ∧
    Served s via true .cip (0x10 + i) data) ∧
  (∃ (s : State) (via : Via) (data : Word) (i : Nat),
    Served s via true .cip 0 data ∧
    data.getLsbD 23 = true ∧
    data.getLsbD 22 = false ∧
    i = (data.extractLsb' 10 12).toNat ∧
    s.cip.fenced = false ∧
    s.cip.cmd = none) ∧
  (∃ (s : State) (via : Via) (data : Word) (i : Nat),
    Served s via true .cip 0 data ∧
    data.getLsbD 23 = false ∧
    data.getLsbD 22 = true ∧
    i = (data.extractLsb' 10 12).toNat ∧
    s.cip.cmd = none) ∧
  (∃ (s : State) (i : Nat) (ld : Option (BitVec 512 × Nat)),
    s.pins.pwrgood = true ∧
    s.cip.cmd = some { slot := i, load := ld }) :=
  by
  refine ⟨?_, ?_, ?_, ?_, ?_, ?_, ?_, ?_⟩
  · exact ⟨asked (up) false (addrOf .sec 3) 0, p0, by refine ⟨⟨?_, ?_, ?_, ?_, ?_⟩, ?_⟩ <;> first | rfl | decide⟩
  · exact ⟨asked (up) true (addrOf .sec (0x4F)) (0), p0, 0x4F, 0, by refine ⟨?_, ?_, ⟨?_, ?_, ?_, ?_, ?_⟩⟩ <;> first | rfl | decide⟩
  · exact ⟨asked (up) true (addrOf .sec 2) (0x800000), p0, 0x800000, by refine ⟨⟨?_, ?_, ?_, ?_, ?_⟩, ?_, ?_⟩ <;> first | rfl | decide⟩
  · exact ⟨asked (paths0 { session := some 0 }) true (addrOf .sec 2) (0x400000), p0, 0x400000, by refine ⟨⟨?_, ?_, ?_, ?_, ?_⟩, ?_, ?_, ?_⟩ <;> first | rfl | decide⟩
  · exact ⟨asked (paths0 { session := some 0 }) true (addrOf .cip (0x10 + (23))) (0), p0, 23, 0, by refine ⟨?_, ⟨?_, ?_, ?_, ?_, ?_⟩⟩ <;> first | rfl | decide⟩
  · exact ⟨asked (paths0 { session := some 0 }) true (addrOf .cip 0) (0x800000), p0, 0x800000, 0, by refine ⟨⟨?_, ?_, ?_, ?_, ?_⟩, ?_, ?_, ?_, ?_, ?_⟩ <;> first | rfl | decide⟩
  · exact ⟨asked (paths0 { session := some 0 }) true (addrOf .cip 0) (0x400000), p0, 0x400000, 0, by refine ⟨⟨?_, ?_, ?_, ?_, ?_⟩, ?_, ?_, ?_, ?_⟩ <;> first | rfl | decide⟩
  · exact ⟨{ up with cip := { cmd := some { slot := 7, load := none } } }, 7, none, by refine ⟨?_, ?_⟩ <;> first | rfl | decide⟩

theorem witness_ZeroisationAndLifeCycle :
  (∃ (s : State) (via : Via) (data : Word),
    Served s via true .sec 1 data ∧
    data.getLsbD 23 = true ∧
    data.getLsbD 22 = false) ∧
  (∃ (s : State) (kind : TestKind),
    s.pins.pwrgood = true ∧
    (kind = .cipherBist ∨ s.sec.lc = 0) ∧
    s.sec.gate = false) ∧
  (∃ (s : State),
    s.pins.pwrgood = true ∧
    s.sec.zst = .clearing ∧
    encBusy s = false ∧
    s.sec.zKeep = false) ∧
  (∃ (s : State),
    s.pins.pwrgood = true ∧
    s.sec.zst = .clearing ∧
    encBusy s = false) ∧
  (∃ (s : State),
    s.pins.pwrgood = true ∧
    s.sec.gate = true ∧
    s.sec.gateKind ≠ 1) ∧
  (∃ (s : State),
    s.pins.pwrgood = true ∧
    s.fus.loaded = true ∧
    s.sec.keyDue = true ∧
    s.sec.gate = false ∧
    s.sec.zst ≠ .clearing ∧
    bankBad s.fus 2 = false) ∧
  (∃ (s : State) (via : Via) (data : Word) (target : BitVec 2),
    Served s via true .sec 1 data ∧
    data.getLsbD 23 = false ∧
    data.getLsbD 22 = true ∧
    target = data.extractLsb' 20 2 ∧
    s.sec.lc < target ∧
    s.flt.fatal = false ∧
    s.fus.op = none ∧
    s.fus.queue = [] ∧
    lcWords s.fus < target.toNat ∧
    s.fus.lcGoal ≤ target) :=
  by
  refine ⟨?_, ?_, ?_, ?_, ?_, ?_, ?_⟩
  · exact ⟨asked (up) true (addrOf .sec 1) (0x800000), p0, 0x800000, by refine ⟨⟨?_, ?_, ?_, ?_, ?_⟩, ?_, ?_⟩ <;> first | rfl | decide⟩
  · exact ⟨up, .internalScan, by refine ⟨?_, ?_, ?_⟩ <;> first | rfl | decide⟩
  · exact ⟨{ up with sec := { zst := .clearing } }, by refine ⟨?_, ?_, ?_, ?_⟩ <;> first | rfl | decide⟩
  · exact ⟨{ up with sec := { zst := .clearing, zKeep := true } }, by refine ⟨?_, ?_, ?_⟩ <;> first | rfl | decide⟩
  · exact ⟨{ up with sec := { gate := true } }, by refine ⟨?_, ?_, ?_⟩ <;> first | rfl | decide⟩
  · exact ⟨fus0 { loaded := true }, by refine ⟨?_, ?_, ?_, ?_, ?_, ?_⟩ <;> first | rfl | decide⟩
  · exact ⟨asked (up) true (addrOf .sec 1) (0x500000), p0, 0x500000, 1, by refine ⟨⟨?_, ?_, ?_, ?_, ?_⟩, ?_, ?_, ?_, ?_, ?_, ?_, ?_, ?_, ?_⟩ <;> first | rfl | decide⟩

theorem witness_FuseCommands :
  (∃ (s : State) (via : Via) (data : Word) (b w : Nat),
    Served s via true .fus 0 data ∧
    (data.extractLsb' 21 3).toNat = 1 ∧
    b = (data.extractLsb' 18 3).toNat ∧
    w = (data.extractLsb' 4 14).toNat ∧
    w < bankWords b ∧
    ((b ≠ 2 ∨ 10 < w)) ∧
    (fuseSense b (fuseAt s.fus b w)).1 ≠ 1) ∧
  (∃ (s : State) (via : Via) (data : Word),
    Served s via true .fus 0 data ∧
    (data.extractLsb' 21 3).toNat = 1 ∧
    (data.extractLsb' 18 3).toNat = 2 ∧
    (data.extractLsb' 4 14).toNat ≤ 10) ∧
  (∃ (s : State) (via : Via) (data : Word) (b w : Nat) (goal : BitVec 30),
    Served s via true .fus 0 data ∧
    (data.extractLsb' 21 3).toNat = 2 ∧
    b = (data.extractLsb' 18 3).toNat ∧
    w = (data.extractLsb' 4 14).toNat ∧
    ((s.sec.lc = 0 ∨ (s.path via.port).session.isSome = true)) ∧
    s.fus.op = none ∧
    w < bankWords b ∧
    programPermit s b w false = 0 ∧
    goal = fuseCode b s.fus.wdata ∧
    programmable s.fus b w goal = true ∧
    bitsToSet (fuseAt s.fus b w).lo goal ≠ []) ∧
  (∃ (s : State) (via : Via) (data : Word) (b : Nat) (goal : BitVec 30),
    Served s via true .fus 0 data ∧
    (data.extractLsb' 21 3).toNat = 3 ∧
    b = (data.extractLsb' 18 3).toNat ∧
    b ≤ 4 ∧
    b ≠ 3 ∧
    ((s.sec.lc = 0 ∨ (s.path via.port).session.isSome = true)) ∧
    s.fus.op = none ∧
    programPermit s b (sealWord b) false = 0 ∧
    goal = fuseCode b (sealCrc s.fus b) ∧
    programmable s.fus b (sealWord b) goal = true ∧
    bitsToSet (fuseAt s.fus b (sealWord b)).lo goal ≠ []) ∧
  (∃ (s : State) (via : Via) (data : Word) (b : Nat),
    Served s via true .fus 0 data ∧
    (data.extractLsb' 21 3).toNat = 4 ∧
    b = (data.extractLsb' 18 3).toNat ∧
    b ≤ 4 ∧
    b ≠ 3 ∧
    s.sec.lc = 0 ∧
    s.fus.op = none ∧
    sealHolds s.fus b = true ∧
    programmable s.fus 3 (lockWord b) (secdedWord 0xFFFFFF) = true ∧
    bitsToSet (fuseAt s.fus 3 (lockWord b)).lo (secdedWord 0xFFFFFF) ≠ []) ∧
  (∃ (s : State) (via : Via) (data : Word) (ws : List (BitVec 30)),
    Served s via true .fus 0 data ∧
    (data.extractLsb' 21 3).toNat = 5 ∧
    s.sec.lc = 0 ∧
    s.fus.op = none ∧
    programPermit s 2 0 false = 0 ∧
    ((∀ w, w < 11 → fuseProgrammed (fuseAt s.fus 2 w) = false)) ∧
    ws = (secretWords (Config.secret s.freeIdx)).map secdedWord ∧
    programmable s.fus 2 0 (ws.headD 0) = true) :=
  by
  refine ⟨?_, ?_, ?_, ?_, ?_, ?_⟩
  · exact ⟨asked (up) true (addrOf .fus 0) (0x2000B0), p0, 0x2000B0, 0, 11, by refine ⟨⟨?_, ?_, ?_, ?_, ?_⟩, ?_, ?_, ?_, ?_, ?_, ?_⟩ <;> first | rfl | decide⟩
  · exact ⟨asked (up) true (addrOf .fus 0) (0x2800A0), p0, 0x2800A0, by refine ⟨⟨?_, ?_, ?_, ?_, ?_⟩, ?_, ?_, ?_⟩ <;> first | rfl | decide⟩
  · exact ⟨asked (fus0 { wdata := 5 }) true (addrOf .fus 0) (0x500000), p0, 0x500000, 4, 0, fuseCode 4 5, by refine ⟨⟨?_, ?_, ?_, ?_, ?_⟩, ?_, ?_, ?_, ?_, ?_, ?_, ?_, ?_, ?_, ?_⟩ <;> first | rfl | decide⟩
  · exact ⟨asked (up) true (addrOf .fus 0) (0x680000), p0, 0x680000, 2, fuseCode 2 (sealCrc up.fus 2), by unfold Served; decide, rfl, rfl, by decide, by decide, Or.inl rfl, rfl, rfl, rfl, up_seal_takes, up_seal_sets⟩
  · exact ⟨asked (fus0 seal2) true (addrOf .fus 0) (0x880000), p0, 0x880000, 2, by unfold Served; decide, rfl, rfl, by decide, by decide, rfl, rfl, seal2_holds, blank_takes 3 5 _ (by decide),
    word_sets 0xFFFFFF 23 (by decide) (by decide)⟩
  · exact ⟨asked (up) true (addrOf .fus 0) (0xA00000), p0, 0xA00000, (secretWords (Config.secret 1)).map secdedWord, by unfold Served; decide, rfl, rfl, rfl, rfl, by decide, rfl, blank_takes 2 0 _ (by decide)⟩

theorem witness_FusePulses :
  (∃ (s : State) (o : FuseOp) (i j : Nat) (more : List Nat),
    s.pins.pwrgood = true ∧
    s.fus.op = some o ∧
    o.live = true ∧
    o.stopping = false ∧
    o.bits = i :: j :: more) ∧
  (∃ (s : State) (o : FuseOp) (i : Nat),
    s.pins.pwrgood = true ∧
    s.fus.op = some o ∧
    o.live = true ∧
    o.stopping = false ∧
    o.bits = [i] ∧
    o.rest = [] ∧
    o.job = .cmd ∧
    s.fus.queue = []) ∧
  (∃ (s : State) (o : FuseOp) (i : Nat) (more : List Nat) (hi lo : Bool),
    s.pins.pwrgood = true ∧
    s.fus.op = some o ∧
    o.live = true ∧
    o.bits = i :: more ∧
    (hi && lo) = false ∧
    o.tries < 3) ∧
  (∃ (s : State) (o : FuseOp) (i : Nat) (more : List Nat) (hi lo : Bool),
    s.pins.pwrgood = true ∧
    s.fus.op = some o ∧
    o.live = true ∧
    o.stopping = false ∧
    o.bits = i :: more ∧
    (hi && lo) = false ∧
    o.tries = 3 ∧
    o.job = .cmd ∧
    s.fus.queue = []) :=
  by
  refine ⟨?_, ?_, ?_, ?_⟩
  · exact ⟨fus0 { op := some word0 }, word0, 0, 1, [], by refine ⟨?_, ?_, ?_, ?_, ?_⟩ <;> first | rfl | decide⟩
  · exact ⟨fus0 { op := some { word0 with bits := [29] } }, { word0 with bits := [29] }, 29, by refine ⟨?_, ?_, ?_, ?_, ?_, ?_, ?_, ?_⟩ <;> first | rfl | decide⟩
  · exact ⟨fus0 { op := some word0 }, word0, 0, [1], true, false, by refine ⟨?_, ?_, ?_, ?_, ?_, ?_⟩ <;> first | rfl | decide⟩
  · exact ⟨fus0 { op := some { word0 with tries := 3 } }, { word0 with tries := 3 }, 0, [1], false, true, by refine ⟨?_, ?_, ?_, ?_, ?_, ?_, ?_, ?_, ?_⟩ <;> first | rfl | decide⟩

theorem witness_ImageLoads :
  (∃ (s : State) (via : Via),
    Served s via true .img 0 0x800000 ∧
    s.flt.fatal = false ∧
    s.img.phase = .idle) ∧
  (∃ (s : State) (via : Via) (data : Word),
    Served s via true .img 5 data ∧
    s.img.phase = .receive ∧
    s.img.owner = some via.port ∧
    formatBreach (s.img.words.reverse ++ [data]) = none ∧
    (s.img.words.reverse ++ [data])[2]?.map BitVec.toNat ≠ some (s.img.words.length + 1)) ∧
  (∃ (s : State) (via : Via),
    Served s via true .img 0 0x400000 ∧
    s.img.owner = some via.port ∧
    s.img.phase = .ready ∧
    (s.img.target = 0 ∨ s.mer.count.toNat + 1 < s.img.target.toNat) ∧
    s.mer.arm = false) ∧
  (∃ (s : State) (via : Via),
    Served s via true .img 0 0x200000 ∧
    s.img.owner = some via.port ∧
    s.img.phase ≠ .idle ∧
    s.img.phase ≠ .switching) ∧
  (∃ (s : State),
    s.pins.pwrgood = true ∧
    s.img.phase = .receive ∧
    s.img.owner.isSome = true) ∧
  (∃ (s : State) (a b : List Word) (c : Nat) (cs : List Nat),
    s.pins.pwrgood = true ∧
    s.pins.bootQspi = true ∧
    s.img.bootDue = true ∧
    s.rst.phase = .image ∧
    s.img.phase = .idle ∧
    s.img.inForce = false ∧
    s.flt.fatal = false ∧
    copyOrder a b = c :: cs) ∧
  (∃ (s : State) (words : List Word),
    s.pins.pwrgood = true ∧
    s.img.phase = .receive ∧
    s.img.owner = none ∧
    words.length ≠ 0 ∧
    words[2]?.map BitVec.toNat = some words.length ∧
    formatBreach words = none) :=
  by
  refine ⟨?_, ?_, ?_, ?_, ?_, ?_, ?_⟩
  · exact ⟨asked (up) true (addrOf .img 0) 0x800000, p0, by refine ⟨⟨?_, ?_, ?_, ?_, ?_⟩, ?_, ?_⟩ <;> first | rfl | decide⟩
  · exact ⟨asked (img0 { phase := .receive, owner := some 0 }) true (addrOf .img 5) (0x455042), p0, 0x455042, by refine ⟨⟨?_, ?_, ?_, ?_, ?_⟩, ?_, ?_, ?_, ?_⟩ <;> first | rfl | decide⟩
  · exact ⟨asked (img0 { phase := .ready, owner := some 0 }) true (addrOf .img 0) 0x400000, p0, by refine ⟨⟨?_, ?_, ?_, ?_, ?_⟩, ?_, ?_, ?_, ?_⟩ <;> first | rfl | decide⟩
  · exact ⟨asked (img0 { phase := .verify, owner := some 0 }) true (addrOf .img 0) 0x200000, p0, by refine ⟨⟨?_, ?_, ?_, ?_, ?_⟩, ?_, ?_, ?_⟩ <;> first | rfl | decide⟩
  · exact ⟨img0 { phase := .receive, owner := some 0 }, by refine ⟨?_, ?_, ?_⟩ <;> first | rfl | decide⟩
  · exact ⟨{ up with pins := { bootQspi := true }, img := { bootDue := true }, rst := { phase := .image } }, [], [], 1, [2], by refine ⟨?_, ?_, ?_, ?_, ?_, ?_, ?_, ?_⟩ <;> first | rfl | decide⟩
  · exact ⟨img0 { phase := .receive }, leastImage, by refine ⟨?_, ?_, ?_, ?_, ?_, ?_⟩ <;> first | rfl | decide⟩

theorem witness_ImagesJudgedAndSwitched :
  (∃ (s : State) (n : Nat),
    s.pins.pwrgood = true ∧
    s.img.phase = .verify ∧
    s.img.owner = some n) ∧
  (∃ (s : State) (n : Nat),
    s.pins.pwrgood = true ∧
    s.img.phase = .admission ∧
    s.img.owner = some n) ∧
  (∃ (s : State) (tb : Tables),
    s.pins.pwrgood = true ∧
    s.img.shadow = some tb ∧
    s.img.phase = .scheduled ∧
    switchDue s = true ∧
    judgeRun s (parseImage s.img.words.reverse) tb = none ∧
    s.img.inForce = true ∧
    s.img.structural = false) ∧
  (∃ (s : State) (tb : Tables),
    s.pins.pwrgood = true ∧
    s.img.shadow = some tb ∧
    s.img.phase = .scheduled ∧
    switchDue s = true ∧
    judgeRun s (parseImage s.img.words.reverse) tb = none ∧
    s.img.inForce = true ∧
    s.img.structural = true ∧
    s.rst.phase = .ready) ∧
  (∃ (s : State) (tb : Tables) (n : Nat) (r : Nat × Word),
    s.pins.pwrgood = true ∧
    s.img.shadow = some tb ∧
    s.img.phase = .scheduled ∧
    switchDue s = true ∧
    s.img.owner = some n ∧
    judgeRun s (parseImage s.img.words.reverse) tb = some r) :=
  by
  refine ⟨?_, ?_, ?_, ?_, ?_⟩
  · exact ⟨img0 { phase := .verify, owner := some 7 }, 7, by refine ⟨?_, ?_, ?_⟩ <;> first | rfl | decide⟩
  · exact ⟨img0 { phase := .admission, owner := some 7 }, 7, by refine ⟨?_, ?_, ?_⟩ <;> first | rfl | decide⟩
  · exact ⟨img0 { phase := .scheduled, shadow := some {}, inForce := true }, {}, by refine ⟨?_, ?_, ?_, ?_, ?_, ?_, ?_⟩ <;> decide +kernel⟩
  · exact ⟨img0 { phase := .scheduled, shadow := some {}, inForce := true, structural := true }, {}, by refine ⟨?_, ?_, ?_, ?_, ?_, ?_, ?_, ?_⟩ <;> decide +kernel⟩
  · exact ⟨{ img0 { phase := .scheduled, shadow := some {}, owner := some 7 } with ranks := [(1, { st := .pending })] }, {}, 7, (11, 0), by refine ⟨?_, ?_, ?_, ?_, ?_, ?_⟩ <;> decide +kernel⟩

theorem witness_ColdStart :
  (∃ (s : State),
    s.pins.pwrgood = true) ∧
  (∃ (s : State),
    s.pins.pwrgood = true) ∧
  (∃ (s : State),
    s.pins.pwrgood = false) ∧
  (∃ (s : State) (via : Via),
    Served s via true .rst 0 0x800000) ∧
  (∃ (s : State),
    s.pins.pwrgood = true ∧
    s.rst.phase = .fuse ∧
    s.gazBuilt = true) ∧
  (∃ (s : State),
    s.rst.phase = .held ∧
    s.rst.warm = false ∧
    s.pins.pwrgood = true ∧
    s.pins.refclk = true ∧
    s.pins.testEn = false) ∧
  (∃ (s : State),
    s.rst.phase = .held ∧
    s.rst.warm = false ∧
    s.pins.pwrgood = true ∧
    s.pins.resetN = true ∧
    s.pins.testEn = false) ∧
  (∃ (s : State),
    s.rst.phase = .held ∧
    s.rst.warm = false ∧
    s.pins.pwrgood = true ∧
    s.pins.resetN = true ∧
    s.pins.refclk = true) :=
  by
  refine ⟨?_, ?_, ?_, ?_, ?_, ?_, ?_, ?_⟩
  · exact ⟨up, by first | rfl | decide⟩
  · exact ⟨up, by first | rfl | decide⟩
  · exact ⟨{ up with pins := { pwrgood := false } }, by first | rfl | decide⟩
  · exact ⟨asked (up) true (addrOf .rst 0) 0x800000, p0, by unfold Served; first | rfl | decide⟩
  · exact ⟨{ up with rst := { phase := .fuse } }, by refine ⟨?_, ?_, ?_⟩ <;> first | rfl | decide⟩
  · exact ⟨{ up with rst := { phase := .held }, pins := { resetN := false } }, by refine ⟨?_, ?_, ?_, ?_, ?_⟩ <;> first | rfl | decide⟩
  · exact ⟨{ up with rst := { phase := .held }, pins := { refclk := false } }, by refine ⟨?_, ?_, ?_, ?_, ?_⟩ <;> first | rfl | decide⟩
  · exact ⟨{ up with rst := { phase := .held }, pins := { testEn := true } }, by refine ⟨?_, ?_, ?_, ?_, ?_⟩ <;> first | rfl | decide⟩

theorem witness_WarmResets :
  (∃ (s : State) (via : Via),
    Served s via true .rst 0 0x400000 ∧
    s.rst.phase = .ready) ∧
  (∃ (s : State) (ns : Nat),
    s.pins.pwrgood = true ∧
    s.rst.phase = .ready ∧
    1000 ≤ ns) ∧
  (∃ (s : State) (ns : Nat),
    ns < 100) ∧
  (∃ (s : State),
    s.pins.pwrgood = true ∧
    s.rst.phase = .ready ∧
    s.pins.refclk = true) ∧
  (∃ (s : State),
    s.rst.phase ≠ .held) ∧
  (∃ (s : State),
    s.pins.pwrgood = true ∧
    s.rst.phase = .quiesce ∧
    quiesceOver s = true) ∧
  (∃ (s : State),
    s.pins.pwrgood = true ∧
    s.rst.phase = .held ∧
    s.rst.warm = true ∧
    s.pins.resetN = true ∧
    s.pins.refclk = true ∧
    s.flt.gale = false ∧
    s.img.shadow = none) :=
  by
  refine ⟨?_, ?_, ?_, ?_, ?_, ?_, ?_⟩
  · exact ⟨asked (up) true (addrOf .rst 0) 0x400000, p0, by refine ⟨⟨?_, ?_, ?_, ?_, ?_⟩, ?_⟩ <;> first | rfl | decide⟩
  · exact ⟨up, 1000, by refine ⟨?_, ?_, ?_⟩ <;> first | rfl | decide⟩
  · exact ⟨up, 99, by first | rfl | decide⟩
  · exact ⟨up, by refine ⟨?_, ?_, ?_⟩ <;> first | rfl | decide⟩
  · exact ⟨up, by first | rfl | decide⟩
  · exact ⟨{ up with rst := { phase := .quiesce, warm := true } }, by refine ⟨?_, ?_, ?_⟩ <;> first | rfl | decide⟩
  · exact ⟨{ up with rst := { phase := .held, warm := true } }, by refine ⟨?_, ?_, ?_, ?_, ?_, ?_, ?_⟩ <;> first | rfl | decide⟩

theorem witness_PartResetsAndReady :
  (∃ (s : State) (via : Via) (data : Word) (c : Nat),
    Served s via true .rst 0 data ∧
    data.getLsbD 23 = false ∧
    data.getLsbD 22 = false ∧
    data.getLsbD 21 = true ∧
    data.getLsbD 20 = false ∧
    c = (data.extractLsb' 15 5).toNat ∧
    (s.chan c).seq = .idle ∧
    trnBusy s c = false ∧
    laneBusy s c = false ∧
    bstBusy s c = false ∧
    resetRuns s = false ∧
    ((s.sprOf c).st = .normal ∨ (s.sprOf c).st = .laneDegraded) ∧
    (s.chan c).st ≠ .closed) ∧
  (∃ (s : State) (c : Nat),
    s.pins.pwrgood = true ∧
    s.rst.chanBusy = [c] ∧
    chanFenced s c = false ∧
    s.flt.fatal = false ∧
    (s.chan c).st ≠ .closed ∧
    (s.sprOf c).st ≠ .rescue) ∧
  (∃ (s : State) (via : Via) (data : Word) (n : Nat),
    Served s via true .rst 0 data ∧
    data.getLsbD 23 = false ∧
    data.getLsbD 22 = false ∧
    data.getLsbD 21 = false ∧
    data.getLsbD 20 = true ∧
    n = (data.extractLsb' 10 5).toNat ∧
    n < 20 ∧
    tierPresent s.variant n = true ∧
    domOn s (52 + n) = true ∧
    tierInUse s n = false ∧
    resetRuns s = false) ∧
  (∃ (s : State) (n : Nat),
    s.pins.pwrgood = true ∧
    s.rst.tierBusy = some n) ∧
  (∃ (s : State),
    s.pins.pwrgood = true ∧
    s.rst.phase = .fill ∧
    s.rst.fillDue = true ∧
    s.rst.pagesDue = false ∧
    s.rst.fillsDue = [] ∧
    s.pwr.hold = false ∧
    s.flt.fatal = false ∧
    chansUp s = true ∧
    s.tables.compat = false) ∧
  (∃ (s : State),
    s.pins.pwrgood = true ∧
    s.rst.phase = .fill ∧
    fillWaits s = false ∧
    s.flt.fatal = false ∧
    s.rst.warm = false) :=
  by
  refine ⟨?_, ?_, ?_, ?_, ?_, ?_⟩
  · exact ⟨asked (ch0 {}) true (addrOf .rst 0) (0x200000), p0, 0x200000, 0, by refine ⟨⟨?_, ?_, ?_, ?_, ?_⟩, ?_, ?_, ?_, ?_, ?_, ?_, ?_, ?_, ?_, ?_, ?_, ?_⟩ <;> first | rfl | decide⟩
  · exact ⟨{ ch0 {} with rst := { phase := .ready, chanBusy := [0] } }, 0, by refine ⟨?_, ?_, ?_, ?_, ?_, ?_⟩ <;> first | rfl | decide⟩
  · exact ⟨asked (up) true (addrOf .rst 0) (0x104C00), p0, 0x104C00, 19, by refine ⟨⟨?_, ?_, ?_, ?_, ?_⟩, ?_, ?_, ?_, ?_, ?_, ?_, ?_, ?_, ?_, ?_⟩ <;> first | rfl | decide⟩
  · exact ⟨{ up with rst := { phase := .ready, tierBusy := some 19 } }, 19, by refine ⟨?_, ?_⟩ <;> first | rfl | decide⟩
  · exact ⟨{ up with rst := { phase := .fill }, chans := (List.range 32).map (fun c => (c, { st := .opened })) }, by refine ⟨?_, ?_, ?_, ?_, ?_, ?_, ?_, ?_, ?_⟩ <;> first | rfl | decide⟩
  · exact ⟨{ up with rst := { phase := .fill, fillDue := false } }, by refine ⟨?_, ?_, ?_, ?_, ?_⟩ <;> first | rfl | decide⟩

end Sys2Proof.Tests
end

/-! The family of the Gazetteer: before it is built, every management access is turned away (R36). -/

namespace Sys2Proof.Proofs

open Sys2Proof.Machine

/-! ### The judgement of an access without the Gazetteer -/

theorem addrOf_unitAt {addr : Word} {u : UnitId} {off : Nat} (h : unitAt addr.toNat = some (u, off)) :
    addrOf u off = addr := by
  rw [addrOf, unitAt_base _ _ _ h, BitVec.ofNat_toNat, BitVec.setWidth_eq]

theorem judgeAddr_of_no_gazetteer {s : State} (hg : s.gazBuilt = false) (tw : Nat) (u : UnitId) (off : Nat) :
    judgeAddr tw s u off = some .refused := by
  simp [judgeAddr, hg]

theorem portAcc_of_no_gazetteer {s : State} (hg : s.gazBuilt = false) (tw n : Nat) (write : Bool) (u : UnitId)
    (off : Nat) : portAcc tw s n write u off = .ended .refused := by
  simp [portAcc, judgeAddr_of_no_gazetteer hg]

theorem sbRead_of_no_gazetteer {s : State} (hg : s.gazBuilt = false) (addr : Nat) :
    sbRead addr s = (.refused, 0, s) := by
  simp [sbRead, hg]

/-! ### An access of a port in its turn -/

/-- The read's counterpart of `mgmtWrite_ended`. -/
theorem mgmtRead_ended (s : State) (via : Via) (u : UnitId) (off : Nat) (f : State → Status × Word × State)
    (st : Status) (hl : mgtLive s via.port = true) (ht : mgtTurn s via false (addrOf u off) 0 = true)
    (hh : portHeld s via.port = false)
    (ha : portAcc (gazTable s.variant).length s via.port false u off = .ended st) :
    mgmtRead s via u off f = respond s via false (addrOf u off) st 0 := by
  rw [mgmtRead, hl, ht, hh, ha]
  rfl

theorem noUnit_in_turn {s : State} {via : Via} {write : Bool} {addr data : Word} (hl : mgtLive s via.port = true)
    (hh : portHeld s via.port = false) (ht : mgtTurn s via write addr data = true) :
    noUnit s via write addr data = respond s via write addr .refused 0 := by
  simp [noUnit, hl, hh, ht]

theorem writeAddr_of_no_gazetteer {s : State} {via : Via} {addr data : Word} (hg : s.gazBuilt = false)
    (hl : mgtLive s via.port = true) (hh : portHeld s via.port = false) (ht : mgtTurn s via true addr data = true) :
    writeAddr s via addr data = respond s via true addr .refused 0 := by
  unfold writeAddr
  split
  next u off hu =>
    have ha := addrOf_unitAt hu
    rw [mgmtWrite_ended s via u off data _ .refused hl (ha ▸ ht) hh (portAcc_of_no_gazetteer hg ..), ha]
  next => exact noUnit_in_turn hl hh ht

theorem readAddr_of_no_gazetteer {s : State} {via : Via} {addr : Word} (hg : s.gazBuilt = false)
    (hl : mgtLive s via.port = true) (hh : portHeld s via.port = false) (ht : mgtTurn s via false addr 0 = true) :
    readAddr s via addr = respond s via false addr .refused 0 := by
  unfold readAddr
  split
  next u off hu =>
    have ha := addrOf_unitAt hu
    rw [mgmtRead_ended s via u off _ .refused hl (ha ▸ ht) hh (portAcc_of_no_gazetteer hg ..), ha]
  next => exact noUnit_in_turn hl hh ht

/-! ### The commands that access by an address -/

theorem exec_registerWrite (via : Via) (addr data : Word) (s : State) :
    exec (.registerWrite via addr data) s = answer s (writeAddr s via addr data) := rfl

theorem exec_lowerWordWrite (via : Via) (addr data : Word) (s : State) :
    exec (.lowerWordWrite via addr data) s = answer s (writeAddr s via addr data) := rfl

theorem exec_multiWordCommit (via : Via) (addr data : Word) (s : State) :
    exec (.multiWordCommit via addr data) s = answer s (writeAddr s via addr data) := rfl

theorem exec_readClear (via : Via) (addr : Word) (s : State) :
    exec (.readClear via addr) s = answer s (readAddr s via addr) := rfl

theorem exec_snapshotRead (via : Via) (addr : Word) (s : State) :
    exec (.snapshotRead via addr) s = answer s (readAddr s via addr) := rfl

/-- Settles O10: the judgement of the address refuses before it looks at the unit, so no handler runs (R36). -/
theorem beforeGazetteer : Obligations.BeforeGazetteer := by
  intro s hp hg
  refine ⟨fun via addr data hl hh => ⟨fun ht => ?_, fun ht => ?_⟩,
    fun via u off data f g hl hh => ⟨fun ht => ?_, fun ht => ?_⟩, sbRead_of_no_gazetteer hg⟩
  · rw [exec_registerWrite, exec_lowerWordWrite, exec_multiWordCommit, answer_on _ _ hp,
      writeAddr_of_no_gazetteer hg hl hh ht]
    exact ⟨rfl, rfl, rfl⟩
  · rw [exec_readClear, exec_snapshotRead, answer_on _ _ hp, readAddr_of_no_gazetteer hg hl hh ht]
    exact ⟨rfl, rfl⟩
  · exact mgmtWrite_ended s via u off data f .refused hl ht hh (portAcc_of_no_gazetteer hg ..)
  · exact mgmtRead_ended s via u off g .refused hl ht hh (portAcc_of_no_gazetteer hg ..)

end Sys2Proof.Proofs

/-! The family of the flows: what a full event queue loses, and what a warm reset leaves of the queues (R149). -/

namespace Sys2Proof.Proofs

open Sys2Proof.Machine
open Sys2Proof.Safety

/-! ### A record posted to a queue -/

/-- Bits 84:80 of a record are the records lost before it (R150). -/
theorem mkRecord_lost (ty flow q : Nat) (irq : Bool) (lost : BitVec 5) (stamp : W48) (detail : BitVec 40) :
    (mkRecord ty flow q irq lost stamp detail).extractLsb' 80 5 = lost := by
  rw [mkRecord, BitVec.extractLsb'_append_eq_of_le (by decide), BitVec.extractLsb'_append_eq_of_le (by decide)]
  exact BitVec.extractLsb'_append_eq_right

theorem toNat_sat_one {w : Nat} (x : BitVec w) : (sat x 1).toNat = min (2 ^ w - 1) (x.toNat + 1) := by
  have hx := x.isLt
  unfold sat
  split
  next h => rw [BitVec.toNat_ofNat, Nat.mod_eq_of_lt h]; omega
  next h => rw [BitVec.toNat_allOnes]; omega

theorem pushRecord_of_full {s : State} {q : Nat} (h : 256 ≤ (s.evq q).recs.length) (ty flow : Nat) (irq : Bool)
    (detail : BitVec 40) :
    pushRecord s q ty flow irq detail =
      raise (s.setEvq q { s.evq q with lostNow := sat (s.evq q).lostNow 1, lost := sat (s.evq q).lost 1 }) 0x3A q :=
  if_neg (Nat.not_lt.mpr h)

theorem pushRecord_of_room {s : State} {q : Nat} (h : (s.evq q).recs.length < 256) (ty flow : Nat) (irq : Bool)
    (detail : BitVec 40) :
    pushRecord s q ty flow irq detail =
      s.setEvq q { s.evq q with
        recs := (s.evq q).recs ++ [mkRecord ty flow q irq (s.evq q).lostNow s.mer.count detail]
        lostNow := 0 } :=
  if_pos h

@[simp] theorem evq_raise (s : State) (src inst : Nat) (d : Word) (q : Nat) : (raise s src inst d).evq q = s.evq q := rfl

/-! ### The queues after step 3 of a warm reset -/

@[simp] theorem warmState_queues (s : State) : (warmState s).queues = [] := rfl

@[simp] theorem enterHeld_queues (s : State) : (enterHeld s).queues = [] := warmState_queues _

theorem enterHeld_evq (s : State) (q : Nat) : (enterHeld s).evq q = {} := by
  rw [State.evq, enterHeld_queues, tget_nil]

theorem exec_warmQuiesceDone (s : State) : exec .warmQuiesceDone s = execWarmQuiesceDone s := rfl

theorem exec_warmQuiesceDone_of_over {s : State} (hp : s.pins.pwrgood = true) (hph : s.rst.phase = .quiesce)
    (ho : quiesceOver s = true) : exec .warmQuiesceDone s = .next (fin s (enterHeld s)) := by
  simp [exec_warmQuiesceDone, execWarmQuiesceDone, answer_on _ _ hp, hph, ho]

/-- Settles O22: the two branches of `pushRecord`, and the queues that `warmState` leaves at their Reset value. -/
theorem eventQueueFull : Obligations.EventQueueFull := by
  refine ⟨fun s q ty flow irq detail h => ?_, fun s q ty flow irq detail h => ?_, fun s q hp hph ho => ?_⟩
  · refine ⟨_, pushRecord_of_full h ty flow irq detail, ?_⟩
    rw [evq_raise, evq_setEvq]
    exact ⟨rfl, toNat_sat_one _, rfl, rfl, ((Keeps.refl _ s).setEvq (by decide)).raise 0x3A q 0 (by decide)⟩
  · refine ⟨_, mkRecord ty flow q irq (s.evq q).lostNow s.mer.count detail, pushRecord_of_room h ty flow irq detail, ?_⟩
    rw [evq_setEvq]
    exact ⟨rfl, mkRecord_lost .., rfl, rfl, (Keeps.refl _ s).setEvq (by decide)⟩
  · refine ⟨_, exec_warmQuiesceDone_of_over hp hph ho, ?_⟩
    rw [fin_evq, enterHeld_evq]

end Sys2Proof.Proofs

/-! The family of the faults: the first-fault latch, and its re-arming by the management write (R346). -/

namespace Sys2Proof.Proofs

open Sys2Proof.Machine
open Sys2Proof.Safety

/-! ### What a report does to FLT_FIRST -/

/-- What a report does first: FLT_FIRST takes the event, or counts it, or leaves it (R346). -/
def takenByFirst (s : State) (j : Judged) : State :=
  if !s.flt.valid && j.cause.isNone then latchFirst s j
  else if s.flt.valid then { s with flt := { s.flt with overflow := true, later := sat s.flt.later 1 } }
  else s

theorem takenByFirst_latches {s : State} {j : Judged} (hv : s.flt.valid = false) (hc : j.cause = none) :
    takenByFirst s j = latchFirst s j := by
  simp [takenByFirst, hv, hc]

theorem takenByFirst_of_consequential {s : State} {j : Judged} (hv : s.flt.valid = false) (hc : j.cause ≠ none) :
    takenByFirst s j = s := by
  simp [takenByFirst, hv, hc]

theorem takenByFirst_of_valid {s : State} (hv : s.flt.valid = true) (j : Judged) :
    takenByFirst s j = { s with flt := { s.flt with overflow := true, later := sat s.flt.later 1 } } := by
  simp [takenByFirst, hv]

/-- What a report does next: an event that is not consequential sets FLT_STATUS.irq from irq_sev up (R350). -/
def takenByIrq (s : State) (j : Judged) : State :=
  if j.cause.isNone && s.flt.irqSev.toNat ≤ j.sev then { s with flt := { s.flt with irq := true } } else s

theorem takenByIrq_flt (s : State) (j : Judged) : ∃ irq, (takenByIrq s j).flt = { s.flt with irq := irq } := by
  unfold takenByIrq
  split
  · exact ⟨true, rfl⟩
  · exact ⟨s.flt.irq, rfl⟩

/-- Of the fault part, the ring's queue takes the queue itself, its count of losses and the open pages. -/
theorem toRing_flt (s : State) (j : Judged) (first : Bool) : ∃ lost queue page,
    (toRing s j first).flt = { s.flt with lost := lost, queue := queue, page := page } := by
  unfold toRing
  split
  · exact ⟨_, s.flt.queue, s.flt.page, rfl⟩
  · exact ⟨s.flt.lost, _, _, rfl⟩

theorem report_of_unreportable {s : State} {j : Judged} (h : reportable s j = false) : report s j = s := by
  simp [report, h]

theorem report_of_reportable {s : State} {j : Judged} (h : reportable s j = true) :
    report s j = toRing (takenByIrq (takenByFirst s j) j) j (!s.flt.valid && j.cause.isNone) := by
  rw [report, h]
  rfl

/-- After FLT_FIRST, a report touches the interrupt and the ring's fields only. -/
theorem report_flt {s : State} {j : Judged} (h : reportable s j = true) : ∃ irq lost queue page,
    (report s j).flt =
      { (takenByFirst s j).flt with irq := irq, lost := lost, queue := queue, page := page } := by
  obtain ⟨irq, hi⟩ := takenByIrq_flt (takenByFirst s j) j
  obtain ⟨lost, queue, page, hq⟩ := toRing_flt (takenByIrq (takenByFirst s j) j) j (!s.flt.valid && j.cause.isNone)
  exact ⟨irq, lost, queue, page, by rw [report_of_reportable h, hq, hi]⟩

/-! ### The write that commits FLT_FIRST -/

/-- A two-word value whose high word is written 0 is the low word that the path holds (R12). -/
theorem commitValue_two_of_high_zero {s : State} {n : Nat} {addr low : Word}
    (h : tfind (s.path n).held (addr.toNat - 1) = some low) (cur : Nat) :
    commitValue s n addr 2 cur 0 = low.toNat := by
  simp [commitValue, List.range_succ, h]

theorem setFirst_zero (x : Flt) : x.setFirst 0 =
    { x with valid := false, overflow := false, severity := 0, source := 0, inst := 0, later := 0 } := by
  simp [Flt.setFirst]

@[simp] theorem dropHeld_flt (s : State) (n : Nat) (addr : Word) (words : Nat) :
    (dropHeld s n addr words).flt = s.flt := rfl

theorem firstWrite_zero {s : State} {n : Nat}
    (h : tfind (s.path n).held ((addrOf .flt 3).toNat - 1) = some 0) :
    firstWrite n 0 s =
      (.ok, { dropHeld s n (addrOf .flt 3) 2 with flt := s.flt.setFirst 0 }) := by
  rw [firstWrite, commitValue_two_of_high_zero h]
  rfl

@[simp] theorem respond_flt (s : State) (via : Via) (write : Bool) (addr : Word) (st : Status) (data : Word) :
    (respond s via write addr st data).flt = s.flt := by
  rcases respond_frame s via write addr st data with h | ⟨p, h⟩ <;> rw [h]
  rfl

theorem keeps_setFlt {l : List Part} {s t : State} {v : Flt} (h : Keeps l s t) (hl : Part.flt ∈ l) :
    Keeps l s { t with flt := v } := fun p hp => by
  cases p with
  | flt => exact absurd hl hp
  | _ => exact h _ hp

theorem keeps_dropHeld {l : List Part} {s t : State} {n : Nat} {addr : Word} {words : Nat} (h : Keeps l s t)
    (hl : Part.paths ∈ l) : Keeps l s (dropHeld t n addr words) :=
  h.setPath hl

theorem exec_firstFaultRearm (via : Via) (data : Word) (s : State) :
    exec (.firstFaultRearm via data) s = answer s (mgmtWrite s via .flt 3 data (firstWrite via.port data)) := rfl

/-- Settles O49: the three branches by which FLT_FIRST takes an event, and the committed value 0. -/
theorem firstFault : Obligations.FirstFault := by
  refine ⟨fun s j hv hr hc => ?_, fun s j hv h => ?_, fun s j hv hr => ?_, fun s via hs hh => ?_⟩
  · obtain ⟨irq, lost, queue, page, hf⟩ := report_flt hr
    rw [hf, takenByFirst_latches hv hc]
    exact ⟨rfl, rfl, rfl, rfl, rfl, rfl, rfl⟩
  · cases hr : reportable s j with
    | false => rw [report_of_unreportable hr, hv]
    | true =>
      have hc : j.cause ≠ none := h.resolve_right (by simp [hr])
      obtain ⟨irq, lost, queue, page, hf⟩ := report_flt hr
      rw [hf, takenByFirst_of_consequential hv hc]
      exact hv
  · obtain ⟨irq, lost, queue, page, hf⟩ := report_flt hr
    rw [hf, takenByFirst_of_valid hv]
    exact ⟨hv, rfl, rfl, rfl, rfl, rfl, rfl⟩
  · have hp : s.pins.pwrgood = true := hs.1
    have hw := mgmtWrite_served s via .flt 3 0 (firstWrite via.port 0) hs
    rw [firstWrite_zero hh] at hw
    refine ⟨_, (exec_firstFaultRearm ..).trans (answer_on _ _ hp), ?_, ?_⟩
    · rw [hw, fin_flt, respond_flt, setFirst_zero]
    · rw [hw]
      exact ((keeps_setFlt (keeps_dropHeld (Keeps.refl _ s) (by decide)) (by decide)).respond (by decide)).fin

end Sys2Proof.Proofs

/-! The queue of commands, power and IRQ_N: what every command answers, and a queue worked off in order. -/

namespace Sys2Proof.Proofs

open Sys2Proof.Machine
open Sys2Proof.Safety

/-! ### All that a command can answer -/

/-- A command ends in `answer`, which power guards, or, a command of the pins, in `always`. -/
theorem exec_form (c : Instr) (s : State) :
    (∃ t, exec c s = answer s t) ∨ (actsUnpowered c = true ∧ ∃ t, exec c s = always s t) := by
  cases c with
  | powergoodRise | powergoodFall | vddAonDrop | resetNLow _ | resetNRise | refclkLoss | refclkRestored
  | testEnFall => exact .inr ⟨rfl, _, rfl⟩
  | _ => exact .inl ⟨_, rfl⟩

/-- Every command answers a next state: one that `fin` finishes, or, without power, the state itself. -/
theorem exec_next (c : Instr) (s : State) : (∃ t, exec c s = .next (fin s t)) ∨ exec c s = .next s := by
  obtain ⟨t, h⟩ | ⟨-, t, h⟩ := exec_form c s
  · cases hp : s.pins.pwrgood
    · exact .inr (h.trans (answer_off s t hp))
    · exact .inl ⟨t, h.trans (answer_on s t hp)⟩
  · exact .inl ⟨t, h⟩

theorem exec_unpowered {c : Instr} {s : State} (hp : s.pins.pwrgood = false) (hc : actsUnpowered c = false) :
    exec c s = .next s := by
  obtain ⟨t, h⟩ | ⟨h, -⟩ := exec_form c s
  · exact h.trans (answer_off s t hp)
  · simp [hc] at h

theorem exec_keeps_queue (c : Instr) (s : State) :
    ∃ t, exec c s = .next t ∧ t.pending = s.pending ∧ t.variant = s.variant := by
  obtain ⟨t, h⟩ | h := exec_next c s
  · exact ⟨_, h, fin_pending s t, fin_variant s t⟩
  · exact ⟨s, h, rfl, rfl⟩

theorem exec_keeps_irqFollows {c : Instr} {s t : State} (hs : IrqFollows s) (h : exec c s = .next t) :
    IrqFollows t := by
  obtain ⟨u, hu⟩ | hu := exec_next c s <;> rw [hu] at h <;> cases h
  · exact fin_irqFollows s u
  · exact hs

/-! ### One step -/

theorem step_of_pending {c : Instr} {rest : List Instr} {s : State} (h : s.pending = c :: rest) :
    step s = exec c { s with pending := rest } := by
  rw [step, h]

theorem step_of_empty {s : State} (h : s.pending = []) : step s = .next s := by
  rw [step, h]

theorem run_succ {s t : State} (h : step s = .next t) (k : Nat) :
    Host.Core.run Sys2Proof.core (k + 1) s = Host.Core.run Sys2Proof.core k t := by
  have hs : Sys2Proof.core.step s = .next t := h
  simp only [Host.Core.run, hs]

/-- Settles O1: the two branches of `step`. -/
theorem stepRunsFront : Obligations.StepRunsFront :=
  ⟨fun _ _ _ => step_of_pending rfl, fun _ => step_of_empty⟩

/-- Settles O2: every command answers a next state, and `fin` gives it the queue and the variant of before. -/
theorem everyCommandAnswers : Obligations.EveryCommandAnswers := by
  intro c rest s h
  obtain ⟨t, ht, hq, hv⟩ := exec_keeps_queue c { s with pending := rest }
  exact ⟨t, (step_of_pending h).trans ht, hq, hv⟩

/-- Settles O3, by induction on the commands worked off. -/
theorem queueWorkedOff : Obligations.QueueWorkedOff := by
  intro cs later
  induction cs with
  | nil => exact fun s h => ⟨s, rfl, h, rfl⟩
  | cons c cs ih =>
    intro s h
    obtain ⟨t, ht, hq, hv⟩ := everyCommandAnswers c (cs ++ later) s h
    obtain ⟨u, hu, hl, hw⟩ := ih t hq
    exact ⟨u, (run_succ ht cs.length).trans hu, hl, hw.trans hv⟩

/-- Settles O4: a step idles or runs a command, and `fin` sets the pin as R350 says. -/
theorem irqInvariant : Obligations.IrqInvariant := by
  intro s t hs h
  cases hp : s.pending with
  | nil =>
    rw [step_of_empty hp] at h
    cases h
    exact hs
  | cons c rest =>
    rw [step_of_pending hp] at h
    exact exec_keeps_irqFollows (s := { s with pending := rest }) hs h

/-- Settles O5: of the fault part nothing is set at reset. -/
theorem irqAtReset : Obligations.IrqAtReset := rfl

/-- Settles O6: a command that is none of the pins' is guarded by power. -/
theorem unpoweredNothing : Obligations.UnpoweredNothing :=
  fun _ _ => exec_unpowered

end Sys2Proof.Proofs

/-! Register access: the rules of a served access, and the registers CHN_CFG, CHN_MAX_WAIT, CHN_RD_BURSTS and
MER_EPOCH_NEXT that go through them (R8–R12, R120). -/

namespace Sys2Proof.Proofs

open Sys2Proof.Machine
open Sys2Proof.Safety

/-! ### A served access of a powered block -/

/-- What a powered command answers, its effect rewritten. -/
theorem answer_next {s t u : State} (hp : s.pins.pwrgood = true) (h : t = u) : answer s t = .next (fin s u) :=
  h ▸ answer_on s t hp

/-- A served write answers its handler's status over its handler's state. -/
theorem answer_mgmtWrite {s t : State} {via : Via} {u : UnitId} {off : Nat} {data : Word}
    {f : State → Status × State} {st : Status} (h : Served s via true u off data) (hf : f s = (st, t)) :
    answer s (mgmtWrite s via u off data f) = .next (fin s (respond t via true (addrOf u off) st 0)) := by
  rw [answer_on _ _ h.1, mgmtWrite_served s via u off data f h, hf]

/-- A served read answers its handler's data, while internal scan does not hide it. -/
theorem answer_mgmtRead {s t : State} {via : Via} {u : UnitId} {off : Nat} {f : State → Status × Word × State}
    {w : Word} (h : Served s via false u off 0) (hf : f s = (.ok, w, t)) (hg : t.sec.gate = false) :
    answer s (mgmtRead s via u off f) = .next (fin s (respond t via false (addrOf u off) .ok w)) := by
  rw [answer_on _ _ h.1, mgmtRead_served s via u off f h (by rw [hf]; exact hg), hf]
  rfl

/-- A served write by its address. -/
theorem answer_writeAddr {s t : State} {via : Via} {u : UnitId} {off : Nat} {data : Word} {st : Status}
    (hu : unitAt (addrOf u off).toNat = some (u, off)) (h : Served s via true u off data)
    (hf : writeReg via.port u off data s = (st, t)) :
    answer s (writeAddr s via (addrOf u off) data) = .next (fin s (respond t via true (addrOf u off) st 0)) := by
  rw [writeAddr, hu]
  exact answer_mgmtWrite h hf

/-- A served read by its address. -/
theorem answer_readAddr {s t : State} {via : Via} {u : UnitId} {off : Nat} {w : Word}
    (hu : unitAt (addrOf u off).toNat = some (u, off)) (h : Served s via false u off 0)
    (hf : readReg via.port u off s = (.ok, w, t)) (hg : t.sec.gate = false) :
    answer s (readAddr s via (addrOf u off)) = .next (fin s (respond t via false (addrOf u off) .ok w)) := by
  rw [readAddr, hu]
  exact answer_mgmtRead h hf hg

/-! ### Addresses that name their unit -/

theorem toNat_addrOf {u : UnitId} {off : Nat} (h : u.base + off < 2 ^ 24) : (addrOf u off).toNat = u.base + off := by
  rw [addrOf, BitVec.toNat_ofNat, Nat.mod_eq_of_lt h]

theorem unitAt_chn {c off : Nat} (hc : c < 32) (ho : off < 0x1000) :
    unitAt (addrOf (.chn c) off).toNat = some (.chn c, off) := by
  have hb : UnitId.base (.chn c) = 0x200000 + 0x10000 * c := rfl
  rw [toNat_addrOf (by rw [hb]; omega), unitAt_page _ c off hc (by omega) (by rw [hb]), Nat.div_eq_of_lt ho]
  rfl

/-! ### Registers of a channel -/

theorem readReg_chn (n c off : Nat) (s : State) : readReg n (.chn c) off s = readVal n (chnReg s c off) s := rfl

theorem wordsOf_three (v : BitVec 72) :
    wordsOf v.toNat 3 = [v.extractLsb' 0 24, v.extractLsb' 24 24, v.extractLsb' 48 24] := by
  simp [wordsOf, List.range_succ, BitVec.extractLsb', Nat.shiftRight_eq_div_pow]

/-- Settles O7: each register goes through the rule of a served access by its address. -/
theorem registersReadAndWritten : Obligations.RegistersReadAndWritten := by
  refine ⟨fun s via c data hc h => ?_, fun s via c hc h hg => ?_, fun s via c hc h hg => ?_, fun s via c hc h hg => ?_⟩
  · rw [exec_registerWrite]
    exact answer_writeAddr (unitAt_chn hc (by decide)) h rfl
  · rw [exec_readClear]
    exact answer_readAddr (unitAt_chn hc (by decide)) h rfl hg
  · rw [exec_snapshotRead, ← wordsOf_three]
    exact answer_readAddr (unitAt_chn hc (by decide)) h rfl hg
  · rw [exec_snapshotRead]
    exact answer_readAddr (unitAt_chn hc (by decide)) h rfl hg

/-! ### Values of two words -/

theorem unitAt_mer {off : Nat} (ho : off < 0x10000) : unitAt (addrOf .mer off).toNat = some (.mer, off) := by
  have hb : UnitId.base .mer = 0x50000 := rfl
  have hp : (0x50000 + off) / 65536 = 5 := by omega
  have ho' : (0x50000 + off) % 65536 = off := by omega
  rw [toNat_addrOf (by rw [hb]; omega), hb]
  simp [unitAt, hp, ho']

/-- Word `i` of the value that a commit of `words` words writes (R12). -/
def committed (s : State) (n : Nat) (addr : Word) (words cur : Nat) (top : Word) (i : Nat) : Word :=
  if i + 1 = words then top
  else (tfind (s.path n).held (addr.toNat + 1 - words + i)).getD (BitVec.ofNat 24 (cur / 2 ^ (24 * i)))

theorem committed_top (s : State) (n : Nat) (addr : Word) (k cur : Nat) (top : Word) :
    committed s n addr (k + 1) cur top k = top := if_pos rfl

theorem committed_low (s : State) (n : Nat) (addr : Word) (cur : BitVec 48) (top : Word) :
    committed s n addr 2 cur.toNat top 0 =
      (tfind (s.path n).held (addr.toNat + 1 - 2)).getD (cur.extractLsb' 0 24) := by
  rw [committed, if_neg (by decide), Nat.mul_zero, Nat.pow_zero, Nat.div_one, Nat.add_zero]
  rfl

theorem foldl_range_two (f : Nat → Nat) : (List.range 2).foldl (fun a i => a + f i) 0 = f 0 + f 1 := by
  simp [List.range_succ]

theorem commitValue_words (s : State) (n : Nat) (addr : Word) (cur : Nat) (top : Word) :
    commitValue s n addr 2 cur top =
      (committed s n addr 2 cur top 0).toNat * 2 ^ (24 * 0) + (committed s n addr 2 cur top 1).toNat * 2 ^ (24 * 1) :=
  foldl_range_two (fun i => (committed s n addr 2 cur top i).toNat * 2 ^ (24 * i))

theorem ofNat_two_words (low top : Word) :
    BitVec.ofNat 48 (low.toNat * 2 ^ (24 * 0) + top.toNat * 2 ^ (24 * 1)) = top ++ low := by
  apply BitVec.eq_of_toNat_eq
  have hlow := low.isLt
  have htop := top.isLt
  rw [BitVec.toNat_append, ← Nat.shiftLeft_add_eq_or_of_lt hlow, Nat.shiftLeft_eq, BitVec.toNat_ofNat,
    Nat.mod_eq_of_lt (by omega)]
  omega

/-- A two-word commit takes the high word as written and the low word as held, or else as it was (R12). -/
theorem commitValue_two (s : State) (n : Nat) (addr : Word) (cur : BitVec 48) (top : Word) :
    BitVec.ofNat 48 (commitValue s n addr 2 cur.toNat top) =
      top ++ ((tfind (s.path n).held (addr.toNat + 1 - 2)).getD (cur.extractLsb' 0 24)) := by
  rw [commitValue_words, ofNat_two_words, committed_top, committed_low]

theorem writeReg_epochNext (n : Nat) (data : Word) (s : State) :
    writeReg n .mer 5 data s = (.ok, (dropHeld s n (addrOf .mer 5) 2).setMer { s.mer with
      epochNext := data ++ ((tfind (s.path n).held 0x050004).getD (s.mer.epochNext.extractLsb' 0 24)) }) := by
  have hv := commitValue_two s n (addrOf .mer 5) s.mer.epochNext data
  exact congrArg (fun v => (Status.ok, (dropHeld s n (addrOf .mer 5) 2).setMer { s.mer with epochNext := v })) hv

/-- Settles O8: the two words of MER_EPOCH_NEXT. -/
theorem multiWordWrites : Obligations.MultiWordWrites := by
  refine ⟨fun s via data h => ?_, fun s via data h => ?_⟩
  · rw [exec_lowerWordWrite]
    exact answer_writeAddr (unitAt_mer (by decide)) h rfl
  · rw [exec_multiWordCommit]
    exact answer_writeAddr (unitAt_mer (by decide)) h (writeReg_epochNext via.port data s)

/-! ### Accesses turned away -/

theorem writeAddr_of_no_unit {s : State} {via : Via} {addr data : Word} (hu : unitAt addr.toNat = none)
    (hl : mgtLive s via.port = true) (hh : portHeld s via.port = false) (ht : mgtTurn s via true addr data = true) :
    writeAddr s via addr data = respond s via true addr .refused 0 := by
  rw [writeAddr, hu]
  exact noUnit_in_turn hl hh ht

theorem readAddr_of_no_unit {s : State} {via : Via} {addr : Word} (hu : unitAt addr.toNat = none)
    (hl : mgtLive s via.port = true) (hh : portHeld s via.port = false) (ht : mgtTurn s via false addr 0 = true) :
    readAddr s via addr = respond s via false addr .refused 0 := by
  rw [readAddr, hu]
  exact noUnit_in_turn hl hh ht

/-- The registers of a port start its page of the address map (R41). -/
theorem unitAt_glk {n : Nat} (hn : n < 8) : unitAt (addrOf (.glk n) 0).toNat = some (.glk n, 0) := by
  decide +revert

theorem portAcc_of_absent {s : State} {u : UnitId} (hg : s.gazBuilt = true) (hu : unitPresent s.variant u = false)
    (tw n : Nat) (write : Bool) (off : Nat) : portAcc tw s n write u off = .ended .absent := by
  simp [portAcc, judgeAddr, hg, hu]

/-- Settles O9: the two accesses that no handler serves. -/
theorem accessesTurnedAway : Obligations.AccessesTurnedAway := by
  refine ⟨fun s via addr data hp hl hh hu => ⟨fun ht => ?_, fun ht => ?_⟩, fun s via n data hp hl hh ht hg hn ha => ?_⟩
  · rw [exec_registerWrite, answer_on _ _ hp, writeAddr_of_no_unit hu hl hh ht]
  · rw [exec_snapshotRead, answer_on _ _ hp, readAddr_of_no_unit hu hl hh ht]
  · rw [exec_registerWrite, answer_on _ _ hp, writeAddr, unitAt_glk hn]
    exact congrArg (fun t => Host.Outcome.next (fin s t))
      (mgmtWrite_ended s via (.glk n) 0 data _ .absent hl ht hh (portAcc_of_absent (u := .glk n) hg ha ..))

/-! ### The sideband (R481, R482) -/

theorem exec_sidebandCommandPhase (op : Byte) (addr data : Word) (s : State) :
    exec (.sidebandCommandPhase op addr data) s = answer s { s with sb := { s.sb with cmd := some (op, addr, data) } } :=
  rfl

theorem exec_sidebandResponsePhase (groups : Nat) (s : State) :
    exec (.sidebandResponsePhase groups) s =
      answer s { (sbResponse groups s).2 with sb := { cmd := none, answered := (sbResponse groups s).1 } } := rfl

theorem exec_sidebandInterfaceReset (s : State) : exec .sidebandInterfaceReset s = answer s { s with sb := {} } := rfl

theorem sbResponse_of_write {s : State} {addr data : Word} (h : s.sb.cmd = some (2, addr, data)) :
    sbResponse 1 s = ([4, 0, 0, 0], s) := by
  rw [sbResponse, h]
  rfl

theorem sbResponse_of_read {s u : State} {addr data w : Word} (h : s.sb.cmd = some (1, addr, data))
    (hr : sbRead addr.toNat s = (.ok, w, u)) :
    sbResponse 1 s = ([0, w.extractLsb' 16 8, w.extractLsb' 8 8, w.extractLsb' 0 8], u) := by
  simp [sbResponse, h, sbGroups, hr, sbGroup, Status.code]

/-- Settles O11: each phase by its own rule. That the read is made in the response phase is the model's choice (log
104). -/
theorem sidebandPhases : Obligations.SidebandPhases := by
  refine ⟨fun s op addr data hp => ?_, fun s addr data hp h => ?_, fun s addr data w u hp h hr => ?_, fun s hp => ?_⟩
  · rw [exec_sidebandCommandPhase, answer_on _ _ hp]
  · rw [exec_sidebandResponsePhase, answer_on _ _ hp, sbResponse_of_write h]
  · rw [exec_sidebandResponsePhase, answer_on _ _ hp, sbResponse_of_read h hr]
  · rw [exec_sidebandInterfaceReset, answer_on _ _ hp]

end Sys2Proof.Proofs

/-! Frames of the parts that no law names yet, and of the operations on windows, tests and owed refreshes. -/

namespace Sys2Proof.Safety

open Sys2Proof.Machine

/-! ### What a frame says of one unit -/

theorem Keeps.port_eq {l : List Part} {s t : State} (h : Keeps l s t) (hl : Part.ports ∉ l) (i : Nat) : t.port i = s.port i :=
  congrArg (fun x => tget ({} : Port) x i) (h .ports hl)

theorem Keeps.path_eq {l : List Part} {s t : State} (h : Keeps l s t) (hl : Part.paths ∉ l) (i : Nat) : t.path i = s.path i :=
  congrArg (fun x => tget ({} : Path) x i) (h .paths hl)

theorem Keeps.flowR_eq {l : List Part} {s t : State} (h : Keeps l s t) (hl : Part.flowRt ∉ l) (i : Nat) : t.flowR i = s.flowR i :=
  congrArg (fun x => tget ({} : FlowRt) x i) (h .flowRt hl)

theorem Keeps.evq_eq {l : List Part} {s t : State} (h : Keeps l s t) (hl : Part.queues ∉ l) (i : Nat) : t.evq i = s.evq i :=
  congrArg (fun x => tget ({} : EvQueue) x i) (h .queues hl)

theorem Keeps.chan_eq {l : List Part} {s t : State} (h : Keeps l s t) (hl : Part.chans ∉ l) (i : Nat) : t.chan i = s.chan i :=
  congrArg (fun x => tget ({} : Chan) x i) (h .chans hl)

theorem Keeps.rmem_eq {l : List Part} {s t : State} (h : Keeps l s t) (hl : Part.mem ∉ l) (i : Nat) : t.rmem i = s.rmem i :=
  congrArg (fun x => tget ({} : RankMem) x i) (h .mem hl)

theorem Keeps.eccOf_eq {l : List Part} {s t : State} (h : Keeps l s t) (hl : Part.ecc ∉ l) (i : Nat) : t.eccOf i = s.eccOf i :=
  congrArg (fun x => tget ({} : Ecc) x i) (h .ecc hl)

theorem Keeps.tier_eq {l : List Part} {s t : State} (h : Keeps l s t) (hl : Part.tiers ∉ l) (i : Nat) : t.tier i = s.tier i :=
  congrArg (fun x => tget ({} : Tier) x i) (h .tiers hl)

theorem Keeps.rfrOf_eq {l : List Part} {s t : State} (h : Keeps l s t) (hl : Part.rfr ∉ l) (i : Nat) : t.rfrOf i = s.rfrOf i :=
  congrArg (fun x => tget ({} : Rfr) x i) (h .rfr hl)

theorem Keeps.sprOf_eq {l : List Part} {s t : State} (h : Keeps l s t) (hl : Part.spr ∉ l) (i : Nat) : t.sprOf i = s.sprOf i :=
  congrArg (fun x => tget ({} : Spr) x i) (h .spr hl)

theorem Keeps.tsvOf_eq {l : List Part} {s t : State} (h : Keeps l s t) (hl : Part.tsv ∉ l) (i : Nat) : t.tsvOf i = s.tsvOf i :=
  congrArg (fun x => tget ({} : Tsv) x i) (h .tsv hl)

theorem Keeps.trnOf_eq {l : List Part} {s t : State} (h : Keeps l s t) (hl : Part.trn ∉ l) (i : Nat) : t.trnOf i = s.trnOf i :=
  congrArg (fun x => tget ({} : Trn) x i) (h .trn hl)

theorem Keeps.bstOf_eq {l : List Part} {s t : State} (h : Keeps l s t) (hl : Part.bst ∉ l) (i : Nat) : t.bstOf i = s.bstOf i :=
  congrArg (fun x => tget ({} : Bst) x i) (h .bst hl)

theorem Keeps.eng_eq {l : List Part} {s t : State} (h : Keeps l s t) (hl : Part.engs ∉ l) (i : Nat) : t.eng i = s.eng i :=
  congrArg (fun x => tget ({} : Eng) x i) (h .engs hl)

theorem Keeps.ctx_eq {l : List Part} {s t : State} (h : Keeps l s t) (hl : Part.ctxs ∉ l) (i : Nat) : t.ctx i = s.ctx i :=
  congrArg (fun x => tget ({} : Ctx) x i) (h .ctxs hl)

theorem Keeps.chk_eq {l : List Part} {s t : State} (h : Keeps l s t) (hl : Part.chks ∉ l) (i : Nat) : t.chk i = s.chk i :=
  congrArg (fun x => tget ({} : Chk) x i) (h .chks hl)

theorem Keeps.slot_eq {l : List Part} {s t : State} (h : Keeps l s t) (hl : Part.slots ∉ l) (i : Nat) : t.slot i = s.slot i :=
  congrArg (fun x => tget ({} : KeySlot) x i) (h .slots hl)

theorem Keeps.dom_eq {l : List Part} {s t : State} (h : Keeps l s t) (hl : Part.doms ∉ l) (i : Nat) : t.dom i = s.dom i :=
  congrArg (fun x => tget ({} : Dom) x i) (h .doms hl)

theorem Keeps.rank_eq {l : List Part} {s t : State} (h : Keeps l s t) (hl : Part.ranks ∉ l) (c k : Nat) :
    t.rank c k = s.rank c k :=
  congrArg (fun x => tget (rankDefault k) x (rankKey c k)) (h .ranks hl)

theorem Keeps.domOn_eq {l : List Part} {s t : State} (h : Keeps l s t) (hl : Part.doms ∉ l) (d : Nat) :
    domOn t d = domOn s d := by
  rw [domOn, h.dom_eq hl, domOn]

/-! ### One part set -/

theorem Keeps.setMer {l : List Part} {s t : State} {v : Mer} (h : Keeps l s t) (hl : Part.mer ∈ l) :
    Keeps l s (t.setMer v) := fun p hp => by
  cases p with
  | mer => exact absurd hl hp
  | _ => exact h _ hp

theorem Keeps.setElapsed {l : List Part} {s t : State} {v : Nat} (h : Keeps l s t) (hl : Part.elapsed ∈ l) :
    Keeps l s { t with elapsed := v } := fun p hp => by
  cases p with
  | elapsed => exact absurd hl hp
  | _ => exact h _ hp

theorem Keeps.setRst {l : List Part} {s t : State} {v : Rst} (h : Keeps l s t) (hl : Part.rst ∈ l) :
    Keeps l s { t with rst := v } := fun p hp => by
  cases p with
  | rst => exact absurd hl hp
  | _ => exact h _ hp

theorem Keeps.setBstNext {l : List Part} {s t : State} {v : Nat} (h : Keeps l s t) (hl : Part.bstNext ∈ l) :
    Keeps l s { t with bstNext := v } := fun p hp => by
  cases p with
  | bstNext => exact absurd hl hp
  | _ => exact h _ hp

theorem Keeps.setPool {l : List Part} {s t : State} {v : EngPool} (h : Keeps l s t) (hl : Part.pool ∈ l) :
    Keeps l s { t with pool := v } := fun p hp => by
  cases p with
  | pool => exact absurd hl hp
  | _ => exact h _ hp

theorem Keeps.setFlt {l : List Part} {s t : State} {v : Flt} (h : Keeps l s t) (hl : Part.flt ∈ l) :
    Keeps l s { t with flt := v } := fun p hp => by
  cases p with
  | flt => exact absurd hl hp
  | _ => exact h _ hp

theorem Keeps.setLog {l : List Part} {s t : State} {v : Log} (h : Keeps l s t) (hl : Part.log ∈ l) :
    Keeps l s { t with log := v } := fun p hp => by
  cases p with
  | log => exact absurd hl hp
  | _ => exact h _ hp

/-! ### Event records -/

theorem Keeps.pushRecord {l : List Part} {s t : State} {q ty flow : Nat} {irq : Bool} {d : BitVec 40} (h : Keeps l s t)
    (hq : Part.queues ∈ l) (hf : Part.flt ∈ l) : Keeps l s (Sys2Proof.Machine.pushRecord t q ty flow irq d) := by
  unfold Sys2Proof.Machine.pushRecord
  dsimp only
  split
  · exact h.setEvq hq
  · exact (h.setEvq hq).raise _ _ _ hf

theorem Keeps.postFlow {l : List Part} {s t : State} {f ty : Nat} {d : BitVec 40} (h : Keeps l s t)
    (hq : Part.queues ∈ l) (hf : Part.flt ∈ l) (hr : Part.flowRt ∈ l) :
    Keeps l s (Sys2Proof.Machine.postFlow t f ty d) := by
  unfold Sys2Proof.Machine.postFlow
  dsimp only
  split
  · refine Keeps.pushRecord ?_ hq hf
    split
    · exact h.setFlowR hr
    · exact h
  · exact h

/-! ### Flow windows -/

/-- The parts that closing and opening the windows of flows touches. -/
def windowParts : List Part := [.reqs, .flowRt, .flt, .queues, .pool]

theorem Keeps.judgeWindow {l : List Part} {s t : State} {f : Nat} (h : Keeps l s t) (hl : windowParts ⊆ l) :
    Keeps l s (Sys2Proof.Machine.judgeWindow t f) := by
  have hr : Part.flowRt ∈ l := hl (by decide)
  have hf : Part.flt ∈ l := hl (by decide)
  unfold Sys2Proof.Machine.judgeWindow
  dsimp only
  split
  · exact h
  split
  · exact h.setFlowR hr
  split
  · exact ((h.setFlowR hr).raise _ _ _ hf).postFlow (hl (by decide)) hf hr
  · exact h.setFlowR hr

theorem Keeps.closeWindow {l : List Part} {s t : State} {f : Nat} (h : Keeps l s t) (hl : windowParts ⊆ l) :
    Keeps l s (Sys2Proof.Machine.closeWindow t f) := (h.judgeWindow hl).setFlowR (hl (by decide))

theorem Keeps.openWindow {l : List Part} {s t : State} {f : Nat} {w : Bool} (h : Keeps l s t) (hl : windowParts ⊆ l) :
    Keeps l s (Sys2Proof.Machine.openWindow t f w) := (h.setReqs (hl (by decide))).setFlowR (hl (by decide))

theorem Keeps.unparkFlow {l : List Part} {s t : State} {f : Nat} (h : Keeps l s t) (hl : Part.pool ∈ l) :
    Keeps l s (Sys2Proof.Machine.unparkFlow t f) := by
  unfold Sys2Proof.Machine.unparkFlow
  split
  · exact h.setPool hl
  · exact h

theorem Keeps.loadWindows {l : List Part} {s t : State} {sel : FlowCfg → Bool} (h : Keeps l s t)
    (hl : windowParts ⊆ l) : Keeps l s (Sys2Proof.Machine.loadWindows t sel) :=
  Keeps.foldS (fun _ _ k =>
    (((k.setFlowR (hl (by decide))).closeWindow hl).openWindow hl).unparkFlow (hl (by decide))) _ h

/-! ### Owed refreshes -/

/-- The parts that a refresh that becomes owed touches. -/
def owedParts : List Part := [.rfr, .flt, .tiers]

theorem Keeps.setOwed {l : List Part} {s t : State} {c k b n : Nat} (h : Keeps l s t) (hr : Part.rfr ∈ l) :
    Keeps l s (Sys2Proof.Machine.setOwed t c k b n) := h.setRfrOf hr

theorem Keeps.addOwed {l : List Part} {s t : State} {c k b n : Nat} (h : Keeps l s t) (hl : owedParts ⊆ l) : Keeps l s (Sys2Proof.Machine.addOwed t c k b n) := by
  have ht : Part.tiers ∈ l := hl (by decide)
  have hs := Keeps.setOwed (c := c) (k := k) (b := b) (n := owed t c k b + n) h (hl (by decide))
  unfold Sys2Proof.Machine.addOwed
  dsimp only
  split
  · have hu := hs.raise 0x11 (tierOf c k) 0 (hl (by decide))
    split
    · exact hu.setTier ht
    · exact (hu.setTier ht).setTier ht
  · exact hs

theorem Keeps.oweAll {l : List Part} {s t : State} {c k : Nat} {bs : List Nat} (h : Keeps l s t) (hl : owedParts ⊆ l) : Keeps l s (Sys2Proof.Machine.oweAll t c k bs) := by
  unfold Sys2Proof.Machine.oweAll
  refine Keeps.setRfrOf (Keeps.foldS (fun u b k => ?_) _ h) (hl (by decide))
  dsimp only
  split
  · exact k
  · exact k.addOwed hl

theorem Keeps.chargeSlots {l : List Part} {s t : State} {ts : List Nat} (h : Keeps l s t) (hl : owedParts ⊆ l) : Keeps l s (Sys2Proof.Machine.chargeSlots t ts) := by
  unfold Sys2Proof.Machine.chargeSlots
  split
  · refine Keeps.foldS (fun u n k => ?_) _ h
    unfold chargeSlot
    split
    · exact k
    · dsimp only
      split
      · exact k
      · refine Keeps.foldS (fun v c k => ?_) _ k
        split
        · exact k
        · exact k.oweAll hl
  · exact h

/-! ### Tests requested at start-up -/

theorem Keeps.bistRefuse {l : List Part} {s t : State} {c r : Nat} (h : Keeps l s t) (hb : Part.bst ∈ l) :
    Keeps l s (Sys2Proof.Machine.bistRefuse t c r).2 := h.setBstOf hb

theorem Keeps.bistRequest {l : List Part} {s t : State} {c : Nat} {d : Word} {b : Bool} (h : Keeps l s t)
    (hb : Part.bst ∈ l) (hn : Part.bstNext ∈ l) : Keeps l s (Sys2Proof.Machine.bistRequest c d b t).2 := by
  unfold Sys2Proof.Machine.bistRequest
  dsimp only
  split
  · exact h.bistRefuse hb
  split
  · exact h
  split
  · exact h
  split
  · exact h.bistRefuse hb
  · exact (h.setBstOf hb).setBstNext hn

theorem Keeps.requestPlanned {l : List Part} {s t : State} {x : Nat × Nat × Nat} (h : Keeps l s t)
    (hb : Part.bst ∈ l) (hn : Part.bstNext ∈ l) (hr : Part.rst ∈ l) :
    Keeps l s (Sys2Proof.Machine.requestPlanned t x) := by
  unfold Sys2Proof.Machine.requestPlanned
  dsimp only
  split
  · exact h
  split
  · exact h
  split
  · exact (h.setRst hr).bistRequest hb hn
  · exact ((h.setRst hr).bistRequest hb hn).setRst hr

theorem Keeps.markFill {l : List Part} {s t : State} {v : BitVec 2} (h : Keeps l s t) (he : Part.ecc ∈ l) :
    Keeps l s (Sys2Proof.Machine.markFill t v) := Keeps.foldS (fun _ _ k => k.setEccOf he) _ h

theorem Keeps.startupNext {l : List Part} {s t : State} (h : Keeps l s t) (hb : Part.bst ∈ l) (hn : Part.bstNext ∈ l)
    (hr : Part.rst ∈ l) (he : Part.ecc ∈ l) : Keeps l s (Sys2Proof.Machine.startupNext t) := by
  unfold Sys2Proof.Machine.startupNext
  have k := Keeps.foldl (g := Machine.requestPlanned) (fun _ _ k => k.requestPlanned hb hn hr) t.rst.bistPlan h
  split
  · exact h
  · dsimp only
    split
    · exact (k.setRst hr).markFill he
    · exact k

end Sys2Proof.Safety

/-! Meridian and the Gazetteer: the beat edge, the reference, the epoch load and ALIVE (R36, R51–R60, R62, R349). -/

namespace Sys2Proof.Proofs

open Sys2Proof.Machine
open Sys2Proof.Safety

/-! ### The beat edge (R51, R55) -/

/-- The state of a beat edge before the count moves. -/
def beatBegun (s : State) : State := refillCredits (countLoss (freshBeat { s with elapsed := s.elapsed + 1 }))

/-- What a beat edge does once the count has moved. -/
def beatEnded (s : State) : State := replay (startupNext (if s.flt.gale && s.pwr.galeDone then s else countBeat s))

theorem exec_beatEdge (s : State) : exec .beatEdge s = answer s (beatEnded (advanceCount (beatBegun s))) := rfl

theorem beatBegun_mer (s : State) : ∃ k, (beatBegun s).mer = { s.mer with lossBeats := k } := by
  unfold beatBegun countLoss
  split
  · exact ⟨_, rfl⟩
  · exact ⟨_, rfl⟩

@[simp] theorem beatBegun_elapsed (s : State) : (beatBegun s).elapsed = s.elapsed + 1 := by
  unfold beatBegun countLoss
  split <;> rfl

@[simp] theorem beatBegun_heldAcc (s : State) : (beatBegun s).heldAcc = s.heldAcc := by
  unfold beatBegun countLoss
  split <;> rfl

/-- The parts that the windows and the slots of a jump of the count touch. -/
def jumpParts : List Part := windowParts ++ owedParts

theorem keeps_countJumps {l : List Part} {s t : State} {sel : FlowCfg → Bool} (h : Keeps l s t)
    (hl : jumpParts ⊆ l) : Keeps l s (countJumps t sel) :=
  (h.loadWindows (List.Subset.trans (by decide) hl)).chargeSlots (List.Subset.trans (by decide) hl)

/-- The parts that the count's advance touches beside the time unit. -/
def advanceParts : List Part := .flw :: jumpParts

theorem advanceCount_unmarked {s : State} (h : (s.mer.arm && s.mer.marked) = false) :
    Keeps advanceParts (s.setMer { s.mer with count := s.mer.count + 1, marked := false }) (advanceCount s) := by
  simp only [advanceCount, h, Bool.false_eq_true, if_false]
  split
  · exact keeps_countJumps (Keeps.refl _ _) (by decide)
  · exact Keeps.refl _ _

theorem advanceCount_marked {s : State} (h : (s.mer.arm && s.mer.marked) = true) :
    Keeps advanceParts (s.setMer { s.mer with
      count := s.mer.epochNext, epochLoaded := s.mer.epochNext, arm := false, marked := false, aligned := true })
      (advanceCount s) := by
  simp only [advanceCount, h, if_true, epochLoad]
  exact keeps_countJumps (((Keeps.refl _ _).setFlw (by decide)).setFlt (by decide)) (by decide)

theorem keeps_perfIf {l : List Part} {s t : State} {b : Bool} {ev i k : Nat} (h : Keeps l s t) (hl : Part.tel ∈ l) :
    Keeps l s (if b then perf t ev i k else t) := by
  cases b
  · exact h
  · exact h.perf ev i k hl

theorem keeps_countBeat {l : List Part} {s t : State} (h : Keeps l s t) (hl : Part.tel ∈ l) :
    Keeps l s (countBeat t) := by
  unfold countBeat
  exact Keeps.foldS (fun _ _ k => k.perf _ _ _ hl) _
    (keeps_perfIf (keeps_perfIf (keeps_perfIf (h.perf 0x000 0 1 hl) hl) hl) hl)

theorem replay_of_none {s : State} (h : s.heldAcc = []) : replay s = s := by
  rw [replay, h]
  cases s
  cases h
  rfl

/-- The parts that the end of a beat edge touches while no access is held. -/
def beatEndParts : List Part := [.tel, .bst, .bstNext, .rst, .ecc]

theorem keeps_beatEnded {s : State} (h : s.heldAcc = []) : Keeps beatEndParts s (beatEnded s) := by
  have k : Keeps beatEndParts s (startupNext (if s.flt.gale && s.pwr.galeDone then s else countBeat s)) := by
    refine Keeps.startupNext ?_ (by decide) (by decide) (by decide) (by decide)
    split
    · exact Keeps.refl _ s
    · exact keeps_countBeat (Keeps.refl _ s) (by decide)
  have hh : _ = s.heldAcc := k .heldAcc (by decide)
  rw [beatEnded, replay_of_none (hh.trans h)]
  exact k

/-- Where the count's move alone would lead to `u`, the whole edge leads there but for the parts that it touches. -/
theorem keeps_beatEdge {s u : State} (h : Keeps advanceParts u (advanceCount (beatBegun s))) (hh : u.heldAcc = []) :
    Keeps (beatEndParts ++ advanceParts) u (fin s (beatEnded (advanceCount (beatBegun s)))) := by
  have hs : _ = u.heldAcc := h .heldAcc (by decide)
  exact ((h.mono fun _ => List.mem_append_right _).trans
    ((keeps_beatEnded (hs.trans hh)).mono fun _ => List.mem_append_left _)).fin

/-- Settles O12: the two ways the count moves, each with what the edge keeps. -/
theorem beatEdgeCounts : Obligations.BeatEdgeCounts := by
  intro s hp hh
  obtain ⟨k, hb⟩ := beatBegun_mer s
  have hh' : (beatBegun s).heldAcc = [] := (beatBegun_heldAcc s).trans hh
  refine ⟨_, (exec_beatEdge s).trans (answer_on _ _ hp), ?_⟩
  cases hm : s.mer.arm && s.mer.marked
  case false =>
    have ht := keeps_beatEdge (advanceCount_unmarked (by rw [hb]; exact hm)) hh'
    have he : _ = (beatBegun s).elapsed := ht .elapsed (by decide)
    have hq : (fin s (beatEnded (advanceCount (beatBegun s)))).mer = _ := ht .mer (by decide)
    rw [hq, he, beatBegun_elapsed, State.setMer, hb]
    exact ⟨rfl, rfl, rfl, fun _ => ⟨rfl, rfl⟩, fun h => by simp at h⟩
  case true =>
    have ht := keeps_beatEdge (advanceCount_marked (by rw [hb]; exact hm)) hh'
    have he : _ = (beatBegun s).elapsed := ht .elapsed (by decide)
    have hq : (fin s (beatEnded (advanceCount (beatBegun s)))).mer = _ := ht .mer (by decide)
    rw [hq, he, beatBegun_elapsed, State.setMer, hb]
    exact ⟨rfl, rfl, rfl, fun h => by simp at h, fun _ => ⟨rfl, rfl, rfl, rfl⟩⟩

/-! ### The reference (R53–R60) -/

theorem exec_merSourceWrite (via : Via) (data : Word) (s : State) :
    exec (.merSourceWrite via data) s = answer s (mgmtWrite s via .mer 0 data (merCtrlWrite data)) := rfl

theorem exec_merArmWrite (via : Via) (data : Word) (s : State) :
    exec (.merArmWrite via data) s = answer s (mgmtWrite s via .mer 0 data (merCtrlWrite data)) := rfl

theorem exec_referenceEdge_pps {s : State} (h : s.mer.src = 1) (dev phase : Int) (width : Nat) :
    exec (.referenceEdge dev width phase) s = answer s (merEdge s dev phase) := by
  change answer s _ = _
  rw [if_pos h]

theorem goodEdge_of_within {dev : Int} (hl : -20 ≤ dev) (hu : dev ≤ 20) : goodEdge dev = true := by
  simp [goodEdge, hl, hu]

theorem goodEdge_of_outside {dev : Int} (h : dev < -20 ∨ 20 < dev) : goodEdge dev = false := by
  simp only [goodEdge, Bool.and_eq_false_iff, decide_eq_false_iff_not]
  omega

/-- An edge of a qualification that has seen one before (R53, R58). -/
theorem merEdge_qualify {s : State} (hs : s.mer.st = .qualify) (h : s.mer.seen = true) (dev phase : Int) :
    merEdge s dev phase =
      if goodEdge dev = false then s.setMer s.mer.restart
      else if s.mer.good + 1 = 1024 then merLock s
      else s.setMer { s.mer with good := s.mer.good + 1 } := by
  simp [merEdge, hs, h]

theorem merEdge_locked_good {s : State} (hs : s.mer.st = .locked) {dev : Int} (h : goodEdge dev = true) (phase : Int) :
    merEdge s dev phase = s.setMer { s.mer with missing := 0 } := by
  simp [merEdge, hs, h]

theorem merLock_mer (s : State) : (merLock s).mer =
    { s.mer with st := .locked, qualifying := false, slewing := false, good := 0, missing := 0, fenced := false } := by
  unfold merLock
  dsimp only
  split <;> rfl

theorem merLock_of_unaligned {s : State} (h : s.mer.aligned = false) : merLock s = s.setMer { s.mer with
    st := .locked, qualifying := false, slewing := false, good := 0, missing := 0, fenced := false } := by
  simp [merLock, State.setMer, h]

/-- MER_CTRL with its fields in range and no switch-over in the way (R65). -/
theorem merCtrlWrite_ok {data : Word} {s : State} (hp : portPresent s.variant (data.extractLsb' 19 3).toNat = true)
    (h : data.getLsbD 18 = false ∨ (s.img.phase ≠ .scheduled ∧ s.img.phase ≠ .switching)) :
    merCtrlWrite data s = (.ok, (merSource s (data.extractLsb' 22 2) (data.extractLsb' 19 3)).setMer
      { (merSource s (data.extractLsb' 22 2) (data.extractLsb' 19 3)).mer with
        arm := data.getLsbD 18
        marked := (merSource s (data.extractLsb' 22 2) (data.extractLsb' 19 3)).mer.marked && data.getLsbD 18 }) := by
  have hr : (data.getLsbD 18 && (s.img.phase = .scheduled || s.img.phase = .switching)) = false := by
    rcases h with h | ⟨h1, h2⟩
    · rw [h, Bool.false_and]
    · simp [h1, h2]
  simp only [merCtrlWrite, hp, hr]
  rfl

theorem merSource_selected {s : State} {src : BitVec 2} (mp : BitVec 3) (hs : s.mer.st = .free) (h0 : s.mer.src = 0)
    (h : src ≠ 0) : merSource s src mp = s.setMer { s.mer with
      src := src, markPort := mp, st := .qualify, qualifying := false, slewing := false, good := 0, missing := 0,
      seen := false, qualFails := 0, marked := false } := by
  have h' : src ≠ 0#2 := h
  simp [merSource, h0, h', hs, State.setMer]

theorem merSource_none {s : State} (mp : BitVec 3) (h : s.mer.src ≠ 0) : merSource s 0 mp = s.setMer { s.mer with
      src := 0, markPort := mp, st := .free, aligned := false, qualifying := false, slewing := false, good := 0,
      missing := 0, seen := false, qualFails := 0, marked := false, fenced := false } := by
  have h' : 0#2 ≠ s.mer.src := h.symm
  simp [merSource, h', State.setMer]

theorem merSource_same (s : State) : merSource s s.mer.src s.mer.markPort = s := by
  simp [merSource, State.setMer]

theorem respond_mer (s : State) (via : Via) (write : Bool) (addr : Word) (st : Status) (data : Word) :
    (respond s via write addr st data).mer = s.mer := by
  rcases respond_frame s via write addr st data with h | ⟨p, h⟩ <;> rw [h]
  rfl

theorem exec_referenceLoss (f : Bool) (s : State) :
    exec (.referenceLoss f) s = answer s (merRefLost s (if f then 0 else 2)) := rfl

theorem merRefLost_locked {s : State} (h : s.mer.st = .locked) (k : Nat) : merRefLost s k = merHoldover s k := by
  rw [merRefLost, h]

theorem exec_holdoverLimit {s : State} (hp : s.pins.pwrgood = true) (hs : s.mer.st = .holdover)
    (hl : 100000 ≤ s.mer.lossBeats.toNat) (hf : s.mer.fenced = false) :
    exec .holdoverLimit s =
      .next (fin s (raiseForced (s.setMer { s.mer with aligned := false, fenced := true }) 0x3B 0)) := by
  have h : exec .holdoverLimit s = answer s _ := rfl
  rw [h, answer_on _ _ hp]
  simp [hs, hl, hf]

theorem exec_phaseSlewComplete {s : State} {phase : Int} (hp : s.pins.pwrgood = true) (hs : s.mer.st = .holdover)
    (hw : s.mer.slewing = true) (hl : -4 ≤ phase) (hu : phase ≤ 4) :
    exec (.phaseSlewComplete phase) s =
      .next (fin s (merLock (s.setMer { s.mer with phase := BitVec.ofInt 24 phase }))) := by
  have h : exec (.phaseSlewComplete phase) s = answer s _ := rfl
  rw [h, answer_on _ _ hp]
  simp [hs, hw, hl, hu]

/-- Settles O13: the rules of an edge, of MER_CTRL and of the loss, one per clause. -/
theorem meridianLocksAndHolds : Obligations.MeridianLocksAndHolds := by
  refine ⟨?_, ?_, ?_, ?_, ?_, ?_, ?_, ?_⟩
  · intro s via data h hs h0 hsrc hport harm
    rw [exec_merSourceWrite]
    refine answer_mgmtWrite h ((merCtrlWrite_ok hport (.inl harm)).trans ?_)
    rw [merSource_selected _ hs h0 hsrc, harm]
    rfl
  · intro s dev phase width hp hs hsrc hseen hgood hl hu
    rw [exec_referenceEdge_pps hsrc, answer_on _ _ hp, merEdge_qualify hs hseen, goodEdge_of_within hl hu,
      if_neg (by decide), if_neg (by omega)]
  · intro s dev phase width hp hs hsrc hseen hal hgood hl hu
    rw [exec_referenceEdge_pps hsrc, answer_on _ _ hp, merEdge_qualify hs hseen, goodEdge_of_within hl hu,
      if_neg (by decide), if_pos (by omega), merLock_of_unaligned hal]
  · intro s dev phase width hp hs hsrc hseen hd
    refine ⟨_, ((exec_referenceEdge_pps hsrc ..).trans (answer_on _ _ hp)), ?_⟩
    rw [merEdge_qualify hs hseen, goodEdge_of_outside hd, if_pos rfl]
    exact ⟨hs, rfl, rfl, rfl, rfl⟩
  · intro s via data h hsrc h0 hport harm
    refine ⟨_, (exec_merSourceWrite ..).trans (answer_mgmtWrite h (merCtrlWrite_ok hport (.inl harm))), ?_⟩
    rw [fin_mer, respond_mer, h0, merSource_none _ hsrc]
    exact ⟨rfl, rfl, rfl, rfl⟩
  · intro s hp hs
    refine ⟨_, (exec_referenceLoss ..).trans (answer_on _ _ hp), ?_⟩
    rw [merRefLost_locked hs]
    exact ⟨rfl, rfl, rfl, rfl, rfl⟩
  · exact fun s hp hs hl hf => exec_holdoverLimit hp hs hl hf
  · intro s phase hp hs hw hl hu
    refine ⟨_, exec_phaseSlewComplete hp hs hw hl hu, ?_⟩
    rw [fin_mer, merLock_mer]
    exact ⟨rfl, rfl, rfl⟩

/-! ### The epoch load (R55, R67) -/

theorem merCtrlWrite_refused {data : Word} {s : State} (hp : portPresent s.variant (data.extractLsb' 19 3).toNat = true)
    (ha : data.getLsbD 18 = true) (h : s.img.phase = .scheduled ∨ s.img.phase = .switching) :
    merCtrlWrite data s = (.refused, s) := by
  simp only [merCtrlWrite, hp, ha, Bool.not_true, Bool.false_eq_true, if_false, Bool.true_and, Bool.or_eq_true,
    decide_eq_true_eq, if_pos h]

/-- MER_CTRL that leaves the reference as it is sets arm (R55). -/
theorem merCtrlWrite_arm {data : Word} {s : State} (hs : data.extractLsb' 22 2 = s.mer.src)
    (hm : data.extractLsb' 19 3 = s.mer.markPort) (hp : portPresent s.variant s.mer.markPort.toNat = true)
    (h : data.getLsbD 18 = false ∨ (s.img.phase ≠ .scheduled ∧ s.img.phase ≠ .switching)) :
    merCtrlWrite data s =
      (.ok, s.setMer { s.mer with arm := data.getLsbD 18, marked := s.mer.marked && data.getLsbD 18 }) := by
  rw [merCtrlWrite_ok (hm ▸ hp) h, hs, hm, merSource_same]

theorem exec_referenceEdge_marker {s : State} (h : s.mer.src = 2) {dev : Int} (hl : -20 ≤ dev) (hu : dev ≤ 20)
    {width : Nat} (hw : 600 ≤ width) (hw' : width ≤ 900) (phase : Int) :
    exec (.referenceEdge dev width phase) s = answer s (merMark (merEdge s dev phase)) := by
  change answer s _ = _
  simp [h, hw, hw', edgeDiscarded, goodEdge_of_within hl hu]

theorem merMark_armed {s : State} (h : s.mer.arm = true) : merMark s = s.setMer { s.mer with marked := true } :=
  if_pos h

theorem exec_beatMessage {s : State} {n : Nat} (hp : s.pins.pwrgood = true) (hf : flitsFlow s n = true)
    (hm : s.mer.markPort.toNat = n) (hs : s.mer.src = 1) (offset : BitVec 17) (dev phase : Int) :
    exec (.beatMessage n true offset dev phase) s = .next (fin s (merMark
      ((s.setPort n { s.port n with markSeen := true }).modPort n (fun p => { p with markerOff := offset })))) := by
  have h : exec (.beatMessage n true offset dev phase) s = answer s _ := rfl
  rw [h, answer_on _ _ hp]
  simp [hf, beatTake, hm, hs]

/-- Settles O14: MER_CTRL with the reference unchanged, and the two markers. -/
theorem epochLoadArmed : Obligations.EpochLoadArmed := by
  refine ⟨?_, ?_, ?_, ?_⟩
  · intro s via data h hs hm hp ha
    rw [exec_merArmWrite]
    split
    next hi => exact answer_mgmtWrite h (merCtrlWrite_refused (hm ▸ hp) ha hi)
    next hi =>
      refine answer_mgmtWrite h ((merCtrlWrite_arm hs hm hp (.inr (not_or.mp hi))).trans ?_)
      rw [ha, Bool.and_true]
  · intro s via data h hs hm hp ha
    rw [exec_merArmWrite]
    refine answer_mgmtWrite h ((merCtrlWrite_arm hs hm hp (.inl ha)).trans ?_)
    rw [ha, Bool.and_false]
  · intro s dev phase width hp hs hsrc ha hl hu hw hw'
    rw [exec_referenceEdge_marker hsrc hl hu hw hw', answer_on _ _ hp, merEdge_locked_good hs (goodEdge_of_within hl hu)]
    exact congrArg (fun t => Host.Outcome.next (fin s t))
      (merMark_armed (s := s.setMer { s.mer with missing := 0 }) ha)
  · intro s n offset dev phase hp hf hm hs ha
    refine ⟨_, exec_beatMessage hp hf hm hs offset dev phase, ?_⟩
    have hk := merMark_armed (s := (s.setPort n { s.port n with markSeen := true }).modPort n
      (fun p => { p with markerOff := offset })) ha
    rw [hk]
    have hn : (((s.setPort n { s.port n with markSeen := true }).modPort n
        (fun p => { p with markerOff := offset })).setMer { s.mer with marked := true }).port n =
        { s.port n with markSeen := true, markerOff := offset } := by
      rw [modPort_def, port_setPort]
      exact port_setPort ..
    exact ⟨rfl, congrArg Port.markerOff hn, congrArg Port.markSeen hn, hn⟩

/-! ### The Gazetteer and ALIVE (R36, R349) -/

theorem exec_gazetteerBuild {s : State} (hp : s.pins.pwrgood = true) (h : s.rst.phase = .fuse)
    (hg : s.gazBuilt = false) : exec .gazetteerBuild s = .next (fin s { s with gazBuilt := true }) := by
  have he : exec .gazetteerBuild s = answer s _ := rfl
  rw [he, answer_on _ _ hp]
  simp [h, hg]

theorem exec_aliveToggle {s : State} {b : Bool} (hp : s.pins.pwrgood = true) (hc : s.mer.count.toNat % 1024 = 0)
    (hg : s.gazBuilt = true) (hf : s.flt.fatal = false) (ha : s.pins.aliveAt ≠ some s.elapsed)
    (hb : s.pins.alive = some b) : exec .aliveToggle s =
      .next (fin s { s with pins := { s.pins with alive := some (!b), aliveAt := some s.elapsed } }) := by
  have he : exec .aliveToggle s = answer s _ := rfl
  rw [he, answer_on _ _ hp]
  simp [hc, hg, hf, ha, hb]

theorem exec_aliveToggle_of_fatal {s : State} (hp : s.pins.pwrgood = true) (hf : s.flt.fatal = true) :
    exec .aliveToggle s = .next (fin s s) := by
  have he : exec .aliveToggle s = answer s _ := rfl
  rw [he, answer_on _ _ hp]
  simp [hf]

/-- Settles O15: the branches of the two commands. -/
theorem gazetteerAndAlive : Obligations.GazetteerAndAlive :=
  ⟨fun _ => exec_gazetteerBuild, fun _ _ => exec_aliveToggle, fun _ => exec_aliveToggle_of_fatal⟩

end Sys2Proof.Proofs

/-! Garublink ports: training, recovery, GLK_CTRL and the end of stack-down signalling (R93–R97, R114–R118, R121,
R124–R126). -/

namespace Sys2Proof.Proofs

open Sys2Proof.Machine
open Sys2Proof.Safety

theorem ne_default_of_st {p : Port} (h : p.st ≠ .off) : p ≠ {} := fun e => h (e ▸ rfl)

/-! ### Training (R96, R97, R107) -/

theorem widthOf_isSome_of_pair {lanes : BitVec 4}
    (h : lanes.getLsbD 0 = true ∧ lanes.getLsbD 1 = true ∨ lanes.getLsbD 2 = true ∧ lanes.getLsbD 3 = true) :
    (widthOf lanes).isSome = true := by
  decide +revert

/-- The widths that R97 step 2 gives. -/
theorem widthOf_of_margin {ok : BitVec 4} {w : BitVec 2} {pair : Bool}
    (h : w = 2 ∧ pair = false ∧ ok = 0xF ∨
      w = 1 ∧ pair = false ∧ ok ≠ 0xF ∧ ok.extractLsb' 0 2 = 3 ∨
      w = 1 ∧ pair = true ∧ ok.extractLsb' 0 2 ≠ 3 ∧ ok.extractLsb' 2 2 = 3) : widthOf ok = some (w, pair) := by
  rcases h with ⟨rfl, rfl, rfl⟩ | ⟨rfl, rfl, h⟩ | ⟨rfl, rfl, h⟩
  · rfl
  · decide +revert
  · decide +revert

theorem exec_portDetectSignal {s : State} {n : Nat} {lanes : BitVec 4} (hp : s.pins.pwrgood = true)
    (hn : portPresent s.variant n = true) (hs : (s.port n).st = .detect) (hl : (widthOf lanes).isSome = true) :
    exec (.portDetectSignal n lanes) s = .next (fin s (s.setPort n { (s.port n).quiet with
      signal := lanes, st := .train, identSeen := false, versionOk := true, descCredit := 0, dataCredit := 0,
      mgtInUse := 0, mgtRspCr := 0, evtCr := 0 })) := by
  refine (answer_on s _ hp).trans ?_
  simp [hn, hs, hl, Port.quiet]

theorem trainEnds_of_train {s : State} {n : Nat} (h : (s.port n).st = .train) :
    trainEnds s n = s.setPort n { s.port n with st := .detect, width := 0, pair := false, inUse := 0 } := by
  simp [trainEnds, h, Port.noLanes]

/-- The port after a TRAIN flit in TRAIN, with the payload as R107 divides it. -/
def portIdentified (p : Port) (payload : List Byte) : Port :=
  { p with
    identSeen := true
    versionOk := (payByte payload 0).extractLsb' 4 4 = 1
    hostSeen := payByte payload 2 ++ payByte payload 3 ++ payByte payload 4
    preset := (payByte payload 5).extractLsb' 0 4
    widthAsked := (payByte payload 6).toNat }

theorem trainFlit_of_train {s : State} {n : Nat} (h : (s.port n).st = .train) (payload : List Byte) :
    trainFlit s n payload = s.setPort n (portIdentified (s.port n) payload) := by
  simp [trainFlit, h, portIdentified]

section TrainFlit

variable {s : State} {n : Nat} {header : BitVec 128} {head ident asks tail : List Byte} (hp : s.pins.pwrgood = true)
  (hn : portPresent s.variant n = true) (hs : (s.port n).st = .train) (hh : header.extractLsb' 124 4 = 5)
include hp hn hs hh

theorem exec_trainFlitReceive_ok (hv : (payByte (head ++ ident ++ asks ++ tail) 0).extractLsb' 4 4 = 1) :
    exec (.trainFlitReceive n header head ident asks tail) s = .next (fin s
      (s.setPort n { portIdentified (s.port n) (head ++ ident ++ asks ++ tail) with versionOk := true })) := by
  have hk : portIdentified (s.port n) (head ++ ident ++ asks ++ tail) =
      { portIdentified (s.port n) (head ++ ident ++ asks ++ tail) with versionOk := true } := by
    simp only [portIdentified, hv, decide_true]
  refine answer_next hp ?_
  simp only [hn, hh, hs, trainFlit_of_train hs, port_setPort]
  rw [hk]
  rfl

theorem exec_trainFlitReceive_version (hv : (payByte (head ++ ident ++ asks ++ tail) 0).extractLsb' 4 4 ≠ 1) :
    exec (.trainFlitReceive n header head ident asks tail) s = .next (fin s
      ((s.setPort n (portIdentified (s.port n) (head ++ ident ++ asks ++ tail))).setPort n
        { portIdentified (s.port n) (head ++ ident ++ asks ++ tail) with
          st := .detect, width := 0, pair := false, inUse := 0 })) := by
  have hk : (portIdentified (s.port n) (head ++ ident ++ asks ++ tail)).versionOk = false := decide_eq_false hv
  have ht : ((s.setPort n (portIdentified (s.port n) (head ++ ident ++ asks ++ tail))).port n).st = .train :=
    (congrArg Port.st (port_setPort ..)).trans hs
  have he := trainEnds_of_train ht
  rw [port_setPort] at he
  have hst : (portIdentified (s.port n) (head ++ ident ++ asks ++ tail)).st = .train := hs
  refine answer_next hp ?_
  simp only [hn, hh, hs, trainFlit_of_train hs, port_setPort, hk, hst, he]
  rfl

end TrainFlit

/-- The events `evs` are detected, in order. -/
def detect (s : State) (evs : List Detected) : State :=
  { s with flt := { s.flt with detected := s.flt.detected ++ evs } }

theorem keeps_detect {l : List Part} {s t : State} {evs : List Detected} (h : Keeps l s t) (hl : Part.flt ∈ l) :
    Keeps l s (detect t evs) := h.setFlt hl

theorem detect_detect (s : State) (e e' : List Detected) : detect (detect s e) e' = detect s (e ++ e') := by
  simp [detect]

theorem detect_nil (s : State) : detect s [] = s := by
  simp [detect]

theorem ite_raise (s : State) (c : Prop) [Decidable c] (src inst : Nat) :
    (if c then raise s src inst else s) =
      detect s (if c then [{ src := src, inst := inst, detail := 0 }] else []) := by
  split
  · rfl
  · exact (detect_nil s).symm

/-- The events of a training or recovery that has completed (R335). -/
def trainEvents (s : State) (n : Nat) : List Detected :=
  (if (s.port n).width = 1 ∧ (s.port n).st = .active then [{ src := 0x00, inst := n, detail := 0 }] else []) ++
    (if (s.port n).foreign = true ∧ (bondOf s.tables n).isSome = true then [{ src := 0x04, inst := n, detail := 0 }]
      else [])

theorem trainRaises_eq (s : State) (n : Nat) : trainRaises s n = detect s (trainEvents s n) := by
  simp only [trainRaises, trainEvents, Bool.and_eq_true, decide_eq_true_eq, ite_raise, detect_detect]
  rfl

/-- The port after a training that has found `w` lanes (R97 steps 3 to 5). -/
def portTrained (s : State) (n : Nat) (ok : BitVec 4) (w : BitVec 2) (pair : Bool) : Port :=
  { (s.port n).quiet.lanesFound ok w pair with
    st := if s.flt.fatal then .down else .active
    foreign := foreignNow s n
    rxSeq := 0
    txSeq := 0
    rxAny := false
    descFree := 1024
    dataFree := 2048
    descCredit := if grantsFull s then 1024 else 0
    dataCredit := if grantsFull s then 2048 else 0
    ctrlOut := initialGrant (grantsFull s)
    ctrlGap := 31
    mgtGap := 142
    ackGap := 0 }

theorem exec_trainingComplete {s : State} {n : Nat} {ok : BitVec 4} {w : BitVec 2} {pair : Bool}
    (hp : s.pins.pwrgood = true) (hn : portPresent s.variant n = true) (hs : (s.port n).st = .train)
    (hi : (s.port n).identSeen = true) (hv : (s.port n).versionOk = true) (hw : widthOf ok = some (w, pair)) :
    exec (.trainingComplete n ok) s =
      .next (fin s (budgetDue (trainRaises (s.setPort n (portTrained s n ok w pair)) n))) := by
  refine (answer_on s _ hp).trans ?_
  simp only [hn, hs, hi, hv, hw]
  rfl

theorem trained_events (s : State) (n : Nat) (ok : BitVec 4) (w : BitVec 2) (pair : Bool) :
    trainEvents (s.setPort n (portTrained s n ok w pair)) n =
      (if w = 1 ∧ s.flt.fatal = false then [{ src := 0x00, inst := n, detail := 0 }] else []) ++
        (if foreignNow s n = true ∧ (bondOf s.tables n).isSome = true then [{ src := 0x04, inst := n, detail := 0 }]
          else []) := by
  have hp : (s.setPort n (portTrained s n ok w pair)).port n = portTrained s n ok w pair := port_setPort ..
  have hs : (portTrained s n ok w pair).st = .active ↔ s.flt.fatal = false := by
    cases hf : s.flt.fatal <;> simp [portTrained, hf]
  simp only [trainEvents, hp, hs]
  rfl

/-- Settles O16: the rules of the four training commands. That a completed training starts a new stream of bits and
its gaps are the model's choices (logs 133, 152). -/
theorem portTraining : Obligations.PortTraining := by
  refine ⟨?_, ?_, ?_, ?_⟩
  · intro s n lanes hp hn hs hl
    exact exec_portDetectSignal hp hn hs (widthOf_isSome_of_pair hl)
  · intro s n hp hs
    exact ⟨answer_next hp (trainEnds_of_train hs), answer_next hp (trainEnds_of_train hs)⟩
  · intro s n header head ident asks tail payload hp hn hs hh hpay
    subst hpay
    refine ⟨fun hv => ?_, fun hv => ?_⟩
    · rw [exec_trainFlitReceive_ok hp hn hs hh hv]
      rfl
    · refine ⟨_, exec_trainFlitReceive_version hp hn hs hh hv, ?_⟩
      rw [fin_port, port_setPort]
      refine ⟨rfl, (((Keeps.refl _ s).setPort (by decide)).setPort (by decide)).fin, fun m hm => ?_⟩
      rw [fin_port, port_setPort_ne _ _ _ _ hm, port_setPort_ne _ _ _ _ hm]
  · intro s n ok w pair hp hn hs hv hi hw
    refine ⟨_, exec_trainingComplete hp hn hs hi hv (widthOf_of_margin hw), ?_⟩
    rw [trainRaises_eq, trained_events, ← detect_detect]
    refine ⟨port_setPort s n (portTrained s n ok w pair), rfl, rfl, ?_, fun m hm => ?_⟩
    · exact (((keeps_detect (keeps_detect ((Keeps.refl _ s).setPort (by decide)) (by decide)) (by decide)).budgetDue
        (by decide))).fin
    · exact port_setPort_ne s n m _ hm

end Sys2Proof.Proofs

/-! Garublink ports: recovery, GLK_CTRL, and the end of stack-down signalling (R96, R114–R118, R121, R126, R304). -/

namespace Sys2Proof.Proofs

open Sys2Proof.Machine
open Sys2Proof.Safety

/-! ### A port that stops: what waits on it, its session and its completions -/

theorem keeps_setHeldReqs {l : List Part} {s t : State} {v : List HeldAcc} {w : List Req} (h : Keeps l s t)
    (hl : Part.heldAcc ∈ l) (hr : Part.reqs ∈ l) : Keeps l s { t with heldAcc := v, reqs := w } := fun p hp => by
  cases p with
  | heldAcc => exact absurd hl hp
  | reqs => exact absurd hr hp
  | _ => exact h _ hp

/-- The parts that a port which stops touches. -/
def portDownParts : List Part := [.ports, .paths, .heldAcc, .reqs, .flw, .flt, .queues]

@[simp] theorem raise_port (s : State) (src i : Nat) (d : Word) (n : Nat) : (raise s src i d).port n = s.port n := rfl

theorem raise_flt (s : State) (src i : Nat) (d : Word) :
    (raise s src i d).flt = { s.flt with detected := s.flt.detected ++ [{ src := src, inst := i, detail := d }] } := rfl

@[simp] theorem budgetDue_port (s : State) (n : Nat) : (budgetDue s).port n = s.port n := rfl

theorem keeps_returnEvents {l : List Part} {s t : State} (h : Keeps l s t) (hl : Part.queues ∈ l) (ms : List CtrlMsg) :
    Keeps l s (returnEvents t ms) := by
  induction ms with
  | nil => exact h
  | cons m ms ih =>
    cases m with
    | event q r => exact ih.setEvq hl
    | credit _ _ _ => exact ih

theorem keeps_sendCmp {l : List Part} {s t : State} {n : Nat} {o : Bool} {c : Cmp} (h : Keeps l s t)
    (hp : Part.ports ∈ l) (hf : Part.flt ∈ l) : Keeps l s (sendCmp t n o c) := by
  unfold sendCmp
  dsimp only
  split
  · exact h.setPort hp
  split
  · exact h.setPort hp
  · exact (h.setPort hp).raise _ _ _ hf

theorem keeps_portDown {l : List Part} {s t : State} {n : Nat} (h : Keeps l s t) (hl : portDownParts ⊆ l) :
    Keeps l s (portDown t n) := by
  have hp : Part.ports ∈ l := hl (by decide)
  exact Keeps.budgetDue (Keeps.foldl (fun _ _ k => keeps_sendCmp k hp (hl (by decide))) _
    (keeps_setHeldReqs (((keeps_returnEvents h (hl (by decide)) _).setPort hp).setPath (hl (by decide)))
      (hl (by decide)) (hl (by decide)))) (hl (by decide))

/-- Ports that differ at most in the completions that wait and in the count of those discarded. -/
def SameButCmps (p q : Port) : Prop := ∃ out k, q = { p with cmpOut := out, cmpDiscard := k }

theorem SameButCmps.refl (p : Port) : SameButCmps p p := ⟨p.cmpOut, p.cmpDiscard, rfl⟩

theorem SameButCmps.trans {p q r : Port} (h : SameButCmps p q) (k : SameButCmps q r) : SameButCmps p r := by
  obtain ⟨_, _, rfl⟩ := h
  obtain ⟨_, _, rfl⟩ := k
  exact ⟨_, _, rfl⟩

theorem sameButCmps_setPort {s : State} {m : Nat} {v : Port} (h : SameButCmps (s.port m) v) (n : Nat) :
    SameButCmps (s.port n) ((s.setPort m v).port n) := by
  by_cases e : n = m
  · subst e
    rwa [port_setPort]
  · rw [port_setPort_ne s m n v e]
    exact .refl _

theorem sameButCmps_sendCmp (s : State) (n : Nat) (o : Bool) (c : Cmp) (m : Nat) :
    SameButCmps (s.port m) ((sendCmp s n o c).port m) := by
  unfold sendCmp
  dsimp only
  split
  · exact sameButCmps_setPort ⟨_, _, rfl⟩ m
  split
  · exact sameButCmps_setPort ⟨_, _, rfl⟩ m
  · exact sameButCmps_setPort ⟨_, _, rfl⟩ m

theorem sameButCmps_sendAll (n : Nat) (cs : List Cmp) (s : State) (m : Nat) :
    SameButCmps (s.port m) ((cs.foldl (fun s c => sendCmp s n true c) s).port m) := by
  induction cs generalizing s with
  | nil => exact .refl _
  | cons c cs ih => exact (sameButCmps_sendCmp s n true c m).trans (ih _)

theorem returnEvents_ports (s : State) (ms : List CtrlMsg) : (returnEvents s ms).ports = s.ports := by
  induction ms with
  | nil => rfl
  | cons m ms ih =>
    cases m with
    | event q r => exact ih
    | credit _ _ _ => exact ih

theorem portDown_port (s : State) (n : Nat) : SameButCmps (s.port n).freeDescs.quiet ((portDown s n).port n) := by
  have hr : (returnEvents s (s.port n).ctrlOut).port n = s.port n := by
    rw [State.port, returnEvents_ports, State.port]
  have h := sameButCmps_sendAll n (s.port n).unsent
    { closeSession ((returnEvents s (s.port n).ctrlOut).modPort n (fun p => p.freeDescs.quiet)) n with
      heldAcc := (returnEvents s (s.port n).ctrlOut).heldAcc.filter (fun a => a.via.port ≠ n)
      reqs := (returnEvents s (s.port n).ctrlOut).reqs.map
        (fun r => if r.port = n && r.eng.isNone then { r with orphan := true } else r) } n
  have hq : ((returnEvents s (s.port n).ctrlOut).modPort n (fun p => p.freeDescs.quiet)).port n =
      (s.port n).freeDescs.quiet := by
    rw [modPort_def, port_setPort, hr]
  rw [← hq]
  exact h

/-- With no completion and no event record waiting, the port stops as it stands. -/
theorem portDown_port_of_idle {s : State} {n : Nat} (hu : (s.port n).unsent = []) (hc : (s.port n).ctrlOut = []) :
    (portDown s n).port n = (s.port n).freeDescs.quiet := by
  unfold portDown
  rw [hu, hc]
  exact port_setPort ..

theorem portDown_flt_of_idle {s : State} {n : Nat} (hu : (s.port n).unsent = []) (hc : (s.port n).ctrlOut = []) :
    (portDown s n).flt = s.flt := by
  unfold portDown
  rw [hu, hc]
  rfl

theorem sendCmp_paths (s : State) (n : Nat) (o : Bool) (c : Cmp) : (sendCmp s n o c).paths = s.paths :=
  keeps_sendCmp (l := [.ports, .flt]) (Keeps.refl _ s) (by decide) (by decide) .paths (by decide)

theorem portDown_session (s : State) (n : Nat) : ((portDown s n).path n).session = none := by
  have h : ∀ (cs : List Cmp) (t : State), (cs.foldl (fun s c => sendCmp s n true c) t).paths = t.paths := by
    intro cs
    induction cs with
    | nil => exact fun _ => rfl
    | cons c cs ih => exact fun t => (ih _).trans (sendCmp_paths t n true c)
  unfold portDown
  rw [State.path]
  dsimp only [budgetDue]
  rw [h]
  exact congrArg Path.session (path_setPath _ n _)

theorem portDown_due (s : State) (n : Nat) : (portDown s n).flw.due = true := rfl

/-! ### The answer to a management access, port by port -/

theorem respond_port (s : State) (via : Via) (write : Bool) (addr : Word) (st : Status) (data : Word) (m : Nat) :
    ∃ wait out, (respond s via write addr st data).port m = { s.port m with mgtIn := wait, mgtOut := out } := by
  unfold respond
  split
  · exact ⟨(s.port m).mgtIn, (s.port m).mgtOut, rfl⟩
  · by_cases e : m = via.port
    · subst e
      exact ⟨_, _, port_setPort s via.port _⟩
    · exact ⟨(s.port m).mgtIn, (s.port m).mgtOut, port_setPort_ne s via.port m _ e⟩

theorem respond_port_ne {s : State} {via : Via} {m : Nat} (h : m ≠ via.port) (write : Bool) (addr : Word) (st : Status)
    (data : Word) : (respond s via write addr st data).port m = s.port m := by
  rcases respond_frame s via write addr st data with e | ⟨p, e⟩ <;> rw [e]
  exact port_setPort_ne s via.port m p h

theorem respond_paths (s : State) (via : Via) (write : Bool) (addr : Word) (st : Status) (data : Word) :
    (respond s via write addr st data).paths = s.paths :=
  ((Keeps.refl [.ports] s).respond (by decide)) .paths (by decide)

/-! ### Recovery (R96, R114, R115) -/

/-- The port in its first attempt at a recovery. -/
def portRecovering (p : Port) : Port :=
  { p with
    st := .recovery
    secondTry := false
    recoveries := sat p.recoveries 1
    nakSeq := none
    nakRun := 0
    identSeen := false
    versionOk := true }

theorem flitsFlow_of_st {s : State} {n : Nat} (hn : portPresent s.variant n = true)
    (hs : (s.port n).st = .active ∨ (s.port n).st = .down) : flitsFlow s n = true := by
  simp [flitsFlow, hn, hs]

theorem enterRecovery_raising {s : State} {n : Nat} (h : flitsFlow s n = true) :
    enterRecovery s n true = raise (budgetDue (s.setPort n (portRecovering (s.port n)))) 0x03 n := by
  rw [enterRecovery, h]
  rfl

theorem enterRecovery_silent {s : State} {n : Nat} (h : flitsFlow s n = true) :
    enterRecovery s n false = budgetDue (s.setPort n (portRecovering (s.port n))) := by
  rw [enterRecovery, h]
  rfl

/-- A loss of signal shows in GLK_LANES before the recovery starts. -/
theorem enterRecovery_signal {s : State} {n : Nat} (h : flitsFlow s n = true)
    (hs : (s.port n).st = .active ∨ (s.port n).st = .down) (v : BitVec 4) :
    enterRecovery (s.setPort n { s.port n with signal := v }) n true =
      raise (budgetDue (s.setPort n (portRecovering { s.port n with signal := v }))) 0x03 n := by
  have hst : ({ s.port n with signal := v } : Port).st ≠ .off := by
    rcases hs with hs | hs <;> exact hs ▸ nofun
  have hf : flitsFlow (s.setPort n { s.port n with signal := v }) n = true := by
    rw [flitsFlow, port_setPort]
    exact h
  rw [enterRecovery_raising hf, port_setPort, setPort_setPort _ _ _ _ (ne_default_of_st hst)]

theorem exec_recoveryEntry {s : State} {n : Nat} (hp : s.pins.pwrgood = true) (h : flitsFlow s n = true)
    (hs : (s.port n).st = .active ∨ (s.port n).st = .down) (why : RetrainTrigger) :
    exec (.recoveryEntry n why) s = .next (fin s (raise (budgetDue (s.setPort n (portRecovering { s.port n with
      signal := match why with | .signalLoss gone => (s.port n).signal &&& ~~~gone | _ => (s.port n).signal })))
      0x03 n)) := by
  cases why with
  | signalLoss gone =>
    refine answer_next hp ?_
    simp only [h, if_true]
    exact enterRecovery_signal h hs _
  | _ => exact answer_next hp (enterRecovery_raising h)

/-- The port that has found all four lanes again (R115). -/
def portRecovered (p : Port) : Port :=
  { p with
    st := .active
    width := 2
    pair := false
    failed := 0
    inUse := 0xF
    foreign := false
    replayBuf := afterSeq p.replayBuf p.lastGood
    resend := afterSeq p.replayBuf p.lastGood
    resendNak := false
    nakDue := false
    discarding := false
    rxLanes := []
    rxBits := []
    txBits := []
    secondTry := false }

theorem trainEvents_of_full {s : State} {n : Nat} (hw : (s.port n).width = 2) (hf : (s.port n).foreign = false) :
    trainEvents s n = [] := by
  simp [trainEvents, hw, hf]

theorem exec_recoveryComplete {s : State} {n : Nat} (hp : s.pins.pwrgood = true) (hn : portPresent s.variant n = true)
    (hs : (s.port n).st = .recovery) (hi : (s.port n).identSeen = true) (hf : foreignNow s n = false)
    (hft : s.flt.fatal = false) :
    exec (.recoveryComplete n 0xF) s = .next (fin s (budgetDue (s.setPort n (portRecovered (s.port n))))) := by
  have hq : (s.setPort n (portRecovered (s.port n))).port n = portRecovered (s.port n) := port_setPort ..
  have he : trainRaises (s.setPort n (portRecovered (s.port n))) n = s.setPort n (portRecovered (s.port n)) := by
    rw [trainRaises_eq, trainEvents_of_full (congrArg Port.width hq) (congrArg Port.foreign hq), detect_nil]
  refine answer_next hp ?_
  have hw : widthOf 0xF = some (2, false) := rfl
  simp only [hn, hs, hi, hf, hft, hw]
  exact congrArg budgetDue he

theorem recoveryFails_first {s : State} {n : Nat} (hs : (s.port n).st = .recovery)
    (ht : (s.port n).secondTry = false) :
    recoveryFails s n = s.setPort n { s.port n with secondTry := true, identSeen := false, versionOk := true } := by
  simp [recoveryFails, hs, ht]

/-- The port that enters FAILED, before what waits on it is discarded. -/
def portFailing (p : Port) : Port := { p.noLanes with st := .failed, orderedSet := none }

theorem recoveryFails_second {s : State} {n : Nat} (hs : (s.port n).st = .recovery)
    (ht : (s.port n).secondTry = true) :
    recoveryFails s n = raise (portDown (s.setPort n (portFailing (s.port n))) n) 0x01 n := by
  simp only [recoveryFails, hs, ht, portFailed]
  rfl

/-! ### GLK_CTRL (R121) -/

/-- GLK_CTRL's retrain and reset bits. -/
def glkStart (n : Nat) (data : Word) (s : State) : State :=
  if data.getLsbD 22 then portReset (if data.getLsbD 23 then enterRecovery s n false else s) n
  else if data.getLsbD 23 then enterRecovery s n false else s

/-- GLK_CTRL.disable is written. -/
def withDisable (s : State) (n : Nat) (d : Bool) : State := s.setPort n { s.port n with disable := d }

theorem withDisable_port (s : State) (n : Nat) (d : Bool) : (withDisable s n d).port n = { s.port n with disable := d } :=
  port_setPort ..

/-- GLK_CTRL's last step: OFF where it disables the port, out of OFF where the port may run. -/
def glkEnd (n : Nat) (d : Bool) (s : State) : State :=
  if d then portOff s n
  else if (s.port n).st = .off then s.setPort n { s.port n with st := idleSt s n } else s

theorem glkEnd_running {n : Nat} {s : State} (h : (s.port n).st ≠ .off) : glkEnd n false s = s :=
  if_neg h

theorem glkEnd_idle {n : Nat} {s : State} (h : (s.port n).st = .off) :
    glkEnd n false s = s.setPort n { s.port n with st := idleSt s n } :=
  if_pos h

theorem glkCtrlWrite_eq (n : Nat) (data : Word) (s : State) : glkCtrlWrite n data s =
    (.ok, glkEnd n (data.getLsbD 21) (withDisable (glkStart n data s) n (data.getLsbD 21))) := rfl

theorem glkCtrlWrite_retrain {s : State} {n : Nat} (h : flitsFlow s n = true) : glkCtrlWrite n 0x800000 s =
    (.ok, withDisable (budgetDue (s.setPort n (portRecovering (s.port n)))) n false) := by
  have hb : glkStart n 0x800000 s = enterRecovery s n false := rfl
  have hd : BitVec.getLsbD (0x800000 : Word) 21 = false := rfl
  have hp : ((withDisable (budgetDue (s.setPort n (portRecovering (s.port n)))) n false).port n).st ≠ .off := by
    rw [withDisable_port, budgetDue_port, port_setPort]
    exact nofun
  rw [glkCtrlWrite_eq, hb, hd, enterRecovery_silent h, glkEnd_running hp]

/-- What a port reset leaves of a port (R126). -/
def portCleared (p : Port) : Port :=
  { disable := p.disable
    fecCorr := p.fecCorr
    fecUncorr := p.fecUncorr
    replays := p.replays
    recoveries := p.recoveries
    cmpDiscard := p.cmpDiscard }

/-- The last steps of a port reset: the path's words, and the port's instances of R339. -/
def portWiped (s : State) (n : Nat) : State :=
  foldS [0, 1, 2, 3, 4, 5, 6] (fun s src => resetInst s src n) (budgetDue (emptyPath s n))

theorem keeps_resetInst {l : List Part} {s t : State} {src i : Nat} (h : Keeps l s t) (hf : Part.flt ∈ l) :
    Keeps l s (resetInst t src i) := h.setFlt hf

theorem keeps_portWiped {l : List Part} {s t : State} {n : Nat} (h : Keeps l s t) (hp : Part.paths ∈ l)
    (hw : Part.flw ∈ l) (hf : Part.flt ∈ l) : Keeps l s (portWiped t n) :=
  Keeps.foldS (fun _ _ k => keeps_resetInst k hf) _ ((h.setPath hp).budgetDue hw)

theorem portWiped_port (s : State) (n m : Nat) : (portWiped s n).port m = s.port m :=
  (keeps_portWiped (l := [.paths, .flw, .flt]) (Keeps.refl _ s) (by decide) (by decide) (by decide)).port_eq
    (by decide) m

theorem portWiped_session (s : State) (n : Nat) : ((portWiped s n).path n).session = (s.path n).session := by
  have k : Keeps [.flt] (budgetDue (emptyPath s n)) (portWiped s n) :=
    Keeps.foldS (fun _ _ k => keeps_resetInst k (by decide)) _ (Keeps.refl _ _)
  have h : (budgetDue (emptyPath s n)).path n = (emptyPath s n).path n := rfl
  rw [k.path_eq (by decide), h, emptyPath, modPath_def, path_setPath]

theorem portClear_eq (s : State) (n : Nat) : portClear s n =
    portWiped ((portDown s n).setPort n (portCleared ((portDown s n).port n))) n := rfl

theorem portClear_port (s : State) (n : Nat) : (portClear s n).port n = portCleared ((portDown s n).port n) := by
  rw [portClear_eq, portWiped_port, port_setPort]

theorem portClear_session (s : State) (n : Nat) : ((portClear s n).path n).session = none := by
  rw [portClear_eq, portWiped_session]
  exact portDown_session s n

theorem keeps_portClear {l : List Part} {s t : State} {n : Nat} (h : Keeps l s t) (hl : portDownParts ⊆ l) :
    Keeps l s (portClear t n) := by
  rw [portClear_eq]
  exact keeps_portWiped ((keeps_portDown h hl).setPort (hl (by decide))) (hl (by decide)) (hl (by decide)) (hl (by decide))

theorem keeps_merRefLost {l : List Part} {s t : State} {k : Nat} (h : Keeps l s t) (hm : Part.mer ∈ l)
    (hf : Part.flt ∈ l) : Keeps l s (merRefLost t k) := by
  unfold merRefLost merHoldover
  split
  · exact h
  · exact h.setMer hm
  · exact (h.setMer hm).raise _ _ _ hf
  · split
    · exact h.setMer hm
    · exact h

theorem keeps_merPortLost {l : List Part} {s t : State} {n : Nat} (h : Keeps l s t) (hm : Part.mer ∈ l)
    (hf : Part.flt ∈ l) : Keeps l s (merPortLost t n) := by
  unfold merPortLost
  split
  · exact keeps_merRefLost h hm hf
  · exact h

/-- The parts that a port reset touches. -/
def portResetParts : List Part := .mer :: portDownParts

theorem keeps_portReset {s : State} {n : Nat} : Keeps portResetParts s (portReset s n) :=
  keeps_portClear (keeps_merPortLost (Keeps.refl _ s) (by decide) (by decide)) (by decide)

theorem portReset_port (s : State) (n : Nat) : ∃ k, (portReset s n).port n =
    { portCleared (s.port n) with cmpDiscard := k } := by
  have hm : (merPortLost s n).ports = s.ports :=
    keeps_merPortLost (l := [.mer, .flt]) (Keeps.refl _ s) (by decide) (by decide) .ports (by decide)
  have hn : (merPortLost s n).port n = s.port n := by rw [State.port, hm, State.port]
  obtain ⟨out, k, h⟩ := portDown_port (merPortLost s n) n
  refine ⟨k, ?_⟩
  rw [portReset, portClear_port, h, hn]
  rfl

theorem underLogic_of_keeps {l : List Part} {s t : State} (h : Keeps l s t) (hl : Part.bst ∉ l) (u i : Nat) :
    underLogic t u i = underLogic s u i := by
  have e : t.bst = s.bst := h .bst hl
  rw [underLogic, e, underLogic]

theorem idleSt_of_free {s : State} {n : Nat} (hd : (s.port n).disable = false) (ho : domOn s (1 + n) = true)
    (hu : underLogic s 1 n = false) : idleSt s n = .detect := by
  rw [idleSt, hd, ho, hu]
  rfl

/-- A port that may run leaves a reset in DETECT. -/
theorem glkCtrlWrite_reset {s : State} {n : Nat} (hd : domOn s (1 + n) = true) (hu : underLogic s 1 n = false) :
    ∃ t, glkCtrlWrite n 0x400000 s = (.ok, t) ∧
      (∃ k, t.port n = { portCleared (s.port n) with disable := false, st := .detect, cmpDiscard := k }) ∧
      (t.path n).session = none ∧ Keeps portResetParts s t := by
  obtain ⟨k, hk⟩ := portReset_port s n
  have hr : Keeps portResetParts s (withDisable (portReset s n) n false) := keeps_portReset.setPort (by decide)
  have hq : (withDisable (portReset s n) n false).port n =
      { portCleared (s.port n) with disable := false, cmpDiscard := k } := by
    rw [withDisable_port, hk]
  have hi := idleSt_of_free (congrArg Port.disable hq) ((hr.domOn_eq (by decide) _).trans hd)
    ((underLogic_of_keeps hr (by decide) 1 n).trans hu)
  have hb : glkStart n 0x400000 s = portReset s n := rfl
  have hw : BitVec.getLsbD (0x400000 : Word) 21 = false := rfl
  have he := glkCtrlWrite_eq n 0x400000 s
  rw [hb, hw, glkEnd_idle (congrArg Port.st hq), hi, hq] at he
  refine ⟨_, he, ⟨k, ?_⟩, ?_, hr.setPort (by decide)⟩
  · rw [port_setPort]
  · have hs := ((Keeps.refl [.ports] (portReset s n)).setPort (i := n)
      (v := { (portReset s n).port n with disable := false }) (by decide)).setPort (i := n)
      (v := { portCleared (s.port n) with disable := false, st := .detect, cmpDiscard := k }) (by decide)
    rw [withDisable, hs.path_eq (by decide)]
    exact portClear_session (merPortLost s n) n

/-- A port that is disabled ends in OFF. -/
theorem portOff_port (s : State) (n : Nat) :
    ((portOff s n).port n).st = .off ∧ ((portOff s n).port n).disable = (s.port n).disable := by
  unfold portOff
  split
  next h => exact ⟨h, rfl⟩
  next =>
    obtain ⟨out, k, h⟩ := portDown_port
      (s.modPort n (fun p => { p.noLanes with st := .off, signal := 0, orderedSet := none })) n
    rw [h, modPort_def, port_setPort]
    exact ⟨rfl, rfl⟩

theorem keeps_portOff {l : List Part} {s t : State} {n : Nat} (h : Keeps l s t) (hl : portDownParts ⊆ l) :
    Keeps l s (portOff t n) := by
  unfold portOff
  split
  · exact h
  · exact keeps_portDown (h.setPort (hl (by decide))) hl

theorem glkCtrlWrite_disable (s : State) (n : Nat) :
    glkCtrlWrite n 0x200000 s = (.ok, portOff (withDisable s n true) n) := rfl

/-- The three commands that write GLK_CTRL. -/
theorem glkCtrl_served {s t : State} {via : Via} {n : Nat} {data : Word} (hn : n < 8)
    (h : Served s via true (.glk n) 0 data) (hf : glkCtrlWrite n data s = (.ok, t)) :
    exec (.glkRetrain via n data) s = .next (fin s (respond t via true (addrOf (.glk n) 0) .ok 0)) ∧
    exec (.glkPortReset via n data) s = .next (fin s (respond t via true (addrOf (.glk n) 0) .ok 0)) ∧
    exec (.glkDisableWrite via n data) s = .next (fin s (respond t via true (addrOf (.glk n) 0) .ok 0)) := by
  have he := answer_mgmtWrite h hf
  have hc : answer s (if n < 8 then mgmtWrite s via (.glk n) 0 data (glkCtrlWrite n data) else s) = _ :=
    (congrArg (answer s) (if_pos hn)).trans he
  exact ⟨hc, hc, hc⟩

/-- Settles O17: the rules of recovery and of GLK_CTRL. That a recovery starts a new stream of bits is the model's
choice (log 133). -/
theorem portRecoveryAndControl : Obligations.PortRecoveryAndControl := by
  refine ⟨?_, ?_, ?_, ?_, ?_, ?_, ?_⟩
  · intro s n why hp hn hs
    exact exec_recoveryEntry hp (flitsFlow_of_st hn hs) hs why
  · intro s n hp hn hs hi hf hft
    refine ⟨_, exec_recoveryComplete hp hn hs hi hf hft, ?_, rfl, ?_, fun m hm => ?_⟩
    · rw [fin_port, budgetDue_port, port_setPort]
      rfl
    · exact (((Keeps.refl _ s).setPort (by decide)).budgetDue (by decide)).fin
    · rw [fin_port, budgetDue_port, port_setPort_ne s n m _ hm]
  · intro s n hp hs ht
    exact answer_next hp (recoveryFails_first hs ht)
  · intro s n hp hs ht hu hc
    have hq : (s.setPort n (portFailing (s.port n))).port n = portFailing (s.port n) := port_setPort ..
    have hu' : ((s.setPort n (portFailing (s.port n))).port n).unsent = [] := by rw [hq]; exact hu
    have hc' : ((s.setPort n (portFailing (s.port n))).port n).ctrlOut = [] := by rw [hq]; exact hc
    refine ⟨_, answer_next hp (recoveryFails_second hs ht), ?_, portDown_session _ n, ?_, portDown_due _ n, ?_⟩
    · rw [fin_port, raise_port, portDown_port_of_idle hu' hc', hq]
      rfl
    · rw [fin_flt, raise_flt, portDown_flt_of_idle hu' hc']
      rfl
    · exact ((keeps_portDown ((Keeps.refl _ s).setPort (by decide)) (by decide)).raise _ _ _ (by decide)).fin
  · intro s via n hn h hpr hs
    have hf := flitsFlow_of_st hpr (.inl hs)
    obtain ⟨wait, out, ho⟩ := respond_port (withDisable (budgetDue (s.setPort n (portRecovering (s.port n)))) n false)
      via true (addrOf (.glk n) 0) .ok 0 n
    have hq : (withDisable (budgetDue (s.setPort n (portRecovering (s.port n)))) n false).port n =
        { portRecovering (s.port n) with disable := false } := by
      rw [withDisable_port, budgetDue_port, port_setPort]
    have hk : Keeps [.ports, .flw] s (withDisable (budgetDue (s.setPort n (portRecovering (s.port n)))) n false) :=
      (((Keeps.refl _ s).setPort (by decide)).budgetDue (by decide)).setPort (by decide)
    have hk' := (hk.respond (via := via) (w := true) (a := addrOf (.glk n) 0) (st := .ok) (d := 0) (by decide)).fin
    refine ⟨_, (glkCtrl_served hn h (glkCtrlWrite_retrain hf)).1, ?_⟩
    rw [fin_port, ho, hq]
    refine ⟨rfl, rfl, rfl, hk' .flt (by decide), hk', fun m hm hv => ?_⟩
    rw [fin_port, respond_port_ne hv, withDisable, port_setPort_ne _ n m _ hm, budgetDue_port,
      port_setPort_ne s n m _ hm]
  · intro s via n hn h hd hu
    obtain ⟨t, ht, ⟨k, hk⟩, hses, hkeep⟩ := glkCtrlWrite_reset hd hu
    refine ⟨_, (glkCtrl_served hn h ht).2.1, ?_⟩
    obtain ⟨wait, out, ho⟩ := respond_port t via true (addrOf (.glk n) 0) .ok 0 n
    rw [fin_port, ho, hk, fin_path, State.path, respond_paths]
    exact ⟨rfl, rfl, rfl, rfl, rfl, rfl, rfl, rfl, rfl, hses, ((hkeep.mono (by decide)).respond (by decide)).fin⟩
  · intro s via n hn h
    refine ⟨_, (glkCtrl_served hn h (glkCtrlWrite_disable s n)).2.2, ?_⟩
    obtain ⟨wait, out, ho⟩ := respond_port (portOff (withDisable s n true) n) via true
      (addrOf (.glk n) 0) .ok 0 n
    obtain ⟨hoff, hdis⟩ := portOff_port (withDisable s n true) n
    rw [fin_port, ho]
    refine ⟨hoff, hdis.trans ?_, ((keeps_portOff ((Keeps.refl _ s).setPort (by decide)) (by decide)).respond
      (by decide)).fin⟩
    rw [withDisable_port]

/-! ### Stack-down signalling (R118) -/

/-- A port of which only the number is bounded by nothing: the domain `1 + 8` is channel 0's, which Gale closes. -/
def galeAtPortEight : State :=
  { ports := [(8, { st := .signalDown, orderedSet := some true })]
    doms := [(9, { st := .on })]
    chans := [(0, { st := .opened })] }

theorem galeAtPortEight_closes : ((galeOff (portOff galeAtPortEight 8) 9).chan 0).st = .closed := rfl

/-- Refutes O21: the ordered set of a port that no variant has (the number is not bounded by 8) ends with the domain of
a channel parked, and the channel closed with it. -/
theorem not_stackDownSignalling : ¬ Obligations.StackDownSignalling := by
  rintro ⟨-, h⟩
  obtain ⟨t, ht, -, -, hk⟩ := h galeAtPortEight 8 rfl rfl rfl rfl rfl
  have he : exec (.galeOrderedSetEnd 8) galeAtPortEight =
      .next (fin galeAtPortEight (galeOff (portOff galeAtPortEight 8) 9)) := answer_next rfl rfl
  rw [he] at ht
  cases ht
  have hc : (galeOff (portOff galeAtPortEight 8) 9).chans = galeAtPortEight.chans := hk .chans (by decide)
  have hst := galeAtPortEight_closes
  rw [State.chan, hc] at hst
  cases hst

end Sys2Proof.Proofs

/-! Garublink ports: flits received, the replay buffer and credits, and the transmit slot (R98–R112, R120, R148). -/

namespace Sys2Proof.Proofs

open Sys2Proof.Machine
open Sys2Proof.Safety

/-! ### Decoding (R99, R101) -/

theorem keeps_receiveLanes (s : State) (n : Nat) (lanes : List (List Sym10)) :
    Keeps [.ports, .tel] s (receiveLanes s n lanes) :=
  ((Keeps.refl _ s).setPort (by decide)).perf _ _ _ (by decide)

@[simp] theorem perf_port (s : State) (ev i k n : Nat) : (perf s ev i k).port n = s.port n := rfl

theorem receiveLanes_port (s : State) (n : Nat) (lanes : List (List Sym10)) : ∃ rl rb fc fu,
    (receiveLanes s n lanes).port n =
      { s.port n with rxLanes := rl, rxBits := rb, fecCorr := fc, fecUncorr := fu } :=
  ⟨_, _, _, _, port_setPort s n _⟩

theorem receiveLanes_port_ne {n m : Nat} (h : m ≠ n) (s : State) (lanes : List (List Sym10)) :
    (receiveLanes s n lanes).port m = s.port m :=
  port_setPort_ne s n m _ h

theorem receiveLanes_st (s : State) (n : Nat) (lanes : List (List Sym10)) :
    ((receiveLanes s n lanes).port n).st = (s.port n).st := by
  obtain ⟨_, _, _, _, h⟩ := receiveLanes_port s n lanes
  rw [h]

theorem st_of_flitsFlow {s : State} {n : Nat} (h : flitsFlow s n = true) : (s.port n).st ≠ .off := by
  intro e
  simp [flitsFlow, e] at h

/-- The state whose port has the flit's bits taken out of its stream. -/
def flitTaken (u : State) (n : Nat) (rest : List (Bool × Bool)) : State :=
  u.setPort n { u.port n with rxBits := rest }

theorem flitTaken_port (u : State) (n : Nat) (rest : List (Bool × Bool)) :
    (flitTaken u n rest).port n = { u.port n with rxBits := rest } := port_setPort ..

section Receive

variable {s u : State} {n : Nat} {a : Arrival} {f : RxFlit} {rest : List (Bool × Bool)} (hp : s.pins.pwrgood = true)
  (hf : flitsFlow s n = true) (hu : u = receiveLanes s n a.lanes)
include hp hf hu

theorem exec_flitReceive_none (ht : takeFlit (u.port n).rxBits = none) :
    exec (.flitReceive n a) s = .next (fin s u) := by
  subst hu
  refine answer_next hp ?_
  simp only [hf, ht]
  rfl

theorem exec_flitReceive_some (ht : takeFlit (u.port n).rxBits = some (f, rest)) :
    exec (.flitReceive n a) s = .next (fin s (flitIn (flitTaken u n rest) n a f)) := by
  subst hu
  refine answer_next hp ?_
  simp only [hf, ht]
  rfl

end Receive

theorem flitIn_discards {s : State} {n : Nat} {f : RxFlit} (h : f.bad = true ∨ f.passes (s.port n).rxSeq = false)
    (a : Arrival) : flitIn s n a f = s.setPort n (discardFlit (s.port n) f) := by
  have hc : (f.bad || !f.passes (s.port n).rxSeq) = true := by rcases h with h | h <;> simp [h]
  simp only [flitIn, hc, if_true]

theorem discardFlit_eq (p : Port) (f : RxFlit) : discardFlit p f =
    if p.discarding = true ∧ f.bad = false ∧ laterFlit p f = true then p
    else { p with nakDue := true, discarding := true } := by
  simp only [discardFlit, Bool.and_eq_true, Bool.not_eq_true', and_assoc]

/-- A port that has accepted a sequenced flit (R101, R112). -/
def portAccepted (p : Port) : Port :=
  { p with rxSeq := p.rxSeq + 1, rxAny := true, ackGap := p.ackGap + 1, discarding := false, nakDue := false }

section FlitIn

variable {s : State} {n : Nat} {f : RxFlit} (hb : f.bad = false) (hq : f.passes (s.port n).rxSeq = true)
include hb hq

theorem flitIn_idle (hk : f.header.extractLsb' 124 4 = 0) (a : Arrival) : flitIn s n a f = s := by
  simp [flitIn, hb, hq, hk]

theorem flitIn_req (hk : f.header.extractLsb' 124 4 = 1) (a : Arrival) :
    flitIn s n a f = reqFlit (s.setPort n (portAccepted (s.port n))) n f.header f.payload := by
  simp only [flitIn, hb, hq, hk]
  rfl

theorem flitIn_ctrl (hk : f.header.extractLsb' 124 4 = 3) (a : Arrival) :
    flitIn s n a f = ctrlFlit (s.setPort n (portAccepted (s.port n))) n a f.header f.payload := by
  simp only [flitIn, hb, hq, hk]
  rfl

theorem flitIn_mgt (hk : f.header.extractLsb' 124 4 = 4) (a : Arrival) :
    flitIn s n a f = mgtFlit (s.setPort n (portAccepted (s.port n))) n f.payload := by
  simp only [flitIn, hb, hq, hk]
  rfl

end FlitIn

/-! ### REQ flits (R104, R106, R111) -/

/-- The two descriptors of a REQ header. -/
def reqDescs (h : BitVec 128) : List RxDesc :=
  [{ flow := (h.extractLsb' 110 14).toNat, province := (h.extractLsb' 100 10).toNat,
     op := h.extractLsb' 96 4, tag := h.extractLsb' 84 12, line := h.extractLsb' 54 30 },
   { flow := (h.extractLsb' 110 14).toNat, province := (h.extractLsb' 100 10).toNat,
     op := h.extractLsb' 46 4, tag := h.extractLsb' 34 12, line := h.extractLsb' 4 30 }]

theorem extractLsb'_slot (h : BitVec 128) (k i w : Nat) (hw : i + w ≤ 50) :
    (h.extractLsb' k 50).extractLsb' i w = h.extractLsb' (k + i) w := by
  apply BitVec.eq_of_getLsbD_eq
  intro j hj
  simp only [BitVec.getLsbD_extractLsb', hj, decide_true, Bool.true_and]
  rw [decide_eq_true (by omega), Bool.true_and, Nat.add_assoc]

theorem slotDescs_eq (h : BitVec 128) :
    [slotDesc (h.extractLsb' 110 14).toNat (h.extractLsb' 100 10).toNat (h.extractLsb' 50 50),
      slotDesc (h.extractLsb' 110 14).toNat (h.extractLsb' 100 10).toNat (h.extractLsb' 0 50)] = reqDescs h := by
  simp [slotDesc, reqDescs, extractLsb'_slot]

/-- The port that has queued the descriptors of a REQ flit. -/
def portRequested (p : Port) (ds : List RxDesc) (payload : List Byte) : Port :=
  { p with
    rxq := giveBytes (p.rxq ++ ds) payload
    descFree := p.descFree - 2
    dataFree := p.dataFree - descCreditsOf ds
    descCredit := p.descCredit - 2
    dataCredit := p.dataCredit - descCreditsOf ds }

section ReqFlit

variable {s : State} {n : Nat} {h : BitVec 128} (ha : h.extractLsb' 96 4 ≠ 0)
  (hb : h.extractLsb' 46 4 ≠ 0)
include ha hb

theorem reqDescs_filter : (reqDescs h).filter (fun d => d.op ≠ 0) = reqDescs h := by
  simp only [reqDescs, List.filter_cons, ha, hb, ne_eq, not_false_eq_true, decide_true, if_true, List.filter_nil]

omit hb in
theorem slotDesc_first_ne (x : RxDesc) :
    ((slotDesc (h.extractLsb' 110 14).toNat (h.extractLsb' 100 10).toNat (h.extractLsb' 50 50)).op = 0 && x.op ≠ 0) =
      false := by
  have e : (slotDesc (h.extractLsb' 110 14).toNat (h.extractLsb' 100 10).toNat (h.extractLsb' 50 50)).op =
      h.extractLsb' 96 4 := extractLsb'_slot h 50 46 4 (by decide)
  rw [e, decide_eq_false ha, Bool.false_and]

theorem reqFlit_within (hd : 2 ≤ (s.port n).descCredit) (hc : descCreditsOf (reqDescs h) ≤ (s.port n).dataCredit)
    (payload : List Byte) : ∃ k, reqFlit s n h payload =
      perf ((perf s 0x010 n 1).setPort n (portRequested (s.port n) (reqDescs h) payload)) 0x015 n k := by
  have hl : (reqDescs h).length = 2 := rfl
  refine ⟨writeBytesOf (reqDescs h), ?_⟩
  simp only [reqFlit, slotDesc_first_ne ha, slotDescs_eq, reqDescs_filter ha hb, perf_port, hl,
    decide_eq_false (Nat.not_lt.mpr hd), decide_eq_false (Nat.not_lt.mpr hc), Bool.or_self, Bool.and_false]
  rfl

theorem reqFlit_beyond (hs : (s.port n).st = .active) (hd : (s.port n).descCredit < 2) (payload : List Byte) :
    reqFlit s n h payload = protocolDiscard (perf s 0x010 n 1) n := by
  have hl : (reqDescs h).length = 2 := rfl
  simp only [reqFlit, slotDesc_first_ne ha, slotDescs_eq, reqDescs_filter ha hb, perf_port, hs, hl, decide_eq_true hd]
  rfl

end ReqFlit

/-! ### MGT and CTRL flits (R110, R120) -/

/-- The request of an MGT message (R120). -/
def mgtRequest (m : BitVec 64) : MgtMsg :=
  { write := m.extractLsb' 60 4 = 2, tag := m.extractLsb' 52 8, addr := m.extractLsb' 24 24, data := m.extractLsb' 0 24 }

theorem mgtFlit_write {s : State} {n : Nat} {payload : List Byte} {m : BitVec 64}
    (hm : messagesOf payload = m :: List.replicate 28 0) (hw : m.extractLsb' 60 4 = 2) (hu : (s.port n).mgtInUse < 64) :
    mgtFlit s n payload = (perf s 0x012 n 1).setPort n { s.port n with
      mgtInUse := (s.port n).mgtInUse + 1
      mgtIn := (s.port n).mgtIn ++ [mgtRequest m] } := by
  have h0 : (m :: List.replicate 28 (0 : BitVec 64)).filter (fun m => m.extractLsb' 60 4 ≠ 0) = [m] := by
    simp [hw]
  have h1 : [m].filter (fun m => m.extractLsb' 60 4 = 1 || m.extractLsb' 60 4 = 2) = [m] := by
    simp [hw]
  have hl : ¬ 64 < (s.port n).mgtInUse + [m].length := Nat.not_lt.mpr hu
  simp only [mgtFlit, hm, h0, h1, perf_port, if_neg hl]
  rfl

theorem ctrlMsg_nop (s : State) (n : Nat) (a : Arrival) : ctrlMsg s n a 0 = s := rfl

theorem ctrlMsgs_nop (s : State) (n : Nat) (a : Arrival) (k : Nat) :
    (List.replicate k (0 : BitVec 64)).foldl (fun s m => ctrlMsg s n a m) s = s := by
  induction k with
  | zero => rfl
  | succ k ih => rw [List.replicate_succ, List.foldl_cons, ctrlMsg_nop, ih]

/-- A CTRL flit whose one message grants EVT credits (R110, R111). -/
theorem ctrlFlit_credit {s : State} {n : Nat} {a : Arrival} {h : BitVec 128} {payload : List Byte} {m : BitVec 64}
    (hack : h.getLsbD 123 = false) (hnak : h.getLsbD 110 = false)
    (hm : messagesOf payload = m :: List.replicate 28 0) (ht : m.extractLsb' 56 8 = 1) (hc : m.extractLsb' 52 4 = 3)
    (hi : m.getLsbD 35 = false) : ctrlFlit s n a h payload = s.setPort n { s.port n with
      evtCr := (s.port n).evtCr + (m.extractLsb' 36 16).toNat } := by
  have hg : ctrlMsg s n a m = s.setPort n { s.port n with
      evtCr := (s.port n).evtCr + (m.extractLsb' 36 16).toNat } := by
    simp only [ctrlMsg, ht, hc, hi]
    rfl
  simp only [ctrlFlit, hack, hnak, hm, Bool.false_eq_true, if_false, List.foldl_cons, hg, ctrlMsgs_nop]

/-! ### FLIT_RECEIVE -/

theorem setPort_flitTaken {u : State} {n : Nat} (hs : (u.port n).st ≠ .off) (rest : List (Bool × Bool)) (v : Port) :
    (flitTaken u n rest).setPort n v = u.setPort n v :=
  setPort_setPort u n _ v (ne_default_of_st (p := { u.port n with rxBits := rest }) hs)

/-- The state whose port has accepted the flit and taken its bits out of the stream. -/
def flitAccepted (u : State) (n : Nat) (rest : List (Bool × Bool)) : State :=
  u.setPort n (portAccepted { u.port n with rxBits := rest })

theorem flitAccepted_eq {u : State} {n : Nat} (hs : (u.port n).st ≠ .off) (rest : List (Bool × Bool)) :
    (flitTaken u n rest).setPort n (portAccepted ((flitTaken u n rest).port n)) = flitAccepted u n rest := by
  rw [flitTaken_port, setPort_flitTaken hs, flitAccepted]

theorem flitAccepted_port (u : State) (n : Nat) (rest : List (Bool × Bool)) :
    (flitAccepted u n rest).port n = portAccepted { u.port n with rxBits := rest } := port_setPort ..

theorem keeps_flitAccepted {s : State} {n : Nat} {lanes : List (List Sym10)} {rest : List (Bool × Bool)} :
    Keeps [.ports, .tel] s (flitAccepted (receiveLanes s n lanes) n rest) :=
  (keeps_receiveLanes s n lanes).setPort (by decide)

/-- Settles O18: what each kind of flit does to the port that has decoded it. -/
theorem flitReceived : Obligations.FlitReceived := by
  refine ⟨?_, ?_, fun s u n a hp hf hu ht => exec_flitReceive_none hp hf hu ht, ?_, ?_, ?_, ?_⟩
  · intro s u n a f rest hp hf hu ht h
    have hst : (u.port n).st ≠ .off := by rw [hu, receiveLanes_st]; exact st_of_flitsFlow hf
    rw [exec_flitReceive_some hp hf hu ht, flitIn_discards (by rw [flitTaken_port]; exact h), flitTaken_port,
      setPort_flitTaken hst, discardFlit_eq]
    rfl
  · intro s u n a f rest hp hf hu ht hb hq hk
    rw [exec_flitReceive_some hp hf hu ht, flitIn_idle hb (by rw [flitTaken_port]; exact hq) hk]
    rfl
  · intro s u n a f rest ds hp hf hu ht hb hq hs hk hds ha hb' hd hc
    have hst : (u.port n).st = .active := by rw [hu, receiveLanes_st]; exact hs
    have hst' : (u.port n).st ≠ .off := hst ▸ nofun
    have hpt := flitAccepted_port u n rest
    change ds = reqDescs f.header at hds
    subst hds
    obtain ⟨k, hk'⟩ := reqFlit_within (s := flitAccepted u n rest) (n := n) ha hb'
      (by rw [hpt]; exact hd) (by rw [hpt]; exact hc) f.payload
    refine ⟨_, exec_flitReceive_some hp hf hu ht, ?_⟩
    rw [flitIn_req hb (by rw [flitTaken_port]; exact hq) hk, flitAccepted_eq hst', hk', fin_port, perf_port,
      port_setPort, hpt]
    subst hu
    refine ⟨rfl, (((keeps_flitAccepted.perf _ _ _ (by decide)).setPort (by decide)).perf _ _ _ (by decide)).fin,
      fun m hm => ?_⟩
    rw [fin_port, perf_port, port_setPort_ne _ _ _ _ hm, perf_port, flitAccepted, port_setPort_ne _ _ _ _ hm,
      receiveLanes_port_ne hm]
  · intro s u n a f rest hp hf hu ht hb hq hs hk ha hb' hd
    have hst : (u.port n).st = .active := by rw [hu, receiveLanes_st]; exact hs
    have hst' : (u.port n).st ≠ .off := hst ▸ nofun
    have hpt := flitAccepted_port u n rest
    have hk' := reqFlit_beyond (s := flitAccepted u n rest) (n := n) ha hb' (by rw [hpt]; exact hst)
      (by rw [hpt]; exact hd) f.payload
    refine ⟨_, exec_flitReceive_some hp hf hu ht, ?_⟩
    rw [flitIn_req hb (by rw [flitTaken_port]; exact hq) hk, flitAccepted_eq hst', hk', protocolDiscard, fin_port,
      raise_port, perf_port, hpt, fin_flt, raise_flt]
    subst hu
    have hk2 := (keeps_flitAccepted (s := s) (n := n) (lanes := a.lanes) (rest := rest)).perf 0x010 n 1 (by decide)
    have hflt : (perf (flitAccepted (receiveLanes s n a.lanes) n rest) 0x010 n 1).flt = s.flt := hk2 .flt (by decide)
    obtain ⟨_, _, _, _, hr⟩ := receiveLanes_port s n a.lanes
    rw [hflt, hr]
    exact ⟨rfl, rfl, ((hk2.mono (by decide)).raise _ _ _ (by decide)).fin⟩
  · intro s u n a f rest m hp hf hu ht hb hq hk hm hw hu'
    have hst' : (u.port n).st ≠ .off := by rw [hu, receiveLanes_st]; exact st_of_flitsFlow hf
    have hpt := flitAccepted_port u n rest
    have hk' := mgtFlit_write (s := flitAccepted u n rest) (n := n) hm hw (by rw [hpt]; exact hu')
    refine ⟨_, exec_flitReceive_some hp hf hu ht, ?_⟩
    rw [flitIn_mgt hb (by rw [flitTaken_port]; exact hq) hk, flitAccepted_eq hst', hk', fin_port, port_setPort, hpt]
    subst hu
    obtain ⟨_, _, _, _, hr⟩ := receiveLanes_port s n a.lanes
    rw [hr]
    refine ⟨?_, rfl, rfl, ((keeps_flitAccepted.perf _ _ _ (by decide)).setPort (by decide)).fin, fun m hm => ?_⟩
    · simp [mgtRequest, hw, portAccepted]
    · rw [fin_port, port_setPort_ne _ _ _ _ hm, perf_port, flitAccepted, port_setPort_ne _ _ _ _ hm,
        receiveLanes_port_ne hm]
  · intro s u n a f rest m hp hf hu ht hb hq hk hack hnak hm hty hcl hi
    have hst' : (u.port n).st ≠ .off := by rw [hu, receiveLanes_st]; exact st_of_flitsFlow hf
    have hpt := flitAccepted_port u n rest
    have hk' := ctrlFlit_credit (s := flitAccepted u n rest) (n := n) (a := a) hack hnak hm hty hcl hi
    refine ⟨_, exec_flitReceive_some hp hf hu ht, ?_⟩
    rw [flitIn_ctrl hb (by rw [flitTaken_port]; exact hq) hk, flitAccepted_eq hst', hk', fin_port, port_setPort, hpt]
    subst hu
    obtain ⟨_, _, _, _, hr⟩ := receiveLanes_port s n a.lanes
    rw [hr]
    exact ⟨rfl, rfl, rfl, (keeps_flitAccepted.setPort (by decide)).fin⟩

end Sys2Proof.Proofs

/-! Garublink ports: the replay buffer, credits, the transmit slot and event records (R101–R103, R109–R112, R148). -/

namespace Sys2Proof.Proofs

open Sys2Proof.Machine
open Sys2Proof.Safety

/-! ### The replay buffer (R112, R114) -/

section Buffer

variable {buf : List (BitVec 12 × TxFlit)} {old later : List (BitVec 12 × TxFlit)} {seq : BitVec 12} {x : TxFlit}

theorem any_of_split (hb : buf = old ++ (seq, x) :: later) : buf.any (fun e => e.1 = seq) = true := by
  simp [hb]

theorem dropWhile_of_split (hb : buf = old ++ (seq, x) :: later) (ho : ∀ e ∈ old, e.1 ≠ seq) :
    buf.dropWhile (fun e => e.1 ≠ seq) = (seq, x) :: later := by
  rw [hb, List.dropWhile_append_of_pos (fun e he => by simpa using ho e he)]
  simp

theorem afterSeq_of_split (hb : buf = old ++ (seq, x) :: later) (ho : ∀ e ∈ old, e.1 ≠ seq) :
    afterSeq buf seq = later := by
  rw [afterSeq, if_pos (any_of_split hb), dropWhile_of_split hb ho, List.drop_one, List.tail_cons]

end Buffer

theorem ackTake_of_split {s : State} {n : Nat} {seq : BitVec 12} {old later : List (BitVec 12 × TxFlit)} {x : TxFlit}
    (hb : (s.port n).replayBuf = old ++ (seq, x) :: later) (ho : ∀ e ∈ old, e.1 ≠ seq) (hr : (s.port n).resend = []) :
    ackTake s n seq = s.setPort n { s.port n with replayBuf := later } := by
  rw [ackTake, if_pos (any_of_split hb), modPort_def, afterSeq_of_split hb ho, hr]
  simp [← hr]

theorem nakTake_first {s : State} {n : Nat} {seq : BitVec 12} {old later : List (BitVec 12 × TxFlit)} {x : TxFlit}
    (hb : (s.port n).replayBuf = old ++ (seq, x) :: later) (ho : ∀ e ∈ old, e.1 ≠ seq)
    (hn : (s.port n).nakSeq ≠ some seq) :
    nakTake s n seq = s.setPort n { s.port n with
      nakSeq := some seq, nakRun := 1, resend := (seq, x) :: later, resendNak := true } := by
  simp only [nakTake, any_of_split hb, dropWhile_of_split hb ho, if_neg hn]
  rfl

theorem nakTake_fourth {s : State} {n : Nat} {seq : BitVec 12} (hb : ∃ e ∈ (s.port n).replayBuf, e.1 = seq)
    (hn : (s.port n).nakSeq = some seq) (hr : (s.port n).nakRun = 3) : nakTake s n seq = enterRecovery s n true := by
  have ha : (s.port n).replayBuf.any (fun e => e.1 = seq) = true := by simpa using hb
  simp only [nakTake, ha, hn, hr]
  rfl

theorem nakTake_outside {s : State} {n : Nat} {seq : BitVec 12} (hb : ∀ e ∈ (s.port n).replayBuf, e.1 ≠ seq) :
    nakTake s n seq = enterRecovery (protocolDiscard s n) n true := by
  have ha : (s.port n).replayBuf.any (fun e => e.1 = seq) = false := by simpa using hb
  simp only [nakTake, ha]
  rfl

/-- What a port that enters RECOVERY with an event shows (R114, R335). -/
theorem enterRecovery_shows {s : State} {n : Nat} (h : flitsFlow s n = true) :
    (enterRecovery s n true).port n = portRecovering (s.port n) ∧
      (enterRecovery s n true).flt =
        { s.flt with detected := s.flt.detected ++ [{ src := 0x03, inst := n, detail := 0 }] } ∧
      Keeps [.ports, .flw, .flt] s (enterRecovery s n true) ∧
      ∀ m, m ≠ n → (enterRecovery s n true).port m = s.port m := by
  rw [enterRecovery_raising h]
  refine ⟨?_, rfl, (((Keeps.refl _ s).setPort (by decide)).budgetDue (by decide)).raise _ _ _ (by decide),
    fun m hm => ?_⟩
  · rw [raise_port, budgetDue_port, port_setPort]
  · rw [raise_port, budgetDue_port, port_setPort_ne _ _ _ _ hm]

/-! ### Credits (R111, R369) -/

theorem creditReturn_of_active {s : State} {n descs datas d u k : Nat} (hn : portPresent s.variant n = true)
    (hs : (s.port n).st = .active) (hg : grantsFull s = true) (hh : s.pwr.hold = false) (hk : 64 ≤ s.pwr.kp.toNat)
    (hp : s.pins.pwrgood = true)
    (hd : takeReads (s.port n).freed (min descs (1024 - (s.port n).descCredit)) (2 ^ 24) = (d, u))
    (hk' : k = min (min datas ((s.port n).dataFree - (s.port n).dataCredit)) (2 ^ 24)) :
    exec (.creditReturn n descs datas) s = .next (fin s (s.setPort n { s.port n with
      freed := (s.port n).freed.drop d
      retRead := (s.port n).retRead + u
      retWrite := (s.port n).retWrite + k
      descCredit := (s.port n).descCredit + d
      dataCredit := (s.port n).dataCredit + k
      ctrlOut := (s.port n).ctrlOut ++ (if d = 0 then [] else [.credit 0 d false]) ++
        (if k = 0 then [] else [.credit 1 k false]) })) := by
  have hc : creditCap s = none := if_neg (Nat.not_lt.mpr hk)
  refine answer_next hp ?_
  have hb : (!(portPresent s.variant n && decide ((s.port n).st = .active)) || !grantsFull s || s.pwr.hold) = false := by
    simp [hn, hs, hg, hh]
  rw [hb, if_neg (by decide)]
  simp only [hc, hd, ← hk']

theorem creditReturn_of_held {s : State} (h : s.pwr.hold = true ∨ grantsFull s = false) (hp : s.pins.pwrgood = true)
    (n descs datas : Nat) : exec (.creditReturn n descs datas) s = .next (fin s s) := by
  refine answer_next hp ?_
  rcases h with h | h <;> simp [h]

/-- Settles O19: the rules of the replay buffer and of credits. -/
theorem replayAndCredits : Obligations.ReplayAndCredits := by
  refine ⟨?_, ?_, ?_, ?_, ?_, ?_, ?_⟩
  · intro s n seq old later x hp hf hb ho hr
    exact answer_next hp ((if_pos hf).trans (ackTake_of_split hb ho hr))
  · intro s n seq old later x hp hf hb ho hn
    exact answer_next hp ((if_pos hf).trans (nakTake_first hb ho hn))
  · intro s n seq hp hf hb hn hr
    refine ⟨_, answer_next hp ((if_pos hf).trans (nakTake_fourth hb hn hr)), ?_⟩
    obtain ⟨hq, hflt, hk, hm⟩ := enterRecovery_shows hf
    rw [fin_port, hq, fin_flt, hflt]
    exact ⟨rfl, rfl, rfl, rfl, hk.fin, hm⟩
  · intro s n seq hp hf hb
    refine ⟨_, answer_next hp ((if_pos hf).trans (nakTake_outside hb)), ?_⟩
    obtain ⟨hq, hflt, hk, hm⟩ := enterRecovery_shows (s := protocolDiscard s n) hf
    rw [fin_port, hq, fin_flt, hflt]
    refine ⟨rfl, ?_, (((Keeps.refl _ s).raise _ _ _ (by decide)).trans hk).fin, hm⟩
    simp [protocolDiscard, raise]
  · intro s n count init hp hf
    exact ⟨answer_next hp (if_pos hf), answer_next hp (if_pos hf)⟩
  · intro s n descs datas d u k hp hn hs hg hh hk hd hk'
    exact creditReturn_of_active hn hs hg hh hk hp hd hk'
  · intro s n descs datas hp h
    exact creditReturn_of_held h hp n descs datas

/-! ### The transmit slot (R101–R103, R107, R109, R112) -/

theorem not_down_of_training {s : State} {n : Nat} (h : flitsFlow s n = true) :
    (portPresent s.variant n && (decide ((s.port n).st = .train) || decide ((s.port n).st = .recovery))) = false := by
  have hs : (s.port n).st = .active ∨ (s.port n).st = .down := by
    simp only [flitsFlow, Bool.and_eq_true, Bool.or_eq_true, decide_eq_true_eq] at h
    exact h.2
  rcases hs with hs | hs <;> simp [hs]

theorem exec_flitSlot_new {s : State} {n : Nat} (hp : s.pins.pwrgood = true) (hf : flitsFlow s n = true)
    (h : (s.port n).resend = [] ∨ ctrlBreaksIn (s.port n) = true) :
    exec (.flitSlot n) s = .next (fin s (sendNew s n)) := by
  refine answer_next hp ?_
  simp only [not_down_of_training hf, hf]
  rcases h with h | h
  · simp only [h]
    rfl
  · cases hr : (s.port n).resend with
    | nil => rfl
    | cons e r =>
      simp only [h]
      rfl

theorem transmit_eq {p : Port} {w : Nat} {f : TxFlit} {seq : BitVec 12} (hc : f.isCtrl = false) (hm : f.isMgt = false)
    {b : List Bool} (hb : b = p.txBits ++ bitsOf (f.bytes seq)) : p.transmit w f seq = { p with
      sent := some f
      txBits := if 10280 ≤ b.length then b.drop 10280 else b
      txLanes := if 10280 ≤ b.length then encodePair w (b.take 10280) else p.txLanes
      ctrlGap := p.ctrlGap + 1
      mgtGap := p.mgtGap + 1 } := by
  subst hb
  simp only [Port.transmit, hc, hm]
  split <;> rfl

/-- A transmission touches the bits, the lanes and the gaps of its port. -/
theorem transmit_port (p : Port) (w : Nat) (f : TxFlit) (seq : BitVec 12) : ∃ cg mg tb tl,
    p.transmit w f seq = { p with sent := some f, ctrlGap := cg, mgtGap := mg, txBits := tb, txLanes := tl } := by
  unfold Port.transmit
  dsimp only
  split
  · exact ⟨_, _, _, _, rfl⟩
  · exact ⟨_, _, _, p.txLanes, rfl⟩

/-- The control messages that wait, with the MGT credits that go back (R103). -/
def ctrlWaiting (p : Port) : List CtrlMsg := p.ctrlOut ++ mgtCredit p

/-- The CTRL flit of a due NAK (R110, R112). -/
def nakFlit (p : Port) : TxFlit :=
  .ctrl (ackOf p) (some p.rxSeq) ((ctrlWaiting p).take (ctrlTake 29 (ctrlWaiting p)))

/-- The port that the CTRL flit of a NAK leaves. -/
def portNaked (p : Port) : Port :=
  { p with
    ctrlOut := (ctrlWaiting p).drop (ctrlTake 29 (ctrlWaiting p))
    mgtInUse := min p.mgtInUse p.mgtIn.length
    nakDue := p.nakDue && false
    ackGap := 0 }

theorem nextFlit_nak {p : Port} (hl : p.replayBuf.length < 512) (hn : p.nakDue = true) :
    nextFlit p = (nakFlit p, portNaked p) := by
  simp only [nextFlit, if_neg (Nat.not_le.mpr hl), if_pos hn]
  rfl

theorem mgtCredit_of_answered {p : Port} (h : p.mgtInUse ≤ p.mgtIn.length) : mgtCredit p = [] :=
  if_neg (Nat.not_lt.mpr h)

theorem nextFlit_idle {p : Port} (hn : p.nakDue = false) (hc : p.ctrlOut = []) (ha : p.ackGap = 0)
    (hm : p.mgtInUse ≤ p.mgtIn.length) (hmo : p.mgtOut = []) (hco : p.cmpOut = []) (hcp : p.cmpPart = none) :
    nextFlit p = (.idle, p) := by
  simp [nextFlit, hn, hc, ha, mgtCredit_of_answered hm, hmo, hco, hcp]

theorem sendNew_idle {s : State} {n : Nat} (h : nextFlit (s.port n) = (.idle, s.port n)) :
    sendNew s n = s.setPort n ((s.port n).transmit (lanesOn (s.port n).width) .idle (s.port n).txSeq) := by
  simp only [sendNew, h]
  rfl

/-- The port that has sent a new sequenced flit (R101, R112). -/
def portSent (q : Port) (f : TxFlit) : Port :=
  { q with
    txSeq := q.txSeq + 1
    replayBuf := q.replayBuf ++ [(q.txSeq, f)]
    resend := if q.resend = [] then [] else q.resend ++ [(q.txSeq, f)] }

theorem sendNew_nak {s : State} {n : Nat} (h : nextFlit (s.port n) = (nakFlit (s.port n), portNaked (s.port n))) :
    sendNew s n = s.setPort n (portSent ((portNaked (s.port n)).transmit (lanesOn (s.port n).width)
      (nakFlit (s.port n)) (s.port n).txSeq) (nakFlit (s.port n))) := by
  have hne : nakFlit (s.port n) ≠ .idle := nofun
  simp only [sendNew, h, if_neg hne]
  rfl

theorem exec_flitSlot_replay {s : State} {n : Nat} {e : BitVec 12 × TxFlit} {r : List (BitVec 12 × TxFlit)}
    (hp : s.pins.pwrgood = true) (hf : flitsFlow s n = true) (hr : (s.port n).resend = e :: r)
    (hrn : (s.port n).resendNak = false) (hn : (s.port n).nakDue = false) (ha : (s.port n).ackGap < 96)
    (hc : e.2.isCtrl = false) : exec (.flitSlot n) s = .next (fin s (s.setPort n
      { (s.port n).transmit (lanesOn (s.port n).width) e.2 e.1 with
        resend := r, replays := (s.port n).replays })) := by
  have hb : ctrlBreaksIn (s.port n) = false := by
    simp [ctrlBreaksIn, hn, Nat.not_le.mpr ha]
  refine answer_next hp ?_
  simp only [not_down_of_training hf, hf, hr, hb, hc, hrn]
  rfl

theorem exec_flitSlot_train {s : State} {n : Nat} (hp : s.pins.pwrgood = true) (hn : portPresent s.variant n = true)
    (hs : (s.port n).st = .train) : exec (.flitSlot n) s = .next (fin s
      ((takeFree s).2.setPort n ((s.port n).transmit (trainWidth (s.port n))
        (.train n (Config.preset s.freeIdx) (trainWidth (s.port n)) 0) (s.port n).txSeq))) := by
  refine answer_next hp ?_
  simp only [hn, hs, trainTx]
  rfl

theorem keeps_takeFree {l : List Part} {s t : State} (h : Keeps l s t) (hl : Part.freeIdx ∈ l) :
    Keeps l s (takeFree t).2 := fun p hp => by
  cases p with
  | freeIdx => exact absurd hl hp
  | _ => exact h _ hp

theorem exec_eventRecordSend {s : State} {q n : Nat} {r : BitVec 128} {rest : List (BitVec 128)}
    (hp : s.pins.pwrgood = true) (hr : (s.evq q).recs = r :: rest) (hv : (queueCfg s q).valid = true)
    (hn : (bondPorts (queueCfg s q).bondFirst.toNat (queueCfg s q).bondLog2.toNat).find? (fun m => flitsFlow s m) =
      some n) (hc : 0 < (s.port n).evtCr) :
    exec (.eventRecordSend q) s = .next (fin s ((s.setEvq q { s.evq q with recs := rest }).setPort n { s.port n with
      evtCr := (s.port n).evtCr - 1
      ctrlOut := (s.port n).ctrlOut ++ [.event q r] })) := by
  refine answer_next hp ?_
  simp only [hr, hn, hv, decide_eq_false (Nat.ne_of_gt hc)]
  rfl

/-- Settles O20: what the slot sends, in the order of R103. That nothing is acknowledged before anything was received
is the model's choice (log 115). -/
theorem transmitSlot : Obligations.TransmitSlot := by
  refine ⟨?_, ?_, ?_, ?_, ?_⟩
  · intro s n e r b hp hf hr hrn hn ha hc hm hb
    rw [exec_flitSlot_replay hp hf hr hrn hn ha hc, transmit_eq hc hm hb]
  · intro s n hp hf hl hn
    have hnew := exec_flitSlot_new hp hf (.inr (by simp [ctrlBreaksIn, hl, hn]))
    rw [sendNew_nak (nextFlit_nak hl hn)] at hnew
    refine ⟨_, nakFlit (s.port n), hnew, ?_⟩
    obtain ⟨cg, mg, tb, tl, ht⟩ := transmit_port (portNaked (s.port n)) (lanesOn (s.port n).width)
      (nakFlit (s.port n)) (s.port n).txSeq
    rw [fin_port, port_setPort, ht]
    refine ⟨rfl, rfl, ?_, rfl, rfl, rfl, ((Keeps.refl _ s).setPort (by decide)).fin, fun m hm => ?_⟩
    · exact Bool.and_false _
    · rw [fin_port, port_setPort_ne _ _ _ _ hm]
  · intro s n b hp hf hr hn hc ha hmi hmo hco hcp hb
    rw [exec_flitSlot_new hp hf (.inl hr), sendNew_idle (nextFlit_idle hn hc ha hmi hmo hco hcp),
      transmit_eq rfl rfl hb]
  · intro s n hp hn hs
    refine ⟨_, Config.preset s.freeIdx, trainWidth (s.port n), exec_flitSlot_train hp hn hs, ?_⟩
    obtain ⟨cg, mg, tb, tl, ht⟩ := transmit_port (s.port n) (trainWidth (s.port n))
      (.train n (Config.preset s.freeIdx) (trainWidth (s.port n)) 0) (s.port n).txSeq
    rw [fin_port, port_setPort, ht]
    refine ⟨rfl, rfl, rfl, ((keeps_takeFree (Keeps.refl _ s) (by decide)).setPort (by decide)).fin, fun m hm => ?_⟩
    rw [fin_port, port_setPort_ne _ _ _ _ hm]
    rfl
  · intro s q n r rest hp hr hv hn hc
    exact exec_eventRecordSend hp hr hv hn hc

end Sys2Proof.Proofs

/-! What the readers of the address map depend on: the parts that a line's location, reach and holes are read from. -/

namespace Sys2Proof.Safety

open Sys2Proof.Machine

section Readers

variable {l : List Part} {s t : State} (h : Keeps l s t)
include h

theorem Keeps.flowCfg_eq (hl : Part.tables ∉ l) (f : Nat) : flowCfg t f = flowCfg s f := by
  have e : t.tables = s.tables := h .tables hl
  rw [flowCfg, e, flowCfg]

theorem Keeps.provCfg_eq (hl : Part.tables ∉ l) (p : Nat) : provCfg t p = provCfg s p := by
  have e : t.tables = s.tables := h .tables hl
  rw [provCfg, e, provCfg]

theorem Keeps.homeLoc_eq (hl : Part.tables ∉ l) (dpa : Nat) : homeLoc t dpa = homeLoc s dpa := by
  have e : t.tables = s.tables := h .tables hl
  rw [homeLoc, e, homeLoc]

theorem Keeps.homeChan_eq (hl : Part.tables ∉ l) (line : Nat) : homeChan t line = homeChan s line := by
  rw [homeChan, h.homeLoc_eq hl, homeChan]

theorem Keeps.targetOf_eq (hl : ∀ p ∈ [Part.tables, .ranks], p ∉ l) (x : Loc) (b : Bool) :
    targetOf t x b = targetOf s x b := by
  have e : t.tables = s.tables := h .tables (hl _ (by decide))
  unfold targetOf
  rw [e, h.rank_eq (hl _ (by decide))]

/-- The parts that a line's place after every redirection depends on (R81, R254). -/
def routeParts : List Part := [.tables, .ranks, .mig]

theorem Keeps.hop_eq (hl : ∀ p ∈ routeParts, p ∉ l) (x : Loc) : hop t x = hop s x := by
  have e : t.mig = s.mig := h .mig (hl _ (by decide))
  have hr := h.rank_eq (hl _ (by decide))
  unfold hop hopTo oldCopy
  simp only [e, hr, h.targetOf_eq (fun p hp => hl p (by revert hp; revert p; decide))]

theorem Keeps.route_eq (hl : ∀ p ∈ routeParts, p ∉ l) (n : Nat) (x : Loc) : route t n x = route s n x := by
  induction n generalizing x with
  | zero => rfl
  | succ n ih => simp only [route, h.hop_eq hl, ih]

theorem Keeps.locate_eq (hl : ∀ p ∈ routeParts, p ∉ l) (dpa : Nat) : locate t dpa = locate s dpa := by
  rw [locate, h.route_eq hl, h.homeLoc_eq (hl _ (by decide)), locate]

theorem Keeps.tierDown_eq (hl : Part.doms ∉ l) (i : Nat) : tierDown t i = tierDown s i := by
  unfold tierDown
  rw [h.dom_eq hl]

theorem Keeps.mbistOn_eq (hl : Part.bst ∉ l) (c k : Nat) : mbistOn t c k = mbistOn s c k := by
  unfold mbistOn
  rw [h.bstOf_eq hl]

theorem Keeps.underLogic_eq (hl : Part.bst ∉ l) (u i : Nat) : underLogic t u i = underLogic s u i := by
  have e : t.bst = s.bst := h .bst hl
  rw [underLogic, e, underLogic]

theorem Keeps.bypass_eq (hl : ∀ p ∈ [Part.doms, .bst], p ∉ l) (c : Nat) : bypass t c = bypass s c := by
  rw [bypass, h.domOn_eq (hl _ (by decide)), h.underLogic_eq (hl _ (by decide)), bypass]

/-- The parts that a location's reach depends on (R76, R397). -/
def reachParts : List Part := [.spr, .doms, .bst]

theorem Keeps.unreachable_eq (hl : ∀ p ∈ reachParts, p ∉ l) (x : Loc) : unreachable t x = unreachable s x := by
  rw [unreachable, h.sprOf_eq (hl _ (by decide)), h.tierDown_eq (hl _ (by decide)), h.mbistOn_eq (hl _ (by decide)),
    unreachable]

theorem Keeps.runHoled_eq (hl : Part.ranks ∉ l) (provs : Tbl Prov) (n dpa len : Nat) :
    runHoled provs t n dpa len = runHoled provs s n dpa len := by
  induction n generalizing dpa len with
  | zero => rfl
  | succ n ih => simp only [runHoled, h.rank_eq hl, ih]

theorem Keeps.holed_eq (hl : ∀ p ∈ [Part.tables, .ranks], p ∉ l) (g : Nat) : holed t g = holed s g := by
  have e : t.tables = s.tables := h .tables (hl _ (by decide))
  rw [holed, granHoled, h.runHoled_eq (hl _ (by decide)), e, holed, granHoled]

theorem Keeps.inked_eq (hl : ∀ p ∈ [Part.tables, .inkAll, .ink], p ∉ l) (page : Nat) : inked t page = inked s page := by
  have e1 : t.tables = s.tables := h .tables (hl _ (by decide))
  have e2 : t.inkAll = s.inkAll := h .inkAll (hl _ (by decide))
  have e3 : t.ink = s.ink := h .ink (hl _ (by decide))
  rw [inked, e1, e2, e3, inked]

theorem Keeps.dirtyLines_eq (hl : Part.chans ∉ l) (c : Nat) : dirtyLines t c = dirtyLines s c := by
  rw [dirtyLines, h.chan_eq hl, dirtyLines]

theorem Keeps.flushChans_eq (hl : Part.tables ∉ l) (f : FlowCfg) : flushChans t f = flushChans s f := by
  have e : t.tables = s.tables := h .tables hl
  rw [flushChans, e, flushChans]

theorem Keeps.flushAwaits_eq (ht : Part.tables ∉ l) (hc : Part.chans ∉ l) (f : FlowCfg) :
    flushAwaits t f = flushAwaits s f := by
  simp only [flushAwaits, h.flushChans_eq ht, h.dirtyLines_eq hc, h.chan_eq hc, h.homeChan_eq ht]

end Readers

end Sys2Proof.Safety

/-! Flow lookup: what it answers, and what a data request, a FENCE, a FLUSH and a reserved opcode become (R76, R105,
R129–R131, R176, R177, R301). -/

namespace Sys2Proof.Proofs

open Sys2Proof.Machine
open Sys2Proof.Safety

/-! ### The first status of R15 -/

theorem first_ok_left (a : Status) : Status.first .ok a = a := by cases a <;> rfl
theorem first_ok_right (a : Status) : Status.first a .ok = a := by cases a <;> rfl

theorem first_refused {a : Status} (h : a ≠ .absent) : Status.first .refused a = .refused := by
  unfold Status.first
  cases a with
  | absent => exact absurd rfl h
  | _ => rfl

theorem first_ne_absent {a b : Status} (ha : a ≠ .absent) (hb : b ≠ .absent) : Status.first a b ≠ .absent := by
  unfold Status.first
  split
  · exact hb
  · exact ha

/-! ### What lookup answers (R15, R76, R95, R131, R301) -/

/-- The flow is valid, owned by the port's bond, and, for data, permitted the province (R95). -/
def flowPermits (s : State) (op : Op) (port : Option Nat) (flow prov : Nat) : Bool :=
  (flowCfg s flow).valid && (match port with | some n => portOwns s n (flowCfg s flow) | none => true) &&
    (!(op.isRead || op.isWrite) || (flowCfg s flow).provs.getLsbD prov)

/-- What the flow, the province, the cipher and the charge answer. -/
def judgedStatus (s : State) (op : Op) (port : Option Nat) (flow prov off : Nat) : Status :=
  if op = .reserved || !flowPermits s op port flow prov then .refused
  else if op.isRead || op.isWrite then
    Status.first (Status.first (provJudge s prov off (64 * op.lines) op.align op.isWrite)
      (if (provCfg s prov).valid then cipherJudge s prov (flowCfg s flow) else .ok))
      (if chargePasses (flowCfg s flow) (s.flowR flow) op.units then .ok else .outOfBudget)
  else .ok

/-- What Fatal and RETIRED answer (R309, R344). -/
def downStatus (s : State) (op : Op) : Status := if (stackDown s || s.sec.lc = 3) && op ≠ .engine then .fenced else .ok

theorem lookupStatus_eq (s : State) (op : Op) (port : Option Nat) (flow prov off : Nat) :
    lookupStatus s op port flow prov off =
      Status.first (if op = .engine && nEngs s.variant = 0 then .absent else .ok)
        (Status.first (judgedStatus s op port flow prov off) (downStatus s op)) := rfl

theorem lookupStatus_of_not_engine {op : Op} (h : op ≠ .engine) (s : State) (port : Option Nat) (flow prov off : Nat) :
    lookupStatus s op port flow prov off = Status.first (judgedStatus s op port flow prov off) (downStatus s op) := by
  rw [lookupStatus_eq, decide_eq_false h]
  exact first_ok_left _

theorem downStatus_ne_absent (s : State) (op : Op) : downStatus s op ≠ .absent := by
  unfold downStatus
  split <;> exact nofun

theorem downStatus_up {s : State} (hf : s.flt.fatal = false) (hl : s.sec.lc ≠ 3) (op : Op) : downStatus s op = .ok := by
  have hb : ((stackDown s || decide (s.sec.lc = 3)) && decide (op ≠ .engine)) = false := by
    rw [stackDown, hf, decide_eq_false hl]
    rfl
  rw [downStatus, hb]
  rfl

theorem downStatus_down {s : State} {op : Op} (h : s.flt.fatal = true ∨ s.sec.lc = 3) (ho : op ≠ .engine) :
    downStatus s op = .fenced := by
  have hb : ((stackDown s || decide (s.sec.lc = 3)) && decide (op ≠ .engine)) = true := by
    simpa [stackDown, ho] using h
  rw [downStatus, if_pos hb]

theorem ne_engine_of_data {op : Op} (h : op.isRead = true ∨ op.isWrite = true) : op ≠ .engine := by
  rintro rfl
  simp [Op.isRead, Op.isWrite] at h

theorem ne_reserved_of_data {op : Op} (h : op.isRead = true ∨ op.isWrite = true) : op ≠ .reserved := by
  rintro rfl
  simp [Op.isRead, Op.isWrite] at h

theorem provJudge_cases (s : State) (p off len align : Nat) (wr : Bool) :
    provJudge s p off len align wr = .refused ∨ provJudge s p off len align wr = .fenced ∨
      provJudge s p off len align wr = .ok := by
  unfold provJudge
  dsimp only
  repeat' split
  all_goals simp

theorem cipherJudge_ne_absent (s : State) (p : Nat) (f : FlowCfg) : cipherJudge s p f ≠ .absent := by
  unfold cipherJudge
  repeat' split
  all_goals exact nofun

theorem judgedStatus_ne_absent (s : State) (op : Op) (port : Option Nat) (flow prov off : Nat) :
    judgedStatus s op port flow prov off ≠ .absent := by
  have hp : provJudge s prov off (64 * op.lines) op.align op.isWrite ≠ .absent := by
    rcases provJudge_cases s prov off (64 * op.lines) op.align op.isWrite with h | h | h <;> rw [h] <;> exact nofun
  unfold judgedStatus
  split
  · exact nofun
  split
  · refine first_ne_absent (first_ne_absent hp ?_) ?_
    · split
      · exact cipherJudge_ne_absent _ _ _
      · exact nofun
    · split <;> exact nofun
  · exact nofun

/-- What R76 refuses: a province that is not there, a range that leaves it, a misaligned offset, a spare province, and a
write without permission. -/
theorem provJudge_refused {s : State} {prov off len align : Nat} {wr : Bool}
    (h : (provCfg s prov).valid = false ∨ (provCfg s prov).enabled = false ∨
      (provCfg s prov).count.toNat * 2 ^ 26 < off + len ∨ off % align ≠ 0 ∨ (provCfg s prov).kind = 1 ∨
      (wr = true ∧ ((provCfg s prov).kind = 2 ∨ (provCfg s prov).writable = false))) :
    provJudge s prov off len align wr = .refused := by
  unfold provJudge
  dsimp only
  split
  · rfl
  split
  · rfl
  split
  · rfl
  split
  · rfl
  next h1 h2 h3 h4 =>
    simp only [Bool.or_eq_true, Bool.not_eq_true', decide_eq_true_eq, Bool.and_eq_true, not_or, Bool.not_eq_false,
      not_and] at h1 h2 h3 h4
    obtain h | h | h | h | h | ⟨hw, h | h⟩ := h
    · simp [h] at h1
    · simp [h] at h1
    · exact absurd h h2.1
    · exact absurd h h2.2
    · exact absurd h h3
    · exact absurd h (h4 hw).1
    · simp [h] at h4
      exact absurd hw (by simp [h4])

theorem judgedStatus_refused {s : State} {op : Op} {n flow prov off : Nat} (ho : op.isRead = true ∨ op.isWrite = true)
    (h : (flowCfg s flow).valid = false ∨ portOwns s n (flowCfg s flow) = false ∨
      (flowCfg s flow).provs.getLsbD prov = false ∨ (provCfg s prov).valid = false ∨ (provCfg s prov).enabled = false ∨
      (provCfg s prov).count.toNat * 2 ^ 26 < off + 64 * op.lines ∨ off % op.align ≠ 0 ∨ (provCfg s prov).kind = 1 ∨
      (op.isWrite = true ∧ ((provCfg s prov).kind = 2 ∨ (provCfg s prov).writable = false))) :
    judgedStatus s op (some n) flow prov off = .refused := by
  have hd : (op.isRead || op.isWrite) = true := by simpa using ho
  unfold judgedStatus
  split
  · rfl
  next hp =>
    have hperm : flowPermits s op (some n) flow prov = true := by
      rw [Bool.or_eq_true, not_or, Bool.not_eq_true', Bool.not_eq_false] at hp
      exact hp.2
    simp only [flowPermits, hd, Bool.and_eq_true, Bool.not_true, Bool.false_or] at hperm
    obtain ⟨⟨hv, hown⟩, hprov⟩ := hperm
    have hr : provJudge s prov off (64 * op.lines) op.align op.isWrite = .refused := by
      refine provJudge_refused ?_
      rcases h with h | h | h | h
      · simp [h] at hv
      · simp [h] at hown
      · simp only [h] at hprov
        cases hprov
      · exact h
    rw [hr, first_refused, first_refused]
    · split <;> exact nofun
    · split
      · exact cipherJudge_ne_absent _ _ _
      · exact nofun

theorem flowPermits_of {s : State} {op : Op} {n flow prov : Nat} (hv : (flowCfg s flow).valid = true)
    (ho : portOwns s n (flowCfg s flow) = true)
    (hp : op.isRead = false ∧ op.isWrite = false ∨ (flowCfg s flow).provs.getLsbD prov = true) :
    flowPermits s op (some n) flow prov = true := by
  unfold flowPermits
  rcases hp with ⟨h1, h2⟩ | hp
  · simp only [hv, ho, h1, h2]
    rfl
  · simp only [hv, ho, hp, Bool.or_true, Bool.and_true]

/-! ### The state that lookup judges: the port's oldest descriptor is gone -/

/-- The state as lookup judges it. -/
def looked (s : State) (h : ReqHdr) : State := popDesc (atPs s (s.elapsed * 1000000 + h.ns * 1000)) h.port

theorem keeps_looked (s : State) (h : ReqHdr) : Keeps [.clock, .ports] s (looked s h) :=
  ((Keeps.refl _ s).atPs _ (by decide)).popDesc (by decide)

theorem popDesc_hostSeen (s : State) (m n : Nat) : ((popDesc s m).port n).hostSeen = (s.port n).hostSeen := by
  rw [popDesc, modPort_def]
  by_cases e : n = m
  · subst e
    rw [port_setPort]
    split <;> rfl
  · rw [port_setPort_ne _ _ _ _ e]

theorem atPs_port (s : State) (now n : Nat) : (atPs s now).port n = s.port n :=
  ((Keeps.refl [.clock] s).atPs now (by decide)).port_eq (by decide) n

theorem looked_eq (s : State) (h : ReqHdr) :
    looked s h = popDesc (atPs s (s.elapsed * 1000000 + h.ns * 1000)) h.port := rfl

theorem hostSeen_popDesc_atPs (s : State) (now m n : Nat) :
    ((popDesc (atPs s now) m).port n).hostSeen = (s.port n).hostSeen := by
  rw [popDesc_hostSeen, atPs_port]

theorem looked_hostSeen (s : State) (h : ReqHdr) (n : Nat) : ((looked s h).port n).hostSeen = (s.port n).hostSeen := by
  rw [looked_eq, hostSeen_popDesc_atPs]

theorem portOwns_congr {s t : State} {n : Nat} (ht : t.tables = s.tables)
    (hh : (t.port n).hostSeen = (s.port n).hostSeen) (f : FlowCfg) : portOwns t n f = portOwns s n f := by
  simp only [portOwns, ht, hh]

theorem portOwns_looked (s : State) (h : ReqHdr) (n : Nat) (f : FlowCfg) :
    portOwns (looked s h) n f = portOwns s n f :=
  portOwns_congr (keeps_looked s h .tables (by decide)) (looked_hostSeen s h n) f

theorem provJudge_of_keeps {l : List Part} {s t : State} (h : Keeps l s t)
    (hl : ∀ p ∈ routeParts ++ reachParts, p ∉ l) (p off len align : Nat) (wr : Bool) :
    provJudge t p off len align wr = provJudge s p off len align wr := by
  have hr : ∀ p ∈ routeParts, p ∉ l := fun p hp => hl p (List.mem_append_left _ hp)
  have hu : ∀ p ∈ reachParts, p ∉ l := fun p hp => hl p (List.mem_append_right _ hp)
  unfold provJudge
  simp only [h.provCfg_eq (hr _ (by decide)), h.locate_eq hr, h.unreachable_eq hu,
    h.holed_eq (fun p hp => hr p (by revert hp; revert p; decide))]

theorem cipherJudge_of_keeps {l : List Part} {s t : State} (h : Keeps l s t)
    (hl : ∀ p ∈ [Part.tables, .slots, .cip, .doms, .sec], p ∉ l) (p : Nat) (f : FlowCfg) :
    cipherJudge t p f = cipherJudge s p f := by
  have hc : t.cip = s.cip := h .cip (hl _ (by decide))
  have hs : t.sec = s.sec := h .sec (hl _ (by decide))
  rw [cipherJudge, h.provCfg_eq (hl _ (by decide)), h.slot_eq (hl _ (by decide)), hc, hs, h.domOn_eq (hl _ (by decide)),
    cipherJudge]

theorem looked_variant (s : State) (h : ReqHdr) : (looked s h).variant = s.variant := by
  unfold looked popDesc atPs
  split <;> rfl

/-- Lookup judges the request as it came: the descriptor that leaves the port changes no judgement. -/
theorem lookupStatus_looked (s : State) (h : ReqHdr) (op : Op) (n flow prov off : Nat) :
    lookupStatus (looked s h) op (some n) flow prov off = lookupStatus s op (some n) flow prov off := by
  have k := keeps_looked s h
  have hf : (looked s h).flt = s.flt := k .flt (by decide)
  have hs : (looked s h).sec = s.sec := k .sec (by decide)
  have hperm : flowPermits (looked s h) op (some n) flow prov = flowPermits s op (some n) flow prov := by
    rw [flowPermits, k.flowCfg_eq (by decide), portOwns_looked, flowPermits]
  have hj : judgedStatus (looked s h) op (some n) flow prov off = judgedStatus s op (some n) flow prov off := by
    rw [judgedStatus, hperm, provJudge_of_keeps k (by decide), k.provCfg_eq (by decide),
      cipherJudge_of_keeps k (by decide), k.flowCfg_eq (by decide), k.flowR_eq (by decide), judgedStatus]
  have hd : downStatus (looked s h) op = downStatus s op := by
    rw [downStatus, stackDown, hf, hs, downStatus, stackDown]
  rw [lookupStatus_eq, hj, hd, looked_variant, lookupStatus_eq]

/-- A data request's command is its lookup, with nothing of its own to add. -/
theorem exec_of_asks {c : Instr} {op : Op} {h : ReqHdr} {bytes : List Byte} {data : BitVec 2048} {en : BitVec 64}
    (hc : asks c = some (op, h, bytes, data, en)) (s : State) :
    exec c s = answer s (lookup s op op.code h bytes data en plain) ∧ (op.isRead || op.isWrite) = true ∧ op.lines ≠ 0 := by
  cases c <;> simp only [asks, reduceCtorEq, Option.some.injEq, Prod.mk.injEq] at hc
  all_goals
    obtain ⟨rfl, rfl, rfl, rfl, rfl⟩ := hc
    exact ⟨rfl, rfl, nofun⟩

/-! ### What lookup does with a request -/

/-- The request that lookup forms in a state. -/
def formedReq (s : State) (op : Op) (h : ReqHdr) (data : BitVec 2048) (en : BitVec 64) : Req :=
  { mkReq s op h.port h.flow h.province h.tag (h.line.toNat * 64) h.ns data en with
    inDown := (s.port h.port).st = .down }

theorem formedReq_id (s : State) (op : Op) (h : ReqHdr) (data : BitVec 2048) (en : BitVec 64) :
    (formedReq s op h data en).id = s.flw.nextId := rfl

theorem formedReq_dpa (s : State) (op : Op) (h : ReqHdr) (data : BitVec 2048) (en : BitVec 64) :
    (formedReq s op h data en).dpa = (provCfg s h.province).base.toNat * 2 ^ 26 + h.line.toNat * 64 := rfl

theorem formedReq_enc (s : State) {op : Op} (h : ReqHdr) (data : BitVec 2048) (en : BitVec 64) (hl : op.lines ≠ 0) :
    (formedReq s op h data en).enc = (provCfg s h.province).enc :=
  (congrArg _ (decide_eq_true hl)).trans (Bool.and_true _)

/-- The request that lookup forms. -/
def lookedReq (s : State) (op : Op) (h : ReqHdr) (data : BitVec 2048) (en : BitVec 64) : Req :=
  formedReq (looked s h) op h data en

/-- What lookup answers to a request of a port. -/
def lookedStatus (s : State) (op : Op) (h : ReqHdr) : Status :=
  lookupStatus s op (some h.port) h.flow h.province (h.line.toNat * 64)

/-- A request turned away with a status. -/
def turned (r : Req) (st : Status) : Req := { r with stage := .done, status := st, linesDue := 0, units := 0 }

theorem turned_id (r : Req) (st : Status) : (turned r st).id = r.id := rfl

theorem lookup_eq {s : State} {op : Op} {code : Nat} {h : ReqHdr} {bytes : List Byte} {data : BitVec 2048}
    {en : BitVec 64} (g : State → Req → State) (ht : takesReqs s h.port = true) (hh : heads s code h bytes = true) :
    lookup s op code h bytes data en g =
      if lookupStatus (looked s h) op (some h.port) h.flow h.province (h.line.toNat * 64) = .ok then
        g (charge (countOutcome (looked s h) h.flow
          (lookupStatus (looked s h) op (some h.port) h.flow h.province (h.line.toNat * 64))) h.flow op.units h.ns)
          (lookedReq s op h data en)
      else addReq (countOutcome (looked s h) h.flow
          (lookupStatus (looked s h) op (some h.port) h.flow h.province (h.line.toNat * 64)))
          (turned (lookedReq s op h data en)
            (lookupStatus (looked s h) op (some h.port) h.flow h.province (h.line.toNat * 64))) := by
  have hb : (!takesReqs s h.port || !heads s code h bytes) = false := by rw [ht, hh]; rfl
  unfold lookup
  rw [if_neg (by rw [hb]; exact Bool.false_ne_true)]
  rfl

/-- The state that a request which passed lookup leaves, before what its opcode adds. -/
def charged (s : State) (op : Op) (h : ReqHdr) : State :=
  charge (countOutcome (looked s h) h.flow .ok) h.flow op.units h.ns

theorem lookup_ok {s : State} {op : Op} {code : Nat} {h : ReqHdr} {bytes : List Byte} {data : BitVec 2048}
    {en : BitVec 64} (g : State → Req → State) (ht : takesReqs s h.port = true) (hh : heads s code h bytes = true)
    (hs : lookedStatus s op h = .ok) :
    lookup s op code h bytes data en g = g (charged s op h) (lookedReq s op h data en) := by
  rw [lookup_eq g ht hh, lookupStatus_looked, ← lookedStatus, if_pos hs, hs]
  rfl

/-- The request that lookup turned away. -/
def turnedReq (s : State) (op : Op) (h : ReqHdr) (data : BitVec 2048) (en : BitVec 64) : Req :=
  turned (lookedReq s op h data en) (lookedStatus s op h)

/-- The state that a request which lookup turned away leaves. -/
def turnedAway (s : State) (op : Op) (h : ReqHdr) (data : BitVec 2048) (en : BitVec 64) : State :=
  addReq (countOutcome (looked s h) h.flow (lookedStatus s op h)) (turnedReq s op h data en)

theorem lookup_turnedAway {s : State} {op : Op} {code : Nat} {h : ReqHdr} {bytes : List Byte} {data : BitVec 2048}
    {en : BitVec 64} (g : State → Req → State) (ht : takesReqs s h.port = true) (hh : heads s code h bytes = true)
    (hs : lookedStatus s op h ≠ .ok) :
    lookup s op code h bytes data en g = turnedAway s op h data en := by
  rw [lookup_eq g ht hh, lookupStatus_looked, ← lookedStatus, if_neg hs]
  rfl

/-- The parts that lookup writes. -/
abbrev lookupParts : List Part := [.clock, .ports, .reqs, .flw, .flowRt, .tel]

theorem keeps_charged (s : State) (op : Op) (h : ReqHdr) : Keeps [.clock, .ports, .flowRt, .tel] s (charged s op h) :=
  (((keeps_looked s h).mono (by decide)).countOutcome (by decide) (by decide)).charge (by decide)

theorem keeps_turnedAway (s : State) (op : Op) (h : ReqHdr) (data : BitVec 2048) (en : BitVec 64) :
    Keeps lookupParts s (turnedAway s op h data en) :=
  (((keeps_looked s h).mono (by decide)).countOutcome (by decide) (by decide)).addReq (by decide) (by decide)

theorem looked_flowR (s : State) (h : ReqHdr) (f : Nat) : (looked s h).flowR f = s.flowR f :=
  (keeps_looked s h).flowR_eq (by decide) f

theorem perf_flowR (s : State) (ev i k f : Nat) : (perf s ev i k).flowR f = s.flowR f := rfl

theorem countOutcome_flowR_ne {f g : Nat} (s : State) (st : Status) (hg : g ≠ f) :
    (countOutcome s f st).flowR g = s.flowR g := by
  cases st with
  | outOfBudget => simp only [countOutcome, perf_flowR, modFlowR_def, flowR_setFlowR_ne _ _ _ _ hg]
  | _ => rfl

theorem countOutcome_charged (s : State) (f : Nat) (st : Status) :
    ((countOutcome s f st).flowR f).charged = (s.flowR f).charged := by
  cases st with
  | outOfBudget => simp only [countOutcome, perf_flowR, modFlowR_def, flowR_setFlowR]
  | _ => rfl

theorem countOutcome_oobCount (s : State) (f : Nat) (st : Status) :
    ((countOutcome s f st).flowR f).oobCount =
      if st = .outOfBudget then sat (s.flowR f).oobCount 1 else (s.flowR f).oobCount := by
  cases st with
  | outOfBudget => simp only [countOutcome, perf_flowR, modFlowR_def, flowR_setFlowR, if_true]
  | _ => rfl

theorem charge_flowR_ne {f g : Nat} (s : State) (u ns : Nat) (hg : g ≠ f) : (charge s f u ns).flowR g = s.flowR g := by
  unfold charge
  simp only [modFlowR_def, flowR_setFlowR_ne _ _ _ _ hg]

theorem charge_charged (s : State) (f u ns : Nat) :
    ((charge s f u ns).flowR f).charged = sat (s.flowR f).charged u := by
  unfold charge
  simp only [modFlowR_def, flowR_setFlowR]
  split <;> rfl

theorem charged_flowR (s : State) (op : Op) (h : ReqHdr) :
    ((charged s op h).flowR h.flow).charged = sat (s.flowR h.flow).charged op.units := by
  rw [charged, charge_charged, countOutcome_charged, looked_flowR]

theorem charged_flowR_ne {f : Nat} (s : State) (op : Op) (h : ReqHdr) (hf : f ≠ h.flow) :
    (charged s op h).flowR f = s.flowR f := by
  rw [charged, charge_flowR_ne _ _ _ hf, countOutcome_flowR_ne _ _ hf, looked_flowR]

theorem lookedReq_id (s : State) (op : Op) (h : ReqHdr) (data : BitVec 2048) (en : BitVec 64) :
    (lookedReq s op h data en).id = s.flw.nextId := by
  have hf : (looked s h).flw = s.flw := keeps_looked s h .flw (by decide)
  rw [lookedReq, formedReq_id, hf]

theorem turnedReq_id (s : State) (op : Op) (h : ReqHdr) (data : BitVec 2048) (en : BitVec 64) :
    (turnedReq s op h data en).id = s.flw.nextId := by
  rw [turnedReq, turned_id, lookedReq_id]

theorem lookedReq_dpa (s : State) (op : Op) (h : ReqHdr) (data : BitVec 2048) (en : BitVec 64) :
    (lookedReq s op h data en).dpa = (provCfg s h.province).base.toNat * 2 ^ 26 + h.line.toNat * 64 := by
  rw [lookedReq, formedReq_dpa, (keeps_looked s h).provCfg_eq (by decide)]

theorem lookedReq_enc (s : State) {op : Op} (h : ReqHdr) (data : BitVec 2048) (en : BitVec 64) (hl : op.lines ≠ 0) :
    (lookedReq s op h data en).enc = (provCfg s h.province).enc := by
  rw [lookedReq, formedReq_enc _ _ _ _ hl, (keeps_looked s h).provCfg_eq (by decide)]

end Sys2Proof.Proofs

/-! The data requests, FENCE, FLUSH and the reserved opcodes settled (R76, R95, R105, R131, R176, R177). -/

namespace Sys2Proof.Proofs

open Sys2Proof.Machine
open Sys2Proof.Safety

/-! ### What lookup answers to a data request -/

theorem lookupStatus_refused {s : State} {op : Op} {port : Option Nat} {flow prov off : Nat} (he : op ≠ .engine)
    (h : judgedStatus s op port flow prov off = .refused) : lookupStatus s op port flow prov off = .refused := by
  rw [lookupStatus_of_not_engine he, h, first_refused (downStatus_ne_absent s op)]

theorem first_fenced {a : Status} (h : a ≠ .absent) :
    Status.first a .fenced = .refused ∨ Status.first a .fenced = .fenced := by
  cases a with
  | absent => exact absurd rfl h
  | refused => exact .inl rfl
  | _ => exact .inr rfl

theorem lookupStatus_down {s : State} {op : Op} {port : Option Nat} {flow prov off : Nat}
    (hd : s.flt.fatal = true ∨ s.sec.lc = 3) (he : op ≠ .engine) :
    lookupStatus s op port flow prov off = .refused ∨ lookupStatus s op port flow prov off = .fenced := by
  rw [lookupStatus_of_not_engine he, downStatus_down hd he]
  exact first_fenced (judgedStatus_ne_absent _ _ _ _ _ _)

theorem lookupStatus_up {s : State} {op : Op} {port : Option Nat} {flow prov off : Nat}
    (hf : s.flt.fatal = false) (hl : s.sec.lc ≠ 3) (he : op ≠ .engine) :
    lookupStatus s op port flow prov off = judgedStatus s op port flow prov off := by
  rw [lookupStatus_of_not_engine he, downStatus_up hf hl, first_ok_right]

theorem cipherJudge_plain {s : State} {p : Nat} (h : (provCfg s p).enc = false) (f : FlowCfg) :
    cipherJudge s p f = .ok := by
  rw [cipherJudge, h]
  rfl

theorem judgedStatus_plain {s : State} {op : Op} {n flow prov off : Nat} (ho : (op.isRead || op.isWrite) = true)
    (hv : (flowCfg s flow).valid = true) (hown : portOwns s n (flowCfg s flow) = true)
    (hp : (flowCfg s flow).provs.getLsbD prov = true)
    (hj : provJudge s prov off (64 * op.lines) op.align op.isWrite = .ok) (he : (provCfg s prov).enc = false) :
    judgedStatus s op (some n) flow prov off =
      if chargePasses (flowCfg s flow) (s.flowR flow) op.units then .ok else .outOfBudget := by
  have hr : op ≠ .reserved := ne_reserved_of_data (by simpa using ho)
  have hn : ¬ (decide (op = .reserved) || !flowPermits s op (some n) flow prov) = true := by
    rw [decide_eq_false hr, flowPermits_of hv hown (.inr hp)]
    exact Bool.false_ne_true
  rw [judgedStatus, if_neg hn, if_pos ho, hj, cipherJudge_plain he, ite_self]
  exact first_ok_left _

/-! ### Requests that pass and requests that are turned away -/

theorem addReq_reqs (s : State) (r : Req) : (addReq s r).reqs = s.reqs ++ [r] := rfl
theorem addReq_nextId (s : State) (r : Req) : (addReq s r).flw.nextId = s.flw.nextId + 1 := rfl
theorem addReq_flowR (s : State) (r : Req) (f : Nat) : (addReq s r).flowR f = s.flowR f := rfl

theorem charged_reqs (s : State) (op : Op) (h : ReqHdr) : (charged s op h).reqs = s.reqs :=
  keeps_charged s op h .reqs (by decide)

theorem charged_flw (s : State) (op : Op) (h : ReqHdr) : (charged s op h).flw = s.flw :=
  keeps_charged s op h .flw (by decide)

/-- A request that passes lookup and adds nothing of its own waits with what lookup formed. -/
theorem keeps_admitted (s : State) (op : Op) (h : ReqHdr) (r : Req) :
    Keeps lookupParts s (addReq (charged s op h) r) :=
  ((keeps_charged s op h).mono (by decide)).addReq (by decide) (by decide)

theorem exec_asks_ok {c : Instr} {s : State} {op : Op} {h : ReqHdr} {bytes : List Byte} {data : BitVec 2048}
    {en : BitVec 64} (hc : asks c = some (op, h, bytes, data, en)) (ha : Arrived s op.code h bytes)
    (hs : lookedStatus s op h = .ok) :
    exec c s = .next (fin s (addReq (charged s op h) (lookedReq s op h data en))) := by
  obtain ⟨hp, ht, hh⟩ := ha
  rw [(exec_of_asks hc s).1]
  exact answer_next hp (lookup_ok plain ht hh hs)

theorem turnedAway_reqs (s : State) (op : Op) (h : ReqHdr) (data : BitVec 2048) (en : BitVec 64) :
    (turnedAway s op h data en).reqs = s.reqs ++ [turnedReq s op h data en] := by
  have hk : (countOutcome (looked s h) h.flow (lookedStatus s op h)).reqs = s.reqs :=
    ((keeps_looked s h).mono (k := [.clock, .ports, .flowRt, .tel]) (by decide)).countOutcome (by decide) (by decide)
      .reqs (by decide)
  rw [turnedAway, addReq_reqs, hk]

theorem turnedAway_charged (s : State) (op : Op) (h : ReqHdr) (data : BitVec 2048) (en : BitVec 64) :
    ((turnedAway s op h data en).flowR h.flow).charged = (s.flowR h.flow).charged := by
  rw [turnedAway, addReq_flowR, countOutcome_charged, looked_flowR]

theorem turnedAway_oobCount (s : State) (op : Op) (h : ReqHdr) (data : BitVec 2048) (en : BitVec 64) :
    ((turnedAway s op h data en).flowR h.flow).oobCount =
      if lookedStatus s op h = .outOfBudget then sat (s.flowR h.flow).oobCount 1 else (s.flowR h.flow).oobCount := by
  rw [turnedAway, addReq_flowR, countOutcome_oobCount, looked_flowR]

/-- Settles O23: the request that lookup forms waits with its charge; the refusals come from the flow, the province's judge
and the permission, and Fatal and RETIRED fence what is not refused. -/
theorem lookupJudges : Obligations.LookupJudges := by
  refine ⟨fun s c op h bytes data en hc ha hs => ?_, fun s op n flow prov off ho hr => ?_,
    fun s op n flow prov off hd he => lookupStatus_down hd he, fun s op n flow prov off ho hf hl hv hown hp hj he => ?_⟩
  · obtain ⟨-, ho, hl⟩ := exec_of_asks hc s
    refine ⟨_, lookedReq s op h data en, exec_asks_ok hc ha hs, ?_, lookedReq_id .., ?_, rfl, rfl, rfl, rfl, rfl, rfl, rfl,
      lookedReq_dpa .., lookedReq_enc s h data en hl, rfl, rfl, rfl, rfl, rfl, ?_, fun f hf => ?_, Keeps.fin (keeps_admitted _ _ _ _)⟩
    · rw [fin_reqs, addReq_reqs, charged_reqs]
    · exact congrArg (·.nextId + 1) (charged_flw s op h)
    · rw [fin_flowR, addReq_flowR, charged_flowR]
    · rw [fin_flowR, addReq_flowR, charged_flowR_ne s op h hf]
  · exact lookupStatus_refused (ne_engine_of_data ho) (judgedStatus_refused ho hr)
  · rw [lookupStatus_up hf hl (ne_engine_of_data ho), judgedStatus_plain (by simpa using ho) hv hown hp hj he]

/-- Settles O24: what lookup turns away is added done, with its status, and only OUT_OF_BUDGET counts on the flow. -/
theorem requestsTurnedAway : Obligations.RequestsTurnedAway := by
  intro s c op h bytes data en hc ⟨hp, ht, hh⟩ hs
  refine ⟨fin s (turnedAway s op h data en), turnedReq s op h data en, ?_, ?_, turnedReq_id s op h data en, rfl, rfl, rfl, rfl, rfl, rfl, ?_, ?_,
    Keeps.fin (keeps_turnedAway _ _ _ _ _)⟩
  · rw [(exec_of_asks hc s).1]
    exact answer_next hp (lookup_turnedAway plain ht hh hs)
  · rw [fin_reqs, turnedAway_reqs]
  · rw [fin_flowR, turnedAway_charged]
  · rw [fin_flowR, turnedAway_oobCount]
    rfl

theorem sat_zero {w : Nat} (x : BitVec w) : sat x 0 = x := by
  rw [sat, Nat.add_zero, if_pos x.isLt, BitVec.ofNat_toNat, BitVec.setWidth_eq]

/-! ### FENCE, FLUSH and the reserved opcodes -/

/-- A FENCE or FLUSH of a valid flow of the port's bond passes lookup where the stack is up: it has no data to judge. -/
theorem lookedStatus_control {s : State} {op : Op} {h : ReqHdr} (ho : op.isRead = false ∧ op.isWrite = false)
    (hr : op ≠ .reserved) (he : op ≠ .engine) (hf : s.flt.fatal = false) (hl : s.sec.lc ≠ 3)
    (hv : (flowCfg s h.flow).valid = true) (hown : portOwns s h.port (flowCfg s h.flow) = true) :
    lookedStatus s op h = .ok := by
  obtain ⟨hrd, hwr⟩ := ho
  have hn : ¬ (decide (op = .reserved) || !flowPermits s op (some h.port) h.flow h.province) = true := by
    rw [decide_eq_false hr, flowPermits_of hv hown (.inl ⟨hrd, hwr⟩)]
    exact Bool.false_ne_true
  have hd : ¬ (op.isRead || op.isWrite) = true := by
    rw [hrd, hwr]
    exact Bool.false_ne_true
  rw [lookedStatus, lookupStatus_up hf hl he, judgedStatus, if_neg hn, if_neg hd]

theorem lookedStatus_reserved (s : State) (h : ReqHdr) : lookedStatus s .reserved h = .refused :=
  lookupStatus_refused nofun rfl

theorem refillWb_of_clean {s : State} {c : Nat} (h : dirtyLines s c = []) : refillWb s c = s := by
  have hw : wantedWb s c = [] := by rw [wantedWb, h]; rfl
  unfold refillWb refillWbAux
  rw [hw]
  exact ite_self _

theorem foldS_fixed {g : State → Nat → State} {s : State} (h : ∀ c, g s c = s) (xs : List Nat) : foldS xs g s = s := by
  induction xs with
  | nil => rfl
  | cons c xs ih => rw [foldS, List.foldl_cons, h c, ← foldS, ih]

/-- A request that flushes and waits for lines. -/
def flushing (r : Req) (awaits : List (Nat × Nat)) : Req := { r with stage := .flushing, awaits := awaits }

theorem flushing_id (r : Req) (awaits : List (Nat × Nat)) : (flushing r awaits).id = r.id := rfl

/-- The request of a FLUSH: it waits for the lines that its flow has not yet in the memory. -/
def flushReq (s : State) (h : ReqHdr) : Req :=
  flushing (lookedReq s .flush h 0 0) (flushAwaits s (flowCfg s h.flow))

theorem flushReq_id (s : State) (h : ReqHdr) : (flushReq s h).id = s.flw.nextId := by
  rw [flushReq, flushing_id, lookedReq_id]

/-- What a FLUSH that passed lookup does. -/
def flushGoes (h : ReqHdr) (s : State) (r : Req) : State :=
  foldS (flushChans s (flowCfg s h.flow)) refillWb (addReq s (flushing r (flushAwaits s (flowCfg s h.flow))))

theorem execFlush_eq (h : ReqHdr) (s : State) : execFlush h s = answer s (lookup s .flush 9 h [] 0 0 (flushGoes h)) := rfl

theorem flushGoes_charged {s : State} {h : ReqHdr} (hd : ∀ c, dirtyLines s c = []) :
    flushGoes h (charged s .flush h) (lookedReq s .flush h 0 0) = addReq (charged s .flush h) (flushReq s h) := by
  have k := keeps_charged s .flush h
  rw [flushGoes, k.flowCfg_eq (by decide), k.flushAwaits_eq (by decide) (by decide), ← flushReq]
  refine foldS_fixed (fun c => refillWb_of_clean ?_) _
  rw [(keeps_admitted s .flush h _).dirtyLines_eq (by decide), hd c]

theorem endReq_ok (s : State) (id : Nat) : endReq s id .ok = { s with reqs := s.reqs.map (fun x =>
    if x.id = id then { x with stage := .done, status := Status.first x.status .ok, linesDue := 0 } else x) } := rfl

theorem exec_reservedOpcode {s : State} {h : ReqHdr} {op : BitVec 4} (hop : 11 ≤ op.toNat)
    (ha : Arrived s op.toNat h []) :
    exec (.reservedOpcode h op) s = .next (fin s (turnedAway s .reserved h 0 0)) := by
  obtain ⟨hp, ht, hh⟩ := ha
  refine answer_next hp ((if_pos hop).trans (lookup_turnedAway plain ht hh ?_))
  rw [lookedStatus_reserved]
  exact nofun

theorem exec_fence {s : State} {h : ReqHdr} (ha : Arrived s 8 h []) (hs : lookedStatus s .fence h = .ok) :
    exec (.fence h) s = .next (fin s (addReq (charged s .fence h) (lookedReq s .fence h 0 0))) := by
  obtain ⟨hp, ht, hh⟩ := ha
  exact answer_next hp (lookup_ok plain ht hh hs)

theorem exec_flush {s : State} {h : ReqHdr} (ha : Arrived s 9 h []) (hs : lookedStatus s .flush h = .ok)
    (hd : ∀ c, dirtyLines s c = []) :
    exec (.flush h) s = .next (fin s (addReq (charged s .flush h) (flushReq s h))) := by
  obtain ⟨hp, ht, hh⟩ := ha
  show execFlush h s = _
  rw [execFlush_eq]
  exact answer_next hp ((lookup_ok _ ht hh hs).trans (flushGoes_charged hd))

/-- Settles O25. -/
theorem fenceFlushReserved : Obligations.FenceFlushReserved := by
  refine ⟨fun s h op hop ha => ⟨_, turnedReq s .reserved h 0 0, exec_reservedOpcode hop ha, ?_, rfl,
      lookedStatus_reserved s h, rfl, Keeps.fin (keeps_turnedAway _ _ _ _ _)⟩,
    fun s h ha hf hl hv hown => ⟨_, lookedReq s .fence h 0 0,
      exec_fence ha (lookedStatus_control ⟨rfl, rfl⟩ nofun nofun hf hl hv hown), ?_, lookedReq_id s .fence h 0 0, rfl, rfl,
      rfl, rfl, ?_, Keeps.fin (keeps_admitted _ _ _ _)⟩,
    fun s h ha hf hl hv hown hd => ⟨_, flushReq s h,
      exec_flush ha (lookedStatus_control ⟨rfl, rfl⟩ nofun nofun hf hl hv hown) hd, ?_, flushReq_id s h, rfl, rfl, rfl,
      rfl, Keeps.fin (keeps_admitted _ _ _ _)⟩,
    fun s r hp hr hop hst => answer_next hp ?_, fun s r hp hr hst => answer_next hp ?_⟩
  · rw [fin_reqs, turnedAway_reqs]
  · rw [fin_reqs, addReq_reqs, charged_reqs]
  · rw [fin_flowR, addReq_flowR, charged_flowR]
    exact sat_zero _
  · rw [fin_reqs, addReq_reqs, charged_reqs]
  · rw [hr, ← endReq_ok]
    simp only [hop, hst, decide_true, Bool.true_and]
    by_cases hx : (s.reqs.any fun x => decide (x.flow = r.flow) && decide (x.id < r.id) && x.eng.isNone) = true
    · rw [hx]; rfl
    · rw [Bool.not_eq_true] at hx
      rw [hx]; rfl
  · rw [hr, ← endReq_ok]
    simp only [hst, decide_true, Bool.true_and, decide_eq_true_eq]

end Sys2Proof.Proofs

/-! Flow windows: what an edge closes and opens (R133–R136). -/

namespace Sys2Proof.Proofs

open Sys2Proof.Machine
open Sys2Proof.Safety

theorem unparkFlow_flowR (s : State) (f g : Nat) : (unparkFlow s f).flowR g = s.flowR g := by
  unfold unparkFlow
  split <;> rfl

theorem unparkFlow_flt (s : State) (f : Nat) : (unparkFlow s f).flt = s.flt := by
  unfold unparkFlow
  split <;> rfl

/-- What a flow's run-time record becomes as a window opens over `r`. -/
def opened (s : State) (f : Nat) (whole : Bool) (r : FlowRt) : FlowRt :=
  { r with
    charged := 0
    offered := sat 0 (waitingUnits s f)
    dispatched := 0
    whole := whole
    spoiled := spoiledNow s (flowCfg s f)
    irqUsed := false
    edge := some s.elapsed }

theorem openWindow_flowR (s : State) (f : Nat) (whole : Bool) :
    (openWindow s f whole).flowR f = opened s f whole (s.flowR f) := by
  unfold openWindow
  simp only [modFlowR_def, flowR_setFlowR]
  rfl

theorem openWindow_flowR_ne {f g : Nat} (s : State) (whole : Bool) (h : g ≠ f) :
    (openWindow s f whole).flowR g = s.flowR g := by
  unfold openWindow
  simp only [modFlowR_def, flowR_setFlowR_ne _ _ _ _ h]
  rfl

theorem openWindow_flt (s : State) (f : Nat) (whole : Bool) : (openWindow s f whole).flt = s.flt := rfl

/-- A window that missed: its record, and the fault it raises. -/
def missed (s : State) (f : Nat) : State :=
  raise (s.modFlowR f (fun r => { r with missCount := sat r.missCount 1, lastMissed := true, lastUnjudged := false })) 0x38 f

theorem commits_of {c : FlowCfg} (hv : c.valid = true) (hc : c.cls.toNat < 2) : c.commits = true := by
  rw [FlowCfg.commits, hv, decide_eq_true hc]
  rfl

theorem postFlow_of_invalid {s : State} {f : Nat} (h : (queueCfg s (flowCfg s f).queue.toNat).valid = false) (ty : Nat)
    (d : BitVec 40) : postFlow s f ty d = s := by
  exact if_neg (by rw [h]; exact Bool.false_ne_true)

theorem judgeWindow_missed {s : State} {f : Nat} (hv : (flowCfg s f).valid = true) (hc : (flowCfg s f).cls.toNat < 2)
    (hw : (s.flowR f).whole = true) (hs : (s.flowR f).spoiled = false)
    (hg : (flowCfg s f).guarantee ≤ (s.flowR f).offered) (hd : (s.flowR f).dispatched < (flowCfg s f).guarantee)
    (hq : (queueCfg s (flowCfg s f).queue.toNat).valid = false) : judgeWindow s f = missed s f := by
  have hj : judgeWindow s f = postFlow (missed s f) f 1 ((s.flowR f).dispatched.zeroExtend 40) := by
    unfold judgeWindow
    simp only [commits_of hv hc, hw, hs, decide_eq_true hg, decide_eq_true hd]
    rfl
  exact hj.trans (postFlow_of_invalid (s := missed s f) hq _ _)

/-- A window that met its guarantee, or offered less. -/
def met (s : State) (f : Nat) : State := s.modFlowR f (fun r => { r with lastMissed := false, lastUnjudged := false })

theorem met_flowR (s : State) (f : Nat) : (met s f).flowR f = { s.flowR f with lastMissed := false, lastUnjudged := false } :=
  flowR_setFlowR s f _

theorem judgeWindow_met {s : State} {f : Nat} (hv : (flowCfg s f).valid = true) (hc : (flowCfg s f).cls.toNat < 2)
    (hw : (s.flowR f).whole = true) (hs : (s.flowR f).spoiled = false)
    (hg : (flowCfg s f).guarantee ≤ (s.flowR f).dispatched) :
    judgeWindow s f = met s f := by
  unfold judgeWindow
  simp only [commits_of hv hc, hw, hs, decide_eq_false (BitVec.not_lt.mpr hg), Bool.and_false, Bool.not_true, Bool.or_self,
    Bool.false_eq_true, if_false]
  rfl

/-- The window of flow f closed as `judged` leaves it, and the next one open. -/
def reopened (judged : State) (f : Nat) : State :=
  unparkFlow (openWindow (judged.modFlowR f (fun r => { r with lastDisp := r.dispatched })) f true) f

theorem exec_flowWindowEdge {s : State} {f : Nat} (hp : s.pins.pwrgood = true) (hv : (flowCfg s f).valid = true)
    (he : atEdge s (flowCfg s f) = true) (hn : (s.flowR f).edge ≠ some s.elapsed) :
    exec (.flowWindowEdge f) s = .next (fin s (reopened (judgeWindow s f) f)) := by
  refine answer_next hp (if_pos ?_)
  rw [hv, he, decide_eq_true hn]
  rfl

theorem reopened_flowR (t : State) (f : Nat) :
    (reopened t f).flowR f = opened (t.modFlowR f (fun r => { r with lastDisp := r.dispatched })) f true
      { t.flowR f with lastDisp := (t.flowR f).dispatched } := by
  rw [reopened, unparkFlow_flowR, openWindow_flowR, modFlowR_def, flowR_setFlowR]

theorem reopened_flowR_ne {t : State} {f g : Nat} (h : g ≠ f) : (reopened t f).flowR g = t.flowR g := by
  rw [reopened, unparkFlow_flowR, openWindow_flowR_ne _ _ h, modFlowR_def, flowR_setFlowR_ne _ _ _ _ h]

theorem reopened_flt (t : State) (f : Nat) : (reopened t f).flt = t.flt := by
  rw [reopened, unparkFlow_flt, openWindow_flt]
  rfl

theorem keeps_reopened {l : List Part} {s t : State} {f : Nat} (h : Keeps l s t) (hf : Part.flowRt ∈ l)
    (hr : Part.reqs ∈ l) (hp : Part.pool ∈ l) : Keeps l s (reopened t f) :=
  (((h.setFlowR hf).setReqs hr).setFlowR hf).unparkFlow hp

theorem missed_flowR (s : State) (f : Nat) : (missed s f).flowR f =
    { s.flowR f with missCount := sat (s.flowR f).missCount 1, lastMissed := true, lastUnjudged := false } :=
  flowR_setFlowR s f _

theorem missed_flowR_ne {f g : Nat} (s : State) (h : g ≠ f) : (missed s f).flowR g = s.flowR g :=
  flowR_setFlowR_ne s f g _ h

theorem keeps_missed (s : State) (f : Nat) : Keeps [.flowRt, .flt, .reqs, .pool] s (missed s f) :=
  ((Keeps.refl _ s).setFlowR (by decide)).raise _ _ _ (by decide)

theorem waitingUnits_congr {s t : State} (h : t.reqs = s.reqs) (f : Nat) : waitingUnits t f = waitingUnits s f := by
  rw [waitingUnits, h, waitingUnits]

/-- Settles O29. -/
theorem windowEdge : Obligations.WindowEdge := by
  refine ⟨fun s f hp hv he hn hc hw hs hg hd hq => ?_, fun s f hp hv he hn hc hw hs hg => ?_, fun s f hp he => ?_⟩
  · have hj := judgeWindow_missed hv hc hw hs hg hd hq
    refine ⟨fin s (reopened (missed s f) f), ?_⟩
    rw [exec_flowWindowEdge hp hv he hn, hj, fin_flowR, reopened_flowR, missed_flowR, fin_flt, reopened_flt]
    refine ⟨rfl, rfl, rfl, rfl, rfl, rfl, ?_, rfl, rfl, (keeps_reopened (keeps_missed s f) (by decide) (by decide)
      (by decide)).fin, fun g hgf => ?_⟩
    · exact congrArg (sat 0) (waitingUnits_congr rfl f)
    · rw [fin_flowR, reopened_flowR_ne hgf, missed_flowR_ne s hgf]
  · refine ⟨fin s (reopened _ f), exec_flowWindowEdge hp hv he hn, ?_⟩
    rw [judgeWindow_met hv hc hw hs hg, fin_flowR, reopened_flowR, met_flowR, fin_flt, reopened_flt]
    exact ⟨rfl, rfl, rfl, rfl,
      (keeps_reopened ((Keeps.refl _ s).setFlowR (by decide)) (by decide) (by decide) (by decide)).fin⟩
  · refine answer_next hp (if_neg ?_)
    rw [he]
    simp

end Sys2Proof.Proofs

/-! Budgets, SHORTFALL and the province probe (R92, R141–R146). -/

namespace Sys2Proof.Safety

open Sys2Proof.Machine

theorem Keeps.setProbes {l : List Part} {s t : State} {v : Tbl (Nat × W48)} (h : Keeps l s t) (hl : Part.probes ∈ l) :
    Keeps l s { t with probes := v } := fun p hp => by
  have a := h p hp
  cases p with
  | probes => exact absurd hl hp
  | _ => exact a

section Budgets

variable {l : List Part} {s t : State} (h : Keeps l s t)
include h

theorem Keeps.setFloors (hl : Part.flowRt ∈ l) : Keeps l s (Sys2Proof.Machine.setFloors t) :=
  Keeps.foldS (fun _ _ k => k.setFlowR hl) _ h

theorem Keeps.spoilAll (hl : Part.flowRt ∈ l) : Keeps l s (Sys2Proof.Machine.spoilAll t) :=
  Keeps.foldS (fun _ _ k => k.setFlowR hl) _ h

theorem Keeps.chanFenced_eq (hl : Part.spr ∉ l) (c : Nat) : chanFenced t c = chanFenced s c := by
  rw [chanFenced, h.sprOf_eq hl, chanFenced]

/-- The parts that budgets and commitments are computed from (R138–R140). -/
def budgetParts : List Part := [.tables, .spr, .ranks, .chans, .pwr, .tiers, .mig, .ports]

theorem Keeps.chanBudget_eq (hl : ∀ p ∈ budgetParts, p ∉ l) (c : Nat) : chanBudget t c = chanBudget s c := by
  have hm : t.mig = s.mig := h .mig (hl _ (by decide))
  have ht : t.tables = s.tables := h .tables (hl _ (by decide))
  have hp : t.pwr = s.pwr := h .pwr (hl _ (by decide))
  have hr : t.rank = s.rank := by
    funext c k
    exact h.rank_eq (hl _ (by decide)) c k
  have hg : migTargets t = migTargets s := by rw [migTargets, hm, ht, hr, migTargets]
  simp only [chanBudget, h.chanFenced_eq (hl _ (by decide)), h.chan_eq (hl _ (by decide)), shareSum, hr,
    h.tier_eq (hl _ (by decide)), migLoss, hg, hm, hp]

theorem Keeps.chanCommit_eq (hl : ∀ p ∈ budgetParts, p ∉ l) (sel : FlowCfg → Bool) (c : Nat) :
    chanCommit t sel c = chanCommit s sel c := by
  have ht : t.tables = s.tables := h .tables (hl _ (by decide))
  have hr : t.ranks = s.ranks := h .ranks (hl _ (by decide))
  simp only [chanCommit, h.chanFenced_eq (hl _ (by decide)), reserveAdd, reserveRanks, ht, hr]

theorem Keeps.bondBudget_eq (hl : ∀ p ∈ budgetParts, p ∉ l) (first log2 : Nat) :
    bondBudget t first log2 = bondBudget s first log2 := by
  have hp : t.pwr = s.pwr := h .pwr (hl _ (by decide))
  have hh : portHalves t = portHalves s := by
    funext n
    rw [portHalves, h.port_eq (hl _ (by decide)), portHalves]
  rw [bondBudget, hp, hh, bondBudget]

theorem Keeps.fullFits_eq (hl : ∀ p ∈ budgetParts, p ∉ l) : fullFits t = fullFits s := by
  have ht : t.tables = s.tables := h .tables (hl _ (by decide))
  simp only [fullFits, h.chanCommit_eq hl, h.chanBudget_eq hl, h.bondBudget_eq hl, ht]

end Budgets

end Sys2Proof.Safety

namespace Sys2Proof.Proofs

open Sys2Proof.Machine
open Sys2Proof.Safety

/-! ### Floors -/

@[simp] theorem fin_flw (s t : State) : (fin s t).flw = t.flw := rfl
@[simp] theorem fin_probes (s t : State) : (fin s t).probes = t.probes := rfl

/-- Set the effective floor of flow f. -/
def setFloor (s : State) (f : Nat) : State := s.modFlowR f (fun r => { r with floor := floorOf s (flowCfg s f) })

theorem setFloors_eq (s : State) : setFloors s = foldS (validFlows s) setFloor s := rfl

theorem floorOf_of_keeps {s t : State} (h : Keeps [.flowRt] s t) (f : FlowCfg) : floorOf t f = floorOf s f := by
  have hf : t.flw = s.flw := h .flw (by decide)
  have ht : t.tables = s.tables := h .tables (by decide)
  rw [floorOf, hf, ht, floorOf]

theorem setFloor_floor {s t : State} (h : Keeps [.flowRt] s t) (g : Nat) :
    ((setFloor t g).flowR g).floor = floorOf s (flowCfg s g) := by
  rw [setFloor, modFlowR_def, flowR_setFlowR]
  exact (floorOf_of_keeps h _).trans (by rw [h.flowCfg_eq (by decide)])

theorem setFloor_flowR_ne {f g : Nat} (s : State) (h : f ≠ g) : (setFloor s g).flowR f = s.flowR f :=
  flowR_setFlowR_ne s g f _ h

/-- A floor once set stays, and every flow of the list gets its own. -/
theorem foldS_setFloor_floor {s : State} {f : Nat} (xs : List Nat) {t : State} (h : Keeps [.flowRt] s t)
    (hf : f ∈ xs ∨ (t.flowR f).floor = floorOf s (flowCfg s f)) :
    ((foldS xs setFloor t).flowR f).floor = floorOf s (flowCfg s f) := by
  induction xs generalizing t with
  | nil => exact hf.resolve_left nofun
  | cons x xs ih =>
    refine ih (t := setFloor t x) (h.setFlowR (by decide)) ?_
    by_cases e : f = x
    · exact .inr (e ▸ setFloor_floor h x)
    · rw [setFloor_flowR_ne t e]
      exact hf.imp_left (fun m => (List.mem_cons.mp m).resolve_left e)

theorem setFloors_floor {s : State} {f : Nat} (hf : f ∈ validFlows s) :
    ((setFloors s).flowR f).floor = floorOf s (flowCfg s f) := by
  rw [setFloors_eq]
  exact foldS_setFloor_floor _ (Keeps.refl _ s) (.inl hf)

theorem floorOf_of_no_shortfall {s : State} (h : s.flw.shortfall = false) (f : FlowCfg) : floorOf s f = f.guarantee := by
  rw [floorOf, h, Bool.and_false]
  exact if_neg Bool.false_ne_true

theorem setFloors_flw (s : State) : (setFloors s).flw = s.flw :=
  Keeps.setFloors (l := [.flowRt]) (Keeps.refl _ s) (by decide) .flw (by decide)

theorem setFloors_flt (s : State) : (setFloors s).flt = s.flt :=
  Keeps.setFloors (l := [.flowRt]) (Keeps.refl _ s) (by decide) .flt (by decide)

/-! ### Recomputation -/

/-- The budgets of a recomputation written, its request cleared. -/
def budgeted (s : State) : State :=
  let t := storeBudgets { s with flw := { s.flw with due := false } }
  { t with flw := { t.flw with cleanSoFar := t.flw.cleanSoFar && fullFits s } }

theorem keeps_budgeted (s : State) : Keeps [.flw] s (budgeted s) :=
  (((Keeps.refl _ s).setFlw (by decide)).setFlw (by decide)).setFlw (by decide)

theorem recompute_fits {s : State} (hs : s.flw.shortfall = false) (hf : fullFits s = true) :
    recompute s = setFloors (budgeted s) :=
  (if_neg (fun h => Bool.false_ne_true (hs.symm.trans h))).trans (if_pos hf)

theorem recompute_short {s : State} (hs : s.flw.shortfall = false) (hf : fullFits s = false) :
    recompute s = enterShortfall (budgeted s) :=
  (if_neg (fun h => Bool.false_ne_true (hs.symm.trans h))).trans
    (if_neg (fun h => Bool.false_ne_true (hf.symm.trans h)))

theorem budgeted_shortfall (s : State) : (budgeted s).flw.shortfall = s.flw.shortfall := rfl

theorem exec_budgetRecompute {s : State} (hp : s.pins.pwrgood = true) (hd : s.flw.due = true)
    (hs : s.flw.dueSince < s.elapsed) : exec .budgetRecompute s = .next (fin s (recompute s)) := by
  refine answer_next hp (if_pos ?_)
  rw [hd, decide_eq_true hs]
  rfl

/-! ### SHORTFALL -/

/-- SHORTFALL entered, before it is raised and posted. -/
def shortened (s : State) : State :=
  { s with flw := { s.flw with
    shortfall := true, factor := (levelsNow s).1, shed := (levelsNow s).2, clean := 0, entries := sat s.flw.entries 1 } }

theorem keeps_shortened (s : State) : Keeps [.flw] s (shortened s) := (Keeps.refl _ s).setFlw (by decide)

theorem shortQueues_of_keeps {l : List Part} {s t : State} (h : Keeps l s t) (hl : Part.tables ∉ l) :
    shortQueues t = shortQueues s := by
  have e : t.tables = s.tables := h .tables hl
  simp only [shortQueues, queueCfg, e]

theorem keeps_shortRaised (s : State) :
    Keeps [.flw, .flowRt, .flt] s (raise (spoilAll (setFloors (shortened s))) 0x39 0) :=
  Keeps.raise _ _ _ (Keeps.spoilAll (Keeps.setFloors ((keeps_shortened s).mono (by decide)) (by decide)) (by decide))
    (by decide)

theorem enterShortfall_eq {s : State} (hq : shortQueues s = []) :
    enterShortfall s = raise (spoilAll (setFloors (shortened s))) 0x39 0 := by
  have e : enterShortfall s = foldS (shortQueues (raise (spoilAll (setFloors (shortened s))) 0x39 0))
    (fun s q => markPosted (postQueue s q 2 (shortDetail s)) q) (raise (spoilAll (setFloors (shortened s))) 0x39 0) := rfl
  rw [e, shortQueues_of_keeps (keeps_shortRaised s) (by decide), hq]
  rfl

theorem spoilAll_flw (s : State) : (spoilAll s).flw = s.flw :=
  Keeps.spoilAll (l := [.flowRt]) (Keeps.refl _ s) (by decide) .flw (by decide)

theorem spoilAll_flt (s : State) : (spoilAll s).flt = s.flt :=
  Keeps.spoilAll (l := [.flowRt]) (Keeps.refl _ s) (by decide) .flt (by decide)

theorem raise_flw (s : State) (src inst : Nat) (d : Word) : (raise s src inst d).flw = s.flw := rfl

theorem enterShortfall_flw {s : State} (hq : shortQueues s = []) : (enterShortfall s).flw = (shortened s).flw := by
  rw [enterShortfall_eq hq, raise_flw, spoilAll_flw, setFloors_flw]

theorem enterShortfall_flt {s : State} (hq : shortQueues s = []) : (enterShortfall s).flt =
    { s.flt with detected := s.flt.detected ++ [{ src := 0x39, inst := 0, detail := 0 }] } := by
  have e : (spoilAll (setFloors (shortened s))).flt = s.flt := by
    rw [spoilAll_flt, setFloors_flt]
    rfl
  rw [enterShortfall_eq hq, raise_flt, e]

theorem keeps_enterShortfall {s : State} (hq : shortQueues s = []) :
    Keeps [.flw, .flowRt, .flt] s (enterShortfall s) := by
  rw [enterShortfall_eq hq]
  exact keeps_shortRaised s

/-! ### Evaluation boundaries -/

/-- SHORTFALL left, its floors not yet set. -/
def relieved (s : State) : State :=
  { s with flw := { s.flw with shortfall := false, factor := 64, shed := 0, clean := 0, heldBack := [] } }

theorem leaveShortfall_eq {s : State} (hq : shortQueues s = []) : leaveShortfall s = setFloors (relieved s) := by
  have k : Keeps [.flw, .flowRt] s (setFloors (relieved s)) :=
    Keeps.setFloors ((Keeps.refl _ s).setFlw (by decide)) (by decide)
  have e : leaveShortfall s = foldS (shortQueues (setFloors (relieved s))) (fun s q => postQueue s q 4 0)
    (setFloors (relieved s)) := rfl
  rw [e, shortQueues_of_keeps k (by decide), hq]
  rfl

/-- The sixteenth clean window counted, at its boundary. -/
def sixteenth (s : State) : State :=
  { s with flw := { s.flw with lastEval := some s.elapsed, irqUsed := [], posted := [], clean := s.flw.clean + 1 } }

/-- What the recomputation at a boundary starts from. -/
def evalReopened (s : State) : State := { s with flw := { s.flw with cleanSoFar := true, heldBack := [] } }

/-- The state that leaves SHORTFALL at its boundary, before the recomputation that belongs to the next window. -/
def sixteenthLeft (s : State) : State := evalReopened (setFloors (relieved (sixteenth s)))

theorem keeps_sixteenthLeft (s : State) : Keeps [.flw, .flowRt] s (sixteenthLeft s) :=
  (Keeps.setFloors (((Keeps.refl _ s).setFlw (by decide)).setFlw (by decide)) (by decide)).setFlw (by decide)

theorem sixteenthLeft_shortfall (s : State) : (sixteenthLeft s).flw.shortfall = false :=
  congrArg FlowEng.shortfall (setFloors_flw (relieved (sixteenth s)))

/-- The end of a window at its boundary: the clean count, and SHORTFALL left with the sixteenth. -/
def windowEnded (s : State) : State :=
  let s := { s with flw := { s.flw with lastEval := some s.elapsed, irqUsed := [], posted := [] } }
  if s.flw.shortfall then
    if s.flw.cleanSoFar then
      let s := { s with flw := { s.flw with clean := s.flw.clean + 1 } }
      if s.flw.clean = 16 then leaveShortfall s else s
    else { s with flw := { s.flw with clean := 0 } }
  else s

theorem closeEvaluation_of_no_shortfall {s : State}
    (h : (recompute (evalReopened (windowEnded s))).flw.shortfall = false) :
    closeEvaluation s = recompute (evalReopened (windowEnded s)) :=
  if_neg (fun e => Bool.false_ne_true (h.symm.trans e))

theorem windowEnded_sixteenth {s : State} (hs : s.flw.shortfall = true) (hc : s.flw.cleanSoFar = true)
    (hn : s.flw.clean = 15) : windowEnded s = leaveShortfall (sixteenth s) :=
  (if_pos hs).trans ((if_pos hc).trans (if_pos (by rw [hn]; rfl)))

theorem closeEvaluation_sixteenth {s : State} (hs : s.flw.shortfall = true) (hc : s.flw.cleanSoFar = true)
    (hn : s.flw.clean = 15) (hf : fullFits s = true) (hq : shortQueues s = []) :
    closeEvaluation s = setFloors (budgeted (sixteenthLeft s)) := by
  have hl : leaveShortfall (sixteenth s) = setFloors (relieved (sixteenth s)) := leaveShortfall_eq hq
  have hr : recompute (evalReopened (windowEnded s)) = setFloors (budgeted (sixteenthLeft s)) := by
    rw [windowEnded_sixteenth hs hc hn, hl]
    exact recompute_fits (sixteenthLeft_shortfall s) (((keeps_sixteenthLeft s).fullFits_eq (by decide)).trans hf)
  refine (closeEvaluation_of_no_shortfall ?_).trans hr
  rw [hr, setFloors_flw, budgeted_shortfall, sixteenthLeft_shortfall]

theorem evalReopened_flw (s : State) : (evalReopened s).flw = { s.flw with cleanSoFar := true, heldBack := [] } := rfl

theorem sixteenthLeft_flw (s : State) : (sixteenthLeft s).flw =
    { (relieved (sixteenth s)).flw with cleanSoFar := true, heldBack := [] } := by
  rw [sixteenthLeft, evalReopened_flw, setFloors_flw]

theorem budgeted_flw (s : State) : (budgeted s).flw =
    { s.flw with
      due := false
      cleanSoFar := s.flw.cleanSoFar && fullFits s
      budget := (List.range 32).map (fun c => (c, chanBudget s c))
      commit := (List.range 32).map (fun c => (c, chanCommit s (fun _ => true) c))
      bondBudget := s.tables.bonds.map (fun e => (e.1, bondBudget s e.1 e.2.log2.toNat))
      bondCommit := s.tables.bonds.map (fun e =>
        let c := bondCommit s.tables (fun _ => true) e.1 e.2.log2.toNat
        (e.1, ceilDiv c.1 c.2)) } := rfl

/-! ### The probe (R92) -/

theorem toNat_addrOf_prv {p off : Nat} (hp : p < 1024) (ho : off < 0x40) :
    (addrOf (.prv p) off).toNat = 0x400000 + 0x40 * p + off := by
  have hb : (UnitId.prv p).base = 0x400000 + 0x40 * p := rfl
  rw [toNat_addrOf (by rw [hb]; omega), hb]

theorem toNat_committed_low (s : State) (n : Nat) (addr : Word) (cur : Nat) (top : Word) :
    (committed s n addr 2 cur top 0).toNat =
      ((tfind (s.path n).held (addr.toNat + 1 - 2)).map (·.toNat)).getD (cur % 2 ^ 24) := by
  rw [committed, if_neg (by decide), Nat.mul_zero, Nat.pow_zero, Nat.div_one, Nat.add_zero, ← BitVec.toNat_ofNat]
  exact (Option.getD_map BitVec.toNat _ _).symm

/-- The offset that the high word of PRV_PROBE_OFF commits, masked to 36 bits. -/
def probeOff (s : State) (n p : Nat) (data : Word) : Nat :=
  (data.toNat % 2 ^ 12) * 2 ^ 24 + ((tfind (s.path n).held (addrOf (.prv p) 0x3B).toNat).map (·.toNat)).getD
    ((tget (0, 0) s.probes p).1 % 2 ^ 24)

theorem toNat_and_fff (data : Word) : (data &&& 0xFFF).toNat = data.toNat % 2 ^ 12 :=
  (BitVec.toNat_and data 0xFFF).trans (Nat.and_two_pow_sub_one_eq_mod data.toNat 12)

theorem commitValue_probe {p : Nat} (hp : p < 1024) (s : State) (n : Nat) (data : Word) :
    commitValue s n (addrOf (.prv p) 0x3C) 2 (tget (0, 0) s.probes p).1 (data &&& 0xFFF) = probeOff s n p data := by
  have ha : (addrOf (.prv p) 0x3C).toNat + 1 - 2 = (addrOf (.prv p) 0x3B).toNat := by
    rw [toNat_addrOf_prv hp (by decide), toNat_addrOf_prv hp (by decide)]
    omega
  rw [commitValue_words, committed_top, toNat_committed_low, ha, toNat_and_fff, Nat.mul_zero, Nat.pow_zero, Nat.mul_one,
    Nat.mul_one, Nat.add_comm]
  rfl

/-- The probe of offset v of province p stored. -/
def probed (s : State) (n p v : Nat) : State :=
  let t := dropHeld s n (addrOf (.prv p) 0x3C) 2
  { t with probes := tset (0, 0) t.probes p (v, probeAt t p v) }

theorem probeWrite_eq {p : Nat} (hp : p < 1024) (s : State) (n : Nat) (data : Word) :
    probeWrite n p data s = (.ok, probed s n p (probeOff s n p data)) :=
  congrArg (fun v => (Status.ok, probed s n p v)) (commitValue_probe hp s n data)

theorem probeAt_of_keeps {l : List Part} {s t : State} (h : Keeps l s t)
    (hl : ∀ p ∈ routeParts ++ reachParts, p ∉ l) (p off : Nat) : probeAt t p off = probeAt s p off := by
  have hr : ∀ p ∈ routeParts, p ∉ l := fun p hp => hl p (List.mem_append_left _ hp)
  have ht : Part.tables ∉ l := hr _ (by decide)
  unfold probeAt
  simp only [provJudge_of_keeps h hl, h.locate_eq hr, h.provCfg_eq ht, h.homeLoc_eq ht]

theorem keeps_probed (s : State) (n p v : Nat) : Keeps [.ports, .paths, .probes] s (probed s n p v) :=
  (keeps_dropHeld (Keeps.refl _ s) (by decide)).setProbes (by decide)

theorem probed_probes (s : State) (n p v q : Nat) :
    tget (0, 0) (probed s n p v).probes q = if q = p then (v, probeAt s p v) else tget (0, 0) s.probes q := by
  have k : Keeps [.paths] s (dropHeld s n (addrOf (.prv p) 0x3C) 2) := keeps_dropHeld (Keeps.refl _ s) (by decide)
  have hp : (dropHeld s n (addrOf (.prv p) 0x3C) 2).probes = s.probes := k .probes (by decide)
  have e : (probed s n p v).probes = tset (0, 0) s.probes p (v, probeAt s p v) := by
    rw [← hp, ← probeAt_of_keeps k (by decide)]
    rfl
  rw [e]
  split
  next h => rw [h, tget_tset_self]
  next h => rw [tget_tset_ne _ _ _ _ _ h]

theorem respond_probes (s : State) (via : Via) (w : Bool) (a : Word) (st : Status) (d : Word) :
    (respond s via w a st d).probes = s.probes :=
  Keeps.respond (l := [.ports]) (Keeps.refl _ s) (by decide) .probes (by decide)

/-- Settles O30. -/
theorem budgetsAndProbes : Obligations.BudgetsAndProbes := by
  refine ⟨fun s hp hd hs hsh hf => ?_, fun s hp hd hs hsh hf hq => ?_, fun s hp h => answer_next hp (if_neg ?_),
    fun s hp hm hl hsh hc hn hf hq => ?_, fun s via p data hp h => ?_⟩
  · refine ⟨fin s (setFloors (budgeted s)), ?_⟩
    rw [exec_budgetRecompute hp hd hs, recompute_fits hsh hf, fin_flw, setFloors_flw, budgeted_flw]
    refine ⟨rfl, rfl, hsh, rfl, rfl, fun f hv => ?_, (Keeps.setFloors ((keeps_budgeted s).mono (by decide)) (by decide)).fin⟩
    rw [fin_flowR, setFloors_floor (s := budgeted s) hv, floorOf_of_no_shortfall (s := budgeted s) hsh]
    rfl
  · have hq' : shortQueues (budgeted s) = [] := (shortQueues_of_keeps (keeps_budgeted s) (by decide)).trans hq
    refine ⟨fin s (enterShortfall (budgeted s)), ?_⟩
    rw [exec_budgetRecompute hp hd hs, recompute_short hsh hf, fin_flw, enterShortfall_flw hq', fin_flt,
      enterShortfall_flt hq']
    exact ⟨rfl, rfl, rfl, rfl, rfl, rfl, (((keeps_budgeted s).mono (by decide)).trans (keeps_enterShortfall hq')).fin⟩
  · rw [Bool.and_eq_true, decide_eq_true_eq]
    rintro ⟨hd, hs⟩
    exact h.elim (fun e => Bool.false_ne_true (e.symm.trans hd)) (fun e => absurd hs (Nat.not_lt.mpr e))
  · refine ⟨fin s (setFloors (budgeted (sixteenthLeft s))), answer_next hp ?_, ?_⟩
    · rw [if_pos (by rw [decide_eq_true hm, decide_eq_true hl]; rfl), closeEvaluation_sixteenth hsh hc hn hf hq]
    · rw [fin_flw, setFloors_flw, budgeted_flw, sixteenthLeft_flw]
      exact ⟨rfl, rfl, rfl, rfl, rfl, (Keeps.setFloors ((keeps_sixteenthLeft s).trans
        ((keeps_budgeted _).mono (by decide))) (by decide)).fin⟩
  · refine ⟨_, probeOff s via.port p data, ?_, rfl, ?_, fun q hq => ?_,
      ((keeps_probed s via.port p (probeOff s via.port p data)).respond (via := via) (w := true)
        (a := addrOf (.prv p) 0x3C) (d := 0) (st := .ok) (by decide)).fin⟩
    · show execProvinceProbe via p data s = _
      rw [execProvinceProbe, if_pos hp]
      exact answer_mgmtWrite h (probeWrite_eq hp s via.port data)
    · rw [fin_probes, respond_probes, probed_probes, if_pos rfl]
    · rw [fin_probes, respond_probes, probed_probes, if_neg hq]

end Sys2Proof.Proofs

/-! Move engines: acceptance, starting, check units, resets and contexts (R277–R297). -/

namespace Sys2Proof.Safety

open Sys2Proof.Machine

section Engines

variable {l : List Part} {s t : State} (h : Keeps l s t)
include h

theorem Keeps.engQ_eq (hl : Part.pool ∉ l) (f : Nat) : engQ t f = engQ s f := by
  have e : t.pool = s.pool := h .pool hl
  rw [engQ, e, engQ]

theorem Keeps.setEngQ {f : Nat} {q : EngQ} (hl : Part.pool ∈ l) : Keeps l s (Sys2Proof.Machine.setEngQ t f q) :=
  h.setPool hl

theorem Keeps.putHead {f : Nat} {d : Desc} (hl : Part.pool ∈ l) : Keeps l s (Sys2Proof.Machine.putHead t f d) :=
  h.setPool hl

theorem Keeps.rangeBad_eq (hl : Part.tables ∉ l) (p off len : Nat) : rangeBad t p off len = rangeBad s p off len := by
  simp only [rangeBad, h.provCfg_eq hl]

theorem Keeps.permBad_eq (hl : Part.tables ∉ l) (f : FlowCfg) (p : Nat) (wr : Bool) :
    permBad t f p wr = permBad s f p wr := by
  simp only [permBad, h.provCfg_eq hl]

theorem Keeps.descReason_eq (ht : Part.tables ∉ l) (hc : Part.ctxs ∉ l) (hp : Part.pool ∉ l) (d : Desc) (x : Line) :
    descReason t d x = descReason s d x := by
  have e : t.pool = s.pool := h .pool hp
  have hu : poolUsed t = poolUsed s := by rw [poolUsed, e, poolUsed]
  have hx : flowCtx t d.flow = flowCtx s d.flow := by rw [flowCtx, h.ctx_eq hc, h.flowCfg_eq ht, flowCtx]
  simp only [descReason, h.flowCfg_eq ht, h.rangeBad_eq ht, h.permBad_eq ht, hx, h.engQ_eq hp, hu]

theorem Keeps.running_eq (hl : Part.pool ∉ l) (e : Nat) : running t e = running s e := by
  have hp : t.pool = s.pool := h .pool hl
  rw [running, hp, running]

end Engines

end Sys2Proof.Safety

namespace Sys2Proof.Proofs

open Sys2Proof.Machine
open Sys2Proof.Safety

/-! ### The queues of the pool -/

@[simp] theorem fin_pool (s t : State) : (fin s t).pool = t.pool := rfl

theorem engQ_fin (s t : State) (f : Nat) : engQ (fin s t) f = engQ t f := rfl

theorem engQ_setEngQ (s : State) (f : Nat) (q : EngQ) : engQ (setEngQ s f q) f = q := tget_tset_self _ _ _ _

theorem setEngQ_eng (s : State) (f e : Nat) (q : EngQ) : (setEngQ s f q).eng e = s.eng e := rfl

theorem engQ_putHead (s : State) (f : Nat) (d : Desc) :
    engQ (putHead s f d) f = { engQ s f with descs := d :: (engQ s f).descs.drop 1 } := engQ_setEngQ s f _

theorem engQ_setEng (s : State) (e f : Nat) (v : Eng) : engQ (s.setEng e v) f = engQ s f := rfl

theorem engQ_addReq (s : State) (r : Req) (f : Nat) : engQ (addReq s r) f = engQ s f := rfl

/-! ### ENGINE requests -/

/-- What an ENGINE request that passed lookup does. -/
def engineGoes (h : ReqHdr) (desc : BitVec 512) (s : State) (r : Req) : State :=
  let d := parseDesc h.flow (flowCfg s h.flow).queue.toNat r.id desc
  if descReason s d desc ≠ 0 then refuseDesc s r d (descReason s d desc)
  else if enginesFenced s || stackDown s || s.sec.lc = 3 then addReq s { r with stage := .done, status := .fenced }
  else acceptDesc s r d

theorem execEngine_eq (h : ReqHdr) (desc : BitVec 512) (s : State) :
    execEngine h desc s = answer s (lookup s .engine 10 h (bytesOf 64 desc.toNat) 0 0 (engineGoes h desc)) := rfl

theorem first_absent (a : Status) : Status.first .absent a = .absent := by cases a <;> rfl

theorem lookedStatus_engine_absent {s : State} (hv : s.variant = .N) (h : ReqHdr) : lookedStatus s .engine h = .absent := by
  rw [lookedStatus, lookupStatus_eq, hv]
  exact first_absent _

theorem nEngs_ne_zero {v : Variant} (h : v ≠ .N) : nEngs v ≠ 0 := by
  cases v with
  | N => exact absurd rfl h
  | _ => exact nofun

/-- An ENGINE request of a valid flow of the port's bond passes lookup: its descriptor is judged after it. -/
theorem lookedStatus_engine {s : State} {h : ReqHdr} (hn : s.variant ≠ .N) (hv : (flowCfg s h.flow).valid = true)
    (hown : portOwns s h.port (flowCfg s h.flow) = true) : lookedStatus s .engine h = .ok := by
  have hj : judgedStatus s .engine (some h.port) h.flow h.province (h.line.toNat * 64) = .ok := by
    have hp : ¬ (decide (Op.engine = .reserved) || !flowPermits s .engine (some h.port) h.flow h.province) = true := by
      rw [flowPermits_of hv hown (.inl ⟨rfl, rfl⟩)]
      exact Bool.false_ne_true
    rw [judgedStatus, if_neg hp]
    exact if_neg Bool.false_ne_true
  have hd : downStatus s .engine = .ok := by
    rw [downStatus, decide_eq_false (fun h => h rfl : ¬ Op.engine ≠ Op.engine), Bool.and_false]
    rfl
  rw [lookedStatus, lookupStatus_eq, hj, hd, decide_eq_false (nEngs_ne_zero hn)]
  rfl

/-- A request that its opcode answers at once. -/
def answered (r : Req) (st : Status) : Req := { r with stage := .done, status := st }

theorem answered_tag (r : Req) (st : Status) : (answered r st).tag = r.tag := rfl

/-- The state of the pool with a refusal noted. -/
def refusedPool (s : State) (d : Desc) (why : Nat) : State :=
  { s with pool := { s.pool with reason := BitVec.ofNat 4 why, refFlow := BitVec.ofNat 14 d.flow } }

theorem refuseDesc_eq {s : State} {d : Desc} {why : Nat} (h : why ≠ 6) (r : Req) :
    refuseDesc s r d why = addReq (refusedPool s d why) (answered r .refused) := by
  rw [refuseDesc, if_neg h]
  rfl

/-- The state with a descriptor at the end of its flow's queue. -/
def queued (s : State) (d : Desc) : State :=
  setEngQ s d.flow { engQ s d.flow with descs := (engQ s d.flow).descs ++ [d], lastTag := d.tag }

theorem acceptDesc_eq {s : State} {d : Desc} (h : d.op ≠ 4) (r : Req) :
    acceptDesc s r d = addReq (queued s d) (answered r .ok) := by
  rw [acceptDesc, if_neg h]
  rfl

theorem queued_reqs (s : State) (d : Desc) : (queued s d).reqs = s.reqs := rfl
theorem refusedPool_reqs (s : State) (d : Desc) (why : Nat) : (refusedPool s d why).reqs = s.reqs := rfl
theorem addReq_pool (s : State) (r : Req) : (addReq s r).pool = s.pool := rfl
theorem refusedPool_reason (s : State) (d : Desc) (why : Nat) :
    (refusedPool s d why).pool.reason = BitVec.ofNat 4 why := rfl
theorem refusedPool_queues (s : State) (d : Desc) (why : Nat) :
    (refusedPool s d why).pool.queues = s.pool.queues := rfl

theorem engQ_queued (s : State) (d : Desc) : engQ (queued s d) d.flow =
    { engQ s d.flow with descs := (engQ s d.flow).descs ++ [d], lastTag := d.tag } := engQ_setEngQ s _ _

theorem keeps_engineAnswered {s t : State} {r : Req} (h : Keeps (.pool :: lookupParts) s t) :
    Keeps [.clock, .ports, .reqs, .flw, .flowRt, .tel, .pool] s (addReq t r) :=
  (h.mono (by decide)).addReq (by decide) (by decide)

theorem exec_engine {s : State} {h : ReqHdr} {desc : BitVec 512} (ha : Arrived s 10 h (bytesOf 64 desc.toNat))
    (hs : lookedStatus s .engine h = .ok) :
    exec (.engine h desc) s = .next (fin s (engineGoes h desc (charged s .engine h) (lookedReq s .engine h 0 0))) := by
  obtain ⟨hp, ht, hh⟩ := ha
  show execEngine h desc s = _
  rw [execEngine_eq]
  exact answer_next hp (lookup_ok _ ht hh hs)

/-- The descriptor that a request of the flow carries. -/
def descOf (s : State) (h : ReqHdr) (desc : BitVec 512) : Desc :=
  parseDesc h.flow (flowCfg s h.flow).queue.toNat s.flw.nextId desc

theorem parseDesc_charged (s : State) (h : ReqHdr) (desc : BitVec 512) :
    parseDesc h.flow (flowCfg (charged s .engine h) h.flow).queue.toNat (lookedReq s .engine h 0 0).id desc =
      descOf s h desc := by
  rw [(keeps_charged s .engine h).flowCfg_eq (by decide), lookedReq_id]
  rfl

theorem engineGoes_refused {s : State} {h : ReqHdr} {desc : BitVec 512} (hr : descReason s (descOf s h desc) desc ≠ 0) :
    engineGoes h desc (charged s .engine h) (lookedReq s .engine h 0 0) =
      refuseDesc (charged s .engine h) (lookedReq s .engine h 0 0) (descOf s h desc)
        (descReason s (descOf s h desc) desc) := by
  rw [engineGoes, parseDesc_charged, (keeps_charged s .engine h).descReason_eq (by decide) (by decide) (by decide)]
  exact if_pos hr

theorem charge_variant (s : State) (f u ns : Nat) : (charge s f u ns).variant = s.variant := rfl

theorem countOutcome_variant (s : State) (f : Nat) (st : Status) : (countOutcome s f st).variant = s.variant := by
  cases st <;> rfl

theorem charged_variant (s : State) (op : Op) (h : ReqHdr) : (charged s op h).variant = s.variant := by
  rw [charged, charge_variant, countOutcome_variant, looked_variant]

theorem engineGoes_accepted {s : State} {h : ReqHdr} {desc : BitVec 512} (hr : descReason s (descOf s h desc) desc = 0)
    (he : enginesFenced s = false) (hf : s.flt.fatal = false) (hl : s.sec.lc ≠ 3) :
    engineGoes h desc (charged s .engine h) (lookedReq s .engine h 0 0) =
      acceptDesc (charged s .engine h) (lookedReq s .engine h 0 0) (descOf s h desc) := by
  have k := keeps_charged s .engine h
  have kf : (charged s .engine h).flt = s.flt := k .flt (by decide)
  have ks : (charged s .engine h).sec = s.sec := k .sec (by decide)
  have ke : enginesFenced (charged s .engine h) = false := by
    rw [← he]
    simp only [enginesFenced, charged_variant, k.eng_eq (by decide)]
  rw [engineGoes, parseDesc_charged, k.descReason_eq (by decide) (by decide) (by decide), if_neg (fun h => h hr), ke,
    stackDown, kf, ks, hf, decide_eq_false hl]
  rfl

/-! ### Starting and check units -/

/-- The head descriptor d of flow f taken by engine e. -/
def started (s : State) (e f : Nat) (d : Desc) : State :=
  setEngQ (putHead s f { d with started := true }) f
    { engQ (putHead s f { d with started := true }) f with running := some e }

theorem engQ_started (s : State) (e f : Nat) (d : Desc) : engQ (started s e f d) f =
    { engQ s f with descs := { d with started := true } :: (engQ s f).descs.drop 1, running := some e } := by
  rw [started, engQ_setEngQ, engQ_putHead]

/-- The flow has had its turn of its class. -/
def flowTurn (s : State) (f : Nat) : State :=
  { s with pool := { s.pool with rr := tput s.pool.rr (min (flowCfg s f).cls.toNat 2) f } }

theorem engQ_flowTurn (s : State) (f g : Nat) : engQ (flowTurn s f) g = engQ s g := rfl

/-- Engine e works on descriptor d of flow f, which is no CHECKSUM. -/
def engaged (f : Nat) (d : Desc) (x : Eng) : Eng :=
  { x with st := .run, flow := f, op := d.op, tag := d.tag, lines := BitVec.ofNat 24 d.done }

theorem exec_engineDescriptorStart {s : State} {e f : Nat} {d : Desc} (hp : s.pins.pwrgood = true)
    (hon : engOn s e = true) (hst : (s.eng e).st = .idle) (hrun : running s e = none) (hh : s.pwr.hold = false)
    (hpick : pickEngFlow s = some f) (hhead : (engQ s f).descs.head? = some d) (hop : d.op ≠ 4) :
    exec (.engineDescriptorStart e) s =
      .next (fin s ((flowTurn (started s e f d) f).setEng e (engaged f d (s.eng e)))) := by
  refine answer_next hp ((if_neg ?_).trans ?_)
  · rw [hon, hst, hrun, hh]
    simp
  · rw [hpick]
    dsimp only
    rw [hhead]
    dsimp only
    rw [startDesc, if_pos hop, if_neg hop]
    rfl

/-- Check unit u serves engine e with descriptor d's context. -/
def claimed (e : Nat) (d : Desc) (x : Chk) : Chk :=
  { x with busy := true, ctx := BitVec.ofNat 14 d.ctx, engine := BitVec.ofNat 2 e }

theorem claimed_claimed (e : Nat) (d : Desc) (x : Chk) : claimed e d (claimed e d x) = claimed e d x := rfl

/-- Check units claimed for engine e. -/
def claimUnits (us : List Nat) (e : Nat) (d : Desc) (s : State) : State := foldS us (fun s u => s.modChk u (claimed e d)) s

theorem claimUnits_chk_of_notMem {us : List Nat} {u : Nat} (h : u ∉ us) (e : Nat) (d : Desc) (s : State) :
    (claimUnits us e d s).chk u = s.chk u := by
  induction us generalizing s with
  | nil => rfl
  | cons x xs ih =>
    rw [List.mem_cons, not_or] at h
    exact (ih h.2 _).trans (chk_setChk_ne s x u _ h.1)

theorem claimUnits_chk_of_mem {us : List Nat} {u : Nat} (h : u ∈ us) (e : Nat) (d : Desc) (s : State) :
    (claimUnits us e d s).chk u = claimed e d (s.chk u) := by
  induction us generalizing s with
  | nil => exact absurd h nofun
  | cons x xs ih =>
    have hc : claimUnits (x :: xs) e d s = claimUnits xs e d (s.setChk x (claimed e d (s.chk x))) := rfl
    have hx : (s.setChk x (claimed e d (s.chk x))).chk x = claimed e d (s.chk x) := chk_setChk s x _
    rw [hc]
    by_cases hux : u = x
    · subst hux
      by_cases hm : u ∈ xs
      · rw [ih hm, hx, claimed_claimed]
      · rw [claimUnits_chk_of_notMem hm, hx]
    · rw [ih ((List.mem_cons.mp h).resolve_left hux), chk_setChk_ne _ _ _ _ hux]

theorem keeps_claimUnits {l : List Part} {s t : State} (h : Keeps l s t) (hl : Part.chks ∈ l) (us : List Nat) (e : Nat)
    (d : Desc) : Keeps l s (claimUnits us e d t) :=
  Keeps.foldS (fun _ _ k => k.setChk hl) us h

theorem chk_setEng (s : State) (e u : Nat) (v : Eng) : (s.setEng e v).chk u = s.chk u := rfl

/-- Check units claimed, the engine runs. -/
def unitsClaimed (s : State) (e : Nat) (d : Desc) : State :=
  let t := claimUnits ((freeUnits s).take 4) e d s
  t.setEng e { t.eng e with st := .run }

theorem exec_checkUnitClaim {s : State} {e f : Nat} {d : Desc} (hp : s.pins.pwrgood = true)
    (hrun : running s e = some (f, d)) (hst : (s.eng e).st = .waitUnit) (hfree : freeUnits s ≠ []) :
    exec (.checkUnitClaim e) s = .next (fin s (unitsClaimed s e d)) := by
  have ht : (freeUnits s).take 4 ≠ [] := fun h => hfree ((List.take_eq_nil_iff.mp h).resolve_left nofun)
  refine answer_next hp ?_
  rw [hrun]
  refine if_pos ?_
  rw [hst, decide_eq_true ht]
  rfl

/-- Settles O31. -/
theorem engineWork : Obligations.EngineWork := by
  refine ⟨fun s h desc ha hv => ?_, fun s h desc d ha hf hl hn hv hown hd hr he hop => ?_,
    fun s h desc d ha hf hl hn hv hown hd hr hr6 => ?_, fun s e f d hp hon hst hrun hhold hpick hhead hns hop => ?_,
    fun s e f d hp hrun hst hfree => ?_⟩
  · obtain ⟨hp, ht, hh⟩ := ha
    have hs := lookedStatus_engine_absent hv h
    refine ⟨fin s (turnedAway s .engine h 0 0), turnedReq s .engine h 0 0, ?_, ?_, rfl, hs, ?_,
      Keeps.fin (keeps_turnedAway _ _ _ _ _)⟩
    · show execEngine h desc s = _
      rw [execEngine_eq]
      refine answer_next hp (lookup_turnedAway _ ht hh ?_)
      rw [hs]
      exact nofun
    · rw [fin_reqs, turnedAway_reqs]
    · rw [fin_pool]
      exact keeps_turnedAway s .engine h 0 0 .pool (by decide)
  · subst hd
    have k := keeps_charged s .engine h
    refine ⟨fin s (addReq (queued (charged s .engine h) (descOf s h desc)) (answered (lookedReq s .engine h 0 0) .ok)),
      answered (lookedReq s .engine h 0 0) .ok, ?_, ?_, rfl, rfl, answered_tag _ _, ?_⟩
    · rw [exec_engine ha (lookedStatus_engine hn hv hown), engineGoes_accepted hr he hf hl, acceptDesc_eq (d := descOf s h desc) hop]
    · rw [fin_reqs, addReq_reqs, queued_reqs, charged_reqs]
    · have hq := engQ_queued (charged s .engine h) (descOf s h desc)
      rw [k.engQ_eq (by decide)] at hq
      rw [engQ_fin, engQ_addReq]
      exact ⟨congrArg EngQ.descs hq, congrArg EngQ.lastTag hq,
        (keeps_engineAnswered ((k.mono (by decide)).setEngQ (by decide))).fin⟩
  · subst hd
    have k := keeps_charged s .engine h
    refine ⟨fin s (addReq (refusedPool (charged s .engine h) (descOf s h desc) (descReason s (descOf s h desc) desc))
        (answered (lookedReq s .engine h 0 0) .refused)), answered (lookedReq s .engine h 0 0) .refused, ?_, ?_, rfl, rfl,
      ?_, ?_, (keeps_engineAnswered ((k.mono (by decide)).setPool (by decide))).fin⟩
    · rw [exec_engine ha (lookedStatus_engine hn hv hown), engineGoes_refused hr, refuseDesc_eq (why := descReason s (descOf s h desc) desc) hr6]
    · rw [fin_reqs, addReq_reqs, refusedPool_reqs, charged_reqs]
    · rw [fin_pool, addReq_pool, refusedPool_reason]
      rfl
    · have kp : (charged s .engine h).pool = s.pool := k .pool (by decide)
      rw [fin_pool, addReq_pool, refusedPool_queues, kp]
  · have hq := engQ_started s e f d
    refine ⟨_, exec_engineDescriptorStart hp hon hst hrun hhold hpick hhead hop, ?_⟩
    rw [fin_eng, eng_setEng, engQ_fin, engQ_setEng, engQ_flowTurn, hq]
    refine ⟨rfl, rfl, rfl, rfl, rfl, rfl, Keeps.fin ?_, fun x hx => ?_⟩
    · exact Keeps.setEng (Keeps.setPool ((Keeps.refl _ s).putHead (by decide) |>.setEngQ (by decide)) (by decide)) (by decide)
    · rw [fin_eng, eng_setEng_ne _ _ _ _ hx]
      rfl
  · refine ⟨_, exec_checkUnitClaim hp hrun hst hfree, ?_, fun u hu => ?_, fun u hu => ?_,
      ((keeps_claimUnits (Keeps.refl _ s) (by decide) _ e d).setEng (by decide)).fin⟩
    · rw [fin_eng, unitsClaimed, eng_setEng]
    · rw [fin_chk, unitsClaimed, chk_setEng, claimUnits_chk_of_mem hu]
      exact ⟨rfl, rfl, rfl⟩
    · rw [fin_chk, unitsClaimed, chk_setEng, claimUnits_chk_of_notMem hu]

end Sys2Proof.Proofs

/-! Engines at work: line requests, the end of a descriptor, engine resets and contexts (R283–R297). -/

namespace Sys2Proof.Safety

open Sys2Proof.Machine

theorem Keeps.freeUnitsOf {l : List Part} {s t : State} {e : Nat} (h : Keeps l s t) (hl : Part.chks ∈ l) :
    Keeps l s (Sys2Proof.Machine.freeUnitsOf t e) :=
  Keeps.foldS (fun _ _ k => k.setChk hl) _ h

end Sys2Proof.Safety

namespace Sys2Proof.Proofs

open Sys2Proof.Machine
open Sys2Proof.Safety

/-! ### Line requests of a FILL -/

theorem saveWork_of_not_checksum {d : Desc} (h : d.op ≠ 4) (s : State) : saveWork s d = s := by
  rw [saveWork, decide_eq_false h]
  rfl

/-- The request of a FILL for its next step. -/
def fillReq (s : State) (e f ns : Nat) (d : Desc) : Req :=
  { mkReq s (opFor true d.step) 0 f d.dstPrv d.tag ((d.dstOff / 64 + d.next) * 64) ns (d.payload d.step) 0 with
    eng := some e, fixed := false, poison := 0 }

/-- The state charged for a request of the FILL. -/
def fillCharged (s : State) (f ns : Nat) (d : Desc) : State :=
  charge (countOutcome s f .ok) f (opFor true d.step).units ns

/-- The FILL's request added and noted with its engine and descriptor. -/
def fillIssued (s : State) (e f ns : Nat) (d : Desc) : State :=
  let r := fillReq (countOutcome s f .ok) e f ns d
  let t := addReq (fillCharged s f ns d) r
  putHead (t.setEng e { t.eng e with issued := (t.eng e).issued + (opFor true d.step).units }) f
    { d with group := d.step, out := d.out ++ [r.id] }

/-- What the line request of a FILL asks of lookup. -/
def fillStatus (s : State) (f : Nat) (d : Desc) : Status :=
  lookupStatus s (opFor true d.step) none f d.dstPrv ((d.dstOff / 64 + d.next) * 64)

theorem target_of_fill {d : Desc} (h : d.op = 2) : d.target = (true, d.dstPrv, (d.dstOff / 64 + d.next) * 64) := by
  simp only [Desc.target, h]
  rfl

theorem issueLine_ok {s : State} {e f ns : Nat} {d : Desc} (hop : d.op = 2) (hs : d.second = false)
    (hl : fillStatus s f d = .ok) : issueLine s e f d ns = fillIssued s e f ns d := by
  have hl' : lookupStatus s (opFor true d.step) none f d.dstPrv ((d.dstOff / 64 + d.next) * 64) = .ok := hl
  have hn : (if d.second = true then d.group else d.step) = d.step := if_neg (by rw [hs]; exact Bool.false_ne_true)
  have hb : (if (decide (d.op = 1) && d.second) = true then d.bad else 0) = 0 :=
    if_neg (by rw [hs, Bool.and_false]; exact Bool.false_ne_true)
  unfold issueLine
  simp only [target_of_fill hop, hn, hb, hl', if_true]
  exact if_neg (by decide)

theorem issueLine_over {s : State} {e f ns : Nat} {d : Desc} (hop : d.op = 2) (hs : d.second = false)
    (hl : fillStatus s f d = .outOfBudget) : issueLine s e f d ns = parkDesc s e f d := by
  have hl' : lookupStatus s (opFor true d.step) none f d.dstPrv ((d.dstOff / 64 + d.next) * 64) = .outOfBudget := hl
  unfold issueLine
  simp only [target_of_fill hop, hs, Bool.false_eq_true, if_false, hl', if_true]

/-- An engine that parks its descriptor. -/
def parkedEng (x : Eng) : Eng := { x with st := .idle, flow := 0, op := 0, lines := 0, tag := 0, parks := x.parks + 1 }

/-- The descriptor of flow f parked by engine e. -/
def fillParked (s : State) (e f : Nat) : State :=
  let t := freeUnitsOf (setEngQ s f { engQ s f with running := none, parked := true }) e
  t.setEng e (parkedEng (t.eng e))

theorem parkDesc_of_not_checksum {d : Desc} (h : d.op ≠ 4) (s : State) (e f : Nat) :
    parkDesc s e f d = fillParked s e f := by
  rw [parkDesc, saveWork_of_not_checksum h]
  rfl

theorem freeUnitsOf_eng (s : State) (e x : Nat) : (freeUnitsOf s e).eng x = s.eng x :=
  (Keeps.freeUnitsOf (l := [.chks]) (Keeps.refl _ s) (by decide)).eng_eq (by decide) x

theorem engQ_freeUnitsOf (s : State) (e f : Nat) : engQ (freeUnitsOf s e) f = engQ s f :=
  (Keeps.freeUnitsOf (l := [.chks]) (Keeps.refl _ s) (by decide)).engQ_eq (by decide) f

theorem keeps_fillParked (s : State) (e f : Nat) : Keeps [.engs, .pool, .chks] s (fillParked s e f) :=
  (((Keeps.refl _ s).setEngQ (by decide)).freeUnitsOf (by decide)).setEng (by decide)

theorem fillParked_eng (s : State) (e f : Nat) : (fillParked s e f).eng e = parkedEng (s.eng e) := by
  rw [fillParked, eng_setEng, freeUnitsOf_eng, setEngQ_eng]

theorem engQ_fillParked (s : State) (e f : Nat) :
    engQ (fillParked s e f) f = { engQ s f with running := none, parked := true } := by
  rw [fillParked, engQ_setEng, engQ_freeUnitsOf, engQ_setEngQ]

theorem addReq_eng (s : State) (r : Req) (x : Nat) : (addReq s r).eng x = s.eng x := rfl

theorem keeps_fillCharged (s : State) (f ns : Nat) (d : Desc) : Keeps [.flowRt, .tel] s (fillCharged s f ns d) :=
  ((Keeps.refl _ s).countOutcome (by decide) (by decide)).charge (by decide)

theorem keeps_fillIssued (s : State) (e f ns : Nat) (d : Desc) :
    Keeps [.reqs, .flw, .flowRt, .tel, .engs, .pool] s (fillIssued s e f ns d) :=
  Keeps.putHead (Keeps.setEng (((keeps_fillCharged s f ns d).mono (by decide)).addReq (by decide) (by decide)) (by decide))
    (by decide)

theorem putHead_eng (s : State) (f x : Nat) (d : Desc) : (putHead s f d).eng x = s.eng x := rfl
theorem putHead_flowR (s : State) (f g : Nat) (d : Desc) : (putHead s f d).flowR g = s.flowR g := rfl
theorem putHead_reqs (s : State) (f : Nat) (d : Desc) : (putHead s f d).reqs = s.reqs := rfl
theorem setEng_reqs (s : State) (e : Nat) (v : Eng) : (s.setEng e v).reqs = s.reqs := rfl
theorem flowR_setEng (s : State) (e f : Nat) (v : Eng) : (s.setEng e v).flowR f = s.flowR f := rfl

theorem fillIssued_eng (s : State) (e f ns : Nat) (d : Desc) : (fillIssued s e f ns d).eng e =
    { s.eng e with issued := (s.eng e).issued + (opFor true d.step).units } := by
  rw [fillIssued, putHead_eng, eng_setEng, addReq_eng, (keeps_fillCharged s f ns d).eng_eq (by decide)]

theorem fillIssued_charged (s : State) (e f ns : Nat) (d : Desc) :
    ((fillIssued s e f ns d).flowR f).charged = sat (s.flowR f).charged (opFor true d.step).units := by
  rw [fillIssued, putHead_flowR, flowR_setEng, addReq_flowR, fillCharged, charge_charged, countOutcome_charged]

theorem fillIssued_reqs (s : State) (e f ns : Nat) (d : Desc) :
    (fillIssued s e f ns d).reqs = s.reqs ++ [fillReq (countOutcome s f .ok) e f ns d] := by
  have k : (fillCharged s f ns d).reqs = s.reqs := keeps_fillCharged s f ns d .reqs (by decide)
  rw [fillIssued, putHead_reqs, setEng_reqs, addReq_reqs, k]

/-- The engine may issue the next line of its descriptor. -/
def lineReady (s : State) (e : Nat) (d : Desc) : Bool :=
  engOn s e && (s.eng e).st = .run && !s.pwr.hold && d.stop.isNone && !d.aborting && d.out = [] && d.next < d.lines &&
    !orderHolds s d && (s.eng e).issued + (if d.second then d.group else d.step) ≤ engCap s &&
    s.rst.phase ≠ .quiesce && s.rst.phase ≠ .held

theorem exec_engineLineRequest {s : State} {e f ns : Nat} {d : Desc} (hp : s.pins.pwrgood = true)
    (hrun : running s e = some (f, d)) (h : lineReady s e d = true) :
    exec (.engineLineRequest e ns) s = .next (fin s (issueLine s e f d ns)) := by
  refine answer_next hp ?_
  rw [hrun]
  exact if_pos h

/-! ### The end of a descriptor -/

/-- An engine whose descriptor ended with a result. -/
def endedEng (res : Nat) (x : Eng) : Eng :=
  { x with
    st := if x.st = .fenced then .fenced else .idle
    flow := 0
    op := 0
    lines := 0
    tag := 0
    descs := x.descs + 1
    aborts := if res = 5 then sat x.aborts 1 else x.aborts }

/-- The descriptor at the head of flow f ended by engine e, its record not posted. -/
def descEnded (s : State) (e f res : Nat) : State :=
  let t := setEngQ (freeUnitsOf s e) f
    { engQ (freeUnitsOf s e) f with descs := (engQ (freeUnitsOf s e) f).descs.drop 1, running := none }
  t.setEng e (endedEng res (t.eng e))

theorem descEnded_eng (s : State) (e f res : Nat) : (descEnded s e f res).eng e = endedEng res (s.eng e) := by
  rw [descEnded, eng_setEng, setEngQ_eng, freeUnitsOf_eng]

theorem engQ_descEnded (s : State) (e f res : Nat) :
    engQ (descEnded s e f res) f = { engQ s f with descs := (engQ s f).descs.drop 1, running := none } := by
  rw [descEnded, engQ_setEng, engQ_setEngQ, engQ_freeUnitsOf]

theorem keeps_descEnded (s : State) (e f res : Nat) : Keeps [.engs, .pool, .chks] s (descEnded s e f res) :=
  (((Keeps.refl _ s).freeUnitsOf (by decide)).setEngQ (by decide)).setEng (by decide)

theorem endDesc_unposted {s : State} {e f : Nat} {d : Desc} (hop : d.op ≠ 4) (hv : (flowCfg s d.flow).valid = true)
    (hq : (queueCfg s (flowCfg s d.flow).queue.toNat).valid = false) :
    endDesc s e f d = descEnded s e f (doneValue d (s.ctx d.ctx)).1 := by
  have he : endDesc s e f d = postDone (descEnded s e f (doneValue d (s.ctx d.ctx)).1) d (doneValue d (s.ctx d.ctx)).1
      (doneValue d (s.ctx d.ctx)).2 := by
    unfold endDesc
    simp only [saveWork_of_not_checksum hop, decide_eq_false hop, Bool.false_and, Bool.false_eq_true, if_false]
    rfl
  have k := keeps_descEnded s e f (doneValue d (s.ctx d.ctx)).1
  have kt : (descEnded s e f (doneValue d (s.ctx d.ctx)).1).tables = s.tables := k .tables (by decide)
  rw [he, postDone, k.flowCfg_eq (by decide), if_pos hv, postFlow_of_invalid]
  rw [k.flowCfg_eq (by decide), queueCfg, kt]
  exact hq

/-- Settles O32. -/
theorem enginesRun : Obligations.EnginesRun := by
  refine ⟨fun s e f ns d hp hrun hon hst hh hstop hab hout hnext hord hop hsec hcap hq hheld => ?_,
    fun s e f d hp hrun hout hstop hnext hop hf hst hv hq => ?_⟩
  · have hready : lineReady s e d = true := by
      simp [lineReady, hon, hst, hh, hstop, hab, hout, hnext, hord, hsec, hcap, hq, hheld]
    refine ⟨fun hl => ?_, fun hl => ?_⟩
    · refine ⟨_, fillReq (countOutcome s f .ok) e f ns d, exec_engineLineRequest hp hrun hready, ?_⟩
      rw [issueLine_ok hop hsec hl, fin_reqs, fillIssued_reqs, fin_flowR, fillIssued_charged, fin_eng, fillIssued_eng]
      exact ⟨rfl, rfl, rfl, rfl, rfl, rfl, rfl, rfl, rfl, (keeps_fillIssued s e f ns d).fin⟩
    · refine ⟨_, exec_engineLineRequest hp hrun hready, ?_⟩
      have k := keeps_fillParked s e f
      rw [issueLine_over hop hsec hl, parkDesc_of_not_checksum (by rw [hop]; decide), fin_reqs, fin_eng, fillParked_eng,
        engQ_fin, engQ_fillParked]
      exact ⟨k .reqs (by decide), rfl, rfl, rfl, rfl, rfl, k.fin⟩
  · refine ⟨fin s (descEnded s e f (doneValue d (s.ctx d.ctx)).1), answer_next hp ?_, ?_⟩
    · rw [hrun]
      refine (if_pos ?_).trans (endDesc_unposted (by rw [hop]; decide) hv hq)
      simp [hout, hnext, hf]
    · rw [fin_eng, descEnded_eng, engQ_fin, engQ_descEnded]
      refine ⟨?_, rfl, rfl, rfl, (keeps_descEnded s e f _).fin⟩
      exact if_neg (by rw [hst]; exact nofun)

/-! ### Engine resets and contexts -/

theorem abortRunning_of_none {s : State} {e : Nat} (h : running s e = none) : abortRunning s e = s := by
  rw [abortRunning, h]

/-- An engine after its reset. -/
def resetEng (x : Eng) : Eng := { x with st := .idle, flow := 0, op := 0, tag := 0, lines := 0 }

theorem resetEngine_of_none {s : State} {e : Nat} (h : running s e = none) :
    resetEngine s e = s.setEng e (resetEng (s.eng e)) :=
  abortRunning_of_none (s := s.setEng e (resetEng (s.eng e))) h

theorem engCtrlWrite_reset {s : State} {e : Nat} (h : running s e = none) :
    engCtrlWrite e 0x800000 s = (.ok, resetInst (s.setEng e (resetEng (s.eng e))) 0x3E e) := by
  have hb : (0x800000 : Word).getLsbD 23 = true := rfl
  rw [engCtrlWrite, hb, if_pos rfl, resetEngine_of_none h]

theorem respond_eng (s : State) (via : Via) (w : Bool) (a : Word) (st : Status) (d : Word) (x : Nat) :
    (respond s via w a st d).eng x = s.eng x :=
  (Keeps.respond (l := [.ports]) (Keeps.refl _ s) (by decide)).eng_eq (by decide) x

theorem respond_ctx (s : State) (via : Via) (w : Bool) (a : Word) (st : Status) (d : Word) (x : Nat) :
    (respond s via w a st d).ctx x = s.ctx x :=
  (Keeps.respond (l := [.ports]) (Keeps.refl _ s) (by decide)).ctx_eq (by decide) x

theorem resetInst_eng (s : State) (src i x : Nat) : (resetInst s src i).eng x = s.eng x := rfl

theorem exec_contextWrite {u : Nat} (hu : u < 16) (via : Via) (data : Word) (s : State) :
    exec (.contextWrite via u 0x11 data) s = answer s (mgmtWrite s via (.chk u) 0x11 data (chkWrite via.port u 0x11 data)) := by
  show execContextWrite via u 0x11 data s = _
  rw [execContextWrite, decide_eq_true hu]
  rfl

/-- A context with a new width word. -/
def widened (c : Ctx) (data : Word) : Ctx :=
  { fitWidth { c with width := data.extractLsb' 17 7, refin := data.getLsbD 16, refout := data.getLsbD 15 } with
    aliveV := false }

theorem chkWrite_busy {s : State} {u : Nat} (h : (s.ctx (s.chk u).sel.toNat).busy = true) (n : Nat) (data : Word) :
    chkWrite n u 0x11 data s = (.refused, s) := by
  unfold chkWrite
  simp only [h]
  rfl

theorem chkWrite_width {s : State} {u : Nat} {data : Word} (hb : (s.ctx (s.chk u).sel.toNat).busy = false)
    (hlo : 8 ≤ (data.extractLsb' 17 7).toNat) (hhi : (data.extractLsb' 17 7).toNat ≤ 64) (n : Nat) :
    chkWrite n u 0x11 data s =
      (.ok, s.setCtx (s.chk u).sel.toNat (widened (s.ctx (s.chk u).sel.toNat) data)) := by
  have hw : ¬ (decide ((data.extractLsb' 17 7).toNat < 8) || decide (64 < (data.extractLsb' 17 7).toNat)) = true := by
    rw [decide_eq_false (Nat.not_lt.mpr hlo), decide_eq_false (Nat.not_lt.mpr hhi)]
    exact Bool.false_ne_true
  have hnb : ¬ (s.ctx (s.chk u).sel.toNat).busy = true := by rw [hb]; exact Bool.false_ne_true
  rw [chkWrite, if_neg (by decide : ¬ 0x11 = 0x10), if_neg (by decide : ¬ (decide (0x11 < 0x11) || decide (0x1D < 0x11)) = true),
    if_neg hnb, if_pos rfl, if_neg hw]
  rfl

/-- Settles O33. -/
theorem engineResetAndContexts : Obligations.EngineResetAndContexts := by
  refine ⟨fun s via e he h hrun => ?_, fun s via u data hu h hb hlo hhi => ?_, fun s via u data hu h hb => ?_⟩
  · refine ⟨_, (congrArg (answer s) (if_pos he)).trans (answer_mgmtWrite h (engCtrlWrite_reset hrun)), ?_⟩
    have k : Keeps [.ports, .engs, .flt] s (resetInst (s.setEng e (resetEng (s.eng e))) 0x3E e) :=
      keeps_resetInst ((Keeps.refl _ s).setEng (by decide)) (by decide)
    rw [fin_eng, respond_eng, resetInst_eng, eng_setEng]
    refine ⟨rfl, rfl, (k.respond (by decide)).fin, fun x hx => ?_⟩
    rw [fin_eng, respond_eng, resetInst_eng, eng_setEng_ne _ _ _ _ hx]
  · refine ⟨_, (exec_contextWrite hu via data s).trans (answer_mgmtWrite h (chkWrite_width hb hlo hhi via.port)), ?_⟩
    rw [fin_ctx, respond_ctx, ctx_setCtx]
    refine ⟨rfl, rfl, rfl, rfl, (((Keeps.refl _ s).setCtx (by decide)).respond (by decide)).fin, fun i hi => ?_⟩
    rw [fin_ctx, respond_ctx, ctx_setCtx_ne _ _ _ _ hi]
  · exact (exec_contextWrite hu via data s).trans (answer_mgmtWrite h (chkWrite_busy hb via.port data))

end Sys2Proof.Proofs

/-! Lull slots (R193–R201) and the change of an operating point (R182–R186). -/

namespace Sys2Proof.Safety

open Sys2Proof.Machine

section Refresh

variable {l : List Part} {s t : State} (h : Keeps l s t)
include h

theorem Keeps.closeBanks {sel : Nat → Bool} {c : Nat} (hl : Part.chans ∈ l) :
    Keeps l s (Sys2Proof.Machine.closeBanks sel t c) := h.setChan hl

theorem Keeps.bstBusy_eq (hl : Part.bst ∉ l) (c : Nat) : bstBusy t c = bstBusy s c := by
  simp only [bstBusy, h.bstOf_eq hl]

theorem Keeps.migUses_eq (hl : ∀ p ∈ routeParts, p ∉ l) (c k : Nat) : migUses t c k = migUses s c k := by
  have hm : t.mig = s.mig := h .mig (hl _ (by decide))
  have ht : t.tables = s.tables := h .tables (hl _ (by decide))
  simp only [migUses, hm, ht, h.rank_eq (hl _ (by decide))]

theorem Keeps.holdsOld_eq (hl : Part.ranks ∉ l) (c : Nat) : holdsOld t c = holdsOld s c := by
  simp only [holdsOld, h.rank_eq hl]

/-- The parts that a rank's rest in self-refresh depends on (R203, R250). -/
def restParts : List Part := [.tables, .ranks, .mig, .bst, .ecc]

theorem Keeps.rankRests_eq (hl : ∀ p ∈ restParts, p ∉ l) (c k : Nat) : rankRests t c k = rankRests s c k := by
  have hr : ∀ p ∈ routeParts, p ∉ l := fun p hp => hl p (by revert hp; revert p; decide)
  unfold rankRests
  rw [h.rank_eq (hl _ (by decide)), h.mbistOn_eq (hl _ (by decide)), h.holdsOld_eq (hl _ (by decide)), h.migUses_eq hr,
    h.eccOf_eq (hl _ (by decide)), h.bstBusy_eq (hl _ (by decide)), h.bstOf_eq (hl _ (by decide))]

theorem Keeps.rankGone_eq (hl : ∀ p ∈ [Part.ranks, .spr, .bst, .doms], p ∉ l) (c k : Nat) :
    rankGone t c k = rankGone s c k := by
  rw [rankGone, rankStopped, h.rank_eq (hl _ (by decide)), h.chanFenced_eq (hl _ (by decide)),
    h.mbistOn_eq (hl _ (by decide)), h.domOn_eq (hl _ (by decide)), rankGone, rankStopped]

theorem Keeps.catchupExit {i : Nat} (hl : Part.tiers ∈ l) : Keeps l s (Sys2Proof.Machine.catchupExit t i) := by
  unfold Sys2Proof.Machine.catchupExit
  split
  · exact h.setTier hl
  · exact h

end Refresh

/-- The rows that a slot of tier t on channel c closes, where its rank takes commands. -/
def slotRows (s : State) (t c : Nat) : State := if rankDeaf s c (rankOfTier t) then s else closeRows s c

/-- The slot of tier t noted with its channel's refresh state. -/
def slotNoted (s : State) (t c : Nat) (deaf : Bool) : State :=
  let k := rankOfTier t
  let bit : BitVec 5 := BitVec.ofNat 5 (2 ^ k)
  s.modRfrOf c (fun r => { r with
    inSlot := r.inSlot ||| bit
    skipping := if deaf then r.skipping ||| bit else r.skipping
    slotLeft := tput r.slotLeft k (slotCmds (s.tier t).slotBand) })

/-- A Survey that a slot meets is suspended. -/
def sweepSuspended (s : State) (c : Nat) : State :=
  if (s.trnOf c).action = .survey then
    let s := if s.pwr.hold then s else pauseSweep s c
    s.modTrnOf c (fun x => { x with action := .suspended, suspends := sat x.suspends 1 })
  else s

theorem slotOnChan_eq (s : State) (t c : Nat) : slotOnChan s t c =
    if noSlot s c (rankOfTier t) then s
    else sweepSuspended (slotNoted (slotRows s t c) t c (rankDeaf s c (rankOfTier t))) c := rfl

/-- The slot of tier t taken from its channel's refresh state. -/
def slotFreed (s : State) (t c : Nat) : State :=
  let k := rankOfTier t
  s.modRfrOf c (fun r => { r with
    inSlot := r.inSlot &&& ~~~ (BitVec.ofNat 5 (2 ^ k))
    skipping := r.skipping &&& ~~~ (BitVec.ofNat 5 (2 ^ k))
    slotLeft := tdel r.slotLeft k })

/-- What a slot left unissued becomes owed, save on a rank that is gone. -/
def leftOwed (s : State) (t c : Nat) (left : List Nat) : State :=
  if left = [] || rankGone s c (rankOfTier t) then s else oweAll s c (rankOfTier t) left

/-- A suspended Survey goes on when no slot runs. -/
def sweepResumed (s : State) (c : Nat) : State :=
  if (s.trnOf c).action = .suspended && (s.rfrOf c).inSlot = 0 then
    resumeSweep (s.modTrnOf c (fun x => { x with action := .survey })) c
  else s

theorem slotEndChan_eq (s : State) (t c : Nat) : slotEndChan s t c =
    sweepResumed (leftOwed (slotFreed s t c) t c ((tfind (s.rfrOf c).slotLeft (rankOfTier t)).getD [])) c := rfl

section Slots

variable {l : List Part} {s t : State} (h : Keeps l s t)
include h

theorem Keeps.slotRows {i c : Nat} (hl : Part.chans ∈ l) : Keeps l s (Safety.slotRows t i c) := by
  unfold Safety.slotRows
  split
  · exact h
  · exact h.closeBanks hl

theorem Keeps.sweepSuspended {c : Nat} (hl : Part.trn ∈ l) : Keeps l s (Safety.sweepSuspended t c) := by
  unfold Safety.sweepSuspended
  split
  · refine Keeps.setTrnOf ?_ hl
    split
    · exact h
    · exact h.setTrnOf hl
  · exact h

theorem Keeps.slotOnChan {i c : Nat} (hc : Part.chans ∈ l) (hr : Part.rfr ∈ l) (ht : Part.trn ∈ l) :
    Keeps l s (Sys2Proof.Machine.slotOnChan t i c) := by
  rw [slotOnChan_eq]
  split
  · exact h
  · exact Keeps.sweepSuspended (Keeps.setRfrOf (h.slotRows hc) hr) ht

theorem Keeps.leftOwed {i c : Nat} {left : List Nat} (hl : owedParts ⊆ l) : Keeps l s (Safety.leftOwed t i c left) := by
  unfold Safety.leftOwed
  split
  · exact h
  · exact h.oweAll hl

theorem Keeps.sweepResumed {c : Nat} (hl : Part.trn ∈ l) : Keeps l s (Safety.sweepResumed t c) := by
  unfold Safety.sweepResumed
  split
  · exact (h.setTrnOf hl).setTrnOf hl
  · exact h

theorem Keeps.slotEndChan {i c : Nat} (hl : owedParts ⊆ l) (ht : Part.trn ∈ l) :
    Keeps l s (Sys2Proof.Machine.slotEndChan t i c) := by
  rw [slotEndChan_eq]
  exact Keeps.sweepResumed (Keeps.leftOwed (h.setRfrOf (hl (by decide))) hl) ht

theorem Keeps.slotEnd {i : Nat} (hl : owedParts ⊆ l) (ht : Part.trn ∈ l) :
    Keeps l s (Sys2Proof.Machine.slotEnd t i) :=
  Keeps.catchupExit (Keeps.setTier (Keeps.foldS (fun _ _ k => k.slotEndChan hl ht) _ h) (hl (by decide))) (hl (by decide))

end Slots

end Sys2Proof.Safety

namespace Sys2Proof.Proofs

open Sys2Proof.Machine
open Sys2Proof.Safety

/-! ### A slot starts on each channel of its tier -/

theorem chan_setRfrOf (s : State) (i c : Nat) (v : Rfr) : (s.setRfrOf i v).chan c = s.chan c := rfl
theorem rfrOf_setChan (s : State) (i c : Nat) (v : Chan) : (s.setChan i v).rfrOf c = s.rfrOf c := rfl
theorem rfrOf_setTrnOf (s : State) (i c : Nat) (v : Trn) : (s.setTrnOf i v).rfrOf c = s.rfrOf c := rfl
theorem chan_setTrnOf (s : State) (i c : Nat) (v : Trn) : (s.setTrnOf i v).chan c = s.chan c := rfl

theorem slotRows_chan_ne {c d : Nat} (s : State) (t : Nat) (h : c ≠ d) : (slotRows s t d).chan c = s.chan c := by
  unfold slotRows
  split
  · rfl
  · exact chan_setChan_ne s d c _ h

theorem slotRows_rfrOf (s : State) (t d c : Nat) : (slotRows s t d).rfrOf c = s.rfrOf c :=
  (Keeps.slotRows (l := [.chans]) (Keeps.refl _ s) (by decide)).rfrOf_eq (by decide) c

theorem slotRows_tier (s : State) (t d x : Nat) : (slotRows s t d).tier x = s.tier x :=
  (Keeps.slotRows (l := [.chans]) (Keeps.refl _ s) (by decide)).tier_eq (by decide) x

theorem sweepSuspended_rfrOf (s : State) (d c : Nat) : (sweepSuspended s d).rfrOf c = s.rfrOf c :=
  (Keeps.sweepSuspended (l := [.trn]) (Keeps.refl _ s) (by decide)).rfrOf_eq (by decide) c

theorem sweepSuspended_chan (s : State) (d c : Nat) : (sweepSuspended s d).chan c = s.chan c :=
  (Keeps.sweepSuspended (l := [.trn]) (Keeps.refl _ s) (by decide)).chan_eq (by decide) c

/-- What a slot that starts on channel d leaves of channel c. -/
theorem slotOnChan_other {c d : Nat} (s : State) (t : Nat) (h : c ≠ d) :
    (slotOnChan s t d).rfrOf c = s.rfrOf c ∧ (slotOnChan s t d).chan c = s.chan c := by
  rw [slotOnChan_eq]
  split
  · exact ⟨rfl, rfl⟩
  · rw [sweepSuspended_rfrOf, sweepSuspended_chan, slotNoted, modRfrOf_def, rfrOf_setRfrOf_ne _ _ _ _ h, slotRows_rfrOf,
      chan_setRfrOf, slotRows_chan_ne s t h]
    exact ⟨rfl, rfl⟩

theorem slotOnChan_slotLeft {t c : Nat} {s : State} (h : noSlot s c (rankOfTier t) = false) :
    tfind ((slotOnChan s t c).rfrOf c).slotLeft (rankOfTier t) = some (slotCmds (s.tier t).slotBand) := by
  rw [slotOnChan_eq, h, if_neg Bool.false_ne_true, sweepSuspended_rfrOf, slotNoted, modRfrOf_def, rfrOf_setRfrOf,
    slotRows_tier]
  exact tfind_tput_self _ _ _

theorem slotOnChan_tier (s : State) (t c x : Nat) : (slotOnChan s t c).tier x = s.tier x :=
  (Keeps.slotOnChan (l := [.chans, .rfr, .trn]) (Keeps.refl _ s) (by decide) (by decide) (by decide)).tier_eq (by decide) x

theorem noSlot_congr {s u : State} {c k : Nat} (hk : Keeps [.tiers, .rfr, .chans, .trn] s u)
    (hr : u.rfrOf c = s.rfrOf c) (hc : u.chan c = s.chan c) (ht : ∀ x, (u.tier x).inReset = (s.tier x).inReset) :
    noSlot u c k = noSlot s c k := by
  have hrst : u.rst = s.rst := hk .rst (by decide)
  rw [noSlot, hk.rankGone_eq (by decide), hk.rankRests_eq (by decide), inSelfRefresh, hr, opSwitching, hc, hrst, ht, noSlot,
    inSelfRefresh, opSwitching]

/-- A slot started on the channels of a list: one that was not in it keeps its state, one in it with a slot takes the
band's commands. -/
theorem foldS_slotOnChan_other {c t : Nat} (xs : List Nat) (s : State) (h : c ∉ xs) :
    (foldS xs (fun s c => slotOnChan s t c) s).rfrOf c = s.rfrOf c ∧
      (foldS xs (fun s c => slotOnChan s t c) s).chan c = s.chan c := by
  induction xs generalizing s with
  | nil => exact ⟨rfl, rfl⟩
  | cons x xs ih =>
    rw [List.mem_cons, not_or] at h
    obtain ⟨hr, hc⟩ := ih (slotOnChan s t x) h.2
    obtain ⟨hr', hc'⟩ := slotOnChan_other s t h.1
    exact ⟨hr.trans hr', hc.trans hc'⟩

theorem keeps_slotsOn {l : List Part} {s u : State} (h : Keeps l s u) (hc : Part.chans ∈ l) (hr : Part.rfr ∈ l)
    (ht : Part.trn ∈ l) (t : Nat) (xs : List Nat) : Keeps l s (foldS xs (fun s c => slotOnChan s t c) u) :=
  Keeps.foldS (fun _ _ k => k.slotOnChan hc hr ht) xs h

theorem foldS_slotOnChan_slotLeft {c t : Nat} (xs : List Nat) {s : State} (hn : xs.Nodup) (hm : c ∈ xs)
    (h : noSlot s c (rankOfTier t) = false) :
    tfind ((foldS xs (fun s c => slotOnChan s t c) s).rfrOf c).slotLeft (rankOfTier t) =
      some (slotCmds (s.tier t).slotBand) := by
  induction xs generalizing s with
  | nil => exact absurd hm nofun
  | cons x xs ih =>
    obtain ⟨hx, hn⟩ := List.nodup_cons.mp hn
    have hcons : foldS (x :: xs) (fun s c => slotOnChan s t c) s = foldS xs (fun s c => slotOnChan s t c) (slotOnChan s t x) := rfl
    rw [hcons]
    by_cases e : c = x
    · subst e
      rw [(foldS_slotOnChan_other xs _ hx).1, slotOnChan_slotLeft h]
    · obtain ⟨hr, hc⟩ := slotOnChan_other s t e
      have k : Keeps [.tiers, .rfr, .chans, .trn] s (slotOnChan s t x) :=
        (Keeps.refl _ s).slotOnChan (by decide) (by decide) (by decide)
      have hns : noSlot (slotOnChan s t x) c (rankOfTier t) = false :=
        (noSlot_congr k hr hc (fun y => by rw [slotOnChan_tier])).trans h
      rw [ih hn ((List.mem_cons.mp hm).resolve_left e) hns, slotOnChan_tier]

theorem nodup_chansOfTier (t : Nat) : (chansOfTier t).Nodup :=
  List.Pairwise.map _ (fun a b h => by omega) List.nodup_range

/-- Tier t in a slot at its band. -/
def tierInSlot (s : State) (t : Nat) : State :=
  s.modTier t (fun x => { x with slotBand := x.band, inSlot := true, lastSlot := some s.elapsed })

/-! ### The end of a reservation -/

theorem foldS_induction {P : State → Prop} {g : State → Nat → State} (hg : ∀ s n, P s → P (g s n)) (xs : List Nat)
    {s : State} (h : P s) : P (foldS xs g s) := by
  induction xs generalizing s with
  | nil => exact h
  | cons x xs ih => exact ih (hg s x h)

/-- A tier's band is the one given. -/
def BandIs (t : Nat) (b : Band) (s : State) : Prop := (s.tier t).band = b

theorem BandIs.modTier {t i : Nat} {b : Band} {s : State} {g : Tier → Tier} (h : BandIs t b s)
    (hg : ∀ x, (g x).band = x.band) : BandIs t b (s.modTier i g) := by
  unfold BandIs
  rw [modTier_def]
  by_cases e : t = i
  · subst e
    rw [tier_setTier, hg, h]
  · rw [tier_setTier_ne _ _ _ _ e, h]

theorem BandIs.of_keeps {l : List Part} {t : Nat} {b : Band} {s u : State} (h : BandIs t b s) (k : Keeps l s u)
    (hl : Part.tiers ∉ l) : BandIs t b u := by
  rw [BandIs, k.tier_eq hl, h]

/-- A tier whose refreshes have missed their deadline. -/
def deadlineMissed (s : State) (t : Nat) : State :=
  let s := raise s 0x11 t
  let s := s.modTier t (fun x => { x with late := true })
  if (s.tier t).catchup then s else s.modTier t (fun x => { x with catchup := true, catchups := sat x.catchups 1 })

theorem addOwed_eq (s : State) (c k b n : Nat) : addOwed s c k b n =
    if owed s c k b < 9 && 9 ≤ owed (setOwed s c k b (owed s c k b + n)) c k b then
      deadlineMissed (setOwed s c k b (owed s c k b + n)) (tierOf c k)
    else setOwed s c k b (owed s c k b + n) := rfl

theorem BandIs.deadlineMissed {t i : Nat} {b : Band} {s : State} (h : BandIs t b s) :
    BandIs t b (deadlineMissed s i) := by
  have hr : BandIs t b (raise s 0x11 i) := h
  have hl := hr.modTier (i := i) (g := fun x => { x with late := true }) fun _ => rfl
  unfold Proofs.deadlineMissed
  dsimp only
  split
  · exact hl
  · exact hl.modTier fun _ => rfl

theorem BandIs.addOwed {t : Nat} {b : Band} {s : State} (h : BandIs t b s) (c k i n : Nat) :
    BandIs t b (addOwed s c k i n) := by
  have ho : BandIs t b (setOwed s c k i (owed s c k i + n)) :=
    h.of_keeps (l := [.rfr]) (Keeps.setOwed (Keeps.refl _ s) (by decide)) (by decide)
  rw [addOwed_eq]
  split
  · exact ho.deadlineMissed
  · exact ho

theorem BandIs.oweAll {t : Nat} {b : Band} {s : State} (h : BandIs t b s) (c k : Nat) (banks : List Nat) :
    BandIs t b (oweAll s c k banks) := by
  refine BandIs.of_keeps (l := [.rfr]) (foldS_induction (P := BandIs t b) (fun u i hu => ?_) _ h)
    ((Keeps.refl _ _).setRfrOf (by decide)) (by decide)
  dsimp only
  split
  · exact hu
  · exact hu.addOwed c k i _

theorem BandIs.slotEndChan {t : Nat} {b : Band} {s : State} (h : BandIs t b s) (i c : Nat) :
    BandIs t b (slotEndChan s i c) := by
  rw [slotEndChan_eq]
  refine BandIs.of_keeps (l := [.trn]) ?_ (Keeps.sweepResumed (Keeps.refl _ _) (by decide)) (by decide)
  have hf : BandIs t b (slotFreed s i c) := h.of_keeps (l := [.rfr]) ((Keeps.refl _ s).setRfrOf (by decide)) (by decide)
  unfold leftOwed
  split
  · exact hf
  · exact hf.oweAll c _ _

theorem catchupExit_tier (s : State) (t : Nat) :
    ((catchupExit s t).tier t).band = (s.tier t).band ∧ ((catchupExit s t).tier t).inSlot = (s.tier t).inSlot := by
  unfold catchupExit
  split
  · rw [modTier_def, tier_setTier]
    exact ⟨rfl, rfl⟩
  · exact ⟨rfl, rfl⟩

/-- The slot of tier t over. -/
def tierOutOfSlot (s : State) (t : Nat) : State := catchupExit (s.modTier t (fun x => { x with inSlot := false })) t

theorem tierOutOfSlot_tier (s : State) (t : Nat) :
    ((tierOutOfSlot s t).tier t).band = (s.tier t).band ∧ ((tierOutOfSlot s t).tier t).inSlot = false := by
  obtain ⟨hband, hslot⟩ := catchupExit_tier (s.modTier t (fun x => { x with inSlot := false })) t
  refine ⟨hband.trans ?_, hslot.trans ?_⟩ <;> rw [modTier_def, tier_setTier]

theorem slotEnd_eq (s : State) (t : Nat) :
    slotEnd s t = tierOutOfSlot (foldS (chansOfTier t) (fun s c => slotEndChan s t c) s) t := rfl

theorem slotEnd_tier (s : State) (t : Nat) :
    ((slotEnd s t).tier t).band = (s.tier t).band ∧ ((slotEnd s t).tier t).inSlot = false := by
  have hb : BandIs t (s.tier t).band (foldS (chansOfTier t) (fun s c => slotEndChan s t c) s) :=
    foldS_induction (P := BandIs t (s.tier t).band) (fun _ c h => h.slotEndChan t c) _ rfl
  obtain ⟨hband, hslot⟩ := tierOutOfSlot_tier (foldS (chansOfTier t) (fun s c => slotEndChan s t c) s) t
  rw [slotEnd_eq]
  exact ⟨hband.trans hb, hslot⟩

/-- Settles O35. -/
theorem lullSlots : Obligations.LullSlots := by
  refine ⟨fun s t hp hpres hsheet hslot hdom hg hm hl => ?_, fun s t hp ht hslot he => ?_, fun s t hp he => ?_⟩
  · have k : Keeps [.tiers, .rfr, .chans, .trn] s (tierInSlot s t) := (Keeps.refl _ s).setTier (by decide)
    have ku := keeps_slotsOn k (by decide) (by decide) (by decide) t (chansOfTier t)
    have kt : ∀ x, (foldS (chansOfTier t) (fun s c => slotOnChan s t c) (tierInSlot s t)).tier x = (tierInSlot s t).tier x :=
      (keeps_slotsOn (l := [.rfr, .chans, .trn]) (Keeps.refl _ (tierInSlot s t)) (by decide) (by decide) (by decide) t
        (chansOfTier t)).tier_eq (by decide)
    refine ⟨fin s (foldS (chansOfTier t) (fun s c => slotOnChan s t c) (tierInSlot s t)), answer_next hp ?_, ?_,
      fun c hc hn => ?_, fun x hx => ?_, ku.fin⟩
    · refine (if_pos ?_).trans ?_
      · simp [hpres, hsheet, hdom, hg, lullOff, hm, hl]
      · rw [hslot]
        rfl
    · rw [fin_tier, kt, tierInSlot, modTier_def, tier_setTier]
    · have hns : noSlot (tierInSlot s t) c (rankOfTier t) = false := by
        refine (noSlot_congr k rfl rfl (fun x => ?_)).trans hn
        by_cases e : x = t
        · rw [e, tierInSlot, modTier_def, tier_setTier]
        · rw [tierInSlot, modTier_def, tier_setTier_ne _ _ _ _ e]
      rw [fin_rfrOf, foldS_slotOnChan_slotLeft _ (nodup_chansOfTier t) hc hns, tierInSlot, modTier_def, tier_setTier]
    · rw [fin_tier, kt, tierInSlot, modTier_def, tier_setTier_ne _ _ _ _ hx]
  · obtain ⟨hband, hend⟩ := slotEnd_tier s t
    refine ⟨fin s (slotEnd s t), answer_next hp (if_pos ?_), ?_, ?_, Keeps.fin ((Keeps.refl _ s).slotEnd (by decide) (by decide))⟩
    rotate_left
    · rw [fin_tier, hend]
    · rw [fin_tier, hband]
    have hres : (s.tier t).lastSlot.getD 0 + (s.tier t).slotBand.reserve ≤ s.elapsed := by
      refine Nat.le_trans (Nat.le_of_eq ?_) he
      cases (s.tier t).slotBand <;> rfl
    rw [hslot, decide_eq_true hres]
    rfl
  · refine answer_next hp (if_neg ?_)
    simp [he]

end Sys2Proof.Proofs

/-! The change of a channel's operating point (R182–R186). -/

namespace Sys2Proof.Safety

open Sys2Proof.Machine

section Points

variable {l : List Part} {s t : State} (h : Keeps l s t)
include h

theorem Keeps.trnBusy_eq (hl : Part.trn ∉ l) (c : Nat) : trnBusy t c = trnBusy s c := by
  rw [trnBusy, h.trnOf_eq hl, trnBusy]

theorem Keeps.laneBusy_eq (hl : Part.tsv ∉ l) (c : Nat) : laneBusy t c = laneBusy s c := by
  rw [laneBusy, h.tsvOf_eq hl, laneBusy]

theorem Keeps.bstPauses_eq (hl : Part.bst ∉ l) (c : Nat) : bstPauses t c = bstPauses s c := by
  rw [bstPauses, h.bstOf_eq hl, bstPauses]

theorem Keeps.surveyFirst_eq (hl : Part.trn ∉ l) (c : Nat) : surveyFirst t c = surveyFirst s c := by
  rw [surveyFirst, h.trnOf_eq hl, surveyFirst]

/-- The parts that hold a channel, but its own (R183, R186, R392). -/
def holdParts : List Part := [.pwr, .flt, .trn, .tsv, .rst, .bst, .spr]

theorem Keeps.pointHeld_eq {c : Nat} (hl : ∀ p ∈ holdParts, p ∉ l) (hc : (t.chan c).st = (s.chan c).st) :
    pointHeld t c = pointHeld s c := by
  have hp : t.pwr = s.pwr := h .pwr (hl _ (by decide))
  have hf : t.flt = s.flt := h .flt (hl _ (by decide))
  have hr : t.rst = s.rst := h .rst (hl _ (by decide))
  rw [pointHeld, hp, hf, hr, hc, h.trnBusy_eq (hl _ (by decide)), h.laneBusy_eq (hl _ (by decide)),
    h.surveyFirst_eq (hl _ (by decide)), h.bstPauses_eq (hl _ (by decide)), pointHeld]

end Points

end Sys2Proof.Safety

namespace Sys2Proof.Proofs

open Sys2Proof.Machine
open Sys2Proof.Safety

/-! ### A target is written -/

theorem opTargetWrite_refused {c : Nat} {data : Word} {s : State}
    (h : data.extractLsb' 22 2 = 3 ∨ data.extractLsb' 22 2 < (s.chan c).opMax) : opTargetWrite c data s = (.refused, s) := by
  refine if_pos ?_
  rw [Bool.or_eq_true, decide_eq_true_eq, decide_eq_true_eq]
  exact h

theorem opTargetWrite_taken {c : Nat} {data : Word} {s : State} (h3 : data.extractLsb' 22 2 ≠ 3)
    (hm : (s.chan c).opMax ≤ data.extractLsb' 22 2) :
    opTargetWrite c data s = (.ok, applyTarget s c (data.extractLsb' 22 2) 1) := by
  refine if_neg ?_
  rw [decide_eq_false h3, decide_eq_false (BitVec.not_lt.mpr hm)]
  exact Bool.false_ne_true

/-- The target shown and latched for channel c. -/
def targetLatched (s : State) (c : Nat) (tgt : BitVec 2) (src : BitVec 3) : State :=
  (s.modChan c (fun ch => { ch with target := tgt })).modChan c (fun ch => { ch with latched := some (tgt, src) })

theorem targetLatched_chan (s : State) (c : Nat) (tgt : BitVec 2) (src : BitVec 3) :
    (targetLatched s c tgt src).chan c = { s.chan c with target := tgt, latched := some (tgt, src) } := by
  simp only [targetLatched, modChan_def, chan_setChan]

theorem keeps_targetLatched (s : State) (c : Nat) (tgt : BitVec 2) (src : BitVec 3) :
    Keeps [.chans] s (targetLatched s c tgt src) := ((Keeps.refl _ s).setChan (by decide)).setChan (by decide)

theorem applyTarget_eq {s : State} {c : Nat} {tgt : BitVec 2} {src : BitVec 3} (hb : bstHoldsPoint s c = false)
    (hne : tgt ≠ (s.chan c).current) : applyTarget s c tgt src = settlePoint (targetLatched s c tgt src) c := by
  have hc : ((s.modChan c (fun ch => { ch with target := tgt })).chan c).current = (s.chan c).current := by
    rw [modChan_def, chan_setChan]
  have hn : ¬ (decide (tgt = ((s.modChan c (fun ch => { ch with target := tgt })).chan c).current) &&
      decide (((s.modChan c (fun ch => { ch with target := tgt })).chan c).seq = .idle) &&
      decide (((s.modChan c (fun ch => { ch with target := tgt })).chan c).latched = none)) = true := by
    rw [hc, decide_eq_false hne]
    exact Bool.false_ne_true
  exact (if_neg (by rw [← Bool.not_eq_false] at *; exact fun h => h hb)).trans (if_neg hn)

/-- The sequence begun on channel c. -/
theorem settlePoint_begins {u : State} {c : Nat} {tgt : BitVec 2} {src : BitVec 3}
    (hl : (u.chan c).latched = some (tgt, src)) (hf : chanFenced u c = false) (hq : (u.chan c).seq = .idle)
    (hh : pointHeld u c = false) (hne : tgt ≠ (u.chan c).current) : settlePoint u c = beginSeq u c tgt src := by
  unfold settlePoint
  simp only [hl, hf, hq, hh, hne, Bool.false_eq_true, if_false]
  rfl

theorem applyTarget_begins {s : State} {c : Nat} {tgt : BitVec 2} {src : BitVec 3} (hb : bstHoldsPoint s c = false)
    (hne : tgt ≠ (s.chan c).current) (hq : (s.chan c).seq = .idle) (hf : chanFenced s c = false)
    (hh : pointHeld s c = false) : applyTarget s c tgt src = beginSeq (targetLatched s c tgt src) c tgt src := by
  have k := keeps_targetLatched s c tgt src
  have e := targetLatched_chan s c tgt src
  rw [applyTarget_eq hb hne]
  refine settlePoint_begins ?_ ?_ ?_ ?_ ?_
  · rw [e]
  · rw [k.chanFenced_eq (by decide), hf]
  · rw [e, hq]
  · rw [k.pointHeld_eq (by decide) (by rw [e]), hh]
  · rw [e]
    exact hne

theorem respond_chan (s : State) (via : Via) (w : Bool) (a : Word) (st : Status) (d : Word) (x : Nat) :
    (respond s via w a st d).chan x = s.chan x :=
  (Keeps.respond (l := [.ports]) (Keeps.refl _ s) (by decide)).chan_eq (by decide) x

theorem exec_opTargetWrite {c : Nat} (hc : c < 32) (via : Via) (data : Word) (s : State) :
    exec (.opTargetWrite via c data) s = answer s (mgmtWrite s via (.chn c) 1 data (opTargetWrite c data)) :=
  congrArg (answer s) (if_pos hc)

/-! ### Rows closed, ranks asleep -/

theorem Bank.close_openRow (tm : Timing) (now : Nat) (x : Bank) : (x.close tm now).openRow = none := by
  unfold Bank.close
  split
  next h => rfl
  next h => simpa using h

theorem closeRows_banks (s : State) (c : Nat) : ∀ e ∈ ((closeRows s c).chan c).banks, e.2.openRow = none := by
  intro e he
  rw [closeRows, closeBanks, modChan_def, chan_setChan] at he
  obtain ⟨x, -, rfl⟩ := List.mem_map.mp he
  exact Bank.close_openRow _ _ x.2

/-- The mask of a list of ranks. -/
def rankMask (ks : List Nat) : BitVec 5 := ks.foldl (fun (a : BitVec 5) k => a ||| BitVec.ofNat 5 (2 ^ k)) 0

theorem getLsbD_foldl_or (ks : List Nat) (a : BitVec 5) {j : Nat} (hj : j < 5) :
    (ks.foldl (fun (a : BitVec 5) k => a ||| BitVec.ofNat 5 (2 ^ k)) a).getLsbD j = (a.getLsbD j || decide (j ∈ ks)) := by
  induction ks generalizing a with
  | nil => simp
  | cons k ks ih =>
    rw [List.foldl_cons, ih, BitVec.getLsbD_or, BitVec.getLsbD_ofNat, decide_eq_true hj, Nat.testBit_two_pow]
    by_cases e : j = k
    · simp [e]
    · simp [e, Ne.symm e]

theorem getLsbD_rankMask (ks : List Nat) {j : Nat} (hj : j < 5) : (rankMask ks).getLsbD j = decide (j ∈ ks) := by
  rw [rankMask, getLsbD_foldl_or ks 0 hj]
  simp

theorem lt_of_mem_ranksOf {v : Variant} {k : Nat} (h : k ∈ ranksOf v) : k < 5 := by
  revert h
  cases v <;> decide +revert

theorem sleepRanks_eq (s : State) (c : Nat) :
    sleepRanks s c = s.modRfrOf c (fun r => { r with inSr := rankMask (ranksOf s.variant) }) := rfl

theorem wakeRanks_eq (s : State) (c : Nat) :
    wakeRanks s c = s.modRfrOf c (fun r => { r with inSr := rankMask ((ranksOf s.variant).filter (rankRests s c)) }) := rfl

theorem trnOf_setChan (s : State) (i c : Nat) (v : Chan) : (s.setChan i v).trnOf c = s.trnOf c := rfl

/-! ### What a channel settles to -/

/-- CHN_STATUS.state as what holds the channel gives it (R186). -/
def settledSt (s : State) (c : Nat) : ChanSt :=
  if chanFenced s c then .fenced
  else if (s.chan c).st = .closed then .closed
  else if pausedNow s c then .paused
  else if s.pwr.hold then .hold
  else .opened

theorem settleChan_of_no_wait {s : State} {c : Nat} (h : startWaiting s c = s) :
    settleChan s c = s.modChan c (fun ch => { ch with st := settledSt s c }) := by
  unfold settleChan
  rw [h]
  rfl

theorem startWaiting_of_paused {s : State} {c : Nat} (h : pausedNow s c = true) : startWaiting s c = s := by
  refine if_pos ?_
  rw [checkFree, h]
  simp

theorem startWaiting_of_none {s : State} {c : Nat} (hd : (s.trnOf c).checkDue = false) (hw : (s.tsvOf c).waits = []) :
    startWaiting s c = s := by
  unfold startWaiting
  simp only [hd, hw, Bool.false_eq_true, if_false, ite_self]

theorem pausedNow_of_switching {s : State} {c : Nat} (h : opSwitching s c = true) : pausedNow s c = true := by
  rw [pausedNow, h]
  rfl

theorem opSwitching_of_relock {s : State} {c : Nat} (h : (s.chan c).seq = .relock) : opSwitching s c = true := by
  rw [opSwitching, h]
  rfl

theorem settledSt_of_switching {s : State} {c : Nat} (hf : chanFenced s c = false) (hc : (s.chan c).st ≠ .closed)
    (h : opSwitching s c = true) : settledSt s c = .paused := by
  rw [settledSt, hf, if_neg Bool.false_ne_true, if_neg hc, if_pos (pausedNow_of_switching h)]

/-! ### The steps of the sequence -/

/-- The channel's rows closed and its ranks asleep, at the relock step. -/
def drainedOff (s : State) (c : Nat) : State :=
  (sleepRanks (closeRows s c) c).modChan c (fun ch => { ch with seq := .relock })

theorem keeps_drainedOff (s : State) (c : Nat) : Keeps [.chans, .rfr] s (drainedOff s c) :=
  ((Keeps.setRfrOf ((Keeps.refl _ s).closeBanks (by decide)) (by decide))).setChan (by decide)

theorem drainedOff_chan (s : State) (c : Nat) :
    (drainedOff s c).chan c = { (closeRows s c).chan c with seq := .relock } := by
  rw [drainedOff, modChan_def, chan_setChan, sleepRanks_eq, modRfrOf_def, chan_setRfrOf]

theorem closeRows_st (s : State) (c : Nat) : ((closeRows s c).chan c).st = (s.chan c).st := by
  rw [closeRows, closeBanks, modChan_def, chan_setChan]

theorem drainedOff_inSr (s : State) (c : Nat) : ((drainedOff s c).rfrOf c).inSr = rankMask (ranksOf s.variant) := by
  rw [drainedOff, modChan_def, rfrOf_setChan, sleepRanks_eq, modRfrOf_def, rfrOf_setRfrOf]
  rfl

theorem settleChan_drainedOff {s : State} {c : Nat} (hf : chanFenced s c = false) (hc : (s.chan c).st ≠ .closed) :
    settleChan (drainedOff s c) c = (drainedOff s c).modChan c (fun ch => { ch with st := .paused }) := by
  have hq : opSwitching (drainedOff s c) c = true := opSwitching_of_relock (by rw [drainedOff_chan])
  rw [settleChan_of_no_wait (startWaiting_of_paused (pausedNow_of_switching hq)), settledSt_of_switching ?_ ?_ hq]
  · rw [(keeps_drainedOff s c).chanFenced_eq (by decide), hf]
  · rw [drainedOff_chan]
    exact fun h => hc ((closeRows_st s c).symm.trans h)

theorem chanFenced_of_runs {s : State} {c : Nat} (h : seqRuns s c = true) : chanFenced s c = false := by
  rw [seqRuns, Bool.and_eq_true, Bool.not_eq_true'] at h
  exact h.2

theorem exec_opDrainComplete {s : State} {c : Nat} (hp : s.pins.pwrgood = true) (hr : seqRuns s c = true)
    (hd : drained s c = true) (ht : trnBusy s c = false) (hl : laneBusy s c = false) (hq : (s.chan c).seq = .drain) :
    exec (.opDrainComplete c) s = .next (fin s (settleChan (drainedOff s c) c)) := by
  refine answer_next hp ((if_neg ?_).trans (if_pos hq))
  rw [hr, hd, ht, hl]
  exact Bool.false_ne_true

theorem keeps_loadSet {l : List Part} {s t : State} {c op : Nat} (h : Keeps l s t) (hl : Part.trn ∈ l) :
    Keeps l s (loadSet t c op) := by
  unfold loadSet
  split
  · exact h.setTrnOf hl
  · exact h.setTrnOf hl

theorem loadSet_chan (s : State) (c op d : Nat) : (loadSet s c op).chan d = s.chan d :=
  (keeps_loadSet (l := [.trn]) (Keeps.refl _ s) (by decide)).chan_eq (by decide) d

/-- Self-refresh left and the pattern check begun. -/
def exitDone (s : State) (c : Nat) : State :=
  startPattern ((wakeRanks s c).modChan c (fun ch => { ch with seq := .check })) c

theorem keeps_exitDone (s : State) (c : Nat) : Keeps [.chans, .rfr, .trn] s (exitDone s c) :=
  (((Keeps.refl _ s).setRfrOf (by decide)).setChan (by decide)).setTrnOf (by decide)

theorem exitDone_chan (s : State) (c : Nat) : (exitDone s c).chan c = { s.chan c with seq := .check } := by
  rw [exitDone, startPattern, modTrnOf_def, chan_setTrnOf, modChan_def, chan_setChan, wakeRanks_eq, modRfrOf_def,
    chan_setRfrOf]

theorem exitDone_action (s : State) (c : Nat) : ((exitDone s c).trnOf c).action = .check := by
  rw [exitDone, startPattern, modTrnOf_def, trnOf_setTrnOf]

theorem exitDone_inSr (s : State) (c : Nat) :
    ((exitDone s c).rfrOf c).inSr = rankMask ((ranksOf s.variant).filter (rankRests s c)) := by
  rw [exitDone, startPattern, modTrnOf_def, rfrOf_setTrnOf, modChan_def, rfrOf_setChan, wakeRanks_eq, modRfrOf_def,
    rfrOf_setRfrOf]

/-! ### The check that opens the channel -/

/-- The pattern check over, without a failure. -/
def checkPassed (s : State) (c : Nat) : State := s.modTrnOf c (fun t => { t with action := .idle })

/-- The channel at its new point, its sequence over. -/
def pointReached (s : State) (c : Nat) : State :=
  s.setChan c { s.chan c with current := (s.chan c).goingTo, seq := .idle }

theorem checkEnded_passed {s : State} {c : Nat} (hr : (s.sprOf c).st ≠ .rescue) (hn : (s.trnOf c).noSet = false)
    (hc : (s.chan c).st ≠ .closed) : checkEnded s c 0 = openChan (checkPassed s c) c := by
  have hn' : ((checkPassed s c).trnOf c).noSet = false := by rw [checkPassed, modTrnOf_def, trnOf_setTrnOf, hn]
  have hr' : ((checkPassed s c).sprOf c).st ≠ .rescue := hr
  have hc' : ((checkPassed s c).chan c).st ≠ .closed := hc
  have hp : s.modTrnOf c (fun t => { t with action := .idle, checkFails := t.checkFails }) = checkPassed s c := rfl
  unfold checkEnded
  simp only [if_true, hp, hr', hn', if_false, Bool.false_eq_true, decide_eq_false hc', Bool.false_and]

theorem checkPassed_chan (s : State) (c : Nat) : (checkPassed s c).chan c = s.chan c := rfl

theorem keeps_checkPassed (s : State) (c : Nat) : Keeps [.trn] s (checkPassed s c) := (Keeps.refl _ s).setTrnOf (by decide)

/-- A test that holds its channel at OP1 runs there, or asks for it (R396). -/
def testPointed (s : State) (c : Nat) : State :=
  if (s.bstOf c).st = .setup && (s.bstOf c).kind.toNat < 3 then
    if (s.chan c).current = 1 then s.modBstOf c (fun b => { b with st := .run })
    else s.modChan c (fun ch => { ch with latched := some (1, 3) })
  else s

theorem openChan_of_open {s : State} {c : Nat} (hq : (s.chan c).seq = .check) (hc : (s.chan c).st ≠ .closed) :
    openChan s c = budgetDue (settleChan (settlePoint (testPointed (pointReached s c) c) c) c) := by
  unfold openChan
  simp only [if_pos hq, if_neg hc]
  rfl

theorem testPointed_of_idle {s : State} {c : Nat} (hb : (s.bstOf c).st = .idle) : testPointed s c = s := by
  refine if_neg ?_
  rw [hb]
  exact Bool.false_ne_true

theorem settlePoint_of_idle {s : State} {c : Nat} (hl : (s.chan c).latched = none) (hq : (s.chan c).seq = .idle) :
    settlePoint s c = s := by
  have hw : ¬ (s.chan c).seq = .wait := by rw [hq]; exact nofun
  unfold settlePoint
  simp only [hl, if_neg hw]

theorem openChan_reached {s : State} {c : Nat} (hq : (s.chan c).seq = .check) (hc : (s.chan c).st ≠ .closed)
    (hb : (s.bstOf c).st = .idle) (hl : (s.chan c).latched = none) :
    openChan s c = budgetDue (settleChan (pointReached s c) c) := by
  have hb' : ((pointReached s c).bstOf c).st = .idle := hb
  have hl' : ((pointReached s c).chan c).latched = none := by rw [pointReached, chan_setChan, hl]
  have hq' : ((pointReached s c).chan c).seq = .idle := by rw [pointReached, chan_setChan]
  rw [openChan_of_open hq hc, testPointed_of_idle hb', settlePoint_of_idle hl' hq']

theorem pausedNow_of_free {s : State} {c : Nat} (hq : (s.chan c).seq = .idle) (ht : (s.trnOf c).action = .idle)
    (hl : (s.tsvOf c).action = .idle) (hb : (s.bstOf c).st = .idle) (hw : (s.trnOf c).wanted = none)
    (hr : s.rst.chanBusy = []) (hs : (s.sprOf c).st ≠ .rescue) : pausedNow s c = false := by
  simp [pausedNow, opSwitching, trnBusy, laneBusy, bstPauses, surveyFirst, hq, ht, hl, hb, hw, hr, hs]

/-- The channel at its new point with its check passed. -/
def reopenedAt (s : State) (c : Nat) : State := pointReached (checkPassed s c) c

theorem reopenedAt_chan (s : State) (c : Nat) :
    (reopenedAt s c).chan c = { s.chan c with current := (s.chan c).goingTo, seq := .idle } := by
  rw [reopenedAt, pointReached, chan_setChan, checkPassed_chan]

theorem reopenedAt_trnOf (s : State) (c : Nat) : (reopenedAt s c).trnOf c = { s.trnOf c with action := .idle } :=
  trnOf_setTrnOf s c _

theorem keeps_reopenedAt (s : State) (c : Nat) : Keeps [.chans, .trn] s (reopenedAt s c) :=
  ((keeps_checkPassed s c).mono (by decide)).setChan (by decide)

theorem settleChan_reopenedAt {s : State} {c : Nat} (hf : chanFenced s c = false) (hc : (s.chan c).st ≠ .closed)
    (hw : (s.trnOf c).wanted = none) (hs : (s.sprOf c).st ≠ .rescue) (hb : (s.bstOf c).st = .idle)
    (hl : (s.tsvOf c).action = .idle) (hd : (s.trnOf c).checkDue = false) (hn : (s.tsvOf c).waits = [])
    (hr : s.rst.chanBusy = []) (hh : s.pwr.hold = false) :
    settleChan (reopenedAt s c) c = (reopenedAt s c).modChan c (fun ch => { ch with st := .opened }) := by
  have k := keeps_reopenedAt s c
  have ec := reopenedAt_chan s c
  have et := reopenedAt_trnOf s c
  have ktsv : (reopenedAt s c).tsvOf c = s.tsvOf c := k.tsvOf_eq (by decide) c
  have krst : (reopenedAt s c).rst = s.rst := k .rst (by decide)
  have kpwr : (reopenedAt s c).pwr = s.pwr := k .pwr (by decide)
  have hp : pausedNow (reopenedAt s c) c = false := by
    refine pausedNow_of_free ?_ ?_ ?_ ?_ ?_ ?_ ?_
    · rw [ec]
    · rw [et]
    · rw [ktsv, hl]
    · rw [k.bstOf_eq (by decide), hb]
    · rw [et, hw]
    · rw [krst, hr]
    · rw [k.sprOf_eq (by decide)]
      exact hs
  have hst : ((reopenedAt s c).chan c).st ≠ .closed := by
    rw [ec]
    exact hc
  have hset : settledSt (reopenedAt s c) c = .opened := by
    rw [settledSt, k.chanFenced_eq (by decide), hf, if_neg Bool.false_ne_true, if_neg hst, hp, if_neg Bool.false_ne_true,
      kpwr, hh, if_neg Bool.false_ne_true]
  rw [settleChan_of_no_wait (startWaiting_of_none (by rw [et, hd]) (by rw [ktsv, hn])), hset]

theorem budgetDue_chan (s : State) (c : Nat) : (budgetDue s).chan c = s.chan c := rfl
theorem budgetDue_trnOf (s : State) (c : Nat) : (budgetDue s).trnOf c = s.trnOf c := rfl

/-- Settles O36: a target that may be taken begins the sequence, and each of its steps leaves the channel at the next. -/
theorem operatingPoint : Obligations.OperatingPoint := by
  refine ⟨fun s via c data hc h h3 hm hne hq hl hb hf hh => ?_, fun s via c data hc h hr => ?_,
    fun s c hp hr hd ht hl hq hst => ?_, fun s c hp hr hq => ⟨?_, answer_next hp (if_pos ?_)⟩, fun s c hp hr hq => ?_,
    fun s c hp hon hf hact hset hw hspr hq hst hlat hb htsv hd hn hrst hh => ?_⟩
  · refine ⟨_, (exec_opTargetWrite hc via data s).trans (answer_mgmtWrite h (opTargetWrite_taken h3 hm)), ?_⟩
    rw [applyTarget_begins hb hne hq hf hh, fin_chan, respond_chan, beginSeq, modChan_def, chan_setChan,
      targetLatched_chan]
    refine ⟨rfl, (Keeps.respond (Keeps.setChan ((keeps_targetLatched s c _ 1).mono (by decide)) (by decide))
      (by decide)).fin, fun d hdc => ?_⟩
    rw [fin_chan, respond_chan, chan_setChan_ne _ _ _ _ hdc, targetLatched, modChan_def, chan_setChan_ne _ _ _ _ hdc,
      modChan_def, chan_setChan_ne _ _ _ _ hdc]
  · exact (exec_opTargetWrite hc via data s).trans (answer_mgmtWrite h (opTargetWrite_refused hr))
  · have hc : (s.chan c).st ≠ .closed := by rw [hst]; exact nofun
    refine ⟨_, exec_opDrainComplete hp hr hd ht hl hq, ?_⟩
    rw [settleChan_drainedOff (chanFenced_of_runs hr) hc, fin_chan, modChan_def, chan_setChan, drainedOff_chan, fin_rfrOf,
      rfrOf_setChan, drainedOff_inSr]
    refine ⟨rfl, rfl, closeRows_banks s c, fun k hk => ?_, ((keeps_drainedOff s c).setChan (by decide)).fin⟩
    rw [getLsbD_rankMask _ (lt_of_mem_ranksOf hk), decide_eq_true hk]
  · refine ⟨fin s ((loadSet s c (s.chan c).goingTo.toNat).modChan c (fun ch => { ch with seq := .exit })),
      answer_next hp (if_pos ?_), ?_, (Keeps.setChan (keeps_loadSet (Keeps.refl _ s) (by decide)) (by decide)).fin⟩
    · rw [hr, hq]
      rfl
    · rw [fin_chan, modChan_def, chan_setChan, loadSet_chan]
  · rw [hr, hq]
    rfl
  · refine ⟨fin s (exitDone s c), answer_next hp (if_pos ?_), ?_, ?_, fun k hk => ?_, (keeps_exitDone s c).fin⟩
    · rw [hr, hq]
      rfl
    · rw [fin_chan, exitDone_chan]
    · rw [fin_trnOf, exitDone_action]
    · rw [fin_rfrOf, exitDone_inSr, getLsbD_rankMask _ hk]
      simp only [List.mem_filter, Bool.decide_and, Bool.decide_eq_true]
  · have hc : (s.chan c).st ≠ .closed := by rw [hst]; exact nofun
    have k := keeps_reopenedAt s c
    refine ⟨fin s (budgetDue ((reopenedAt s c).modChan c (fun ch => { ch with st := .opened }))), answer_next hp ?_, ?_⟩
    · rw [if_pos (by rw [hon, hact, hf]; rfl), checkEnded_passed hspr hset hc,
        openChan_reached (s := checkPassed s c) hq hc hb hlat, ← reopenedAt,
        settleChan_reopenedAt hf hc hw hspr hb htsv hd hn hrst hh]
    · rw [fin_chan, budgetDue_chan, modChan_def, chan_setChan, reopenedAt_chan, fin_trnOf, budgetDue_trnOf,
        trnOf_setChan, reopenedAt_trnOf]
      refine ⟨rfl, rfl, rfl, rfl, rfl, rfl, (Keeps.budgetDue ((k.mono (by decide)).setChan (by decide)) (by decide)).fin⟩

end Sys2Proof.Proofs

/-! Lane checks, steers and erasures, and the checks of control lanes (R262–R268). -/

namespace Sys2Proof.Safety

open Sys2Proof.Machine

section Lanes

variable {l : List Part} {s t : State} (h : Keeps l s t)
include h

theorem Keeps.spoilChan {c : Nat} (hl : Part.flowRt ∈ l) : Keeps l s (Sys2Proof.Machine.spoilChan t c) :=
  Keeps.foldS (fun _ _ k => k.setFlowR hl) _ h

theorem Keeps.settlePoint {c : Nat} (hl : Part.chans ∈ l) : Keeps l s (Sys2Proof.Machine.settlePoint t c) := by
  unfold Sys2Proof.Machine.settlePoint
  dsimp only
  split
  · split
    · exact h.setChan hl
    · exact h
  split
  · exact h.setChan hl
  split
  · exact h
  split
  · exact h.setChan hl
  split
  · exact h.setChan hl
  · exact h.setChan hl

theorem Keeps.laneRecord {c lane act : Nat} (hl : Part.ecc ∈ l) : Keeps l s (Sys2Proof.Machine.laneRecord t c lane act) :=
  h.setEccOf hl

theorem Keeps.putDelays {c : Nat} {ds : List (Nat × LaneSet)} (hl : Part.trn ∈ l) :
    Keeps l s (Sys2Proof.Machine.putDelays t c ds) := h.setTrnOf hl

/-- The parts that let a check of a channel start, but the lanes' own. -/
def freeParts : List Part := [.doms, .spr, .chans, .trn, .bst, .rst, .flt]

theorem Keeps.checkFree_eq {c : Nat} (hl : ∀ p ∈ freeParts, p ∉ l) (ha : (t.tsvOf c).action = (s.tsvOf c).action) :
    checkFree t c = checkFree s c := by
  have hf : t.flt = s.flt := h .flt (hl _ (by decide))
  have hr : t.rst = s.rst := h .rst (hl _ (by decide))
  simp only [checkFree, chanOn, h.domOn_eq (hl _ (by decide)), h.chanFenced_eq (hl _ (by decide)), pausedNow, opSwitching,
    h.chan_eq (hl _ (by decide)), h.trnBusy_eq (hl _ (by decide)), laneBusy, ha, h.bstPauses_eq (hl _ (by decide)),
    h.surveyFirst_eq (hl _ (by decide)), hr, h.sprOf_eq (hl _ (by decide)), hf]

end Lanes

end Sys2Proof.Safety

namespace Sys2Proof.Proofs

open Sys2Proof.Machine
open Sys2Proof.Safety

theorem tsvOf_setChan (s : State) (i c : Nat) (v : Chan) : (s.setChan i v).tsvOf c = s.tsvOf c := rfl
theorem tsvOf_setTrnOf (s : State) (i c : Nat) (v : Trn) : (s.setTrnOf i v).tsvOf c = s.tsvOf c := rfl
theorem trnOf_setTsvOf (s : State) (i c : Nat) (v : Tsv) : (s.setTsvOf i v).trnOf c = s.trnOf c := rfl
theorem chan_setTsvOf (s : State) (i c : Nat) (v : Tsv) : (s.setTsvOf i v).chan c = s.chan c := rfl

/-! ### A check starts -/

theorem checkFree_action {s : State} {c : Nat} (h : checkFree s c = true) : (s.tsvOf c).action = .idle := by
  simp only [checkFree, Bool.and_eq_true, decide_eq_true_eq] at h
  exact h.1.2

theorem checkFree_not_paused {s : State} {c : Nat} (h : checkFree s c = true) : pausedNow s c = false := by
  simp only [checkFree, Bool.and_eq_true, Bool.not_eq_true'] at h
  exact h.1.1.1.2

theorem checkFree_not_fenced {s : State} {c : Nat} (h : checkFree s c = true) : chanFenced s c = false := by
  simp only [checkFree, Bool.and_eq_true, Bool.not_eq_true'] at h
  exact h.1.1.1.1.2

theorem checkFree_not_closed {s : State} {c : Nat} (h : checkFree s c = true) : (s.chan c).st ≠ .closed := by
  simp only [checkFree, Bool.and_eq_true, decide_eq_true_eq] at h
  exact h.1.1.2

theorem surveying_of_free {s : State} {c : Nat} (h : checkFree s c = true) : surveying s c = false := by
  have hp := checkFree_not_paused h
  simp only [pausedNow, trnBusy, Bool.or_eq_false_iff] at hp
  rw [surveying, hp.1.1.1.1.1.2.1.2, hp.1.1.1.1.1.2.2]
  rfl

theorem laneBusy_of_free {s : State} {c : Nat} (h : checkFree s c = true) : laneBusy s c = false := by
  rw [laneBusy, checkFree_action h]
  rfl

/-- What a check that starts writes into the lane state. -/
def checkBegun (w : CheckWait) (t : Tsv) : Tsv :=
  match w with
  | .data l => { t with action := .check, ctlCheck := false, lane := l }
  | .command k => { t with action := .check, ctlCheck := true, lane := 72, ctlFrom := some k, ctlRanks := [], clkRanks := [] }
  | .control l => { t with
      action := .check, ctlCheck := true, lane := l, ctlFrom := none, ctlRanks := t.clkRanks, clkRanks := [] }

/-- What a check that starts writes into the training state. -/
def checkTrained (w : CheckWait) (t : Trn) : Trn :=
  match w with
  | .data l => { t with trigger := 6, byteLane := BitVec.ofNat 5 (l / 4) }
  | _ => t

theorem checkBegun_action (w : CheckWait) (t : Tsv) : (checkBegun w t).action = .check := by
  cases w <;> rfl

theorem spoilChan_tsvOf (s : State) (c d : Nat) : (spoilChan s c).tsvOf d = s.tsvOf d :=
  (Keeps.spoilChan (l := [.flowRt]) (Keeps.refl _ s) (by decide)).tsvOf_eq (by decide) d

theorem spoilChan_trnOf (s : State) (c d : Nat) : (spoilChan s c).trnOf d = s.trnOf d :=
  (Keeps.spoilChan (l := [.flowRt]) (Keeps.refl _ s) (by decide)).trnOf_eq (by decide) d

theorem spoilChan_chan (s : State) (c d : Nat) : (spoilChan s c).chan d = s.chan d :=
  (Keeps.spoilChan (l := [.flowRt]) (Keeps.refl _ s) (by decide)).chan_eq (by decide) d

theorem startCheckOf_tsvOf (s : State) (c : Nat) (w : CheckWait) :
    (startCheckOf s c w).tsvOf c = checkBegun w (s.tsvOf c) := by
  cases w with
  | data l =>
    simp only [startCheckOf, modTsvOf_def, tsvOf_setTsvOf, modTrnOf_def, tsvOf_setTrnOf, spoilChan_tsvOf]
    rfl
  | command k =>
    simp only [startCheckOf, modTsvOf_def, tsvOf_setTsvOf, spoilChan_tsvOf]
    rfl
  | control l =>
    simp only [startCheckOf, modTsvOf_def, tsvOf_setTsvOf, spoilChan_tsvOf]
    rfl

theorem startCheckOf_trnOf (s : State) (c : Nat) (w : CheckWait) :
    (startCheckOf s c w).trnOf c = checkTrained w (s.trnOf c) := by
  cases w with
  | data l =>
    simp only [startCheckOf, modTsvOf_def, trnOf_setTsvOf, modTrnOf_def, trnOf_setTrnOf, spoilChan_trnOf]
    rfl
  | command k => simp only [startCheckOf, modTsvOf_def, trnOf_setTsvOf, spoilChan_trnOf, checkTrained]
  | control l => simp only [startCheckOf, modTsvOf_def, trnOf_setTsvOf, spoilChan_trnOf, checkTrained]

theorem startCheckOf_chan (s : State) (c : Nat) (w : CheckWait) : (startCheckOf s c w).chan c = s.chan c := by
  cases w with
  | data l => simp only [startCheckOf, modTsvOf_def, chan_setTsvOf, modTrnOf_def, chan_setTrnOf, spoilChan_chan]
  | command k => simp only [startCheckOf, modTsvOf_def, chan_setTsvOf, spoilChan_chan]
  | control l => simp only [startCheckOf, modTsvOf_def, chan_setTsvOf, spoilChan_chan]

theorem keeps_startCheckOf (s : State) (c : Nat) (w : CheckWait) :
    Keeps [.tsv, .trn, .flowRt] s (startCheckOf s c w) := by
  have k : Keeps [.tsv, .trn, .flowRt] s (spoilChan s c) := (Keeps.refl _ s).spoilChan (by decide)
  cases w with
  | data l => exact (k.setTrnOf (by decide)).setTsvOf (by decide)
  | command r => exact k.setTsvOf (by decide)
  | control l => exact k.setTsvOf (by decide)

theorem keeps_startCheckOf_control (s : State) (c : Nat) {w : CheckWait} (hw : ∀ l, w ≠ .data l) :
    Keeps [.tsv, .flowRt] s (startCheckOf s c w) := by
  have k : Keeps [.tsv, .flowRt] s (spoilChan s c) := (Keeps.refl _ s).spoilChan (by decide)
  cases w with
  | data l => exact absurd rfl (hw l)
  | command r => exact k.setTsvOf (by decide)
  | control l => exact k.setTsvOf (by decide)

theorem pausedNow_of_laneBusy {s : State} {c : Nat} (h : laneBusy s c = true) : pausedNow s c = true := by
  rw [pausedNow, h]
  simp

/-- The check that waits alone for a free channel starts, and pauses it. -/
theorem settleChan_starts {u : State} {c : Nat} {w : CheckWait} (hf : checkFree u c = true)
    (hd : (u.trnOf c).checkDue = false) (hw : (u.tsvOf c).waits = [w]) :
    settleChan u c = (startCheckOf (u.modTsvOf c (fun t => { t with waits := [] })) c w).modChan c
      (fun ch => { ch with st := .paused }) := by
  have hs : startWaiting u c = startCheckOf (u.modTsvOf c (fun t => { t with waits := [] })) c w := by
    unfold startWaiting
    simp only [hf, hd, hw, Bool.not_true, Bool.false_eq_true, if_false]
  have k : Keeps [.tsv, .trn, .flowRt] u (startCheckOf (u.modTsvOf c (fun t => { t with waits := [] })) c w) :=
    Keeps.trans ((Keeps.refl _ u).setTsvOf (by decide)) (keeps_startCheckOf _ c w)
  have hst : settledSt (startCheckOf (u.modTsvOf c (fun t => { t with waits := [] })) c w) c = .paused := by
    have hb : laneBusy (startCheckOf (u.modTsvOf c (fun t => { t with waits := [] })) c w) c = true := by
      rw [laneBusy, startCheckOf_tsvOf, checkBegun_action]
      rfl
    rw [settledSt, k.chanFenced_eq (by decide), checkFree_not_fenced hf, if_neg Bool.false_ne_true, k.chan_eq (by decide),
      if_neg (checkFree_not_closed hf), if_pos (pausedNow_of_laneBusy hb)]
  unfold settleChan
  rw [hs]
  exact congrArg (fun v => State.modChan _ c (fun ch => { ch with st := v })) hst

theorem suspect_tsvOf {s : State} {c : Nat} (hs : surveying s c = false) (hw : (s.tsvOf c).waits = []) (w : CheckWait) :
    (suspect s c w).tsvOf c = { s.tsvOf c with suspects := sat (s.tsvOf c).suspects 1, waits := [w] } := by
  have hs' : ¬ surveying (countSuspect s c) c = true := (Bool.not_eq_true _).mpr hs
  have ha : suspect s c w = askCheck (countSuspect s c) c w := if_neg hs'
  have hn : ([] : List CheckWait).contains w = false := rfl
  simp only [ha, askCheck, modTsvOf_def, tsvOf_setTsvOf, countSuspect, hw, hn, Bool.false_eq_true, if_false,
    List.nil_append]

theorem keeps_suspect {l : List Part} {s t : State} {c : Nat} {w : CheckWait} (h : Keeps l s t) (hl : Part.tsv ∈ l) :
    Keeps l s (suspect t c w) := by
  unfold suspect
  dsimp only
  split
  · exact h.setTsvOf hl
  · exact (h.setTsvOf hl).setTsvOf hl

/-- What a suspect of a free channel with nothing waiting leads to. -/
theorem settleChan_suspect {s u : State} {c : Nat} {w : CheckWait} (k : Keeps [.tsv] s u)
    (ha : (u.tsvOf c).action = (s.tsvOf c).action) (hf : checkFree s c = true) (hd : (s.trnOf c).checkDue = false)
    (hw : (u.tsvOf c).waits = []) :
    (settleChan (suspect u c w) c).tsvOf c =
        checkBegun w { u.tsvOf c with suspects := sat (u.tsvOf c).suspects 1, waits := [] } ∧
      (settleChan (suspect u c w) c).trnOf c = checkTrained w (s.trnOf c) ∧
      ((settleChan (suspect u c w) c).chan c).st = .paused ∧
      Keeps [.tsv, .trn, .chans, .flowRt] s (settleChan (suspect u c w) c) ∧
      ((∀ l, w ≠ .data l) → Keeps [.tsv, .chans, .flowRt] s (settleChan (suspect u c w) c)) := by
  have hfu : checkFree u c = true := (k.checkFree_eq (by decide) ha).trans hf
  have ks : Keeps [.tsv] s (suspect u c w) := keeps_suspect k (by decide)
  have ht := suspect_tsvOf (surveying_of_free hfu) hw w
  have hfs : checkFree (suspect u c w) c = true := by
    rw [ks.checkFree_eq (by decide) (by rw [ht]; exact ha), hf]
  have hds : ((suspect u c w).trnOf c).checkDue = false := by rw [ks.trnOf_eq (by decide), hd]
  rw [settleChan_starts hfs hds (by rw [ht]), modChan_def, tsvOf_setChan, trnOf_setChan, chan_setChan, startCheckOf_tsvOf,
    startCheckOf_trnOf, modTsvOf_def, tsvOf_setTsvOf, trnOf_setTsvOf, ht, ks.trnOf_eq (by decide)]
  refine ⟨rfl, rfl, rfl, ?_, fun hn => ?_⟩
  · exact Keeps.setChan (Keeps.trans (Keeps.setTsvOf (ks.mono (by decide)) (by decide))
      ((keeps_startCheckOf _ c w).mono (by decide))) (by decide)
  · exact Keeps.setChan (Keeps.trans (Keeps.setTsvOf (ks.mono (by decide)) (by decide))
      ((keeps_startCheckOf_control _ c hn).mono (by decide))) (by decide)

/-! ### The work on a lane ends -/

/-- The lane state once the work on its lane is over. -/
def laneIdle (t : Tsv) : Tsv :=
  { t with action := .idle, ctlCheck := false, waits := t.waits.filter (· ≠ .data t.lane) }

/-- The channel with the work on its lane over, before what waited for it goes on. -/
def laneOver (s : State) (c : Nat) : State :=
  (s.modTsvOf c laneIdle).modTrnOf c (fun t => { t with action := if t.action = .wait then .idle else t.action })

theorem laneEnd_eq (s : State) (c : Nat) : laneEnd s c = settleChan (settlePoint (laneOver s c) c) c := rfl

theorem laneOver_tsvOf (s : State) (c : Nat) : (laneOver s c).tsvOf c = laneIdle (s.tsvOf c) := by
  rw [laneOver, modTrnOf_def, tsvOf_setTrnOf, modTsvOf_def, tsvOf_setTsvOf]

theorem laneOver_checkDue (s : State) (c : Nat) : ((laneOver s c).trnOf c).checkDue = (s.trnOf c).checkDue := by
  rw [laneOver, modTrnOf_def, trnOf_setTrnOf, modTsvOf_def, trnOf_setTsvOf]

theorem keeps_laneOver (s : State) (c : Nat) : Keeps [.tsv, .trn] s (laneOver s c) :=
  ((Keeps.refl _ s).setTsvOf (by decide)).setTrnOf (by decide)

theorem laneIdle_waits {t : Tsv} (h : ∀ w ∈ t.waits, w = .data t.lane) : (laneIdle t).waits = [] :=
  List.filter_eq_nil_iff.mpr fun w hw => by rw [h w hw]; simp

/-- With nothing else waiting, the end of the work on a lane leaves its state idle. -/
theorem laneEnd_tsvOf {s : State} {c : Nat} (hd : (s.trnOf c).checkDue = false)
    (hw : ∀ w ∈ (s.tsvOf c).waits, w = .data (s.tsvOf c).lane) :
    (laneEnd s c).tsvOf c = laneIdle (s.tsvOf c) ∧ Keeps [.tsv, .trn, .chans] s (laneEnd s c) := by
  have k : Keeps [.chans] (laneOver s c) (settlePoint (laneOver s c) c) := (Keeps.refl _ _).settlePoint (by decide)
  have ht : (settlePoint (laneOver s c) c).tsvOf c = laneIdle (s.tsvOf c) :=
    (k.tsvOf_eq (by decide) c).trans (laneOver_tsvOf s c)
  have hn : startWaiting (settlePoint (laneOver s c) c) c = settlePoint (laneOver s c) c :=
    startWaiting_of_none (by rw [k.trnOf_eq (by decide), laneOver_checkDue, hd]) (by rw [ht, laneIdle_waits hw])
  rw [laneEnd_eq, settleChan_of_no_wait hn, modChan_def, tsvOf_setChan, ht]
  exact ⟨rfl, Keeps.setChan (((keeps_laneOver s c).mono (by decide)).settlePoint (by decide)) (by decide)⟩

theorem laneEnd_of_keeps {l : List Part} {s t : State} {c : Nat} (h : Keeps l s t) (hl : ∀ p ∈ [Part.tsv, .trn, .chans], p ∈ l)
    (hd : (t.trnOf c).checkDue = false) (hw : ∀ w ∈ (t.tsvOf c).waits, w = .data (t.tsvOf c).lane) :
    Keeps l s (laneEnd t c) :=
  h.trans ((laneEnd_tsvOf hd hw).2.mono hl)

theorem respond_tsvOf (s : State) (via : Via) (w : Bool) (a : Word) (st : Status) (d : Word) (x : Nat) :
    (respond s via w a st d).tsvOf x = s.tsvOf x :=
  (Keeps.respond (l := [.ports]) (Keeps.refl _ s) (by decide)).tsvOf_eq (by decide) x

theorem respond_trnOf (s : State) (via : Via) (w : Bool) (a : Word) (st : Status) (d : Word) (x : Nat) :
    (respond s via w a st d).trnOf x = s.trnOf x :=
  (Keeps.respond (l := [.ports]) (Keeps.refl _ s) (by decide)).trnOf_eq (by decide) x

/-! ### The check of a data lane -/

theorem exec_tsvCheckWrite {c : Nat} (hc : c < 32) (via : Via) (data : Word) (s : State) :
    exec (.tsvCheckWrite via c data) s = answer s (mgmtWrite s via (.tsv c) 6 data (tsvCtrlWrite c data)) :=
  congrArg (answer s) (if_pos hc)

/-- The lane selected. -/
def laneSelected (s : State) (c : Nat) (data : Word) : State :=
  s.modTsvOf c (fun t => { t with sel := data.extractLsb' 16 7 })

theorem laneSelected_tsvOf (s : State) (c : Nat) (data : Word) :
    (laneSelected s c data).tsvOf c = { s.tsvOf c with sel := data.extractLsb' 16 7 } := by
  rw [laneSelected, modTsvOf_def, tsvOf_setTsvOf]

theorem tsvCtrlWrite_check {s : State} {c : Nat} {data : Word} (hs : (data.extractLsb' 16 7).toNat < 72)
    (hb : data.getLsbD 23 = true) (ha : (s.tsvOf c).action = .idle) : tsvCtrlWrite c data s =
      (.ok, settleChan (suspect (laneSelected s c data) c (.data (data.extractLsb' 16 7).toNat)) c) := by
  have ha' : ((laneSelected s c data).tsvOf c).action = .idle := by rw [laneSelected_tsvOf, ha]
  refine (if_neg (by omega)).trans ((if_pos ?_).trans ?_)
  · rw [hb]
    exact decide_eq_true ha'
  · rw [if_pos hs]
    rfl

/-- A check of a data lane that may end does so by its verdict (R263). -/
def laneVerdict (s : State) (c : Nat) (eyes : List LaneEye) (spareEye : LaneEye) (centreErrors spareErrors : Bool) : State :=
  let lane := (s.tsvOf c).lane
  if eyeGood lane (findEye eyes lane) && !centreErrors then
    laneEnd (putDelays (s.modTsvOf c (fun t => { t with cleared := sat t.cleared 1 })) c
      (byteLaneSets (s.modTsvOf c (fun t => { t with cleared := sat t.cleared 1 })) c lane eyes)) c
  else if spareGone s c lane then eraseOrFail s c lane
  else if eyeGood lane spareEye && !spareErrors then s.modTsvOf c (fun t => { t with action := .steerWait })
  else eraseOrFail (spareBad s c lane) c lane

theorem exec_laneCheckDone {s : State} {c : Nat} (hp : s.pins.pwrgood = true) (ha : (s.tsvOf c).action = .check)
    (hc : (s.tsvOf c).ctlCheck = false) (hr : sweepRuns s c = true) (eyes : List LaneEye) (spare : LaneEye)
    (cErr spErr : Bool) :
    exec (.laneCheckDone c eyes spare cErr spErr) s = .next (fin s (laneVerdict s c eyes spare cErr spErr)) := by
  refine answer_next hp (if_pos ?_)
  rw [ha, hc, hr]
  rfl

theorem isErased_low {s : State} {c lane : Nat} (hl : lane < 36) :
    isErased s c lane = (s.tsvOf c).erasedA.contains lane := if_pos hl

/-- A lane of the lower half marked erased. -/
def lowMarked (s : State) (c lane : Nat) : State := s.modTsvOf c (fun t => { t with erasedA := t.erasedA ++ [lane] })

/-- The channel degraded by an erasure. -/
def laneDegraded (s : State) (c : Nat) : State :=
  s.modSprOf c (fun x => { x with st := if x.st = .normal then .laneDegraded else x.st })

/-- A lane of the lower half erased. -/
def lowErased (s : State) (c lane : Nat) : State :=
  laneRecord (raise (laneDegraded (lowMarked s c lane) c) 0x13 c (BitVec.ofNat 24 lane)) c lane 1

theorem eraseLane_low {s : State} {c lane : Nat} (hl : lane < 36) (he : (s.tsvOf c).erasedA.contains lane = false)
    (hn : (s.tsvOf c).erasedA.length < 2) : eraseLane s c lane = (lowErased s c lane, false) := by
  unfold eraseLane
  simp only [isErased_low hl, he, hl, if_true, Bool.false_eq_true, if_false, if_neg (Nat.not_le.mpr hn)]
  rfl

theorem keeps_lowMarked (s : State) (c lane : Nat) : Keeps [.tsv] s (lowMarked s c lane) :=
  (Keeps.refl _ s).setTsvOf (by decide)

theorem keeps_lowErased_lowMarked (s : State) (c lane : Nat) :
    Keeps [.spr, .ecc, .flt] (lowMarked s c lane) (lowErased s c lane) :=
  Keeps.laneRecord (Keeps.raise _ _ _ (Keeps.setSprOf (Keeps.refl _ _) (by decide)) (by decide)) (by decide)

theorem keeps_lowErased (s : State) (c lane : Nat) : Keeps [.tsv, .spr, .ecc, .flt] s (lowErased s c lane) :=
  ((keeps_lowMarked s c lane).mono (by decide)).trans ((keeps_lowErased_lowMarked s c lane).mono (by decide))

theorem lowErased_tsvOf (s : State) (c lane : Nat) :
    (lowErased s c lane).tsvOf c = { s.tsvOf c with erasedA := (s.tsvOf c).erasedA ++ [lane] } := by
  rw [(keeps_lowErased_lowMarked s c lane).tsvOf_eq (by decide), lowMarked, modTsvOf_def, tsvOf_setTsvOf]

theorem sprOf_laneRecord (s : State) (c lane act d : Nat) : (laneRecord s c lane act).sprOf d = s.sprOf d := rfl
theorem sprOf_raise (s : State) (a b : Nat) (w : Word) (d : Nat) : (raise s a b w).sprOf d = s.sprOf d := rfl

theorem lowErased_sprOf {s : State} {c : Nat} (h : (s.sprOf c).st = .normal) (lane : Nat) :
    ((lowErased s c lane).sprOf c).st = .laneDegraded := by
  have hm : ((lowMarked s c lane).sprOf c).st = .normal := by rw [(keeps_lowMarked s c lane).sprOf_eq (by decide), h]
  rw [lowErased, sprOf_laneRecord, sprOf_raise, laneDegraded, modSprOf_def, sprOf_setSprOf]
  exact if_pos hm

theorem laneRecord_due (s : State) (c lane act : Nat) :
    ((laneRecord s c lane act).eccOf c).due = (s.eccOf c).due ++ [.lane lane act] := by
  rw [laneRecord, modEccOf_def, eccOf_setEccOf]

theorem eccOf_raise (s : State) (a b : Nat) (w : Word) (d : Nat) : (raise s a b w).eccOf d = s.eccOf d := rfl

theorem lowErased_due (s : State) (c lane : Nat) :
    ((lowErased s c lane).eccOf c).due = (s.eccOf c).due ++ [.lane lane 1] := by
  have k : Keeps [.tsv, .spr] s (laneDegraded (lowMarked s c lane) c) :=
    ((keeps_lowMarked s c lane).mono (by decide)).setSprOf (by decide)
  rw [lowErased, laneRecord_due, eccOf_raise, k.eccOf_eq (by decide)]

theorem laneRecord_flt (s : State) (c lane act : Nat) : (laneRecord s c lane act).flt = s.flt := rfl

theorem lowErased_flt (s : State) (c lane : Nat) : (lowErased s c lane).flt =
    { s.flt with detected := s.flt.detected ++ [{ src := 0x13, inst := c, detail := BitVec.ofNat 24 lane }] } := by
  have k : Keeps [.tsv, .spr] s (laneDegraded (lowMarked s c lane) c) :=
    ((keeps_lowMarked s c lane).mono (by decide)).setSprOf (by decide)
  have kf : (laneDegraded (lowMarked s c lane) c).flt = s.flt := k .flt (by decide)
  rw [lowErased, laneRecord_flt, raise_flt, kf]

/-- A check that found its lane good. -/
def laneCleared (s : State) (c : Nat) (eyes : List LaneEye) : State :=
  putDelays (s.modTsvOf c (fun t => { t with cleared := sat t.cleared 1 })) c
    (byteLaneSets (s.modTsvOf c (fun t => { t with cleared := sat t.cleared 1 })) c (s.tsvOf c).lane eyes)

theorem keeps_laneCleared (s : State) (c : Nat) (eyes : List LaneEye) : Keeps [.tsv, .trn] s (laneCleared s c eyes) :=
  Keeps.putDelays ((Keeps.refl _ s).setTsvOf (by decide)) (by decide)

theorem putDelays_tsvOf (s : State) (c : Nat) (ds : List (Nat × LaneSet)) (d : Nat) :
    (putDelays s c ds).tsvOf d = s.tsvOf d := rfl

theorem putDelays_checkDue (s : State) (c : Nat) (ds : List (Nat × LaneSet)) :
    ((putDelays s c ds).trnOf c).checkDue = (s.trnOf c).checkDue := by
  rw [putDelays, modTrnOf_def, trnOf_setTrnOf]

theorem laneCleared_tsvOf (s : State) (c : Nat) (eyes : List LaneEye) :
    (laneCleared s c eyes).tsvOf c = { s.tsvOf c with cleared := sat (s.tsvOf c).cleared 1 } := by
  rw [laneCleared, putDelays_tsvOf, modTsvOf_def, tsvOf_setTsvOf]

theorem laneCleared_checkDue (s : State) (c : Nat) (eyes : List LaneEye) :
    ((laneCleared s c eyes).trnOf c).checkDue = (s.trnOf c).checkDue := by
  rw [laneCleared, putDelays_checkDue, modTsvOf_def, trnOf_setTsvOf]

/-- The lane shows a bad eye, or errors at its centre. -/
theorem not_good_of {lane : Nat} {eyes : List LaneEye} {cErr : Bool}
    (h : eyeGood lane (findEye eyes lane) = false ∨ cErr = true) :
    ¬ (eyeGood lane (findEye eyes lane) && !cErr) = true := by
  rcases h with h | h <;> simp [h]

/-- Settles O40. -/
theorem laneChecks : Obligations.LaneChecks := by
  refine ⟨fun s via c data hc h hs => ?_, fun s via c data hc h hs hb hf hd hw => ?_,
    fun s c lane eyes spare spErr hp ha hctl hr hl hgood hd hw => ?_,
    fun s c lane eyes spare cErr hp ha hctl hr hl hbad hg hsp => ?_,
    fun s c lane eyes spare cErr spErr hp ha hctl hr hl hbad h36 he hn hg hst hd hw => ?_⟩
  · exact (exec_tsvCheckWrite hc via data s).trans (answer_mgmtWrite h (if_pos hs))
  · have k : Keeps [.tsv] s (laneSelected s c data) := (Keeps.refl _ s).setTsvOf (by decide)
    have hsel := laneSelected_tsvOf s c data
    obtain ⟨htsv, htrn, hst, hk, -⟩ := settleChan_suspect (w := .data (data.extractLsb' 16 7).toNat) k (by rw [hsel]) hf hd
      (by rw [hsel, hw])
    refine ⟨_, (exec_tsvCheckWrite hc via data s).trans
      (answer_mgmtWrite h (tsvCtrlWrite_check hs hb (checkFree_action hf))), ?_⟩
    rw [fin_tsvOf, respond_tsvOf, htsv, hsel, fin_trnOf, respond_trnOf, htrn, fin_chan, respond_chan, hst, ← hw]
    exact ⟨rfl, rfl, rfl, ((hk.mono (by decide)).respond (by decide)).fin⟩
  · subst hl
    have hv : laneVerdict s c eyes spare false spErr = laneEnd (laneCleared s c eyes) c :=
      if_pos (by rw [hgood]; rfl)
    have hd' : ((laneCleared s c eyes).trnOf c).checkDue = false := by rw [laneCleared_checkDue, hd]
    have hw' : ∀ w ∈ ((laneCleared s c eyes).tsvOf c).waits, w = .data ((laneCleared s c eyes).tsvOf c).lane := by
      rw [laneCleared_tsvOf]
      exact hw
    refine ⟨_, (exec_laneCheckDone hp ha hctl hr eyes spare false spErr).trans (by rw [hv]), ?_⟩
    rw [fin_tsvOf, (laneEnd_tsvOf hd' hw').1, laneCleared_tsvOf]
    exact ⟨rfl, rfl, rfl, laneIdle_waits (t := { s.tsvOf c with cleared := _ }) hw,
      (laneEnd_of_keeps ((keeps_laneCleared s c eyes).mono (by decide)) (by decide) hd' hw').fin⟩
  · subst hl
    rw [exec_laneCheckDone hp ha hctl hr]
    unfold laneVerdict
    simp only [if_neg (not_good_of hbad), hg, hsp, Bool.not_false, Bool.and_true, Bool.false_eq_true, if_false, if_true]
    rfl
  · subst hl
    have hv : laneVerdict s c eyes spare cErr spErr = laneEnd (lowErased s c (s.tsvOf c).lane) c := by
      refine (if_neg (not_good_of hbad)).trans ((if_pos hg).trans ?_)
      unfold eraseOrFail
      rw [eraseLane_low h36 he hn]
      rfl
    have ht := lowErased_tsvOf s c (s.tsvOf c).lane
    have hd' : ((lowErased s c (s.tsvOf c).lane).trnOf c).checkDue = false := by
      rw [(keeps_lowErased s c _).trnOf_eq (by decide), hd]
    have hw' : ∀ w ∈ ((lowErased s c (s.tsvOf c).lane).tsvOf c).waits,
        w = .data ((lowErased s c (s.tsvOf c).lane).tsvOf c).lane := by
      rw [ht]
      exact hw
    obtain ⟨hend, hk⟩ := laneEnd_tsvOf hd' hw'
    have kf : (laneEnd (lowErased s c (s.tsvOf c).lane) c).flt = (lowErased s c (s.tsvOf c).lane).flt :=
      hk .flt (by decide)
    refine ⟨_, (exec_laneCheckDone hp ha hctl hr eyes spare cErr spErr).trans (by rw [hv]), ?_⟩
    rw [fin_tsvOf, hend, ht, fin_sprOf, hk.sprOf_eq (by decide), lowErased_sprOf hst, fin_eccOf, hk.eccOf_eq (by decide),
      lowErased_due, fin_flt, kf, lowErased_flt]
    exact ⟨rfl, rfl, rfl, rfl, rfl,
      (laneEnd_of_keeps ((keeps_lowErased s c _).mono (by decide)) (by decide) hd' hw').fin⟩

end Sys2Proof.Proofs

/-! Lane steers and the checks of control lanes (R264, R267). -/

namespace Sys2Proof.Proofs

open Sys2Proof.Machine
open Sys2Proof.Safety

/-! ### A lane is steered -/

/-- The steer of channel c begun: its rows closed, its windows spoiled. -/
def steerBegun (s : State) (c : Nat) : State :=
  spoilChan ((closeRows s c).modTsvOf c (fun t => { t with action := .steer })) c

theorem keeps_steerBegun (s : State) (c : Nat) : Keeps [.tsv, .chans, .flowRt] s (steerBegun s c) :=
  Keeps.spoilChan (Keeps.setTsvOf ((Keeps.refl _ s).closeBanks (by decide)) (by decide)) (by decide)

theorem closeRows_tsvOf (s : State) (c d : Nat) : (closeRows s c).tsvOf d = s.tsvOf d := rfl

theorem steerBegun_tsvOf (s : State) (c : Nat) : (steerBegun s c).tsvOf c = { s.tsvOf c with action := .steer } := by
  rw [steerBegun, spoilChan_tsvOf, modTsvOf_def, tsvOf_setTsvOf, closeRows_tsvOf]

theorem steerBegun_chan (s : State) (c : Nat) : (steerBegun s c).chan c = (closeRows s c).chan c := by
  rw [steerBegun, spoilChan_chan, modTsvOf_def, chan_setTsvOf]

theorem settleChan_paused {s : State} {c : Nat} (hp : pausedNow s c = true) (hf : chanFenced s c = false)
    (hc : (s.chan c).st ≠ .closed) : settleChan s c = s.modChan c (fun ch => { ch with st := .paused }) := by
  have hst : settledSt s c = .paused := by
    rw [settledSt, hf, if_neg Bool.false_ne_true, if_neg hc, if_pos hp]
  rw [settleChan_of_no_wait (startWaiting_of_paused hp), hst]

theorem settleChan_steerBegun {s : State} {c : Nat} (hf : chanFenced s c = false) (hc : (s.chan c).st ≠ .closed) :
    settleChan (steerBegun s c) c = (steerBegun s c).modChan c (fun ch => { ch with st := .paused }) := by
  refine settleChan_paused (pausedNow_of_laneBusy ?_) ?_ ?_
  · rw [laneBusy, steerBegun_tsvOf]
    rfl
  · rw [(keeps_steerBegun s c).chanFenced_eq (by decide), hf]
  · rw [steerBegun_chan, closeRows_st]
    exact hc

/-- The spare of a data lane's group marked used, and standing in the lane's position. -/
def stoodIn (lane : Nat) (t : Tsv) : Tsv :=
  { t with
    spareUsed := t.spareUsed ||| BitVec.ofNat 4 (2 ^ (lane / 18))
    steered := tput t.steered (lane / 18) (lane % 18) }

theorem standIn_tsvOf {lane : Nat} (h : lane < 72) (s : State) (c : Nat) :
    (standIn s c lane).tsvOf c = stoodIn lane (s.tsvOf c) := by
  simp only [standIn, useSpare, modTsvOf_def, tsvOf_setTsvOf, if_pos h]
  rfl

theorem stoodIn_spareUsed {lane : Nat} (h : lane < 72) (t : Tsv) : (stoodIn lane t).spareUsed.getLsbD (lane / 18) = true := by
  have h4 : lane / 18 < 4 := by omega
  have hm : (t.spareUsed ||| BitVec.ofNat 4 (2 ^ (lane / 18))).getLsbD (lane / 18) = true := by
    rw [BitVec.getLsbD_or, BitVec.getLsbD_ofNat, Nat.testBit_two_pow_self, decide_eq_true h4]
    exact Bool.or_true _
  exact hm

theorem spareTrims_tsvOf (s : State) (c lane d : Nat) : (spareTrims s c lane).tsvOf d = s.tsvOf d := rfl
theorem spareTrims_flt (s : State) (c lane : Nat) : (spareTrims s c lane).flt = s.flt := rfl
theorem standIn_flt (s : State) (c lane : Nat) : (standIn s c lane).flt = s.flt := rfl
theorem tsvOf_laneRecord (s : State) (c lane act d : Nat) : (laneRecord s c lane act).tsvOf d = s.tsvOf d := rfl
theorem tsvOf_raise (s : State) (a b : Nat) (w : Word) (d : Nat) : (raise s a b w).tsvOf d = s.tsvOf d := rfl
theorem eccOf_spareTrims (s : State) (c lane d : Nat) : (spareTrims s c lane).eccOf d = s.eccOf d := rfl
theorem eccOf_standIn (s : State) (c lane d : Nat) : (standIn s c lane).eccOf d = s.eccOf d := rfl

theorem keeps_standIn (s : State) (c lane : Nat) : Keeps [.tsv] s (standIn s c lane) :=
  ((Keeps.refl _ s).setTsvOf (by decide)).setTsvOf (by decide)

theorem keeps_steerLane (s : State) (c lane : Nat) : Keeps [.tsv, .trn, .ecc, .flt] s (steerLane s c lane) :=
  Keeps.laneRecord (Keeps.raise _ _ _ (Keeps.setTrnOf ((keeps_standIn s c lane).mono (by decide)) (by decide)) (by decide))
    (by decide)

theorem steerLane_tsvOf {lane : Nat} (h : lane < 72) (s : State) (c : Nat) :
    (steerLane s c lane).tsvOf c = stoodIn lane (s.tsvOf c) := by
  rw [steerLane, tsvOf_laneRecord, tsvOf_raise, spareTrims_tsvOf, standIn_tsvOf h]

theorem steerLane_checkDue (s : State) (c lane : Nat) :
    ((steerLane s c lane).trnOf c).checkDue = (s.trnOf c).checkDue := by
  have ht : (standIn s c lane).trnOf c = s.trnOf c := (keeps_standIn s c lane).trnOf_eq (by decide) c
  have hl : (steerLane s c lane).trnOf c = (spareTrims (standIn s c lane) c lane).trnOf c := rfl
  rw [hl, spareTrims, modTrnOf_def, trnOf_setTrnOf, ht]

theorem steerLane_due (s : State) (c lane : Nat) :
    ((steerLane s c lane).eccOf c).due = (s.eccOf c).due ++ [.lane lane 0] := by
  rw [steerLane, laneRecord_due, eccOf_raise, eccOf_spareTrims, eccOf_standIn]

theorem steerLane_flt (s : State) (c lane : Nat) : (steerLane s c lane).flt =
    { s.flt with detected := s.flt.detected ++ [{ src := 0x12, inst := c, detail := BitVec.ofNat 24 lane }] } := by
  rw [steerLane, laneRecord_flt, raise_flt, spareTrims_flt, standIn_flt]

theorem keeps_reissue (s : State) (c : Nat) : Keeps [.tsv] s (reissue s c) := (Keeps.refl _ s).setTsvOf (by decide)

/-- What a reissue leaves of the lane state: all but the count of retries. -/
theorem reissue_tsvOf (s : State) (c : Nat) :
    ∃ n, (reissue s c).tsvOf c = { s.tsvOf c with caRetries := n } ∧
      ((s.tsvOf c).ctlCheck = true → (s.tsvOf c).ctlFrom.isSome = true → n = sat (s.tsvOf c).caRetries 1) := by
  rw [reissue, modTsvOf_def, tsvOf_setTsvOf]
  split
  next h => exact ⟨_, rfl, fun _ _ => rfl⟩
  next h => exact ⟨_, rfl, fun h1 h2 => absurd (by rw [h1, h2]; rfl) h⟩

/-- Settles O41. -/
theorem laneSteered : Obligations.LaneSteered := by
  refine ⟨fun s c hp ha hs hh hf hfen hc => ?_, fun s c lane hp ha hl h72 hd hw => ?_⟩
  · refine ⟨fin s (settleChan (steerBegun s c) c), answer_next hp (if_pos (by rw [ha, hs, hh, hf]; rfl)), ?_⟩
    rw [settleChan_steerBegun hfen hc, fin_tsvOf, modChan_def, tsvOf_setChan, steerBegun_tsvOf, fin_chan, chan_setChan,
      steerBegun_chan]
    exact ⟨rfl, rfl, closeRows_banks s c, ((keeps_steerBegun s c).setChan (by decide)).fin⟩
  · subst hl
    have hk := keeps_reissue (steerLane s c (s.tsvOf c).lane) c
    have kf : (reissue (steerLane s c (s.tsvOf c).lane) c).flt = (steerLane s c (s.tsvOf c).lane).flt := hk .flt (by decide)
    obtain ⟨n, ht, -⟩ := reissue_tsvOf (steerLane s c (s.tsvOf c).lane) c
    rw [steerLane_tsvOf h72] at ht
    have hd' : ((reissue (steerLane s c (s.tsvOf c).lane) c).trnOf c).checkDue = false := by
      rw [hk.trnOf_eq (by decide), steerLane_checkDue, hd]
    have hw' : ∀ w ∈ ((reissue (steerLane s c (s.tsvOf c).lane) c).tsvOf c).waits,
        w = .data ((reissue (steerLane s c (s.tsvOf c).lane) c).tsvOf c).lane := by
      rw [ht]
      exact hw
    obtain ⟨hend, hke⟩ := laneEnd_tsvOf hd' hw'
    have kfe : (laneEnd (reissue (steerLane s c (s.tsvOf c).lane) c) c).flt =
        (reissue (steerLane s c (s.tsvOf c).lane) c).flt := hke .flt (by decide)
    refine ⟨fin s (laneEnd (reissue (steerLane s c (s.tsvOf c).lane) c) c), answer_next hp (if_pos ha), ?_⟩
    rw [fin_tsvOf, hend, ht, fin_eccOf, hke.eccOf_eq (by decide), hk.eccOf_eq (by decide), steerLane_due, fin_flt, kfe, kf,
      steerLane_flt]
    exact ⟨rfl, tfind_tput_self _ _ _, stoodIn_spareUsed h72 _, rfl, rfl,
      (laneEnd_of_keeps (((keeps_steerLane s c _).mono (by decide)).trans (hk.mono (by decide))) (by decide) hd' hw').fin⟩

/-! ### The check of the control lanes -/

theorem not_turned_alert {s : State} {c k : Nat} (ha : alertsTaken s c k = true) (hs : surveying s c = false) :
    ¬ (!alertsTaken s c k || surveying s c) = true := by
  rw [ha, hs]
  exact Bool.false_ne_true

/-- The fourth failure of a command noted. -/
def fourthFailed (s : State) (c k cmd : Nat) (place : Word) : State :=
  s.modTsvOf c (fun t => { t with fails := (4, k, cmd), failAt := place })

theorem fourthFailed_tsvOf (s : State) (c k cmd : Nat) (place : Word) :
    (fourthFailed s c k cmd place).tsvOf c = { s.tsvOf c with fails := (4, k, cmd), failAt := place } := by
  rw [fourthFailed, modTsvOf_def, tsvOf_setTsvOf]

/-- A clock alert noted. -/
def clockNoted (s : State) (c k : Nat) : State :=
  s.modTsvOf c (fun t => { t with clkRanks := if t.clkRanks.contains k then t.clkRanks else t.clkRanks ++ [k] })

theorem clockNoted_tsvOf {s : State} {c : Nat} (h : (s.tsvOf c).clkRanks = []) (k : Nat) :
    (clockNoted s c k).tsvOf c = { s.tsvOf c with clkRanks := [k] } := by
  rw [clockNoted, modTsvOf_def, tsvOf_setTsvOf, h]
  rfl

/-- A check of the control lanes that found none. -/
def noLaneNoted (t : Tsv) : Tsv :=
  { t with
    cleared := sat t.cleared 1
    fails := (0, 0, 0)
    noLane := match t.ctlFrom with | some k => tset 0 t.noLane k (tget 0 t.noLane k + 1) | none => t.noLane }

theorem noLaneNoted_noLane {t : Tsv} {k : Nat} (h : t.ctlFrom = some k) :
    tget 0 (noLaneNoted t).noLane k = tget 0 t.noLane k + 1 := by
  unfold noLaneNoted
  simp only [h, tget_tset_self]

/-- The check of a failed command found no lane. -/
def commandFailed (s : State) (c k : Nat) : State :=
  raise ((reissue s c).modTsvOf c noLaneNoted) 0x08 (rankKey c k) (s.tsvOf c).failAt

theorem noLaneFound_of_command {s : State} {c k : Nat} (h : (s.tsvOf c).ctlFrom = some k) :
    noLaneFound s c = commandFailed s c k := by
  unfold noLaneFound
  simp only [h]
  rfl

theorem keeps_commandFailed (s : State) (c k : Nat) : Keeps [.tsv, .flt] s (commandFailed s c k) :=
  Keeps.raise _ _ _ (Keeps.setTsvOf ((keeps_reissue s c).mono (by decide)) (by decide)) (by decide)

theorem commandFailed_tsvOf (s : State) (c k : Nat) :
    (commandFailed s c k).tsvOf c = noLaneNoted ((reissue s c).tsvOf c) := by
  rw [commandFailed, tsvOf_raise, modTsvOf_def, tsvOf_setTsvOf]

theorem commandFailed_flt (s : State) (c k : Nat) : (commandFailed s c k).flt =
    { s.flt with detected := s.flt.detected ++ [{ src := 0x08, inst := rankKey c k, detail := (s.tsvOf c).failAt }] } := by
  rw [commandFailed, raise_flt]
  rfl

/-- Settles O42. -/
theorem controlLanes : Obligations.ControlLanes := by
  refine ⟨fun s c k cmd place hp ha hs hn hf => answer_next hp ?_, fun s c k cmd place hp ha hn hf hfree hd hw => ?_,
    fun s c k hp ha hfree hclk hd hw => ?_, fun s c k hp ha hctl hr hfrom hd hw => ?_,
    fun s c l hp ha hctl hr h72 h85 hg => answer_next hp ?_⟩
  · simp only [if_neg (not_turned_alert ha hs), hf, if_neg (Nat.not_le.mpr hn)]
    rfl
  · have hs := surveying_of_free hfree
    have k' : Keeps [.tsv] s (fourthFailed s c k cmd place) := (Keeps.refl _ s).setTsvOf (by decide)
    have ht := fourthFailed_tsvOf s c k cmd place
    obtain ⟨htsv, -, hst, -, hk⟩ := settleChan_suspect (w := .command k) k' (by rw [ht]) hfree hd (by rw [ht, hw])
    refine ⟨fin s (settleChan (suspect (fourthFailed s c k cmd place) c (.command k)) c), answer_next hp ?_, ?_⟩
    · simp only [if_neg (not_turned_alert ha hs), hf, if_neg (Nat.not_le.mpr hn)]
      rfl
    · rw [fin_tsvOf, htsv, ht, fin_chan, hst]
      exact ⟨rfl, rfl, rfl, rfl, rfl, rfl, (hk nofun).fin⟩
  · have k' : Keeps [.tsv] s (clockNoted s c k) := (Keeps.refl _ s).setTsvOf (by decide)
    have ht := clockNoted_tsvOf hclk k
    obtain ⟨htsv, -, hst, -, hk⟩ := settleChan_suspect (w := .control 84) k' (by rw [ht]) hfree hd (by rw [ht, hw])
    refine ⟨fin s (settleChan (suspect (clockNoted s c k) c (.control 84)) c), answer_next hp ?_, ?_⟩
    · have hs : surveying (clockNoted s c k) c = false :=
        surveying_of_free ((k'.checkFree_eq (by decide) (by rw [ht])).trans hfree)
      have hb : laneBusy (clockNoted s c k) c = false := by
        rw [laneBusy, ht]
        exact laneBusy_of_free hfree
      have hwt : ((clockNoted s c k).tsvOf c).waits = [] := by rw [ht, hw]
      refine (if_neg (by rw [ha]; exact Bool.false_ne_true)).trans (if_neg ?_)
      show ¬ (surveying (clockNoted s c k) c || (laneBusy (clockNoted s c k) c && ((clockNoted s c k).tsvOf c).ctlCheck) ||
        ((clockNoted s c k).tsvOf c).waits.contains (.control 84)) = true
      rw [hs, hb, hwt]
      exact Bool.false_ne_true
    · rw [fin_tsvOf, htsv, ht, fin_chan, hst]
      exact ⟨rfl, rfl, rfl, rfl, rfl, rfl, (hk nofun).fin⟩
  · obtain ⟨n, ht, hn⟩ := reissue_tsvOf s c
    rw [hn hctl (by rw [hfrom]; rfl)] at ht
    have hc := commandFailed_tsvOf s c k
    have hd' : ((commandFailed s c k).trnOf c).checkDue = false := by
      rw [(keeps_commandFailed s c k).trnOf_eq (by decide), hd]
    have hw' : ∀ w ∈ ((commandFailed s c k).tsvOf c).waits, w = .data ((commandFailed s c k).tsvOf c).lane := by
      have hn : ((commandFailed s c k).tsvOf c).waits = [] := by
        rw [hc, ht]
        exact hw
      rw [hn]
      exact nofun
    obtain ⟨hend, hk⟩ := laneEnd_tsvOf hd' hw'
    have kf : (laneEnd (commandFailed s c k) c).flt = (commandFailed s c k).flt := hk .flt (by decide)
    have hnl : tget 0 (noLaneNoted ((reissue s c).tsvOf c)).noLane k = tget 0 ((reissue s c).tsvOf c).noLane k + 1 :=
      noLaneNoted_noLane (by rw [ht]; exact hfrom)
    refine ⟨fin s (laneEnd (commandFailed s c k) c), answer_next hp ?_, ?_⟩
    · rw [if_pos (by rw [ha, hctl, hr]; rfl)]
      exact congrArg (laneEnd · c) (noLaneFound_of_command hfrom)
    · rw [ht] at hc hnl
      rw [fin_tsvOf, hend, hc, fin_flt, kf, commandFailed_flt]
      exact ⟨rfl, rfl, rfl, hnl, rfl,
        (laneEnd_of_keeps ((keeps_commandFailed s c k).mono (by decide)) (by decide) hd' hw').fin⟩
  · have hin : ¬ (decide (l < 72) || decide (85 < l)) = true := by
      rw [decide_eq_false (Nat.not_lt.mpr h72), decide_eq_false (Nat.not_lt.mpr h85)]
      exact Bool.false_ne_true
    refine (if_pos (by rw [ha, hctl, hr]; rfl)).trans ((if_neg hin).trans (if_neg ?_))
    rw [hg]
    exact Bool.false_ne_true

end Sys2Proof.Proofs

/-! Entries that find room in a channel's queues, and Zephyr (R160–R163, R222, R223, R241). -/

namespace Sys2Proof.Safety

open Sys2Proof.Machine

section Zephyr

variable {l : List Part} {s t : State} (h : Keeps l s t)
include h

theorem Keeps.respread {c : Nat} (hl : Part.ecc ∈ l) : Keeps l s (Sys2Proof.Machine.respread t c) := h.setEccOf hl

theorem Keeps.notePassed {c : Nat} (hl : Part.ecc ∈ l) : Keeps l s (Sys2Proof.Machine.notePassed t c) := by
  unfold Sys2Proof.Machine.notePassed
  dsimp only
  generalize (if (t.eccOf c).passOver = true then [] else (walked t c).filter (passOverNow t c)) = new
  split
  · split
    · exact h.respread hl
    · exact h
  · refine Keeps.respread ?_ hl
    split
    · exact h.setEccOf hl
    · split
      · exact (h.setEccOf hl).setEccOf hl
      · exact (h.setEccOf hl).setEccOf hl

theorem Keeps.advanceZ {c n : Nat} (hl : Part.ecc ∈ l) : Keeps l s (Sys2Proof.Machine.advanceZ t c n) := h.setEccOf hl

theorem Keeps.chanOn_eq (hl : Part.doms ∉ l) (c : Nat) : chanOn t c = chanOn s c := by
  rw [chanOn, h.domOn_eq hl, chanOn]

end Zephyr

end Sys2Proof.Safety

namespace Sys2Proof.Proofs

open Sys2Proof.Machine
open Sys2Proof.Safety

/-! ### An entry that finds room -/

/-- The entry as it enters a queue of its channel: its number there, and its age from now. -/
def entered (s : State) (e : Entry) : Entry := { e with id := (s.chan e.loc.ch).nextEntry, since := nowPs s }

theorem admitAux_one {res shared now : Nat} {e : Entry} {q : List Entry} (h : roomFor q res shared e.fixed = true) :
    admitAux res shared now [e] q [] = (q ++ [{ e with since := now }], []) := by
  rw [admitAux, if_pos (by rw [h]; rfl), admitAux]

theorem pushRead_eq {s : State} {e : Entry} (hr : canRead s e.loc.ch e.fixed = true)
    (hb : s.rst.chanBusy.contains e.loc.ch = false) :
    ∃ v : State, pushRead s e = v.setChan e.loc.ch { s.chan e.loc.ch with
      rdq := (s.chan e.loc.ch).rdq ++ [entered s e]
      rdWait := []
      nextEntry := (s.chan e.loc.ch).nextEntry + 1 } ∧ ∀ d, d ≠ e.loc.ch → v.chan d = s.chan d := by
  rw [canRead, Bool.and_eq_true, decide_eq_true_eq] at hr
  obtain ⟨hw, hroom⟩ := hr
  have hn : ¬ (s.rst.chanBusy.contains e.loc.ch) = true := (Bool.not_eq_true _).mpr hb
  refine ⟨s.modChan e.loc.ch (fun c => { c with
    rdWait := c.rdWait ++ [{ e with id := c.nextEntry }], nextEntry := c.nextEntry + 1 }), ?_, fun d hd => ?_⟩
  · refine (if_neg hn).trans ?_
    have hroom' : roomFor (s.chan e.loc.ch).rdq 8 56
        ({ e with id := (s.chan e.loc.ch).nextEntry } : Entry).fixed = true := hroom
    simp only [modChan_def, chan_setChan, hw, List.nil_append, admitAux_one hroom']
    rfl
  · exact chan_setChan_ne _ _ _ _ hd

theorem pushRead_chan {s : State} {e : Entry} (hr : canRead s e.loc.ch e.fixed = true)
    (hb : s.rst.chanBusy.contains e.loc.ch = false) :
    (pushRead s e).chan e.loc.ch = { s.chan e.loc.ch with
      rdq := (s.chan e.loc.ch).rdq ++ [entered s e]
      rdWait := []
      nextEntry := (s.chan e.loc.ch).nextEntry + 1 } := by
  obtain ⟨v, hv, -⟩ := pushRead_eq hr hb
  rw [hv, chan_setChan]

theorem pushRead_chan_ne {s : State} {e : Entry} (hr : canRead s e.loc.ch e.fixed = true)
    (hb : s.rst.chanBusy.contains e.loc.ch = false) {d : Nat} (hd : d ≠ e.loc.ch) :
    (pushRead s e).chan d = s.chan d := by
  obtain ⟨v, hv, hne⟩ := pushRead_eq hr hb
  rw [hv, chan_setChan_ne _ _ _ _ hd, hne d hd]

theorem canRead_of_keeps {l : List Part} {s t : State} (h : Keeps l s t) (hl : Part.chans ∉ l) (c : Nat) (f : Bool) :
    canRead t c f = canRead s c f := by
  rw [canRead, h.chan_eq hl, canRead]

/-! ### Zephyr's next line -/

theorem advanceZ_zDone (s : State) (c n : Nat) : ((advanceZ s c n).eccOf c).zDone = (s.eccOf c).zDone + n := by
  unfold advanceZ
  dsimp only
  rw [eccOf_setEccOf]
  split
  · rfl
  · split <;> rfl

theorem advanceZ_chan (s : State) (c n d : Nat) : (advanceZ s c n).chan d = s.chan d :=
  (Keeps.advanceZ (l := [.ecc]) (Keeps.refl _ s) (by decide)).chan_eq (by decide) d

/-- The line that Zephyr reads next in channel c. -/
def zephyrLine (s : State) (c : Nat) : Loc := locOfIndex c (s.eccOf c).zRank (s.eccOf c).zLine

/-- The entry of Zephyr's read of the line that lies at `x` now. -/
def scrubEntry (s : State) (c : Nat) (x : Loc) : Entry :=
  mkEntry s .scrub false x [x.col] (match dpaOfLoc s routeFuel (zephyrLine s c) with | some x => x / 64 | none => dpaNone)

theorem scrubRead_queues {s : State} {c : Nat} {x : Loc} (hi : locInked s (zephyrLine s c) = true)
    (hr : route s routeFuel (zephyrLine s c) = some x) (hc : canRead s x.ch false = true) :
    scrubRead s c = advanceZ (pushRead s (scrubEntry s c x)) c 1 := by
  have e : locOfIndex c (s.eccOf c).zRank (s.eccOf c).zLine = zephyrLine s c := rfl
  unfold scrubRead
  simp only [e, hi, hr, hc, Bool.not_true, Bool.false_eq_true, if_false, if_true]
  rfl

theorem zephyrRuns_of_keeps {l : List Part} {s t : State} (h : Keeps l s t)
    (hl : ∀ p ∈ [Part.ecc, .doms, .spr, .flt, .rst], p ∉ l) (c : Nat) : zephyrRuns t c = zephyrRuns s c := by
  have hf : t.flt = s.flt := h .flt (hl _ (by decide))
  have hr : t.rst = s.rst := h .rst (hl _ (by decide))
  rw [zephyrRuns, h.eccOf_eq (hl _ (by decide)), h.chanOn_eq (hl _ (by decide)), h.chanFenced_eq (hl _ (by decide)), hf, hr,
    zephyrRuns]

theorem keeps_atPs (s : State) (now : Nat) : Keeps [.clock] s (atPs s now) := (Keeps.refl _ s).atPs now (by decide)

/-- Zephyr's step in a pass that runs, at a time at which it works. -/
theorem exec_zephyrRead {s : State} {c now : Nat} (hp : s.pins.pwrgood = true) (hz : zephyrRuns s c = true)
    (hh : s.pwr.hold = false) (hf : (s.eccOf c).zPlan ≠ (0, 0, 0)) (ho : (s.eccOf c).passOver = false)
    (ho' : ((notePassed (atPs s now) c).eccOf c).passOver = false) (hv : visitNext (notePassed (atPs s now) c) c = false)
    (hpace : paceAllows (notePassed (atPs s now) c) c = true) :
    exec (.zephyrRead ⟨c, now⟩) s = .next (fin s (scrubRead (notePassed (atPs s now) c) c)) := by
  have k := keeps_atPs s now
  have hz' : zephyrRuns (atPs s now) c = true := (zephyrRuns_of_keeps k (by decide) c).trans hz
  have hh' : (atPs s now).pwr.hold = false := by
    have e : (atPs s now).pwr = s.pwr := k .pwr (by decide)
    rw [e, hh]
  have he : (atPs s now).eccOf c = s.eccOf c := k.eccOf_eq (by decide) c
  refine answer_next hp ?_
  generalize atPs s now = u at hz' hh' he ho' hv hpace ⊢
  simp only [hz', hh', he, hf, ho, ho', hv, hpace, decide_false, Bool.not_true, Bool.or_self, Bool.false_and,
    Bool.false_eq_true, if_false]

/-! ### Zephyr's configuration -/

/-- A configuration written. -/
def zConfigured (data : Word) (e : Ecc) : Ecc :=
  { e with
    zephyrEn := data.getLsbD 23
    period := data.extractLsb' 17 6
    periodDeg := data.extractLsb' 11 6
    forceDeg := data.getLsbD 10 }

/-- The configuration written, and the pass respread where it changes. -/
def zephyrConfigured (s : State) (c : Nat) (data : Word) : State :=
  let t := s.modEccOf c (zConfigured data)
  if (zHoursNow t c ≠ (t.eccOf c).zHours || (data.getLsbD 23 && !(s.eccOf c).zephyrEn)) && !(t.eccOf c).passOver then
    respread t c
  else t

theorem zcfgWrite_refused {c : Nat} {data : Word} (h : data.extractLsb' 17 6 = 0 ∨ data.extractLsb' 11 6 = 0) (s : State) :
    zcfgWrite c data s = (.refused, s) := by
  refine if_pos ?_
  rw [Bool.or_eq_true, decide_eq_true_eq, decide_eq_true_eq]
  exact h

theorem zcfgWrite_ok {c : Nat} {data : Word} (hp : data.extractLsb' 17 6 ≠ 0) (hd : data.extractLsb' 11 6 ≠ 0) (s : State) :
    zcfgWrite c data s = (.ok, zephyrConfigured s c data) := by
  refine (if_neg ?_).trans rfl
  rw [decide_eq_false hp, decide_eq_false hd]
  exact Bool.false_ne_true

/-- A respread replaces the channel's plan, its lines done and its hours, nothing else of it. -/
theorem respread_ecc (s : State) (c : Nat) : ∃ plan done hours,
    (respread s c).eccOf c = { s.eccOf c with zPlan := plan, zDone := done, zHours := hours } :=
  ⟨(s.elapsed, linesLeft s c, (s.eccOf c).passStart + zHoursNow s c * hourBeats - s.elapsed), 0, zHoursNow s c, by
    rw [respread, modEccOf_def, eccOf_setEccOf]⟩

/-- What a respread leaves of the channel's configuration and place. -/
theorem zephyrConfigured_ecc (s : State) (c : Nat) (data : Word) : ∃ plan done hours,
    (zephyrConfigured s c data).eccOf c =
      { zConfigured data (s.eccOf c) with zPlan := plan, zDone := done, zHours := hours } := by
  have ht : (s.modEccOf c (zConfigured data)).eccOf c = zConfigured data (s.eccOf c) := by
    rw [modEccOf_def, eccOf_setEccOf]
  unfold zephyrConfigured
  dsimp only
  split
  · obtain ⟨plan, done, hours, h⟩ := respread_ecc (s.modEccOf c (zConfigured data)) c
    exact ⟨plan, done, hours, by rw [h, ht]⟩
  · exact ⟨(s.eccOf c).zPlan, (s.eccOf c).zDone, (s.eccOf c).zHours, by rw [ht]; rfl⟩

theorem keeps_zephyrConfigured (s : State) (c : Nat) (data : Word) : Keeps [.ecc] s (zephyrConfigured s c data) := by
  have k : Keeps [.ecc] s (s.modEccOf c (zConfigured data)) := (Keeps.refl _ s).setEccOf (by decide)
  unfold zephyrConfigured
  dsimp only
  split
  · exact k.respread (by decide)
  · exact k

theorem exec_zephyrConfigWrite {c : Nat} (hc : c < 32) (via : Via) (data : Word) (s : State) :
    exec (.zephyrConfigWrite via c data) s = answer s (mgmtWrite s via (.ecc c) 0 data (zcfgWrite c data)) :=
  congrArg (answer s) (if_pos hc)

theorem respond_eccOf (s : State) (via : Via) (w : Bool) (a : Word) (st : Status) (d : Word) (x : Nat) :
    (respond s via w a st d).eccOf x = s.eccOf x :=
  (Keeps.respond (l := [.ports]) (Keeps.refl _ s) (by decide)).eccOf_eq (by decide) x

/-- Settles O39. -/
theorem zephyrScrubs : Obligations.ZephyrScrubs := by
  refine ⟨fun s u c now l hp hz hh hf ho hu ho' hv hpace hi hr hc hb => ?_, fun s via c data hc h hz => ?_,
    fun s via c data hc h hp hd => ?_⟩
  · subst hu
    have k : Keeps [.clock, .ecc] s (notePassed (atPs s now) c) := ((keeps_atPs s now).mono (by decide)).notePassed (by decide)
    have hx := exec_zephyrRead hp hz hh hf ho ho' hv hpace
    have hrst : (notePassed (atPs s now) c).rst = s.rst := k .rst (by decide)
    have hch := k.chan_eq (by decide) l.ch
    generalize notePassed (atPs s now) c = u at *
    have hb' : u.rst.chanBusy.contains l.ch = false := by rw [hrst, hb]
    have hq := pushRead_chan (s := u) (e := scrubEntry u c l) hc hb'
    rw [scrubRead_queues hi hr hc] at hx
    refine ⟨_, entered u (scrubEntry u c l), hx, ?_, rfl, rfl, rfl, rfl, ?_, ?_⟩
    · rw [fin_chan, advanceZ_chan, ← hch]
      exact congrArg Chan.rdq hq
    · rw [fin_eccOf, advanceZ_zDone, Keeps.eccOf_eq (l := [.chans]) ((Keeps.refl _ u).pushRead (by decide)) (by decide)]
    · exact ((Keeps.pushRead (k.mono (by decide)) (by decide)).advanceZ (by decide)).fin
  · exact (exec_zephyrConfigWrite hc via data s).trans (answer_mgmtWrite h (zcfgWrite_refused hz s))
  · obtain ⟨plan, done, hours, he⟩ := zephyrConfigured_ecc s c data
    refine ⟨_, (exec_zephyrConfigWrite hc via data s).trans (answer_mgmtWrite h (zcfgWrite_ok hp hd s)), ?_⟩
    rw [fin_eccOf, respond_eccOf, he]
    exact ⟨rfl, rfl, rfl, rfl, rfl, rfl, rfl,
      (((keeps_zephyrConfigured s c data).mono (by decide)).respond (by decide)).fin⟩

end Sys2Proof.Proofs

/-! What the shared operations leave alone: channels that settle, tests that are aborted, and Fatal (R341–R343, R404). -/

namespace Sys2Proof.Proofs

open Sys2Proof.Machine

/-- A job that waits for the fuses is dropped: a commit point ends its channel's busy time. -/
def commitDropped (s : State) (j : FuseJob) : State :=
  match j with
  | .commit c => s.modEccOf c (fun e => { e with busy := false })
  | _ => s

/-- The operation under way stops, after its pulse where one is due. -/
def haltOp (s : State) : State :=
  match s.fus.op with
  | none => s
  | some o =>
    if o.live && o.bits ≠ [] then s.modFus (fun f => { f with op := some { o with stopping := true } })
    else stopOp s

theorem haltFuses_eq (s : State) :
    haltFuses s = haltOp ((s.fus.queue.foldl commitDropped s).modFus (fun f => { f with queue := [] })) := rfl

/-- Requests, fills and the dump that Fatal drops. -/
def workDropped (s : State) : State :=
  { s with
    reqs := []
    filling := []
    tel := { s.tel with stopped := true, busy := false, recLines := [] } }

/-- Fatal, before the channels, the fuses and the engines are halted. -/
def stackStopped (s : State) (gale : Bool) : State :=
  workDropped (abortImage (portsDown { s with flt := { s.flt with fatal := true, gale := gale } } gale) 23)

theorem enterFatal_of_running {s : State} (h : s.flt.fatal = false) (gale : Bool) : enterFatal s gale =
    stopEngines (haltFuses (foldS (List.range 32) (fatalChan gale) (stackStopped s gale))) := by
  rw [enterFatal, if_neg (Bool.eq_false_iff.mp h)]
  rfl

end Sys2Proof.Proofs

namespace Sys2Proof.Safety

open Sys2Proof.Machine

section Fields

variable {l : List Part} {s t : State} (h : Keeps l s t)
include h

theorem Keeps.setSec {v : Sec} (hl : Part.sec ∈ l) : Keeps l s { t with sec := v } := fun p hp => by
  cases p with
  | sec => exact absurd hl hp
  | _ => exact h _ hp

theorem Keeps.setPwr {v : Pwr} (hl : Part.pwr ∈ l) : Keeps l s { t with pwr := v } := fun p hp => by
  cases p with
  | pwr => exact absurd hl hp
  | _ => exact h _ hp

theorem Keeps.setHkp {v : Hkp} (hl : Part.hkp ∈ l) : Keeps l s { t with hkp := v } := fun p hp => by
  cases p with
  | hkp => exact absurd hl hp
  | _ => exact h _ hp

theorem Keeps.setFus {v : Fus} (hl : Part.fus ∈ l) : Keeps l s { t with fus := v } := fun p hp => by
  cases p with
  | fus => exact absurd hl hp
  | _ => exact h _ hp

theorem Keeps.setTel {v : Tel} (hl : Part.tel ∈ l) : Keeps l s { t with tel := v } := fun p hp => by
  cases p with
  | tel => exact absurd hl hp
  | _ => exact h _ hp

theorem Keeps.setImg {v : Img} (hl : Part.img ∈ l) : Keeps l s { t with img := v } := fun p hp => by
  cases p with
  | img => exact absurd hl hp
  | _ => exact h _ hp

theorem Keeps.setMig {v : Mig} (hl : Part.mig ∈ l) : Keeps l s { t with mig := v } := fun p hp => by
  cases p with
  | mig => exact absurd hl hp
  | _ => exact h _ hp

theorem Keeps.setFreeIdx {v : Nat} (hl : Part.freeIdx ∈ l) : Keeps l s { t with freeIdx := v } := fun p hp => by
  cases p with
  | freeIdx => exact absurd hl hp
  | _ => exact h _ hp

theorem Keeps.setFilling {v : List (Nat × Nat)} (hl : Part.filling ∈ l) : Keeps l s { t with filling := v } := fun p hp => by
  cases p with
  | filling => exact absurd hl hp
  | _ => exact h _ hp

theorem Keeps.setHeldAcc {v : List HeldAcc} (hl : Part.heldAcc ∈ l) : Keeps l s { t with heldAcc := v } := fun p hp => by
  cases p with
  | heldAcc => exact absurd hl hp
  | _ => exact h _ hp
end Fields

/-! ### A channel that settles -/

section Settling

variable {l : List Part} {s t : State} (h : Keeps l s t)
include h

/-- The parts that a channel which settles touches. -/
def settleParts : List Part := [.chans, .trn, .tsv, .flowRt]

theorem Keeps.startCheckOf {c : Nat} {w : CheckWait} (hl : settleParts ⊆ l) :
    Keeps l s (Sys2Proof.Machine.startCheckOf t c w) := by
  have k := h.spoilChan (c := c) (hl (by decide))
  cases w with
  | data _ => exact (k.setTrnOf (hl (by decide))).setTsvOf (hl (by decide))
  | command _ => exact k.setTsvOf (hl (by decide))
  | control _ => exact k.setTsvOf (hl (by decide))

theorem Keeps.startWaiting {c : Nat} (hl : settleParts ⊆ l) : Keeps l s (Sys2Proof.Machine.startWaiting t c) := by
  unfold Sys2Proof.Machine.startWaiting
  split
  · exact h
  split
  · exact (h.setTrnOf (hl (by decide))).spoilChan (hl (by decide))
  split
  · exact h
  · exact (h.setTsvOf (hl (by decide))).startCheckOf hl

theorem Keeps.settleChan {c : Nat} (hl : settleParts ⊆ l) : Keeps l s (Sys2Proof.Machine.settleChan t c) :=
  (h.startWaiting hl).setChan (hl (by decide))

theorem Keeps.requestPoint {c : Nat} {p : BitVec 2} {src : BitVec 3} (hl : Part.chans ∈ l) :
    Keeps l s (Sys2Proof.Machine.requestPoint t c p src) := by
  unfold Sys2Proof.Machine.requestPoint
  split
  · exact h
  · exact (h.setChan hl).settlePoint hl

theorem Keeps.setSr {c k : Nat} {v : Bool} (hc : Part.chans ∈ l) (hr : Part.rfr ∈ l) :
    Keeps l s (Sys2Proof.Machine.setSr t c k v) := by
  unfold Sys2Proof.Machine.setSr
  dsimp only
  split
  · exact (h.closeBanks hc).setRfrOf hr
  split
  · exact (h.setChan hc).setRfrOf hr
  · exact h

theorem Keeps.sleepRanks {c : Nat} (hl : Part.rfr ∈ l) : Keeps l s (Sys2Proof.Machine.sleepRanks t c) := h.setRfrOf hl

theorem Keeps.dropIf {sel : LbLine → Bool} {c : Nat} (hl : Part.chans ∈ l) :
    Keeps l s (Sys2Proof.Machine.dropIf sel t c) := h.setChan hl

theorem Keeps.loseRank {c k : Nat} (hf : Part.freeIdx ∈ l) (hm : Part.mem ∈ l) :
    Keeps l s (Sys2Proof.Machine.loseRank t c k) := (h.setFreeIdx hf).setRmem hm

/-- The parts that a channel reset touches. -/
def chanResetParts : List Part := .reqs :: .rst :: .rfr :: settleParts

theorem Keeps.channelReset {c : Nat} (hl : chanResetParts ⊆ l) : Keeps l s (Sys2Proof.Machine.channelReset t c) := by
  have hs : settleParts ⊆ l := fun _ hp => hl (List.mem_of_mem_drop (i := 3) hp)
  refine Keeps.settleChan (Keeps.sleepRanks (Keeps.setRst (Keeps.setRfrOf (Keeps.setChan (Keeps.foldS (fun _ _ k => ?_) _
    (h.setReqs (hl (by decide)))) (hs (by decide))) (hl (by decide))) (hl (by decide))) (hl (by decide))) hs
  exact k.setChan (hs (by decide))

end Settling

/-! ### Tests that end or are aborted -/

section Tests

variable {l : List Part} {s t : State} (h : Keeps l s t)
include h

/-- The parts that the end of a test touches. -/
def testParts : List Part :=
  [.rst, .reqs, .chans, .rfr, .trn, .tsv, .flowRt, .flw, .sec, .bst, .bstNext, .ecc, .mem, .freeIdx, .mer, .ports, .paths,
    .heldAcc, .flt, .queues]

theorem Keeps.restore {c u i : Nat} (hl : testParts ⊆ l) : Keeps l s (Sys2Proof.Machine.restore t c u i) := by
  unfold Sys2Proof.Machine.restore
  split
  · exact h.channelReset (List.Subset.trans (by decide) hl)
  · exact Keeps.setPort (h.trans (Proofs.keeps_portReset.mono (List.Subset.trans (by decide) hl))) (hl (by decide))
  · split
    · split
      · exact h.setSec (hl (by decide))
      · exact h
    · exact h.setSec (hl (by decide))
  · exact Keeps.foldS (fun _ _ k => k.dropIf (hl (by decide))) _ h
  · exact h

theorem Keeps.startupNext' (hl : testParts ⊆ l) : Keeps l s (Sys2Proof.Machine.startupNext t) :=
  h.startupNext (hl (by decide)) (hl (by decide)) (hl (by decide)) (hl (by decide))

theorem Keeps.bistFree {c : Nat} (hl : testParts ⊆ l) : Keeps l s (Sys2Proof.Machine.bistFree t c) := by
  have k := h.setBstOf (i := c) (v := { t.bstOf c with st := .done }) (hl (by decide))
  have hs : settleParts ⊆ l := List.Subset.trans (by decide) hl
  refine Keeps.startupNext' ?_ hl
  split
  · split
    · exact k.restore hl
    · exact k
  · refine Keeps.settleChan (Keeps.requestPoint ?_ (hl (by decide))) hs
    split
    · exact k.setSr (hl (by decide)) (hl (by decide))
    · exact k

theorem Keeps.bistRefill {c : Nat} (hl : testParts ⊆ l) : Keeps l s (Sys2Proof.Machine.bistRefill t c) := by
  unfold Sys2Proof.Machine.bistRefill
  dsimp only
  split
  · exact (h.setRst (hl (by decide))).bistFree hl
  · exact h.setBstOf (hl (by decide))

theorem Keeps.bistAbortOne {c : Nat} (hl : testParts ⊆ l) : Keeps l s (Sys2Proof.Machine.bistAbortOne t c) := by
  unfold Sys2Proof.Machine.bistAbortOne
  dsimp only
  split
  · exact h
  split
  · exact ((h.loseRank (hl (by decide)) (hl (by decide))).setBstOf (hl (by decide))).bistRefill hl
  split
  · exact (h.setBstOf (hl (by decide))).startupNext' hl
  · exact (h.setBstOf (hl (by decide))).bistFree hl

theorem Keeps.bistAbortAll {sel : Bst → Bool} (hl : testParts ⊆ l) :
    Keeps l s (Sys2Proof.Machine.bistAbortAll t sel) := by
  refine Keeps.foldS (fun u i k => ?_) _ h
  split
  · exact k.bistAbortOne hl
  · exact k

end Tests

/-! ### Fatal -/

section Fatal

variable {l : List Part} {s t : State} (h : Keeps l s t)
include h

theorem Keeps.portsDown {g : Bool} (hl : Proofs.portDownParts ⊆ l) : Keeps l s (Sys2Proof.Machine.portsDown t g) :=
  (Keeps.foldS (fun _ _ k => (Proofs.keeps_portDown k hl).setPort (hl (by decide))) _
    (Keeps.foldS (fun _ _ k => k.setPort (hl (by decide))) _ h)).setReqs (hl (by decide))

theorem Keeps.abortImage {r : BitVec 5} (hl : Part.img ∈ l) : Keeps l s (Sys2Proof.Machine.abortImage t r) := by
  unfold Sys2Proof.Machine.abortImage
  split
  · exact h
  · exact h.setImg hl

theorem Keeps.refuseCommits (hf : Part.fus ∈ l) (he : Part.ecc ∈ l) : Keeps l s (Sys2Proof.Machine.refuseCommits t) := by
  refine Keeps.setFus (Keeps.foldl (fun _ j k => ?_) _ h) hf
  cases j with
  | commit c => exact k.setEccOf he
  | _ => exact k

theorem Keeps.lcFollow (hf : Part.fus ∈ l) (he : Part.ecc ∈ l) (hs : Part.sec ∈ l) :
    Keeps l s (Sys2Proof.Machine.lcFollow t) := by
  unfold Sys2Proof.Machine.lcFollow
  dsimp only
  split
  · exact ((h.setSec hs).setSec hs).refuseCommits hf he
  · exact h.setSec hs

theorem Keeps.clearOp (hf : Part.fus ∈ l) : Keeps l s (Sys2Proof.Machine.clearOp t) := h.setFus hf

theorem Keeps.stopOp (hf : Part.fus ∈ l) (he : Part.ecc ∈ l) (hs : Part.sec ∈ l) :
    Keeps l s (Sys2Proof.Machine.stopOp t) := by
  unfold Sys2Proof.Machine.stopOp
  split
  · exact h
  next o _ =>
    cases o.job with
    | commit c => exact Keeps.setFus (((h.setEccOf he).lcFollow hf he hs).clearOp hf) hf
    | _ => exact Keeps.setFus ((h.lcFollow hf he hs).clearOp hf) hf

theorem Keeps.commitDropped {j : FuseJob} (he : Part.ecc ∈ l) : Keeps l s (Proofs.commitDropped t j) := by
  cases j with
  | commit c => exact h.setEccOf he
  | _ => exact h

theorem Keeps.haltOp (hf : Part.fus ∈ l) (he : Part.ecc ∈ l) (hs : Part.sec ∈ l) : Keeps l s (Proofs.haltOp t) := by
  unfold Proofs.haltOp
  split
  · exact h
  split
  · exact h.setFus hf
  · exact h.stopOp hf he hs

theorem Keeps.haltFuses (hf : Part.fus ∈ l) (he : Part.ecc ∈ l) (hs : Part.sec ∈ l) :
    Keeps l s (Sys2Proof.Machine.haltFuses t) :=
  Keeps.haltOp (Keeps.setFus (Keeps.foldl (fun _ _ k => k.commitDropped he) _ h) hf) hf he hs

theorem Keeps.fatalChan {g : Bool} {c : Nat} (hc : Part.chans ∈ l) (hr : Part.rfr ∈ l) :
    Keeps l s (Sys2Proof.Machine.fatalChan g t c) := by
  unfold Sys2Proof.Machine.fatalChan
  dsimp only
  split
  · exact h.setChan hc
  · exact ((h.setChan hc).closeBanks hc).sleepRanks hr

theorem Keeps.stopEngines (hl : Part.pool ∈ l) : Keeps l s (Sys2Proof.Machine.stopEngines t) := by
  refine Keeps.foldS (fun u i k => ?_) _ h
  split
  · exact k.putHead hl
  · exact k

/-- The parts that Fatal touches. -/
def fatalParts : List Part := [.ports, .paths, .heldAcc, .reqs, .flw, .flt, .queues, .img, .filling, .tel, .chans, .rfr,
  .fus, .ecc, .sec, .pool]

theorem Keeps.workDropped (hl : fatalParts ⊆ l) : Keeps l s (Proofs.workDropped t) := fun p hp => by
  cases p with
  | reqs | filling | tel => exact absurd (hl (by decide)) hp
  | _ => exact h _ hp

theorem Keeps.stackStopped {g : Bool} (hl : fatalParts ⊆ l) : Keeps l s (Proofs.stackStopped t g) :=
  Keeps.workDropped (Keeps.abortImage (Keeps.portsDown (h.setFlt (hl (by decide))) (List.Subset.trans (by decide) hl))
    (hl (by decide))) hl

theorem Keeps.enterFatal {g : Bool} (hl : fatalParts ⊆ l) : Keeps l s (Sys2Proof.Machine.enterFatal t g) := by
  unfold Sys2Proof.Machine.enterFatal
  split
  · split
    · exact (h.setFlt (hl (by decide))).portsDown (List.Subset.trans (by decide) hl)
    · exact h
  · exact Keeps.stopEngines (Keeps.haltFuses (Keeps.foldS (fun _ _ k => k.fatalChan (hl (by decide)) (hl (by decide))) _
      (h.stackStopped hl)) (hl (by decide)) (hl (by decide)) (hl (by decide))) (hl (by decide))

end Fatal

end Sys2Proof.Safety

/-! Housekeeping: conversions, the end of a round, and the fabric manager's cap (R365–R370, R374, R387). -/

namespace Sys2Proof.Proofs

open Sys2Proof.Machine

/-- A tier takes its two readings; one that is missing is raised. -/
def tierSensed (s : State) (t : Nat) (a b : Option Int) : State :=
  let s := s.modTier t (fun x => { x with sensAOk := a.isSome, sensBOk := b.isSome, tempA := a, tempB := b })
  if a.isSome && b.isSome then s else raise s 0x10 t

/-- A tier takes its band from its readings. -/
def tierBanded (s : State) (t : Nat) (hold : Bool) : State :=
  match (s.tier t).temp with
  | none => setBand (s.modTier t (fun x => { x with forced := true })) t .b4
  | some v =>
    let s := s.modTier t (fun x => { x with
      forced := hold
      peak := match x.peak with | some p => some (max p v) | none => some v })
    let s := setHot s t v
    if hold then setBand s t .b4 else setBand s t ((s.tier t).band.next v)

/-- The crown's readings of a round. -/
def crownTaken (s : State) : State :=
  let top := maxTemp (crownReadings s)
  { s with pwr := { s.pwr with
    crownMax := top
    crownHot := match top with | some v => decide (1600 < v) | none => true
    peak := maxTemp [s.pwr.peak, top] } }

/-- The thermal limit goes one step down, above the floor. -/
def limitLowered (s : State) (fl lt : Nat) : State :=
  if fl < lt then
    perf (raise { s with pwr := { s.pwr with
      ltherm := BitVec.ofNat 5 (lt - 1)
      stepsDown := sat s.pwr.stepsDown 1 } } 0x29 0) 0x581 0 1
  else s

/-- The thermal limit after a cool round: one step up after eight in a row, up to the sheet's limit. -/
def limitRaised (s : State) (lt : Nat) : State :=
  if s.pwr.cool.toNat < 7 then { s with pwr := { s.pwr with cool := s.pwr.cool + 1 } }
  else if lt < s.tables.limit.toNat then
    { s with pwr := { s.pwr with
      cool := 0
      ltherm := BitVec.ofNat 5 (lt + 1)
      stepsUp := sat s.pwr.stepsUp 1 } }
  else { s with pwr := { s.pwr with cool := 0 } }

/-- What a round does to the thermal limit. -/
def limitStepped (s : State) (crown : List (Option Int)) (fl lt : Nat) (hot : Bool) : State :=
  if s.hkp.fenced then { s with pwr := { s.pwr with ltherm := BitVec.ofNat 5 fl, cool := 0 } }
  else if hot || tierHot s then limitLowered { s with pwr := { s.pwr with cool := 0 } } fl lt
  else if crown.all (fun x => match x with | some v => decide (v ≤ 1552) | none => false) then limitRaised s lt
  else { s with pwr := { s.pwr with cool := 0 } }

theorem thermStep_eq (s : State) : thermStep s = limitStepped (crownTaken s) (crownReadings s) (floorNow s)
    s.pwr.ltherm.toNat (crownTaken s).pwr.crownHot := rfl

theorem publishTier_eq (s : State) (t : Nat) (a b : Option Int) (hold : Bool) :
    publishTier s t a b hold = tierBanded (tierSensed s t a b) t hold := rfl

end Sys2Proof.Proofs

namespace Sys2Proof.Safety

open Sys2Proof.Machine

section Rounds

variable {l : List Part} {s t : State} (h : Keeps l s t)
include h

theorem Keeps.setPins {v : Pins} (hl : Part.pins ∈ l) : Keeps l s { t with pins := v } := fun p hp => by
  cases p with
  | pins => exact absurd hl hp
  | _ => exact h _ hp

theorem Keeps.catchupEnter {i : Nat} (hl : Part.tiers ∈ l) : Keeps l s (Sys2Proof.Machine.catchupEnter t i) := by
  unfold Sys2Proof.Machine.catchupEnter
  split
  · exact h
  · exact (h.setTier hl).catchupExit hl

theorem Keeps.setBand {i : Nat} {b : Band} (ht : Part.tiers ∈ l) (hf : Part.flw ∈ l) :
    Keeps l s (Sys2Proof.Machine.setBand t i b) := by
  unfold Sys2Proof.Machine.setBand
  dsimp only
  split
  · exact h
  split
  · exact (((h.setTier ht).budgetDue hf).setTier ht).catchupEnter ht
  · exact (h.setTier ht).budgetDue hf

theorem Keeps.setHot {i : Nat} {v : Int} (ht : Part.tiers ∈ l) (hf : Part.flt ∈ l) :
    Keeps l s (Sys2Proof.Machine.setHot t i v) := by
  unfold Sys2Proof.Machine.setHot
  dsimp only
  split
  · exact (h.setTier ht).raise _ _ _ hf
  split
  · exact h.setTier ht
  · exact h

theorem Keeps.tierSensed {i : Nat} {a b : Option Int} (ht : Part.tiers ∈ l) (hf : Part.flt ∈ l) :
    Keeps l s (Proofs.tierSensed t i a b) := by
  unfold Proofs.tierSensed
  dsimp only
  split
  · exact h.setTier ht
  · exact (h.setTier ht).raise _ _ _ hf

theorem Keeps.tierBanded {i : Nat} {v : Bool} (ht : Part.tiers ∈ l) (hw : Part.flw ∈ l) (hf : Part.flt ∈ l) :
    Keeps l s (Proofs.tierBanded t i v) := by
  unfold Proofs.tierBanded
  split
  · exact (h.setTier ht).setBand ht hw
  · dsimp only
    split
    · exact ((h.setTier ht).setHot ht hf).setBand ht hw
    · exact ((h.setTier ht).setHot ht hf).setBand ht hw

theorem Keeps.publishTier {i : Nat} {a b : Option Int} {v : Bool} (ht : Part.tiers ∈ l) (hw : Part.flw ∈ l)
    (hf : Part.flt ∈ l) : Keeps l s (Sys2Proof.Machine.publishTier t i a b v) :=
  (h.tierSensed ht hf).tierBanded ht hw hf

theorem Keeps.publishDrift {c : Nat} (hl : Part.trn ∈ l) : Keeps l s (Sys2Proof.Machine.publishDrift t c) := by
  unfold Sys2Proof.Machine.publishDrift
  dsimp only
  split
  · exact ((h.setTrnOf hl).setTrnOf hl).setTrnOf hl
  · exact (h.setTrnOf hl).setTrnOf hl

theorem Keeps.publishPower (hp : Part.pwr ∈ l) (hf : Part.flt ∈ l) : Keeps l s (Sys2Proof.Machine.publishPower t) := by
  unfold Sys2Proof.Machine.publishPower
  dsimp only
  split
  · exact (h.setPwr hp).setPwr hp
  split
  · exact ((h.setPwr hp).setPwr hp).raise _ _ _ hf
  · exact (h.setPwr hp).setPwr hp

theorem Keeps.recomputePower (hp : Part.pwr ∈ l) (hf : Part.flw ∈ l) : Keeps l s (Sys2Proof.Machine.recomputePower t) :=
  (h.setPwr hp).budgetDue hf

theorem Keeps.limitLowered {fl lt : Nat} (hp : Part.pwr ∈ l) (hf : Part.flt ∈ l) (ht : Part.tel ∈ l) :
    Keeps l s (Proofs.limitLowered t fl lt) := by
  unfold Proofs.limitLowered
  split
  · exact ((h.setPwr hp).raise _ _ _ hf).perf _ _ _ ht
  · exact h

theorem Keeps.limitRaised {lt : Nat} (hp : Part.pwr ∈ l) : Keeps l s (Proofs.limitRaised t lt) := by
  unfold Proofs.limitRaised
  split
  · exact h.setPwr hp
  split
  · exact h.setPwr hp
  · exact h.setPwr hp

theorem Keeps.limitStepped {crown : List (Option Int)} {fl lt : Nat} {hot : Bool} (hp : Part.pwr ∈ l) (hf : Part.flt ∈ l)
    (ht : Part.tel ∈ l) : Keeps l s (Proofs.limitStepped t crown fl lt hot) := by
  unfold Proofs.limitStepped
  split
  · exact h.setPwr hp
  split
  · exact (h.setPwr hp).limitLowered hp hf ht
  split
  · exact h.limitRaised hp
  · exact h.setPwr hp

theorem Keeps.thermStep (hp : Part.pwr ∈ l) (hf : Part.flt ∈ l) (ht : Part.tel ∈ l) :
    Keeps l s (Sys2Proof.Machine.thermStep t) :=
  Keeps.limitStepped (Keeps.setPwr h hp) hp hf ht

/-- The parts that a round's end touches, beside the converter's own. -/
def roundParts : List Part := .pins :: .pwr :: .tiers :: testParts ++ fatalParts

theorem Keeps.declareGale {k : Bool} {i : Nat} {v : Int} (hl : roundParts ⊆ l) :
    Keeps l s (Sys2Proof.Machine.declareGale t k i v) :=
  (((h.setPwr (hl (by decide))).setPins (hl (by decide))).raise _ _ _ (hl (by decide))).enterFatal
    (List.Subset.trans (by decide) hl)

end Rounds

end Sys2Proof.Safety

namespace Sys2Proof.Proofs

open Sys2Proof.Machine
open Sys2Proof.Safety

/-! ### Conversions -/

/-- The converter after a conversion of the present channel i. -/
def converted (h : Hkp) (i : Nat) (code : Word) (value : Int) : Hkp :=
  { h with
    slot := h.slot + 1
    now := tset {} h.now i { code := code, value := value, atEnd := code = 0 || code = 0xFFFFFF } }

/-- The state after the conversion of a channel whose tier is not in reset. -/
def conversionDone (s : State) (i : Nat) (code : Word) (value : Int) : State :=
  let t := { s with hkp := converted s.hkp i code value }
  if i = 90 && !refPasses t.hkp.now then raise t 0x26 0 else t

theorem exec_conversion {s : State} {code : Word} {value : Int} (hi : s.hkp.slot.toNat < 96)
    (hc : convPresent s s.hkp.slot.toNat = true) (hk : convKept s s.hkp.slot.toNat = false) :
    exec (.housekeepingConversion code value) s = answer s (conversionDone s s.hkp.slot.toNat code value) := by
  show execHousekeepingConversion code value s = _
  simp only [execHousekeepingConversion, if_neg (Nat.not_le_of_lt hi), hc, hk, conversionDone, converted, if_true, if_false,
    Bool.false_eq_true]
  rfl

theorem conversionDone_of_ne {s : State} {i : Nat} (h : i ≠ 90) (code : Word) (value : Int) :
    conversionDone s i code value = { s with hkp := converted s.hkp i code value } := by
  refine if_neg ?_
  rw [decide_eq_false h]
  exact Bool.false_ne_true

theorem conversionDone_hkp (s : State) (i : Nat) (code : Word) (value : Int) :
    (conversionDone s i code value).hkp = converted s.hkp i code value := by
  unfold conversionDone
  dsimp only
  split <;> rfl

theorem conversionDone_detected (s : State) (code : Word) (value : Int) :
    (conversionDone s 90 code value).flt.detected = s.flt.detected ++
      (if refPasses (converted s.hkp 90 code value).now then [] else [{ src := 0x26, inst := 0, detail := 0 }]) := by
  unfold conversionDone
  dsimp only
  cases refPasses (converted s.hkp 90 code value).now with
  | true => exact (List.append_nil _).symm
  | false => rfl

/-! ### The end of a round -/

/-- The converter after a round. -/
def roundOver (h : Hkp) : Hkp :=
  { h with
    slot := 0
    refOk := refPasses h.now
    lastOk := refPasses h.now
    rounds := h.rounds + 1
    last := h.now
    now := [] }

/-- The rails and the power of a round that passed its check. -/
def railsJudged (s : State) (ok : Bool) : State :=
  if ok && rails.any (railOut s.hkp.last) then raise s 0x25 0 else s

def powerPublished (s : State) (ok : Bool) : State := if ok then publishPower s else s

def crownJudged (s : State) : State := if (crownReadings s).any (·.isNone) then raise s 0x2A 0 else s

/-- Everything that follows the temperatures of a round: the limit, the tests whose rails went out, and Gale. -/
def roundJudged (s : State) (ok : Bool) : State :=
  let s := recomputePower (thermStep s)
  if ok then bistAbortAll s (fun b => b.busy && !railGood s b.kind.toNat) else s

def galeJudged (s : State) : State :=
  if s.flt.gale then s
  else match galeReading s with
    | some (k, i, v) => declareGale s k i v
    | none => s

/-- A round published: its rails, its power, the tiers, the channels' drift and the thermal limit. -/
def roundPublished (s : State) (ok : Bool) : State :=
  galeJudged (roundJudged (foldS (List.range 32) publishDrift (publishTiers (crownJudged (powerPublished
    (railsJudged s ok) ok)))) ok)

theorem exec_roundEnd {s : State} (h : s.hkp.slot = 96) : exec .housekeepingRoundEnd s =
    answer s (roundPublished { s with hkp := roundOver s.hkp } (refPasses s.hkp.now)) := by
  refine congrArg (answer s) ((if_neg ?_).trans rfl)
  rw [h]
  decide

end Sys2Proof.Proofs

namespace Sys2Proof.Safety

open Sys2Proof.Machine

section RoundEnd

variable {l : List Part} {s t : State} (h : Keeps l s t)
include h

theorem Keeps.roundJudged {ok : Bool} (hl : roundParts ⊆ l) : Keeps l s (Proofs.roundJudged t ok) := by
  have k := (h.thermStep (hl (by decide)) (hl (by decide)) (hl (by decide))).recomputePower (hl (by decide)) (hl (by decide))
  unfold Proofs.roundJudged
  dsimp only
  split
  · exact k.bistAbortAll (List.Subset.trans (by decide) hl)
  · exact k

theorem Keeps.galeJudged (hl : roundParts ⊆ l) : Keeps l s (Proofs.galeJudged t) := by
  unfold Proofs.galeJudged
  split
  · exact h
  split
  · exact h.declareGale hl
  · exact h

theorem Keeps.readingsJudged {ok : Bool} (hl : roundParts ⊆ l) :
    Keeps l s (Proofs.crownJudged (Proofs.powerPublished (Proofs.railsJudged t ok) ok)) := by
  have k : Keeps l s (Proofs.railsJudged t ok) := by
    unfold Proofs.railsJudged
    split
    · exact h.raise _ _ _ (hl (by decide))
    · exact h
  have kp : Keeps l s (Proofs.powerPublished (Proofs.railsJudged t ok) ok) := by
    unfold Proofs.powerPublished
    split
    · exact k.publishPower (hl (by decide)) (hl (by decide))
    · exact k
  unfold Proofs.crownJudged
  split
  · exact kp.raise _ _ _ (hl (by decide))
  · exact kp

theorem Keeps.roundPublished {ok : Bool} (hl : roundParts ⊆ l) : Keeps l s (Proofs.roundPublished t ok) :=
  Keeps.galeJudged (Keeps.roundJudged (Keeps.foldS (fun _ _ k => k.publishDrift (hl (by decide))) _
    (Keeps.foldS (fun _ _ k => k.publishTier (hl (by decide)) (hl (by decide)) (hl (by decide))) _
      (h.readingsJudged hl))) hl) hl

end RoundEnd

end Sys2Proof.Safety

namespace Sys2Proof.Proofs

open Sys2Proof.Machine
open Sys2Proof.Safety

/-- Nothing of a round's end but its first step sets the converter. -/
theorem roundPublished_hkp (s : State) (ok : Bool) : (roundPublished s ok).hkp = s.hkp :=
  (Keeps.roundPublished (l := roundParts) (Keeps.refl _ s) (List.Subset.refl _)) .hkp (by decide)

@[simp] theorem fin_hkp (s t : State) : (fin s t).hkp = t.hkp := rfl

/-! ### The cap -/

theorem powerCapWrite_ok {data : Word} {s : State} (h : 8 ≤ (data.extractLsb' 19 5).toNat)
    (hl : (data.extractLsb' 19 5).toNat ≤ s.tables.limit.toNat) :
    powerCapWrite data s = (.ok, { s with pwr := { s.pwr with limFm := data.extractLsb' 19 5 } }) := by
  refine if_neg ?_
  rw [Bool.or_eq_true, decide_eq_true_eq, decide_eq_true_eq]
  omega

theorem powerCapWrite_refused {data : Word} {s : State} (h : (data.extractLsb' 19 5).toNat < 8 ∨
    s.tables.limit.toNat < (data.extractLsb' 19 5).toNat) : powerCapWrite data s = (.refused, s) := by
  refine if_pos ?_
  rw [Bool.or_eq_true, decide_eq_true_eq, decide_eq_true_eq]
  exact h.symm

/-- Settles O46. -/
theorem housekeepingRounds : Obligations.HousekeepingRounds := by
  refine ⟨fun s code value hp hi hc hk hn => ?_, fun s code value hp hi => ?_, fun s hp hi => ?_,
    fun s via data h hlo hhi => ?_, fun s via data h hb => ?_⟩
  · have h90 : s.hkp.slot.toNat ≠ 90 := fun e => hn (BitVec.eq_of_toNat_eq e)
    exact (exec_conversion hi hc hk).trans (answer_next hp (conversionDone_of_ne h90 code value))
  · have hi' : s.hkp.slot.toNat = 90 := congrArg BitVec.toNat hi
    have hx := exec_conversion (s := s) (code := code) (value := value) (by omega) (by rw [hi']; rfl) (by rw [hi']; rfl)
    rw [hi'] at hx
    refine ⟨_, hx.trans (answer_next hp rfl), ?_⟩
    have hc : converted s.hkp 90 code value = { s.hkp with
        slot := 91
        now := tset {} s.hkp.now 90 { code := code, value := value, atEnd := code = 0 || code = 0xFFFFFF } } := by
      rw [converted, hi]
      rfl
    rw [fin_hkp, conversionDone_hkp, fin_flt, conversionDone_detected]
    exact ⟨hc, rfl⟩
  · refine ⟨_, (exec_roundEnd hi).trans (answer_next hp rfl), ?_⟩
    rw [fin_hkp, roundPublished_hkp]
    rfl
  · exact answer_mgmtWrite h (powerCapWrite_ok hlo hhi)
  · exact answer_mgmtWrite h (powerCapWrite_refused hb)

end Sys2Proof.Proofs

/-! Power domains: a park ends the logic tests of its unit (R359, R401). -/

namespace Sys2Proof.Proofs

open Sys2Proof.Machine
open Sys2Proof.Safety

/-- A stack in service with a logic test of engine 0 under way, asked by port 0 to park the engine's domain; no descriptor
runs on the engine. -/
def parkUnderTest : State :=
  { State.reset with
    gazBuilt := true
    rst := { phase := .ready, fillDue := false }
    ports := [(0, { st := .active, mgtIn := [{ write := true, tag := 5, addr := addrOf (.dom 41) 0, data := 0 }] })]
    doms := (List.range 72).map (fun d => (d, ({ st := .on } : Dom)))
    bst := [(0, { st := .run, kind := 3, unit := 2, inst := 0 })] }

theorem parkUnderTest_served : Served parkUnderTest ⟨0, 5⟩ true (.dom 41) 0 0 := by
  unfold Served
  decide

/-- The park ends the test ABORTED (R401). -/
theorem beginPark_ends_test : ((beginPark parkUnderTest 41).bstOf 0).st = .done := by
  decide +kernel

theorem domCtrlWrite_parkUnderTest : domCtrlWrite 41 0 parkUnderTest = (.ok, beginPark parkUnderTest 41) := rfl

/-- Refutes O45: a park of an engine's domain ends the logic test of that engine (R401), which no descriptor runs on, so the
domain is not all that changes. -/
theorem not_domainsParkAndWake : ¬ Obligations.DomainsParkAndWake := by
  rintro ⟨h, -⟩
  have hx := h parkUnderTest ⟨0, 5⟩ 41 0 (Or.inr ⟨by decide, by decide, rfl⟩) parkUnderTest_served rfl rfl rfl
  have he : exec (.domainEnableWrite ⟨0, 5⟩ 41 0) parkUnderTest = .next (fin parkUnderTest (respond (beginPark parkUnderTest 41)
      ⟨0, 5⟩ true (addrOf (.dom 41) 0) .ok 0)) :=
    (congrArg (answer parkUnderTest) (if_pos (by decide))).trans
      (answer_mgmtWrite parkUnderTest_served domCtrlWrite_parkUnderTest)
  have hn := Host.Outcome.next.inj (he.symm.trans hx)
  have hb := congrArg (fun t : State => (t.bstOf 0).st) hn
  simp only [fin_bstOf, (Keeps.respond (l := [.ports]) (Keeps.refl _ _) (by decide)).bstOf_eq (by decide),
    beginPark_ends_test] at hb
  exact absurd hb (by decide)

end Sys2Proof.Proofs

/-! Fuse pulses: a pulse sets its bit, is verified, and is tried again up to the fourth time (R413). -/

namespace Sys2Proof.Proofs

open Sys2Proof.Machine
open Sys2Proof.Safety

@[simp] theorem fin_fus (s t : State) : (fin s t).fus = t.fus := rfl

/-- The word after a pulse of bit i that the references `hi` and `lo` sense. -/
def pulsedWord (w : FuseWord) (i : Nat) (hi lo : Bool) : FuseWord :=
  { hi := if hi then w.hi ||| BitVec.ofNat 30 (2 ^ i) else w.hi
    lo := if lo then w.lo ||| BitVec.ofNat 30 (2 ^ i) else w.lo }

/-- The controller after a pulse, before its verify is judged. -/
def pulsedFus (f : Fus) (o : FuseOp) (i : Nat) (hi lo : Bool) : Fus :=
  let k := physKey f o.bank o.word
  { f with
    array := tset {} f.array k (pulsedWord (tget {} f.array k) i hi lo)
    pulses := sat f.pulses 1
    retries := if o.tries = 0 then f.retries else sat f.retries 1 }

/-- The operation that goes on with its next bit. -/
def nextBit (s : State) (o : FuseOp) : FuseOp := { o with bits := o.bits.drop 1, tries := 0, live := !s.pwr.hold }

theorem exec_fusePulseDone {s : State} {o : FuseOp} {i : Nat} {more : List Nat} (ho : s.fus.op = some o)
    (hl : o.live = true) (hb : o.bits = i :: more) (hi lo : Bool) :
    exec (.fusePulseDone hi lo) s = answer s (pulseDone s o i hi lo) := by
  show execFusePulseDone hi lo s = _
  rw [execFusePulseDone, ho]
  dsimp only
  rw [hb]
  dsimp only
  rw [if_pos hl]

/-- A verified pulse goes on with the next bit. -/
theorem pulseDone_verified {s : State} {o : FuseOp} (hs : o.stopping = false) (i : Nat) :
    pulseDone s o i true true = settleOp (s.setFus (pulsedFus s.fus o i true true)) 16 (nextBit s o) :=
  if_neg (Bool.eq_false_iff.mp hs)

theorem pulseDone_again {s : State} {o : FuseOp} {hi lo : Bool} (hf : (hi && lo) = false) (ht : o.tries < 3) (i : Nat) :
    pulseDone s o i hi lo =
      s.setFus { pulsedFus s.fus o i hi lo with op := some { o with tries := o.tries + 1 } } :=
  (if_neg (Bool.eq_false_iff.mp hf)).trans (if_pos ht)

theorem pulseDone_failed {s : State} {o : FuseOp} {hi lo : Bool} (hf : (hi && lo) = false) (ht : o.tries = 3)
    (hs : o.stopping = false) (i : Nat) : pulseDone s o i hi lo =
      endOp (s.setFus { pulsedFus s.fus o i hi lo with verifyFails := sat s.fus.verifyFails 1 }) o false :=
  (if_neg (Bool.eq_false_iff.mp hf)).trans ((if_neg (by omega)).trans (if_neg (Bool.eq_false_iff.mp hs)))

theorem settleOp_bits {o : FuseOp} (hb : o.bits ≠ []) (s : State) :
    settleOp s 16 o = s.setFus { s.fus with op := some o, busy := true } := if_pos hb

theorem settleOp_over {o : FuseOp} (hb : o.bits = []) (hr : o.rest = []) (s : State) (n : Nat) :
    settleOp s (n + 1) o = endOp s o true := by
  rw [settleOp, if_neg (fun h => h hb), hr]

theorem startNext_of_no_job {s : State} (hq : s.fus.queue = []) : startNext s = s := by
  unfold startNext
  rw [hq]
  exact ite_self s

/-- The controller is free with a result. -/
def freedFus (f : Fus) (result : BitVec 4) : Fus := { f with op := none, busy := false, result := result }

/-- A command's operation ends with its result, and the controller is free. -/
def cmdOver (f : Fus) (ok : Bool) : Fus := freedFus (refreshBanks f) (if ok then 1 else 5)

theorem refreshBanks_queue (f : Fus) : (refreshBanks f).queue = f.queue := rfl

theorem startNext_freed {s : State} {f : Fus} (hq : f.queue = []) (r : BitVec 4) :
    startNext (s.setFus (freedFus f r)) = s.setFus (freedFus f r) := startNext_of_no_job hq

theorem endOp_cmd {s : State} {o : FuseOp} (hj : o.job = .cmd) (hq : s.fus.queue = []) (ok : Bool) :
    endOp s o ok = s.setFus (cmdOver s.fus ok) := by
  have hr : (refreshBanks s.fus).queue = [] := hq
  unfold endOp cmdOver State.modFus
  rw [hj]
  dsimp only
  generalize refreshBanks s.fus = f at hr ⊢
  exact startNext_freed hr _

theorem Keeps.setFus' (s : State) (f : Fus) : Keeps [.fus] s (s.setFus f) := Keeps.setFus (Keeps.refl _ s) (by decide)

/-- Settles O55. -/
theorem fusePulses : Obligations.FusePulses := by
  refine ⟨fun s o i j more hp ho hl hs hb => ?_, fun s o i hp ho hl hs hb hr hj hq => ?_,
    fun s o i more hi lo hp ho hl hb hf ht => ?_, fun s o i more hi lo hp ho hl hs hb hf ht hj hq => ?_⟩
  · have hn : (nextBit s o).bits = j :: more := congrArg (List.drop 1) hb
    refine ⟨_, (exec_fusePulseDone ho hl hb true true).trans (answer_next hp ((pulseDone_verified hs i).trans
      (settleOp_bits (by rw [hn]; exact List.cons_ne_nil _ _) _))), ?_, ?_, fun k hk => ?_, rfl, Keeps.fin (Keeps.setFus' s _)⟩
    · show some (nextBit s o) = _
      rw [nextBit, hb]
      rfl
    · exact tget_tset_self _ _ _ _
    · exact tget_tset_ne _ _ _ _ _ hk
  · have hn : (nextBit s o).bits = [] := congrArg (List.drop 1) hb
    exact ⟨_, (exec_fusePulseDone ho hl hb true true).trans (answer_next hp ((pulseDone_verified hs i).trans
      ((settleOp_over hn hr _ 15).trans (endOp_cmd hj (by exact hq) true)))), rfl, rfl, rfl, rfl, Keeps.fin (Keeps.setFus' s _)⟩
  · exact ⟨_, (exec_fusePulseDone ho hl hb hi lo).trans (answer_next hp (pulseDone_again hf ht i)), rfl, rfl, rfl,
      Keeps.fin (Keeps.setFus' s _)⟩
  · refine ⟨_, (exec_fusePulseDone ho hl hb hi lo).trans (answer_next hp ((pulseDone_failed hf ht hs i).trans
      (endOp_cmd hj (by exact hq) false))), rfl, rfl, rfl, ?_, Keeps.fin (Keeps.setFus' s _)⟩
    exact if_neg (by omega)

end Sys2Proof.Proofs

/-! Fuse commands: reads, programs, seals, locks and the device secret (R410–R418, R428). -/

namespace Sys2Proof.Safety

open Sys2Proof.Machine

section Marginal

variable {l : List Part} {s t : State} (h : Keeps l s t)
include h

theorem Keeps.logJournal {r : LogRec} (hl : Part.log ∈ l) : Keeps l s (Sys2Proof.Machine.logJournal t r) := by
  unfold Sys2Proof.Machine.logJournal
  split
  · exact h.setLog hl
  · exact h.setLog hl

theorem Keeps.noteMarginal {b w : Nat} (hf : Part.flt ∈ l) (hl : Part.log ∈ l) :
    Keeps l s (Sys2Proof.Machine.noteMarginal t b w) := by
  unfold Sys2Proof.Machine.noteMarginal
  split
  · exact (h.raise _ _ _ hf).logJournal hl
  · exact h

theorem Keeps.marginals {b : Nat} {ws : List Nat} (hf : Part.flt ∈ l) (hl : Part.log ∈ l) :
    Keeps l s (Sys2Proof.Machine.foldS ws (fun s w => Sys2Proof.Machine.noteMarginal s b w) t) :=
  Keeps.foldS (fun _ _ k => k.noteMarginal hf hl) _ h

end Marginal

end Sys2Proof.Safety

namespace Sys2Proof.Proofs

open Sys2Proof.Machine
open Sys2Proof.Safety

theorem noteMarginal_of_clear {s : State} {b w : Nat} (h : (fuseSense b (fuseAt s.fus b w)).1 ≠ 1) :
    noteMarginal s b w = s := if_neg h

/-- A read's condition on the session does not hold it back, and no program operation is asked for. -/
theorem fuseCmdWrite_read {n : Nat} {data : Word} (h : (data.extractLsb' 21 3).toNat = 1) (s : State) :
    fuseCmdWrite n data s = fuseReadCmd s (data.extractLsb' 18 3).toNat (data.extractLsb' 4 14).toNat := by
  unfold fuseCmdWrite
  rw [h]
  rfl

/-- The commands that program, from a session or in MANUFACTURE, with the controller free. -/
def programs (s : State) (b w : Nat) : Nat → Status × State
  | 2 => fuseProgramCmd s b w
  | 3 => fuseSealCmd s b
  | 4 => fuseLockCmd s b
  | 5 => genSecretCmd s
  | _ => fuseRefuse s 8

theorem fuseCmdWrite_program {n : Nat} {data : Word} {s : State} {op : Nat} (h : (data.extractLsb' 21 3).toNat = op)
    (hlo : 2 ≤ op) (hhi : op ≤ 5) (hp : s.sec.lc = 0 ∨ (s.path n).session.isSome = true) (ho : s.fus.op = none) :
    fuseCmdWrite n data s = programs s (data.extractLsb' 18 3).toNat (data.extractLsb' 4 14).toNat op := by
  have hs : (decide (s.sec.lc ≠ 0) && !sessionOpen s n) = false := by
    rcases hp with hp | hp
    · rw [hp]
      rfl
    · rw [sessionOpen, hp]
      exact Bool.and_false _
  unfold fuseCmdWrite
  rw [h, ho]
  dsimp only
  rw [Bool.and_assoc, hs]
  obtain rfl | rfl | rfl | rfl : op = 2 ∨ op = 3 ∨ op = 4 ∨ op = 5 := by omega
  · rfl
  · rfl
  · rfl
  · rfl

theorem fuseReadCmd_ok {s : State} {b w : Nat} (hw : w < bankWords b) (hb : b ≠ 2 ∨ 10 < w)
    (hm : (fuseSense b (fuseAt s.fus b w)).1 ≠ 1) : fuseReadCmd s b w = (.ok, s.setFus { s.fus with
      result := 1
      outcome := BitVec.ofNat 2 (fuseValue s.fus b w).1
      corrected := (fuseValue s.fus b w).2.2
      rdata := (fuseValue s.fus b w).2.1 }) := by
  have hs : ¬ (decide (b = 2) && decide (w ≤ 10)) = true := by
    rw [Bool.and_eq_true, decide_eq_true_eq, decide_eq_true_eq]
    omega
  rw [fuseReadCmd, if_neg (by omega), if_neg hs, noteMarginal_of_clear hm]
  rfl

theorem fuseReadCmd_secret {w : Nat} (hw : w ≤ 10) (s : State) :
    fuseReadCmd s 2 w = (.refused, s.setFus { s.fus with result := 8, rdata := 0 }) := by
  have hb : ¬ bankWords 2 ≤ w := by
    show ¬ 171 ≤ w
    omega
  have hs : (decide (2 = 2) && decide (w ≤ 10)) = true := by
    rw [decide_eq_true hw]
    rfl
  rw [fuseReadCmd, if_neg hb, if_pos hs]
  rfl

/-- A word that is permitted, programmable and not set yet starts the controller. -/
theorem programWord_starts {s : State} {b w : Nat} {goal : BitVec 30} {rest : List (Nat × Nat × BitVec 30)}
    (hp : programmable s.fus b w goal = true) (hb : bitsToSet (fuseAt s.fus b w).lo goal ≠ []) :
    programWord s b w goal rest =
      (.ok, s.setFus { s.fus with op := some (mkOp s .cmd b w goal rest), busy := true }) := by
  rw [programWord, if_pos hp, settleOp_bits (o := mkOp s .cmd b w goal rest) hb]

theorem fuseProgramCmd_ok {s : State} {b w : Nat} (hw : w < bankWords b) (hp : programPermit s b w false = 0) :
    fuseProgramCmd s b w = programWord s b w (fuseCode b s.fus.wdata) [] := by
  rw [fuseProgramCmd, if_neg (by omega), hp]
  exact if_neg (fun h => h rfl)

/-- The words of a bank read before its seal or its lock. -/
def marginalsNoted (s : State) (b n : Nat) : State := foldS (List.range n) (fun s w => noteMarginal s b w) s

theorem keeps_marginalsNoted (s : State) (b n : Nat) : Keeps [.flt, .log] s (marginalsNoted s b n) :=
  Keeps.marginals (l := [.flt, .log]) (Keeps.refl _ s) (by decide) (by decide)

theorem not_noBank {b : Nat} (h4 : b ≤ 4) (h3 : b ≠ 3) : ¬ (decide (b = 3) || decide (4 < b)) = true := by
  rw [Bool.or_eq_true, decide_eq_true_eq, decide_eq_true_eq]
  omega

theorem fuseSealCmd_ok {s : State} {b : Nat} (h4 : b ≤ 4) (h3 : b ≠ 3) (hp : programPermit s b (sealWord b) false = 0) :
    fuseSealCmd s b = programWord (marginalsNoted s b (sealWord b)) b (sealWord b)
      (fuseCode b (sealCrc (marginalsNoted s b (sealWord b)).fus b)) [] := by
  rw [fuseSealCmd, if_neg (not_noBank h4 h3), hp]
  exact if_neg (fun h => h rfl)

theorem programPermit_lock {s : State} (h : s.sec.lc = 0) (w : Nat) : programPermit s 3 w true = 0 := by
  unfold programPermit
  rw [h]
  rfl

theorem fuseLockCmd_ok {s : State} {b : Nat} (h4 : b ≤ 4) (h3 : b ≠ 3) (hl : s.sec.lc = 0)
    (hs : sealHolds (marginalsNoted s b (sealWord b + 1)).fus b = true) :
    fuseLockCmd s b = programWord (marginalsNoted s b (sealWord b + 1)) 3 (lockWord b) (secdedWord 0xFFFFFF) [] := by
  rw [fuseLockCmd, if_neg (not_noBank h4 h3), programPermit_lock hl]
  exact (if_neg (fun h => h rfl)).trans (if_pos hs)

theorem mkOp_of_keeps {l : List Part} {s t : State} (h : Keeps l s t) (hf : Part.fus ∉ l) (hp : Part.pwr ∉ l)
    (job : FuseJob) (b w : Nat) (goal : BitVec 30) (rest : List (Nat × Nat × BitVec 30)) :
    mkOp t job b w goal rest = mkOp s job b w goal rest := by
  have e : t.fus = s.fus := h .fus hf
  have ep : t.pwr = s.pwr := h .pwr hp
  rw [mkOp, e, ep, mkOp]

/-- A programming of one word after reads that may have been marginal. -/
theorem programmed_after_reads {s : State} {via : Via} {t : State} {b w : Nat} {goal : BitVec 30}
    (hk : Keeps [.flt, .log] s t) :
    (fin s (respond (t.setFus { t.fus with op := some (mkOp t .cmd b w goal []), busy := true }) via true (addrOf .fus 0) .ok
      0)).fus = { s.fus with op := some (mkOp s .cmd b w goal []), busy := true } ∧
    Keeps [.fus, .flt, .log, .ports] s (fin s (respond (t.setFus { t.fus with
      op := some (mkOp t .cmd b w goal []), busy := true }) via true (addrOf .fus 0) .ok 0)) := by
  have e : t.fus = s.fus := hk .fus (by decide)
  have hs : Keeps [.fus, .flt, .log, .ports] s (t.setFus { t.fus with op := some (mkOp t .cmd b w goal []), busy := true }) :=
    (hk.mono (by decide)).setFus (by decide)
  refine ⟨?_, (hs.respond (by decide)).fin⟩
  rw [fin_fus, (Keeps.respond (l := [.ports]) (Keeps.refl _ _) (by decide)) .fus (by decide),
    mkOp_of_keeps hk (by decide) (by decide), e]
  rfl

theorem genSecretCmd_ok {s : State} (hp : programPermit s 2 0 false = 0)
    (hb : ∀ w, w < 11 → fuseProgrammed (fuseAt s.fus 2 w) = false) {ws : List (BitVec 30)}
    (hw : ws = (secretWords (Config.secret s.freeIdx)).map secdedWord) (hg : programmable s.fus 2 0 (ws.headD 0) = true) :
    genSecretCmd s = (.ok, settleOp { s with freeIdx := s.freeIdx + 1 } 16
      (mkOp s .cmd 2 0 (ws.headD 0) (((List.range 11).drop 1).map (fun i => (2, i, ws.getD i 0))))) := by
  have hn : ¬ (List.range 11).any (fun w => fuseProgrammed (fuseAt s.fus 2 w)) = true := by
    rw [List.any_eq_true]
    rintro ⟨w, hm, hf⟩
    rw [hb w (List.mem_range.mp hm)] at hf
    exact Bool.false_ne_true hf
  subst hw
  rw [genSecretCmd, hp]
  refine (if_neg (fun h => h rfl)).trans ((if_neg hn).trans (if_pos hg))

/-- Settles O54. -/
theorem fuseCommands : Obligations.FuseCommands := by
  refine ⟨fun s via data b w h hop hb hw hlt hs hm => ?_, fun s via data h hop hb hw => ?_,
    fun s via data b w goal h hop hb hw hp ho hlt hpp hg hpg hbt => ?_,
    fun s via data b goal h hop hb h4 h3 hp ho hpp hg hpg hbt => ?_,
    fun s via data b h hop hb h4 h3 hl ho hsh hpg hbt => ?_,
    fun s via data ws h hop hl ho hpp hbl hws hpg => ?_⟩
  · subst hb hw
    exact answer_mgmtWrite h ((fuseCmdWrite_read hop s).trans (fuseReadCmd_ok hlt hs hm))
  · refine answer_mgmtWrite h ((fuseCmdWrite_read hop s).trans ?_)
    rw [hb]
    exact fuseReadCmd_secret hw s
  · subst hb hw hg
    exact answer_mgmtWrite h ((fuseCmdWrite_program hop (by decide) (by decide) hp ho).trans
      ((fuseProgramCmd_ok hlt hpp).trans (programWord_starts hpg hbt)))
  · subst hb hg
    have hk := keeps_marginalsNoted s (data.extractLsb' 18 3).toNat (sealWord (data.extractLsb' 18 3).toNat)
    have e : (marginalsNoted s (data.extractLsb' 18 3).toNat (sealWord (data.extractLsb' 18 3).toNat)).fus = s.fus :=
      hk .fus (by decide)
    have hc := (fuseSealCmd_ok h4 h3 hpp).trans (programWord_starts (by rw [e]; exact hpg) (by rw [e]; exact hbt))
    refine ⟨_, answer_mgmtWrite h ((fuseCmdWrite_program hop (by decide) (by decide) hp ho).trans hc), ?_⟩
    have hr := programmed_after_reads (via := via) (b := (data.extractLsb' 18 3).toNat)
      (w := sealWord (data.extractLsb' 18 3).toNat)
      (goal := fuseCode (data.extractLsb' 18 3).toNat (sealCrc s.fus (data.extractLsb' 18 3).toNat)) hk
    rw [e] at hr ⊢
    exact hr
  · subst hb
    have hk := keeps_marginalsNoted s (data.extractLsb' 18 3).toNat (sealWord (data.extractLsb' 18 3).toNat + 1)
    have e : (marginalsNoted s (data.extractLsb' 18 3).toNat (sealWord (data.extractLsb' 18 3).toNat + 1)).fus = s.fus :=
      hk .fus (by decide)
    have hc := (fuseLockCmd_ok h4 h3 hl (by rw [e]; exact hsh)).trans
      (programWord_starts (by rw [e]; exact hpg) (by rw [e]; exact hbt))
    exact ⟨_, answer_mgmtWrite h ((fuseCmdWrite_program hop (by decide) (by decide) (Or.inl hl) ho).trans hc),
      programmed_after_reads hk⟩
  · exact answer_mgmtWrite h ((fuseCmdWrite_program hop (by decide) (by decide) (Or.inl hl) ho).trans
      (genSecretCmd_ok hpp hbl hws hpg))

end Sys2Proof.Proofs

/-! Performance counters and telemetry dumps (R434–R438). -/

namespace Sys2Proof.Safety

open Sys2Proof.Machine

/-- Two states whose telemetry differs at most in the values of the counters. -/
def Counted (s t : State) : Prop := ∃ c, t.tel = { s.tel with cnts := c }

theorem Counted.refl (s : State) : Counted s s := ⟨s.tel.cnts, rfl⟩

theorem Counted.of_tel {s t u : State} (h : Counted s t) (e : u.tel = t.tel) : Counted s u := by
  obtain ⟨c, h⟩ := h
  exact ⟨c, e.trans h⟩

theorem Counted.of_keeps {l : List Part} {s t u : State} (h : Counted s t) (k : Keeps l t u) (hl : Part.tel ∉ l) :
    Counted s u := h.of_tel (k .tel hl)

section Counting

variable {s t : State} (h : Counted s t)
include h

theorem Counted.perf (ev i k : Nat) : Counted s (Sys2Proof.Machine.perf t ev i k) := by
  obtain ⟨c, h⟩ := h
  exact ⟨_, congrArg (fun x : Tel => { x with cnts := t.tel.cnts.map (fun (e : Nat × Counter) => (e.1, Counter.advance ev i k e.2)) }) h⟩

theorem Counted.pushWrite {e : Entry} : Counted s (Sys2Proof.Machine.pushWrite t e) :=
  h.of_keeps (l := [.chans, .reqs]) ((Keeps.refl _ t).pushWrite (by decide) (by decide)) (by decide)

theorem Counted.countEnc {e : Bool} : Counted s (Sys2Proof.Machine.countEnc t e) := by
  unfold Sys2Proof.Machine.countEnc
  split
  · exact Counted.perf (h.of_tel rfl) _ _ _
  · exact h

theorem Counted.queueWb {c : Nat} {x : LbLine} : Counted s (Sys2Proof.Machine.queueWb t c x) := by
  unfold Sys2Proof.Machine.queueWb
  split
  · exact h.of_tel rfl
  split
  · exact h.of_tel rfl
  · exact (h.countEnc.perf _ _ _).pushWrite

theorem Counted.cleanLine {c : Nat} {x : LbLine} : Counted s (Sys2Proof.Machine.cleanLine t c x) :=
  h.queueWb.of_tel rfl

theorem Counted.refillWbAux {c : Nat} (n : Nat) : Counted s (Sys2Proof.Machine.refillWbAux c n t) := by
  induction n generalizing t with
  | zero => exact h
  | succ n ih =>
    unfold Sys2Proof.Machine.refillWbAux
    split
    · split
      · exact ih h.cleanLine
      · exact h
    · exact h

theorem Counted.lbPut {c : Nat} {x : LbLine} : Counted s (Sys2Proof.Machine.lbPut t c x) := by
  unfold Sys2Proof.Machine.lbPut
  refine Counted.of_tel (t := match lbVictim t c x.dpaLine with
    | some v => lbDrop (if v.dirty then Machine.queueWb t c v else t) c v.dpaLine
    | none => t) ?_ rfl
  split
  · refine Counted.of_tel ?_ rfl
    split
    · exact h.queueWb
    · exact h
  · exact h

theorem Counted.foldS {g : State → Nat → State} (hg : ∀ u i, Counted s u → Counted s (g u i)) (xs : List Nat) :
    Counted s (Sys2Proof.Machine.foldS xs g t) := Proofs.foldS_induction hg xs h

theorem Counted.zeroLines {line : Nat} : Counted s (Sys2Proof.Machine.zeroLines t line) := by
  unfold Sys2Proof.Machine.zeroLines
  have h' : Counted s (t.modEccOf (homeChan t line) (fun e => { e with fillLines := e.fillLines + 4 })) := h.of_tel rfl
  dsimp only
  split
  · split
    · exact h'
    split
    · exact h'
    · exact h'.pushWrite
  · exact Counted.refillWbAux (h'.foldS (fun _ _ k => k.lbPut) _) 48

theorem Counted.putLine {line : Nat} {d : Line} : Counted s (Sys2Proof.Machine.putLine t line d) := by
  unfold Sys2Proof.Machine.putLine
  split
  · exact h
  split
  · exact h
  · dsimp only
    split
    · exact h.pushWrite
    · exact h.lbPut.refillWbAux 48

theorem Counted.putDumpLine {first : Nat} {l : Nat × Line} : Counted s (Sys2Proof.Machine.putDumpLine t first l) := by
  refine Counted.putLine ?_
  unfold inkFirst
  split
  · exact h
  · exact (h.foldS (fun _ _ k => k.zeroLines) _).of_tel rfl

end Counting

/-! ### What the lines of a record touch -/

/-- The parts that the lines of a record touch. -/
def dumpParts : List Part := [.tel, .chans, .mem, .ecc, .cip, .reqs, .ink, .filling]

section Lines

variable {l : List Part} {s t : State} (h : Keeps l s t)
include h

theorem Keeps.setInk {v : Tbl Bool} {w : List (Nat × Nat)} (hl : Part.ink ∈ l) (hf : Part.filling ∈ l) :
    Keeps l s { t with ink := v, filling := w } := fun p hp => by
  cases p with
  | ink => exact absurd hl hp
  | filling => exact absurd hf hp
  | _ => exact h _ hp

theorem Keeps.putLine {line : Nat} {d : Line} (hl : queueParts ⊆ l) : Keeps l s (Sys2Proof.Machine.putLine t line d) := by
  unfold Sys2Proof.Machine.putLine
  split
  · exact h
  split
  · exact h
  · dsimp only
    split
    · exact h.pushWrite (hl (by decide)) (hl (by decide))
    · exact (h.lbPut hl).refillWb hl

theorem Keeps.inkFirst {page : Nat} (hl : dumpParts ⊆ l) : Keeps l s (Sys2Proof.Machine.inkFirst t page) := by
  have hq : queueParts ⊆ l := List.Subset.trans (by decide) hl
  unfold Sys2Proof.Machine.inkFirst
  split
  · exact h
  · exact (Keeps.foldS (fun _ _ k => k.zeroLines hq (hl (by decide))) _ h).setInk (hl (by decide)) (hl (by decide))

theorem Keeps.putDumpLine {first : Nat} {x : Nat × Line} (hl : dumpParts ⊆ l) :
    Keeps l s (Sys2Proof.Machine.putDumpLine t first x) := (h.inkFirst hl).putLine (List.Subset.trans (by decide) hl)

theorem Keeps.setFlowRt {v : Tbl FlowRt} (hl : Part.flowRt ∈ l) : Keeps l s { t with flowRt := v } := fun p hp => by
  cases p with
  | flowRt => exact absurd hl hp
  | _ => exact h _ hp

end Lines

end Sys2Proof.Safety

namespace Sys2Proof.Proofs

open Sys2Proof.Machine
open Sys2Proof.Safety

/-! ### Selections -/

theorem counterWrite_selects {n : Nat} {data : Word} {s : State} (h : selectStatus s.variant data = .ok)
    (hc : data.extractLsb' 12 12 ≠ (counterOf s n).event) : counterWrite n data s = (.ok, setCounter s n
      { event := data.extractLsb' 12 12, all := data.getLsbD 11, inst := data.extractLsb' 0 8, wrap := false, value := 0 }) := by
  have hs : (counterOf s n).select data =
      { event := data.extractLsb' 12 12, all := data.getLsbD 11, inst := data.extractLsb' 0 8, wrap := false, value := 0 } := by
    refine if_neg ?_
    rw [decide_eq_false hc]
    exact Bool.false_ne_true
  rw [counterWrite, h]
  dsimp only
  rw [hs]
  rfl

theorem selectStatus_no_event {data : Word} (h : data.extractLsb' 12 12 ≠ 0xFFF)
    (hr : eventRunOf (data.extractLsb' 12 12).toNat = none) (v : Variant) : selectStatus v data = .refused := by
  have hn : (data.extractLsb' 12 12).toNat ≠ 0xFFF := fun e => h (BitVec.eq_of_toNat_eq e)
  rw [selectStatus, if_neg hn, hr]

theorem counterWrite_refused {n : Nat} {data : Word} {s : State} (h : selectStatus s.variant data = .refused) :
    counterWrite n data s = (.refused, s) := by
  rw [counterWrite, h]

theorem exec_counterSelect {n : Nat} (hn : n < 256) (via : Via) (data : Word) (s : State) :
    exec (.counterSelect via n data) s = answer s (mgmtWrite s via (.cnt n) 0 data (counterWrite n data)) :=
  congrArg (answer s) (if_pos hn)

/-! ### The dump beat -/

/-- A beat on which a dump may be taken: dumps enabled, in service, and no dump at this beat yet. -/
structure DumpBeat (s : State) : Prop where
  enabled : s.tables.dumpEn = true
  inForce : s.img.inForce = true
  running : s.tel.stopped = false
  alive : s.flt.fatal = false
  slots : dumpSlots s.tables ≠ 0
  due : s.mer.count.toNat % s.tables.dumpPer.toNat = 0
  fresh : s.tel.lastDump ≠ some s.elapsed

/-- The record of this beat is taken. -/
def recordTaken (s : State) : State :=
  { s with tel := { s.tel with
      busy := true
      recLines := dumpRecord s
      recSlot := s.tel.head.toNat
      recStamp := s.mer.count
      since := 0 } }

/-- A dump beat that is not held back. -/
def dumpTaken (s : State) : State :=
  if s.tel.pause || s.tel.busy then dumpBeat (skipDump s)
  else if slotHoled s s.tel.head.toNat then
    dumpBeat (skipDump { s with tel := { s.tel with head := nextSlot s s.tel.head.toNat } })
  else dumpBeat (canonFlows (clearOob (recordTaken s)))

theorem exec_telemetryDump {s : State} (h : DumpBeat s) : exec .telemetryDump s = answer s (dumpTaken s) := by
  refine congrArg (answer s) ((if_neg ?_).trans rfl)
  rw [h.enabled, h.inForce, h.running, h.alive, decide_eq_false h.slots, decide_eq_false (not_not_intro h.due),
    decide_eq_false h.fresh]
  exact Bool.false_ne_true

theorem dumpTaken_paused {s : State} (h : s.tel.pause = true) : dumpTaken s = dumpBeat (skipDump s) := by
  refine if_pos ?_
  rw [h]
  rfl

theorem dumpTaken_free {s : State} (hp : s.tel.pause = false) (hb : s.tel.busy = false)
    (hh : slotHoled s s.tel.head.toNat = false) : dumpTaken s = dumpBeat (canonFlows (clearOob (recordTaken s))) := by
  refine (if_neg ?_).trans (if_neg (Bool.eq_false_iff.mp hh))
  rw [hp, hb]
  exact Bool.false_ne_true

@[simp] theorem fin_tel (s t : State) : (fin s t).tel = t.tel := rfl

theorem keeps_recordDumped (s : State) : Keeps [.tel, .flowRt] s (dumpBeat (canonFlows (clearOob (recordTaken s)))) :=
  ((((Keeps.refl _ s).setTel (by decide)).setFlowRt (by decide)).setFlowRt (by decide)).setTel (by decide)

/-! ### The record written -/

/-- The lines of the record in the memory. -/
def recordPut (s : State) : State := s.tel.recLines.foldl (fun u l => putDumpLine u (slotLine s s.tel.recSlot) l) s

/-- The record is over: head and sequence number advance. -/
def recordOver (s : State) : State :=
  { s with tel := { s.tel with
    busy := false
    recLines := []
    head := nextSlot s s.tel.recSlot
    seq := s.tel.seq + 1
    lastStamp := s.tel.recStamp } }

theorem exec_dumpRecordWritten {s : State} (hb : s.tel.busy = true) (hh : s.pwr.hold = false) (hf : s.flt.fatal = false) :
    exec .dumpRecordWritten s = answer s (recordOver (recordPut s)) := by
  refine congrArg (answer s) ((if_neg ?_).trans rfl)
  rw [hb, hh, hf]
  exact Bool.false_ne_true

theorem keeps_recordPut (s : State) : Keeps dumpParts s (recordPut s) :=
  Keeps.foldl (fun _ _ k => k.putDumpLine (List.Subset.refl _)) _ (Keeps.refl _ s)

theorem counted_recordPut (s : State) : Counted s (recordPut s) := by
  unfold recordPut
  have h : ∀ (xs : List (Nat × Line)) (u : State), Counted s u →
      Counted s (xs.foldl (fun u l => putDumpLine u (slotLine s s.tel.recSlot) l) u) := by
    intro xs
    induction xs with
    | nil => exact fun _ h => h
    | cons x xs ih => exact fun u h => ih _ h.putDumpLine
  exact h _ _ (Counted.refl s)

theorem nextSlot_of_tables {s t : State} (h : t.tables = s.tables) (k : Nat) : nextSlot t k = nextSlot s k := by
  rw [nextSlot, h, nextSlot]

/-- Settles O50. -/
theorem countersAndDumps : Obligations.CountersAndDumps := by
  refine ⟨fun s via n data hn h hs hc => ?_, fun s via n data hn h hd hr => ?_,
    fun s hp he hi hr hf hl hd ha hu hb hh => ?_, fun s hp he hi hr hf hl hd ha hu => ?_, fun s hp hb hh hf => ?_⟩
  · exact (exec_counterSelect hn via data s).trans (answer_mgmtWrite h (counterWrite_selects hs hc))
  · exact (exec_counterSelect hn via data s).trans
      (answer_mgmtWrite h (counterWrite_refused (selectStatus_no_event hd hr s.variant)))
  · exact ⟨_, (exec_telemetryDump ⟨he, hi, hr, hf, hl, hd, ha⟩).trans (answer_next hp (dumpTaken_free hu hb hh)), rfl,
      (keeps_recordDumped s).fin⟩
  · exact (exec_telemetryDump ⟨he, hi, hr, hf, hl, hd, ha⟩).trans (answer_next hp (dumpTaken_paused hu))
  · have k := keeps_recordPut s
    obtain ⟨c, hc⟩ := counted_recordPut s
    refine ⟨_, (exec_dumpRecordWritten hb hh hf).trans (answer_next hp rfl), rfl, rfl, ?_, ?_, ?_,
      (k.setTel (by decide)).fin⟩
    · show nextSlot (recordPut s) (recordPut s).tel.recSlot = _
      rw [hc]
      exact nextSlot_of_tables (k .tables (by decide)) _
    · show (recordPut s).tel.seq + 1 = _
      rw [hc]
    · show (recordPut s).tel.recStamp = _
      rw [hc]

end Sys2Proof.Proofs

/-! Lines and writes drained into the tiers, and the lines of a cipher slot purged (R254, R307, R310, R375). -/

namespace Sys2Proof.Proofs

open Sys2Proof.Machine
open Sys2Proof.Safety

/-- The parts that a drain touches. -/
def drainParts : List Part := [.chans, .mem, .ecc, .cip, .reqs, .tel, .mig]

/-- A column leaves its queued entry; the entry's request is answered. -/
def entryDrained (s : State) (c : Nat) (e : Entry) (col : Nat) : State :=
  let left := { e with cols := e.cols.filter (· ≠ col) }
  let put := fun (q : List Entry) => (q.map (fun x => if x.id = e.id then left else x)).filter (fun x => x.cols ≠ [])
  let s := s.modChan c (fun ch => { ch with wrq := put ch.wrq, wrWait := put ch.wrWait })
  match e.req with | some id => endReq s id .ok | none => s

/-- One column of a queued write goes to its place, unless it is a rewrite that a write has overtaken. -/
def drainCol (sel : Entry → Nat → Bool) (c id : Nat) (s : State) (col : Nat) : State :=
  match (s.chan c).writes.find? (fun e => e.id = id) with
  | none => s
  | some e =>
    if !sel e col then s
    else if isRewrite e && dropped s c e col then
      (entryDrained s c e col).modEccOf c (fun x => { x with wbDropped := x.wbDropped + 1 })
    else applyCol (entryDrained s c e col) c e col

theorem drainEntries_eq (sel : Entry → Nat → Bool) (s : State) (c : Nat) : drainEntries sel s c =
    (s.chan c).writes.foldl (fun s e => e.cols.foldl (drainCol sel c e.id) s) s := rfl

/-- The staging of a migration follows a write to a line that waits in it. -/
def stagedFollows (s : State) (l : Loc) : State :=
  if (tfind s.mig.staged l.index).isSome then
    { s with mig := { s.mig with staged := tput s.mig.staged l.index (cellRead s l) } }
  else s

theorem burst_eq (s : State) (l : Loc) (mask : Bool × Bool) (w : Half × Half) (me : Nat) : burst s l mask w me =
    match mirrorOf (burstAt s l mask w me) l with
    | some m => burstAt (stagedFollows (burstAt s l mask w me) l) m mask w me
    | none => burstAt s l mask w me := rfl

end Sys2Proof.Proofs

namespace Sys2Proof.Safety

open Sys2Proof.Machine

/-! ### The frame of a drain -/

theorem Keeps.ite {l : List Part} {s t u : State} {p : Prop} [Decidable p] (h : Keeps l s t) (k : Keeps l s u) :
    Keeps l s (if p then t else u) := by
  split
  · exact h
  · exact k

section Drains

variable {l : List Part} {s t : State} (h : Keeps l s t)
include h

theorem Keeps.cellWrite {x : Loc} {w : Half × Half} (hm : Part.mem ∈ l) (he : Part.ecc ∈ l) :
    Keeps l s (Sys2Proof.Machine.cellWrite t x w) := by
  unfold Sys2Proof.Machine.cellWrite
  split
  · exact h.setEccOf he
  · exact h.setRmem hm

theorem Keeps.burstAt {x : Loc} {mask : Bool × Bool} {w : Half × Half} {me : Nat} (hl : Proofs.drainParts ⊆ l) :
    Keeps l s (Sys2Proof.Machine.burstAt t x mask w me) :=
  (((h.cellWrite (hl (by decide)) (hl (by decide))).setChan (hl (by decide))).setChan (hl (by decide))).perf _ _ _
    (hl (by decide))

theorem Keeps.stagedFollows {x : Loc} (hl : Part.mig ∈ l) : Keeps l s (Proofs.stagedFollows t x) := by
  unfold Proofs.stagedFollows
  split
  · exact h.setMig hl
  · exact h

theorem Keeps.burst {x : Loc} {mask : Bool × Bool} {w : Half × Half} {me : Nat} (hl : Proofs.drainParts ⊆ l) :
    Keeps l s (Sys2Proof.Machine.burst t x mask w me) := by
  rw [Proofs.burst_eq]
  split
  · exact ((h.burstAt hl).stagedFollows (hl (by decide))).burstAt hl
  · exact h.burstAt hl

theorem Keeps.flushed {c line : Nat} (hl : Part.reqs ∈ l) : Keeps l s (Sys2Proof.Machine.flushed t c line) := by
  unfold Sys2Proof.Machine.flushed
  exact Keeps.ite h (h.setReqs hl)

theorem Keeps.countCopied {i : Nat} {w : Half × Half} (hm : Part.mig ∈ l) (ht : Part.tel ∈ l) :
    Keeps l s (Sys2Proof.Machine.countCopied t i w) := (h.setMig hm).perf _ _ _ ht

theorem Keeps.applyCol {c col : Nat} {e : Entry} (hl : Proofs.drainParts ⊆ l) :
    Keeps l s (Sys2Proof.Machine.applyCol t c e col) := by
  unfold Sys2Proof.Machine.applyCol
  dsimp only
  split
  · exact (h.burstAt hl).countCopied (hl (by decide)) (hl (by decide))
  split
  · exact (h.burst hl).setEccOf (hl (by decide))
  split
  · exact h.burst hl
  · exact (h.burst hl).flushed (hl (by decide))

theorem Keeps.entryDrained {c col : Nat} {e : Entry} (hc : Part.chans ∈ l) (hr : Part.reqs ∈ l) :
    Keeps l s (Proofs.entryDrained t c e col) := by
  unfold Proofs.entryDrained
  dsimp only
  split
  · exact (h.setChan hc).endReq hr
  · exact h.setChan hc

theorem Keeps.drainCol {sel : Entry → Nat → Bool} {c id col : Nat} (hl : Proofs.drainParts ⊆ l) :
    Keeps l s (Proofs.drainCol sel c id t col) := by
  unfold Proofs.drainCol
  split
  · exact h
  split
  · exact h
  split
  · exact (h.entryDrained (hl (by decide)) (hl (by decide))).setEccOf (hl (by decide))
  · exact (h.entryDrained (hl (by decide)) (hl (by decide))).applyCol hl

theorem Keeps.drainEntries {sel : Entry → Nat → Bool} {c : Nat} (hl : Proofs.drainParts ⊆ l) :
    Keeps l s (Sys2Proof.Machine.drainEntries sel t c) := by
  rw [Proofs.drainEntries_eq]
  exact Keeps.foldl (fun _ _ k => Keeps.foldl (fun _ _ k => k.drainCol hl) _ k) _ h

theorem Keeps.drainLine {c : Nat} {x : LbLine} (hl : Proofs.drainParts ⊆ l) :
    Keeps l s (Sys2Proof.Machine.drainLine t c x) := by
  unfold Sys2Proof.Machine.drainLine
  dsimp only
  split
  · exact h.flushFenced (hl (by decide))
  split
  · exact h.flushFenced (hl (by decide))
  · exact ((((((h.drainEntries hl).countEnc (List.Subset.trans (by decide) hl)).perf _ _ _ (hl (by decide))).burst
      hl).setChan (hl (by decide)))).flushed (hl (by decide))

theorem Keeps.drainIf {sel : LbLine → Bool} {c : Nat} (hl : Proofs.drainParts ⊆ l) :
    Keeps l s (Sys2Proof.Machine.drainIf sel t c) := Keeps.foldl (fun _ _ k => k.drainLine hl) _ h

theorem Keeps.purgeLines {sel : LbLine → Bool} (hl : Proofs.drainParts ⊆ l) :
    Keeps l s (Sys2Proof.Machine.purgeLines sel t) :=
  Keeps.foldS (fun _ _ k => (k.drainIf hl).dropIf (hl (by decide))) _ h

theorem Keeps.drainAll (hl : Proofs.drainParts ⊆ l) : Keeps l s (Sys2Proof.Machine.drainAll t) :=
  Keeps.foldS (fun _ _ k => k.drainIf hl) _ (Keeps.foldS (fun _ _ k => k.drainEntries hl) _ h)

end Drains

/-! ### What a drain leaves in the line buffers -/

/-- Every line of `t`'s buffers stands in `s`'s buffer of the same channel, under the same key. -/
def LbKept (s t : State) : Prop := ∀ c, ∀ l ∈ (t.chan c).lb, ∃ m ∈ (s.chan c).lb, m.enc = l.enc ∧ m.slot = l.slot

theorem LbKept.refl (s : State) : LbKept s s := fun _ l hl => ⟨l, hl, rfl, rfl⟩

theorem LbKept.trans {s t u : State} (h : LbKept s t) (k : LbKept t u) : LbKept s u := fun c l hl => by
  obtain ⟨m, hm, he, hs⟩ := k c l hl
  obtain ⟨n, hn, he', hs'⟩ := h c m hm
  exact ⟨n, hn, he'.trans he, hs'.trans hs⟩

section Buffers

variable {s t : State} (h : LbKept s t)
include h

theorem LbKept.of_keeps {l : List Part} {u : State} (k : Keeps l t u) (hl : Part.chans ∉ l) : LbKept s u := fun c x hx => by
  rw [k.chan_eq hl] at hx
  exact h c x hx

theorem LbKept.setChan {c : Nat} {v : Chan} (hv : ∀ x ∈ v.lb, ∃ m ∈ (t.chan c).lb, m.enc = x.enc ∧ m.slot = x.slot) :
    LbKept s (t.setChan c v) := h.trans (fun d x hx => by
  by_cases e : d = c
  · subst e
    rw [chan_setChan] at hx
    exact hv x hx
  · rw [chan_setChan_ne _ _ _ _ e] at hx
    exact ⟨x, hx, rfl, rfl⟩)

theorem LbKept.modChan {c : Nat} {g : Chan → Chan} (hg : ∀ ch, (g ch).lb = ch.lb) : LbKept s (t.modChan c g) :=
  h.setChan (fun x hx => ⟨x, hg _ ▸ hx, rfl, rfl⟩)

theorem LbKept.perf (ev i k : Nat) : LbKept s (Sys2Proof.Machine.perf t ev i k) :=
  h.of_keeps (l := [.tel]) ((Keeps.refl _ t).perf _ _ _ (by decide)) (by decide)

theorem LbKept.cellWrite {x : Loc} {w : Half × Half} : LbKept s (Sys2Proof.Machine.cellWrite t x w) :=
  h.of_keeps (l := [.mem, .ecc]) ((Keeps.refl _ t).cellWrite (by decide) (by decide)) (by decide)

theorem LbKept.markStale {x : Loc} {me : Nat} : LbKept s (Sys2Proof.Machine.markStale t x me) :=
  h.modChan (fun _ => rfl)

theorem LbKept.countWr {c : Nat} : LbKept s (Sys2Proof.Machine.countWr t c) :=
  LbKept.perf (h.modChan (g := fun ch => { ch with wrBursts := ch.wrBursts + 1 }) (fun _ => rfl)) _ _ _

theorem LbKept.burstAt {x : Loc} {mask : Bool × Bool} {w : Half × Half} {me : Nat} :
    LbKept s (Sys2Proof.Machine.burstAt t x mask w me) := h.cellWrite.markStale.countWr

theorem LbKept.burst {x : Loc} {mask : Bool × Bool} {w : Half × Half} {me : Nat} :
    LbKept s (Sys2Proof.Machine.burst t x mask w me) := by
  rw [Proofs.burst_eq]
  split
  · exact (h.burstAt.of_keeps (l := [.mig]) ((Keeps.refl _ _).stagedFollows (by decide)) (by decide)).burstAt
  · exact h.burstAt

theorem LbKept.flushed {c line : Nat} : LbKept s (Sys2Proof.Machine.flushed t c line) :=
  h.of_keeps (l := [.reqs]) ((Keeps.refl _ t).flushed (by decide)) (by decide)

theorem LbKept.setEccOf {c : Nat} {v : Ecc} : LbKept s (t.setEccOf c v) :=
  h.of_keeps (l := [.ecc]) ((Keeps.refl _ t).setEccOf (by decide)) (by decide)

theorem LbKept.applyCol {c col : Nat} {e : Entry} : LbKept s (Sys2Proof.Machine.applyCol t c e col) := by
  unfold Sys2Proof.Machine.applyCol
  dsimp only
  split
  · exact h.burstAt.of_keeps (l := [.mig, .tel]) ((Keeps.refl _ _).countCopied (by decide) (by decide)) (by decide)
  split
  · exact h.burst.setEccOf
  split
  · exact h.burst
  · exact h.burst.flushed

theorem LbKept.entryDrained {c col : Nat} {e : Entry} : LbKept s (Proofs.entryDrained t c e col) := by
  unfold Proofs.entryDrained
  dsimp only
  split
  · refine LbKept.of_keeps (l := [.reqs]) ?_ (Keeps.endReq (Keeps.refl _ _) (by decide)) (by decide)
    exact h.modChan (fun _ => rfl)
  · exact h.modChan (fun _ => rfl)

theorem LbKept.drainCol {sel : Entry → Nat → Bool} {c id col : Nat} : LbKept s (Proofs.drainCol sel c id t col) := by
  unfold Proofs.drainCol
  split
  · exact h
  split
  · exact h
  split
  · exact h.entryDrained.setEccOf
  · exact h.entryDrained.applyCol

end Buffers

theorem LbKept.foldl {α : Type} {s : State} {g : State → α → State} (hg : ∀ u x, LbKept s u → LbKept s (g u x))
    (xs : List α) : ∀ {t : State}, LbKept s t → LbKept s (xs.foldl g t) := by
  induction xs with
  | nil => exact fun h => h
  | cons x xs ih => exact fun h => ih (hg _ x h)

theorem LbKept.foldS {s : State} {g : State → Nat → State} (hg : ∀ u i, LbKept s u → LbKept s (g u i)) (xs : List Nat)
    {t : State} (h : LbKept s t) : LbKept s (Sys2Proof.Machine.foldS xs g t) := LbKept.foldl hg xs h

section Buffers

variable {s t : State} (h : LbKept s t)
include h

theorem LbKept.drainEntries {sel : Entry → Nat → Bool} {c : Nat} :
    LbKept s (Sys2Proof.Machine.drainEntries sel t c) := by
  rw [Proofs.drainEntries_eq]
  exact LbKept.foldl (fun _ _ k => LbKept.foldl (fun _ _ k => k.drainCol) _ k) _ h

theorem LbKept.cleaned {c line : Nat} : LbKept s (t.modChan c (fun ch => { ch with
    lb := ch.lb.map (fun x => if x.dpaLine = line then { x with dirty := false } else x) })) := by
  refine h.setChan (fun x hx => ?_)
  obtain ⟨m, hm, rfl⟩ := List.mem_map.mp hx
  refine ⟨m, hm, ?_, ?_⟩ <;> split <;> rfl

theorem LbKept.drainLine {c : Nat} {x : LbLine} : LbKept s (Sys2Proof.Machine.drainLine t c x) := by
  unfold Sys2Proof.Machine.drainLine
  dsimp only
  split
  · exact h.of_keeps (l := [.reqs]) ((Keeps.refl _ _).flushFenced (by decide)) (by decide)
  split
  · exact h.of_keeps (l := [.reqs]) ((Keeps.refl _ _).flushFenced (by decide)) (by decide)
  · refine LbKept.flushed (LbKept.cleaned (LbKept.burst (LbKept.perf ?_ _ _ _)))
    unfold countEnc
    split
    · exact (h.drainEntries.of_keeps (l := [.cip]) ((Keeps.refl _ _).setCip (by decide)) (by decide)).perf _ _ _
    · exact h.drainEntries

theorem LbKept.drainIf {sel : LbLine → Bool} {c : Nat} : LbKept s (Sys2Proof.Machine.drainIf sel t c) :=
  LbKept.foldl (fun _ _ k => k.drainLine) _ h

theorem LbKept.dropIf {sel : LbLine → Bool} {c : Nat} : LbKept s (Sys2Proof.Machine.dropIf sel t c) :=
  h.setChan (fun x hx => ⟨x, (List.mem_filter.mp hx).1, rfl, rfl⟩)

end Buffers

/-- A purge by key leaves no line that it picks: what is dropped in one channel does not return in a later one. -/
theorem purgeLines_purged {sel : LbLine → Bool} (hsel : ∀ x y : LbLine, x.enc = y.enc → x.slot = y.slot → sel x = sel y)
    (s : State) : ∀ c, c < 32 → ∀ x ∈ ((purgeLines sel s).chan c).lb, sel x = false := by
  suffices h : ∀ (xs : List Nat) (u : State) (c : Nat), (c ∈ xs ∨ ∀ x ∈ (u.chan c).lb, sel x = false) →
      ∀ x ∈ ((foldS xs (fun s c => dropIf sel (drainIf sel s c) c) u).chan c).lb, sel x = false from
    fun c hc => h _ s c (Or.inl (List.mem_range.mpr hc))
  intro xs
  induction xs with
  | nil =>
    intro u c h
    exact h.elim (fun hn => absurd hn List.not_mem_nil) id
  | cons d ds ih =>
    intro u c h
    refine ih _ c ?_
    by_cases e : c = d
    · subst e
      refine Or.inr (fun x hx => ?_)
      dsimp only at hx
      rw [Machine.dropIf, modChan_def, chan_setChan] at hx
      exact Bool.eq_false_iff.mpr (fun hs => by
        have := (List.mem_filter.mp hx).2
        rw [hs] at this
        exact Bool.false_ne_true this)
    · rcases h with h | h
      · exact Or.inl ((List.mem_cons.mp h).resolve_left e)
      · refine Or.inr (fun x hx => ?_)
        obtain ⟨m, hm, he, hs⟩ := (LbKept.refl u).drainIf.dropIf c x hx
        rw [← hsel m x he hs]
        exact h m hm

end Sys2Proof.Safety

/-! Zeroisation, test access, the device key and the life cycle (R302, R309–R312). -/

namespace Sys2Proof.Proofs

open Sys2Proof.Machine
open Sys2Proof.Safety

/-- What a fold makes true of each index that it passes, and never makes false, holds at its end. -/
theorem foldS_establishes {P : Nat → State → Prop} {g : State → Nat → State} (hset : ∀ s n, P n (g s n))
    (hkeep : ∀ s m n, P n s → P n (g s m)) (xs : List Nat) : ∀ (s : State) (n : Nat), n ∈ xs ∨ P n s →
    P n (foldS xs g s) := by
  induction xs with
  | nil => exact fun s n h => h.elim (fun hn => absurd hn List.not_mem_nil) id
  | cons x xs ih =>
    intro s n h
    refine ih _ n ?_
    rcases h with h | h
    · rcases List.mem_cons.mp h with rfl | h
      · exact Or.inr (hset s n)
      · exact Or.inl h
    · exact Or.inr (hkeep s x n h)

/-! ### Secrets -/

/-- An access path holds no session, no wrap words and no nonce. -/
def PathWiped (n : Nat) (s : State) : Prop := (s.path n).session = none ∧ (s.path n).wrap = [] ∧ (s.path n).nonce = none

/-- A path's secrets are overwritten. -/
def wipePath (s : State) (n : Nat) : State := (closeSession s n).modPath n (fun p => { p with nonce := none })

theorem wipePath_path (s : State) (n : Nat) :
    (wipePath s n).path n = { s.path n with session := none, wrap := [], nonce := none } := by
  rw [wipePath, closeSession, modPath_def, path_setPath, modPath_def, path_setPath]

theorem wipePath_path_ne (s : State) {n m : Nat} (h : n ≠ m) : (wipePath s m).path n = s.path n := by
  rw [wipePath, closeSession, modPath_def, path_setPath_ne _ _ _ _ h, modPath_def, path_setPath_ne _ _ _ _ h]

theorem pathWiped_wipePath (s : State) (n : Nat) : PathWiped n (wipePath s n) := by
  rw [PathWiped, wipePath_path]
  exact ⟨rfl, rfl, rfl⟩

theorem PathWiped.wipePath {s : State} {m n : Nat} (h : PathWiped n s) : PathWiped n (wipePath s m) := by
  by_cases e : n = m
  · subst e
    exact pathWiped_wipePath s n
  · rwa [PathWiped, wipePath_path_ne s e]

/-- The device key is overwritten. -/
def deviceKeyWiped (s : State) : State := { s with sec := { s.sec with devkey := none, devpub := (0, 0), keyDue := false } }

theorem wipeSecrets_eq (s : State) : wipeSecrets s = foldS (List.range 9) wipePath (deviceKeyWiped s) := rfl

theorem wipeSecrets_paths (s : State) {n : Nat} (h : n < 9) : PathWiped n (wipeSecrets s) :=
  foldS_establishes (P := PathWiped) pathWiped_wipePath (fun _ _ _ h => h.wipePath) _ _ n (Or.inl (List.mem_range.mpr h))

theorem keeps_wipePaths (s : State) : Keeps [.paths] s (foldS (List.range 9) wipePath s) :=
  Keeps.foldS (fun _ _ k => (k.setPath (by decide)).setPath (by decide)) _ (Keeps.refl _ s)

theorem wipeSecrets_sec (s : State) :
    (wipeSecrets s).sec = { s.sec with devkey := none, devpub := (0, 0), keyDue := false } :=
  keeps_wipePaths (deviceKeyWiped s) .sec (by decide)

theorem keeps_wipeSecrets (s : State) : Keeps [.sec, .paths] s (wipeSecrets s) :=
  Keeps.trans ((Keeps.refl _ s).setSec (by decide)) ((keeps_wipePaths (deviceKeyWiped s)).mono (by decide))

theorem wipeSlots_slots (s : State) : (wipeSlots s).slots = [] := rfl

theorem keeps_wipeSlots (s : State) : Keeps [.slots, .cip] s (wipeSlots s) := fun p hp => by
  cases p with
  | slots | cip => exact absurd (by decide) hp
  | _ => rfl

/-! ### Zeroisation -/

/-- The secrets that this zeroisation overwrites: a cipher fence keeps the device key and the sessions (R312). -/
def secretsWiped (s : State) : State := if s.sec.zKeep then s else wipeSecrets s

/-- The draws of every channel start again. -/
def drawsReset (s : State) : State := foldS (List.range 32) (fun s c => s.modChan c (fun ch => { ch with draws := 0 })) s

/-- Zeroised, before the end is judged. -/
def zeroised (s : State) : State := drawsReset (secretsWiped (wipeSlots (purgeLines (fun l => l.enc) s)))

/-- The verified end: the gate that waits opens. -/
def zeroiseVerified (s : State) : State :=
  { s with sec := { s.sec with
      zst := .done
      zcount := sat s.sec.zcount 1
      wanted := none
      gate := s.sec.gate || s.sec.wanted.isSome
      gateKind := match s.sec.wanted with | some k => kindCode k | none => s.sec.gateKind } }

def zeroiseFailed (s : State) : State := raise { s with sec := { s.sec with zst := .failed, wanted := none } } 0x3C 0

theorem zeroiseVerified_sec (s : State) : (zeroiseVerified s).sec = { s.sec with
    zst := .done
    zcount := sat s.sec.zcount 1
    wanted := none
    gate := s.sec.gate || s.sec.wanted.isSome
    gateKind := match s.sec.wanted with | some k => kindCode k | none => s.sec.gateKind } := rfl

theorem zeroiseVerified_slots (s : State) : (zeroiseVerified s).slots = s.slots := rfl

theorem zeroiseVerified_path (s : State) (n : Nat) : (zeroiseVerified s).path n = s.path n := rfl

theorem zeroiseVerified_chan (s : State) (c : Nat) : (zeroiseVerified s).chan c = s.chan c := rfl

theorem zeroiseFailed_sec (s : State) : (zeroiseFailed s).sec = { s.sec with zst := .failed, wanted := none } := rfl

theorem zeroiseFailed_slots (s : State) : (zeroiseFailed s).slots = s.slots := rfl

theorem zeroiseFailed_flt (s : State) : (zeroiseFailed s).flt =
    { s.flt with detected := s.flt.detected ++ [{ src := 0x3C, inst := 0, detail := 0 }] } := rfl

/-- The end of zeroisation, as it was verified or not. -/
def zeroiseEnd (v : Bool) (s : State) : State := if v then zeroiseVerified s else zeroiseFailed s

theorem exec_zeroisationDone {s : State} (hz : s.sec.zst = .clearing) (hb : encBusy s = false) (v : Bool) :
    exec (.zeroisationDone v) s = answer s (judgeWaiting (zeroiseEnd v (zeroised s))) := by
  refine congrArg (answer s) ((if_pos ?_).trans ?_)
  · rw [hz, hb]
    rfl
  · unfold zeroised drawsReset secretsWiped
    dsimp only
    generalize foldS (List.range 32) (fun s c => s.modChan c (fun ch => { ch with draws := 0 })) _ = u
    rfl

/-- The parts that the end of zeroisation touches. -/
def zeroiseParts : List Part := [.slots, .cip, .chans, .mem, .ecc, .reqs, .tel, .mig, .sec, .paths, .flowRt]

theorem keeps_purge (s : State) : Keeps drainParts s (purgeLines (fun l => l.enc) s) :=
  (Keeps.refl _ s).purgeLines (List.Subset.refl _)

theorem keeps_secretsWiped (s : State) : Keeps [.sec, .paths] s (secretsWiped s) :=
  Keeps.ite (Keeps.refl _ s) (keeps_wipeSecrets s)

theorem keeps_drawsReset (s : State) : Keeps [.chans] s (drawsReset s) :=
  Keeps.foldS (fun _ _ k => k.setChan (by decide)) _ (Keeps.refl _ s)

theorem lbKept_drawsZero {s t : State} (h : LbKept s t) (c : Nat) :
    LbKept s (t.modChan c (fun ch => { ch with draws := 0 })) := h.modChan (fun _ => rfl)

theorem lbKept_drawsReset (s : State) : LbKept s (drawsReset s) :=
  LbKept.foldS (fun _ c k => lbKept_drawsZero k c) (List.range 32) (LbKept.refl s)

/-- Purged, and every slot EMPTY. -/
def slotsPurged (s : State) : State := wipeSlots (purgeLines (fun l => l.enc) s)

theorem zeroised_eq (s : State) : zeroised s = drawsReset (secretsWiped (slotsPurged s)) := rfl

theorem keeps_slotsPurged (s : State) : Keeps [.slots, .cip, .chans, .mem, .ecc, .reqs, .tel, .mig] s (slotsPurged s) := by
  have k := (keeps_purge s).mono (k := [.slots, .cip, .chans, .mem, .ecc, .reqs, .tel, .mig]) (by decide)
  exact k.trans ((keeps_wipeSlots _).mono (by decide))

/-- What the secrets and the draws leave of a state. -/
theorem keeps_secretsDraws (s : State) : Keeps [.sec, .paths, .chans] s (drawsReset (secretsWiped s)) := by
  have k := (keeps_secretsWiped s).mono (k := [.sec, .paths, .chans]) (by decide)
  exact k.trans ((keeps_drawsReset _).mono (by decide))

theorem keeps_zeroised (s : State) : Keeps zeroiseParts s (zeroised s) := by
  have k := (keeps_slotsPurged s).mono (k := zeroiseParts) (by decide)
  rw [zeroised_eq]
  exact k.trans ((keeps_secretsDraws _).mono (by decide))

theorem zeroised_slots (s : State) : (zeroised s).slots = [] := by
  rw [zeroised_eq, keeps_secretsDraws _ .slots (by decide), slotsPurged, wipeSlots_slots]

/-- Before the secrets go, the security part is as it was. -/
theorem slotsPurged_sec (s : State) : (slotsPurged s).sec = s.sec := keeps_slotsPurged s .sec (by decide)

theorem zeroised_sec (s : State) : (zeroised s).sec = (secretsWiped (slotsPurged s)).sec := by
  rw [zeroised_eq, keeps_drawsReset _ .sec (by decide)]

theorem secretsWiped_eq {s : State} (h : s.sec.zKeep = false) : secretsWiped s = wipeSecrets s :=
  if_neg (Bool.eq_false_iff.mp h)

theorem zeroised_gate (s : State) : (zeroised s).sec.gate = s.sec.gate := by
  rw [zeroised_sec, ← slotsPurged_sec s]
  unfold secretsWiped
  split
  · rfl
  · rw [wipeSecrets_sec]

theorem zeroised_sec_of_all {s : State} (h : s.sec.zKeep = false) :
    (zeroised s).sec = { s.sec with devkey := none, devpub := (0, 0), keyDue := false } := by
  rw [zeroised_sec, secretsWiped_eq (by rw [slotsPurged_sec, h]), wipeSecrets_sec, slotsPurged_sec]

theorem zeroised_paths {s : State} (h : s.sec.zKeep = false) {n : Nat} (hn : n < 9) : PathWiped n (zeroised s) := by
  unfold PathWiped
  rw [zeroised_eq, (keeps_drawsReset _).path_eq (by decide), secretsWiped_eq (by rw [slotsPurged_sec, h])]
  exact wipeSecrets_paths _ hn

theorem zeroised_lb (s : State) {c : Nat} (hc : c < 32) : ∀ l ∈ ((zeroised s).chan c).lb, l.enc = false := by
  intro l hl
  have hw : LbKept (purgeLines (fun l => l.enc) s) (slotsPurged s) :=
    (LbKept.refl _).of_keeps (keeps_wipeSlots _) (by decide)
  have hk : LbKept (purgeLines (fun l => l.enc) s) (zeroised s) :=
    (hw.of_keeps (keeps_secretsWiped _) (by decide)).trans (lbKept_drawsReset _)
  obtain ⟨m, hm, he, -⟩ := hk c l hl
  rw [← he]
  exact purgeLines_purged (fun _ _ he _ => he) s c hc m hm

/-- Nothing but requests and their flows is judged after zeroisation. -/
theorem keeps_judgeWaiting (s : State) : Keeps [.reqs, .flowRt] s (judgeWaiting s) :=
  Keeps.foldl (fun _ _ k => k.failReq (by decide) (by decide)) _ (Keeps.refl _ s)

/-! ### The life cycle -/

/-- The controller's queue and goal as an advance to `target` sets them. -/
def lcAsked (s : State) (target : BitVec 2) : State := s.setFus { s.fus with lcGoal := target, queue := [.lifeCycle] }

/-- The first job of the controller is taken up. -/
def lcTaken (s : State) (target : BitVec 2) : State := s.setFus { s.fus with lcGoal := target, queue := [] }

theorem lcAdvance_starts {s : State} {target : BitVec 2} (hf : s.flt.fatal = false) (ho : s.fus.op = none)
    (hq : s.fus.queue = []) (hg : s.fus.lcGoal ≤ target) : lcAdvance s target = startJob (lcTaken s target) .lifeCycle := by
  have hgoal : (if s.fus.lcGoal < target then target else s.fus.lcGoal) = target := by
    split
    · rfl
    · next h => exact BitVec.le_antisymm hg (BitVec.not_lt.mp h)
  have ha : lcAdvance s target = startNext (lcAsked s target) := by
    rw [lcAdvance, State.modFus, hgoal, hq]
    rfl
  have hj : jobReady (lcAsked s target) .lifeCycle = true := by
    show (!s.flt.fatal) = true
    rw [hf]
    rfl
  have hfind : (lcAsked s target).fus.queue.find? (jobReady (lcAsked s target)) = some .lifeCycle := by
    show List.find? _ [FuseJob.lifeCycle] = _
    rw [List.find?_cons, hj]
  have hop : ¬ ((lcAsked s target).fus.op.isSome) = true := by
    show ¬ (s.fus.op.isSome) = true
    rw [ho]
    exact Bool.false_ne_true
  rw [ha, startNext, if_neg hop, hfind]
  rfl

/-- The next life-cycle word and those behind it. -/
theorem lifeCycle_words {n m : Nat} (hn : n < m) (hm : m ≤ 3) :
    ∃ rest, (List.range 3).filter (fun w => decide (n ≤ w) && decide (w < m)) = n :: rest := by
  obtain rfl | rfl | rfl : m = 1 ∨ m = 2 ∨ m = 3 := by omega
  · obtain rfl : n = 0 := by omega
    exact ⟨_, rfl⟩
  · obtain rfl | rfl : n = 0 ∨ n = 1 := by omega
    · exact ⟨_, rfl⟩
    · exact ⟨_, rfl⟩
  · obtain rfl | rfl | rfl : n = 0 ∨ n = 1 ∨ n = 2 := by omega
    · exact ⟨_, rfl⟩
    · exact ⟨_, rfl⟩
    · exact ⟨_, rfl⟩

theorem lcWords_lcTaken (s : State) (target : BitVec 2) : lcWords (lcTaken s target).fus = lcWords s.fus := rfl

theorem startJob_lifeCycle {s : State} (h : lcWords s.fus < s.fus.lcGoal.toNat) : ∃ rest,
    startJob s .lifeCycle = startOp s (mkOp s .lifeCycle 3 (lcWords s.fus) (secdedWord 0xFFFFFF) rest) := by
  obtain ⟨rest, hr⟩ := lifeCycle_words h (Nat.le_of_lt_succ s.fus.lcGoal.isLt)
  refine ⟨rest.map (fun x => (3, x, secdedWord 0xFFFFFF)), ?_⟩
  rw [startJob, hr]

theorem secCtrlWrite_advance {data : Word} {s : State} (hz : data.getLsbD 23 = false) (ha : data.getLsbD 22 = true)
    (hl : s.sec.lc < data.extractLsb' 20 2) : secCtrlWrite data s = (.ok, lcAdvance s (data.extractLsb' 20 2)) := by
  have hn : ¬ (data.getLsbD 22 && decide (data.extractLsb' 20 2 ≤ s.sec.lc)) = true := by
    rw [decide_eq_false (BitVec.not_le.mpr hl), Bool.and_false]
    exact Bool.false_ne_true
  refine (if_neg hn).trans ?_
  rw [hz, ha]
  rfl

theorem secCtrlWrite_zeroise {data : Word} (hz : data.getLsbD 23 = true) (ha : data.getLsbD 22 = false) (s : State) :
    secCtrlWrite data s = (.ok, { s with sec := { s.sec with zst := .clearing, zKeep := false } }) := by
  have hk : startZeroise s false = { s with sec := { s.sec with zst := .clearing, zKeep := false } } := by
    rw [startZeroise, Bool.and_false, ite_self]
  unfold secCtrlWrite
  dsimp only
  rw [ha, hz, hk]
  rfl

theorem startZeroise_all (s : State) :
    startZeroise s false = { s with sec := { s.sec with zst := .clearing, zKeep := false } } := by
  rw [startZeroise, Bool.and_false, ite_self]

theorem exec_testAccessRequest {s : State} {kind : TestKind} (hk : kind = .cipherBist ∨ s.sec.lc = 0)
    (hg : s.sec.gate = false) : exec (.testAccessRequest kind) s =
      answer s { s with sec := { s.sec with wanted := some kind, zst := .clearing, zKeep := false } } := by
  refine congrArg (answer s) ((if_pos ?_).trans ?_)
  · rw [hg, Bool.false_and, Bool.not_false, Bool.and_true, Bool.or_eq_true, decide_eq_true_eq, decide_eq_true_eq]
    exact hk
  · dsimp only
    rw [if_neg (Bool.eq_false_iff.mp hg), startZeroise_all]

@[simp] theorem fin_sec (s t : State) : (fin s t).sec = t.sec := rfl
@[simp] theorem fin_slots (s t : State) : (fin s t).slots = t.slots := rfl
@[simp] theorem fin_path (s t : State) (n : Nat) : (fin s t).path n = t.path n := rfl

/-- Settles O53. -/
theorem zeroisationAndLifeCycle : Obligations.ZeroisationAndLifeCycle := by
  refine ⟨fun s via data h hz ha => answer_mgmtWrite h (secCtrlWrite_zeroise hz ha s),
    fun s kind hp hk hg => (exec_testAccessRequest hk hg).trans (answer_next hp rfl), fun s hp hz hb hk => ?_,
    fun s hp hz hb => ?_, fun s hp hg hk => ?_, fun s hp hl hk hg hz hb => ?_,
    fun s via data target h hz ha ht hlc hf ho hq hw hgl => ?_⟩
  · have kj : Keeps _ (zeroiseVerified (zeroised s)) (judgeWaiting (zeroiseEnd true (zeroised s))) := keeps_judgeWaiting _
    have kz := ((keeps_zeroised s).setSec (v := (zeroiseVerified (zeroised s)).sec) (by decide)).trans (kj.mono (by decide))
    refine ⟨_, (exec_zeroisationDone hz hb true).trans (answer_next hp rfl), ?_, ?_, fun n hn => ?_, ?_, ?_, ?_,
      fun c hc => ?_, kz.fin⟩
    · rw [fin_slots, kj .slots (by decide), zeroiseVerified_slots, zeroised_slots]
    · rw [fin_sec, kj .sec (by decide), zeroiseVerified_sec, zeroised_sec_of_all hk]
    · rw [fin_path, kj.path_eq (by decide), zeroiseVerified_path]
      exact zeroised_paths hk hn
    · rw [fin_sec, kj .sec (by decide), zeroiseVerified_sec]
    · rw [fin_sec, kj .sec (by decide), zeroiseVerified_sec, zeroised_sec_of_all hk]
    · rw [fin_sec, kj .sec (by decide), zeroiseVerified_sec, zeroised_sec_of_all hk]
    · rw [fin_chan, kj.chan_eq (by decide), zeroiseVerified_chan]
      exact zeroised_lb s hc
  · have kj : Keeps _ (zeroiseFailed (zeroised s)) (judgeWaiting (zeroiseEnd false (zeroised s))) := keeps_judgeWaiting _
    have kz := ((((keeps_zeroised s).mono (k := .flt :: zeroiseParts) (by decide)).setSec
      (v := { (zeroised s).sec with zst := .failed, wanted := none }) (by decide)).raise 0x3C 0 0 (by decide)).trans
      (kj.mono (by decide))
    refine ⟨_, (exec_zeroisationDone hz hb false).trans (answer_next hp rfl), ?_, ?_, ?_, ?_, (kz.mono (by decide)).fin⟩
    · rw [fin_slots, kj .slots (by decide), zeroiseFailed_slots, zeroised_slots]
    · rw [fin_sec, kj .sec (by decide), zeroiseFailed_sec]
    · rw [fin_sec, kj .sec (by decide), zeroiseFailed_sec, zeroised_gate]
    · rw [fin_flt, kj .flt (by decide), zeroiseFailed_flt, keeps_zeroised s .flt (by decide)]
  · exact answer_next hp ((if_pos hg).trans (if_neg hk))
  · have hc : (s.fus.loaded && s.sec.keyDue && !s.sec.gate && decide (s.sec.zst ≠ .clearing) && !bankBad s.fus 2) = true := by
      rw [hl, hk, hg, decide_eq_true hz, hb]
      rfl
    exact ⟨_, answer_next hp (if_pos hc), rfl, rfl, Keeps.fin ((Keeps.refl _ s).setSec (by decide))⟩
  · subst ht
    obtain ⟨rest, hj⟩ := startJob_lifeCycle (s := lcTaken s (data.extractLsb' 20 2)) hw
    have hx := (secCtrlWrite_advance hz ha hlc).trans
      (congrArg (Prod.mk Status.ok) ((lcAdvance_starts hf ho hq hgl).trans hj))
    have kr := Keeps.respond (l := [.ports]) (Keeps.refl _ (startOp (lcTaken s (data.extractLsb' 20 2))
      (mkOp (lcTaken s (data.extractLsb' 20 2)) .lifeCycle 3 (lcWords (lcTaken s (data.extractLsb' 20 2)).fus)
        (secdedWord 0xFFFFFF) rest)))
      (via := via) (w := true) (a := addrOf .sec 1) (st := .ok) (d := 0) (by decide)
    refine ⟨_, mkOp (lcTaken s (data.extractLsb' 20 2)) .lifeCycle 3
      (lcWords (lcTaken s (data.extractLsb' 20 2)).fus) (secdedWord 0xFFFFFF) rest, answer_mgmtWrite h hx, ?_, ?_, rfl, rfl, rfl, rfl, ?_, ?_⟩
    · rw [fin_fus, kr .fus (by decide)]
      rfl
    · rw [fin_fus, kr .fus (by decide)]
      rfl
    · rw [fin_fus, kr .fus (by decide)]
      rfl
    · exact ((((Keeps.refl _ s).setFus (by decide)).setFus (by decide)).respond (by decide)).fin

end Sys2Proof.Proofs

/-! Sessions, wrap buffers and key slots (R303–R307, R316, R317). -/

namespace Sys2Proof.Safety

open Sys2Proof.Machine

/-! ### Requests that a drain leaves under the keys of theirs -/

/-- Every request of `s` stands in `t` under the same key. -/
def ReqsKept (s t : State) : Prop :=
  ∀ r ∈ s.reqs, ∃ x ∈ t.reqs, x.enc = r.enc ∧ x.slot = r.slot ∧ x.gen = r.gen

theorem ReqsKept.refl (s : State) : ReqsKept s s := fun r hr => ⟨r, hr, rfl, rfl, rfl⟩

section Requests

variable {s t : State} (h : ReqsKept s t)
include h

theorem ReqsKept.of_keeps {l : List Part} {u : State} (k : Keeps l t u) (hl : Part.reqs ∉ l) : ReqsKept s u := fun r hr => by
  have e : u.reqs = t.reqs := k .reqs hl
  rw [e]
  exact h r hr

theorem ReqsKept.map {g : Req → Req} (hg : ∀ r, (g r).enc = r.enc ∧ (g r).slot = r.slot ∧ (g r).gen = r.gen) :
    ReqsKept s { t with reqs := t.reqs.map g } := fun r hr => by
  obtain ⟨x, hx, he, hs, hn⟩ := h r hr
  obtain ⟨ge, gs, gn⟩ := hg x
  exact ⟨g x, List.mem_map_of_mem hx, ge.trans he, gs.trans hs, gn.trans hn⟩

theorem ReqsKept.endReq {id : Nat} {st : Status} : ReqsKept s (Sys2Proof.Machine.endReq t id st) :=
  h.map (fun r => by split <;> exact ⟨rfl, rfl, rfl⟩)

theorem ReqsKept.flushFenced {c line : Nat} : ReqsKept s (Sys2Proof.Machine.flushFenced t c line) :=
  h.map (fun r => by split <;> exact ⟨rfl, rfl, rfl⟩)

theorem ReqsKept.ite {p : Prop} [Decidable p] {u : State} (k : ReqsKept s u) : ReqsKept s (if p then t else u) := by
  split
  · exact h
  · exact k

theorem ReqsKept.flushed {c line : Nat} : ReqsKept s (Sys2Proof.Machine.flushed t c line) := by
  unfold Sys2Proof.Machine.flushed
  exact ReqsKept.ite h (h.map (fun _ => ⟨rfl, rfl, rfl⟩))

theorem ReqsKept.setEccOf {c : Nat} {v : Ecc} : ReqsKept s (t.setEccOf c v) :=
  h.of_keeps (l := [.ecc]) ((Keeps.refl _ t).setEccOf (by decide)) (by decide)

theorem ReqsKept.setChan {c : Nat} {v : Chan} : ReqsKept s (t.setChan c v) :=
  h.of_keeps (l := [.chans]) ((Keeps.refl _ t).setChan (by decide)) (by decide)

theorem ReqsKept.perf {ev i k : Nat} : ReqsKept s (Sys2Proof.Machine.perf t ev i k) :=
  h.of_keeps (l := [.tel]) (Keeps.perf _ _ _ (Keeps.refl _ t) (by decide)) (by decide)

theorem ReqsKept.burstAt {x : Loc} {mask : Bool × Bool} {w : Half × Half} {me : Nat} :
    ReqsKept s (Sys2Proof.Machine.burstAt t x mask w me) :=
  ReqsKept.perf (ReqsKept.setChan (ReqsKept.setChan
    (h.of_keeps (l := [.mem, .ecc]) ((Keeps.refl _ t).cellWrite (by decide) (by decide)) (by decide))))

theorem ReqsKept.burst {x : Loc} {mask : Bool × Bool} {w : Half × Half} {me : Nat} :
    ReqsKept s (Sys2Proof.Machine.burst t x mask w me) := by
  rw [Proofs.burst_eq]
  split
  · exact ReqsKept.burstAt (h.burstAt.of_keeps (l := [.mig]) ((Keeps.refl _ _).stagedFollows (by decide)) (by decide))
  · exact h.burstAt

theorem ReqsKept.applyCol {c col : Nat} {e : Entry} : ReqsKept s (Sys2Proof.Machine.applyCol t c e col) := by
  unfold Sys2Proof.Machine.applyCol
  dsimp only
  split
  · exact h.burstAt.of_keeps (l := [.mig, .tel]) ((Keeps.refl _ _).countCopied (by decide) (by decide)) (by decide)
  split
  · exact h.burst.setEccOf
  split
  · exact h.burst
  · exact h.burst.flushed

theorem ReqsKept.entryDrained {c col : Nat} {e : Entry} : ReqsKept s (Proofs.entryDrained t c e col) := by
  unfold Proofs.entryDrained
  dsimp only
  split
  · exact ReqsKept.endReq h.setChan
  · exact h.setChan

theorem ReqsKept.drainCol {sel : Entry → Nat → Bool} {c id col : Nat} : ReqsKept s (Proofs.drainCol sel c id t col) := by
  unfold Proofs.drainCol
  split
  · exact h
  split
  · exact h
  split
  · exact h.entryDrained.setEccOf
  · exact h.entryDrained.applyCol

end Requests

theorem ReqsKept.foldl {α : Type} {s : State} {g : State → α → State} (hg : ∀ u x, ReqsKept s u → ReqsKept s (g u x))
    (xs : List α) : ∀ {t : State}, ReqsKept s t → ReqsKept s (xs.foldl g t) := by
  induction xs with
  | nil => exact fun h => h
  | cons x xs ih => exact fun h => ih (hg _ x h)

section Requests

variable {s t : State} (h : ReqsKept s t)
include h

theorem ReqsKept.drainEntries {sel : Entry → Nat → Bool} {c : Nat} :
    ReqsKept s (Sys2Proof.Machine.drainEntries sel t c) := by
  rw [Proofs.drainEntries_eq]
  exact ReqsKept.foldl (fun _ _ k => ReqsKept.foldl (fun _ _ k => k.drainCol) _ k) _ h

theorem ReqsKept.countEnc {e : Bool} : ReqsKept s (Sys2Proof.Machine.countEnc t e) := by
  unfold Sys2Proof.Machine.countEnc
  split
  · exact ReqsKept.perf (h.of_keeps (l := [.cip]) ((Keeps.refl _ _).setCip (by decide)) (by decide))
  · exact h

theorem ReqsKept.drainLine {c : Nat} {x : LbLine} : ReqsKept s (Sys2Proof.Machine.drainLine t c x) := by
  unfold Sys2Proof.Machine.drainLine
  dsimp only
  split
  · exact h.flushFenced
  split
  · exact h.flushFenced
  · exact ReqsKept.flushed (ReqsKept.setChan (ReqsKept.burst (ReqsKept.perf h.drainEntries.countEnc)))

theorem ReqsKept.purgeLines {sel : LbLine → Bool} : ReqsKept s (Sys2Proof.Machine.purgeLines sel t) :=
  ReqsKept.foldl (fun _ _ k => ReqsKept.setChan (ReqsKept.foldl (fun _ _ k => k.drainLine) _ k)) _ h

end Requests

end Sys2Proof.Safety

namespace Sys2Proof.Proofs

open Sys2Proof.Machine
open Sys2Proof.Safety

/-! ### Sessions -/

theorem heldValue_nil (i n : Nat) : heldValue [] i n = 0 := by
  have h : ∀ xs : List Nat, xs.foldl (fun a k => a + (tget (0 : Word) [] (i + k)).toNat * 2 ^ (24 * k)) 0 = 0 := by
    intro xs
    induction xs with
    | nil => rfl
    | cons x xs ih =>
      have hz : (0 : Word).toNat = 0 := rfl
      rw [List.foldl_cons, tget, hz, Nat.zero_mul, Nat.add_zero]
      exact ih
  exact h _

theorem ecdsaVerify_zero (qx qy s : Nat) (digest : List Nat) : ecdsaVerify qx qy 0 s digest = false := by
  rw [ecdsaVerify, decide_eq_false (Nat.lt_irrefl 0), Bool.and_false]
  simp only [Bool.false_and]

/-- A signature that verifies is not blank. -/
theorem sig_of_sessionKey {s : State} {n : Nat} {key : BitVec 256} (h : sessionKey s n = some key) :
    (s.path n).sig ≠ [] := by
  intro hs
  unfold sessionKey at h
  dsimp only at h
  rw [hs, heldValue_nil] at h
  split at h
  · rw [ecdsaVerify_zero, Bool.and_false, if_neg Bool.false_ne_true] at h
    cases h
  · cases h

/-- A session that opens consumes the nonce and keeps the key on the path. -/
theorem sessionTry_some {s : State} {n : Nat} {key : BitVec 256} (h : sessionKey s n = some key) :
    sessionTry n s = (.ok, s.setPath n { s.path n with nonce := none, session := some key }) := by
  have hne : { s.path n with nonce := none } ≠ ({} : Path) := fun e => sig_of_sessionKey h (congrArg Path.sig e)
  rw [sessionTry, h]
  dsimp only
  rw [modPath_def, modPath_def, path_setPath, State.setPath, State.setPath, tset_tset _ _ _ _ _ hne]
  rfl

theorem sessionTry_none {s : State} {n : Nat} (h : sessionKey s n = none) :
    sessionTry n s = (.refused, s.setPath n { s.path n with nonce := none }) := by
  rw [sessionTry, h]
  rfl

theorem secSessionWrite_open {n : Nat} {data : Word} (ho : data.getLsbD 23 = true) (hc : data.getLsbD 22 = false)
    (s : State) : secSessionWrite n data s = sessionTry n s := by
  unfold secSessionWrite
  rw [hc, ho]
  rfl

theorem secSessionWrite_close {n : Nat} {data : Word} {s : State} (ho : data.getLsbD 23 = false)
    (hc : data.getLsbD 22 = true) (hs : (s.path n).session.isSome = true) :
    secSessionWrite n data s = (.ok, s.setPath n { s.path n with session := none, wrap := [] }) := by
  unfold secSessionWrite sessionOpen
  rw [hc, ho, hs]
  rfl

/-! ### Key slots -/

theorem exec_secPeerSigWrite {off : Nat} (hlo : 0x10 ≤ off) (hhi : off < 0x50) (via : Via) (data : Word) (s : State) :
    exec (.secPeerSigWrite via off data) s = answer s (mgmtWrite s via .sec off data (peerSigWrite via.port off data)) := by
  refine congrArg (answer s) (if_pos ?_)
  rw [decide_eq_true hlo, decide_eq_true hhi]
  rfl

theorem exec_wrapWordWrite {i : Nat} (hi : i < 24) (via : Via) (data : Word) (s : State) :
    exec (.wrapWordWrite via i data) s = answer s (mgmtWrite s via .cip (0x10 + i) data (wrapWrite via.port i data)) :=
  congrArg (answer s) (if_pos hi)

/-- The state in which a load is judged: the wrap buffer is zeroised and the slot named. -/
def loadNamed (s : State) (n i : Nat) : State :=
  { s.setPath n { s.path n with wrap := [] } with cip := { s.cip with slot := BitVec.ofNat 12 i } }

theorem slotLoad_ok {s : State} {n i : Nat} (hc : s.cip.cmd = none) (hf : s.cip.fenced = false)
    (ho : (loadOutcome s i n).1 = 1) : slotLoad n i s = (.ok, { loadNamed s n i with cip := { (loadNamed s n i).cip with
      cmd := some { slot := i, load := some ((loadOutcome s i n).2, n) } } }) := by
  unfold slotLoad
  rw [hc]
  dsimp only
  rw [if_neg (by decide), if_neg (fun h => h ho)]
  exact if_neg (Bool.eq_false_iff.mp hf)

theorem slotLoad_refused {s : State} {n i : Nat} (hc : s.cip.cmd = none) (ho : (loadOutcome s i n).1 ≠ 1) :
    slotLoad n i s = (.refused, setCipResult (loadNamed s n i) (loadOutcome s i n).1) := by
  unfold slotLoad
  rw [hc]
  dsimp only
  rw [if_neg (by decide)]
  exact if_pos ho

theorem slotCmdWrite_load {n : Nat} {data : Word} (hl : data.getLsbD 23 = true) (hc : data.getLsbD 22 = false) (s : State) :
    slotCmdWrite n data s = slotLoad n (data.extractLsb' 10 12).toNat s := by
  unfold slotCmdWrite
  rw [hl, hc]
  rfl

theorem slotCmdWrite_clear {n : Nat} {data : Word} {s : State} (hl : data.getLsbD 23 = false) (hc : data.getLsbD 22 = true)
    (hn : s.cip.cmd = none) : slotCmdWrite n data s = (.ok, { s with cip := { s.cip with
      slot := BitVec.ofNat 12 (data.extractLsb' 10 12).toNat
      cmd := some { slot := (data.extractLsb' 10 12).toNat, load := none } } }) := by
  unfold slotCmdWrite slotClear
  rw [hl, hc]
  simp only [Bool.false_eq_true, if_false, if_true, hn, Option.isSome_none]
  rfl

theorem keeps_loadNamed (s : State) (n i : Nat) : Keeps [.cip, .paths] s (loadNamed s n i) :=
  ((Keeps.refl _ s).setPath (by decide)).setCip (by decide)

theorem loadNamed_wrap (s : State) (n i : Nat) : ((loadNamed s n i).path n).wrap = [] := by
  show ((s.setPath n { s.path n with wrap := [] }).path n).wrap = []
  rw [path_setPath]

/-! ### The command done -/

/-- The lines that a slot's command writes back and drops. -/
def slotPurged (s : State) (i : Nat) : State :=
  if (s.slot i).valid then purgeLines (fun l => l.enc && l.slot = i) s else s

/-- The slot in its new state, and the command over. -/
def slotTaken (s : State) (c : SlotCmd) : State :=
  { setSlotState s c.slot c.load with cip := { s.cip with cmd := none, result := 1 } }

theorem exec_slotCommandDone {s : State} {c : SlotCmd} (h : s.cip.cmd = some c) :
    exec .slotCommandDone s = answer s (slotTaken (slotPurged s c.slot) c) := by
  show execSlotCommandDone s = _
  rw [execSlotCommandDone, h]
  rfl

theorem keeps_slotPurged (s : State) (i : Nat) : Keeps drainParts s (slotPurged s i) :=
  Keeps.ite ((Keeps.refl _ s).purgeLines (List.Subset.refl _)) (Keeps.refl _ s)

theorem reqsKept_slotPurged (s : State) (i : Nat) : ReqsKept s (slotPurged s i) :=
  ReqsKept.ite (ReqsKept.refl s).purgeLines (ReqsKept.refl s)

theorem keeps_slotTaken (s : State) (c : SlotCmd) : Keeps [.slots, .cip] s (slotTaken s c) :=
  Keeps.setCip (Keeps.setSlot (Keeps.refl _ s) (by decide)) (by decide)

/-- The slot that a load or a clear leaves. -/
def nextSlotState (s : State) (i : Nat) (ld : Option (BitVec 512 × Nat)) : KeySlot :=
  match ld with
  | some (key, n) =>
    { valid := true, gen := (s.slot i).gen + 1, port := BitVec.ofNat 3 n, kcv := keyCheck key, key := key,
      olds := oldKeys s i (s.slot i) }
  | none => { valid := false, gen := (s.slot i).gen + 1, port := 0, kcv := 0, key := 0, olds := oldKeys s i (s.slot i) }

theorem setSlotState_eq (s : State) (i : Nat) (ld : Option (BitVec 512 × Nat)) :
    setSlotState s i ld = s.setSlot i (nextSlotState s i ld) := rfl

theorem slotTaken_slot (s : State) (c : SlotCmd) : (slotTaken s c).slot c.slot = nextSlotState s c.slot c.load := by
  show (setSlotState s c.slot c.load).slot c.slot = _
  rw [setSlotState_eq, slot_setSlot]

theorem slotTaken_slot_ne (s : State) (c : SlotCmd) {k : Nat} (h : k ≠ c.slot) : (slotTaken s c).slot k = s.slot k := by
  show (setSlotState s c.slot c.load).slot k = _
  rw [setSlotState_eq, slot_setSlot_ne _ _ _ _ h]

theorem nextSlotState_gen (s : State) (i : Nat) (ld : Option (BitVec 512 × Nat)) :
    (nextSlotState s i ld).gen = (s.slot i).gen + 1 := by
  cases ld <;> rfl

theorem nextSlotState_olds (s : State) (i : Nat) (ld : Option (BitVec 512 × Nat)) :
    (nextSlotState s i ld).olds = oldKeys s i (s.slot i) := by
  cases ld <;> rfl

theorem tget_filter_key {α : Type} (d : α) {p : Nat → Bool} {k : Nat} (hp : p k = true) (t : Tbl α) :
    tget d (t.filter (fun e => p e.1)) k = tget d t k := by
  induction t with
  | nil => rfl
  | cons e t ih =>
    obtain ⟨j, v⟩ := e
    by_cases hj : j = k
    · subst hj
      rw [List.filter_cons_of_pos (p := fun e : Nat × α => p e.1) hp, tget, if_pos rfl, tget, if_pos rfl]
    · by_cases hq : p j = true
      · rw [List.filter_cons_of_pos (p := fun e : Nat × α => p e.1) hq, tget, if_neg hj, ih, tget, if_neg hj]
      · rw [List.filter_cons_of_neg (p := fun e : Nat × α => p e.1) hq, ih, tget, if_neg hj]

/-- The key of a generation that a request past lookup uses outlasts it (R307). -/
theorem keyOf_slotTaken {s : State} {c : SlotCmd} (h : genInUse s c.slot (s.slot c.slot).gen.toNat = true) :
    keyOf (slotTaken s c) c.slot (s.slot c.slot).gen = (s.slot c.slot).key := by
  have hg : (nextSlotState s c.slot c.load).gen ≠ (s.slot c.slot).gen := by
    rw [nextSlotState_gen]
    generalize (s.slot c.slot).gen = g
    bv_omega
  rw [keyOf, slotTaken_slot, if_neg hg, nextSlotState_olds, oldKeys, tget_filter_key 0 h, tget_tset_self]

theorem genInUse_of_req {s : State} {i : Nat} {g : BitVec 8}
    (h : ∃ r ∈ s.reqs, r.enc = true ∧ r.slot = i ∧ r.gen = g) : genInUse s i g.toNat = true := by
  obtain ⟨r, hr, he, hs, hg⟩ := h
  rw [genInUse, Bool.or_eq_true]
  refine Or.inl (List.any_eq_true.mpr ⟨r, hr, ?_⟩)
  rw [he, hs, hg, decide_eq_true rfl, decide_eq_true rfl]
  rfl

theorem nextSlotState_key (s : State) (i : Nat) (ld : Option (BitVec 512 × Nat)) :
    ((nextSlotState s i ld).valid, (nextSlotState s i ld).key) =
      (match ld with | some (key, _) => (true, key) | none => (false, 0)) := by
  cases ld <;> rfl

@[simp] theorem fin_cip (s t : State) : (fin s t).cip = t.cip := rfl
@[simp] theorem fin_slot (s t : State) (i : Nat) : (fin s t).slot i = t.slot i := rfl

theorem fin_keyOf (s t : State) (i : Nat) (g : BitVec 8) : keyOf (fin s t) i g = keyOf t i g := rfl

/-- Settles O52. -/
theorem sessionsAndSlots : Obligations.SessionsAndSlots := by
  refine ⟨fun s via h hg => ?_, fun s via off data hlo hhi h => ?_, fun s via data h ho hc => ?_,
    fun s via data h ho hc hs => ?_, fun s via i data hi h => ?_, fun s via data i h hl hc hi hf hn => ?_,
    fun s via data i h hl hc hi hn => ?_, fun s i ld hp hc => ?_⟩
  · exact answer_mgmtRead (f := nonceRead via.port) h rfl hg
  · refine (exec_secPeerSigWrite hlo hhi via data s).trans (answer_mgmtWrite h ?_)
    rfl
  · cases hk : sessionKey s via.port with
    | some key => exact answer_mgmtWrite h ((secSessionWrite_open ho hc s).trans (sessionTry_some hk))
    | none => exact answer_mgmtWrite h ((secSessionWrite_open ho hc s).trans (sessionTry_none hk))
  · exact answer_mgmtWrite h (secSessionWrite_close ho hc hs)
  · exact (exec_wrapWordWrite hi via data s).trans (answer_mgmtWrite h rfl)
  · subst hi
    by_cases hol : (loadOutcome s (data.extractLsb' 10 12).toNat via.port).1 = 1
    · exact ⟨_, .ok, answer_mgmtWrite h ((slotCmdWrite_load hl hc s).trans (slotLoad_ok hn hf hol)),
        loadNamed_wrap s _ (data.extractLsb' 10 12).toNat, rfl, fun _ => ⟨rfl, rfl⟩, fun hne => absurd hol hne,
        (keeps_loadNamed s via.port (data.extractLsb' 10 12).toNat).setCip (by decide)⟩
    · exact ⟨_, .refused, answer_mgmtWrite h ((slotCmdWrite_load hl hc s).trans (slotLoad_refused hn hol)),
        loadNamed_wrap s _ (data.extractLsb' 10 12).toNat, rfl, fun he => absurd he hol, fun _ => ⟨rfl, hn, rfl⟩,
        (keeps_loadNamed s via.port (data.extractLsb' 10 12).toNat).setCip (by decide)⟩
  · subst hi
    exact answer_mgmtWrite h (slotCmdWrite_clear hl hc hn)
  · have kp := keeps_slotPurged s i
    have es : (slotPurged s i).slot i = s.slot i := kp.slot_eq (by decide) i
    refine ⟨_, (exec_slotCommandDone hc).trans (answer_next hp rfl), rfl, rfl, ?_, fun hr => ?_, ?_, fun hv c hcl l hl => ?_,
      fun k hk => ?_, ?_⟩
    · rw [fin_slot, slotTaken_slot (slotPurged s i) ⟨i, ld⟩, nextSlotState_gen, es]
    · obtain ⟨r, hm, he, hs, hg⟩ := hr
      obtain ⟨x, hx, hxe, hxs, hxg⟩ := reqsKept_slotPurged s i r hm
      have hu := genInUse_of_req (g := (s.slot i).gen) ⟨x, hx, hxe.trans he, hxs.trans hs, hxg.trans hg⟩
      rw [← es] at hu ⊢
      rw [fin_keyOf]
      exact keyOf_slotTaken (c := ⟨i, ld⟩) hu
    · rw [fin_slot, slotTaken_slot (slotPurged s i) ⟨i, ld⟩]
      exact nextSlotState_key _ _ _
    · rintro ⟨he, hs⟩
      rw [fin_chan, (keeps_slotTaken _ _).chan_eq (by decide), slotPurged, if_pos hv] at hl
      have hn := purgeLines_purged (sel := fun l => l.enc && decide (l.slot = i))
        (fun x y hxe hxs => by rw [hxe, hxs]) s c hcl l hl
      rw [he, decide_eq_true hs] at hn
      exact Bool.false_ne_true hn.symm
    · rw [fin_slot, slotTaken_slot_ne _ _ hk]
      exact kp.slot_eq (by decide) k
    · exact ((kp.mono (by decide)).trans ((keeps_slotTaken _ _).mono (by decide))).fin

end Sys2Proof.Proofs

/-! The Logbook: records, rotation, clears and reads (R439–R443, R447). -/

namespace Sys2Proof.Proofs

open Sys2Proof.Machine
open Sys2Proof.Safety

/-! ### Words written at places of their own -/

/-- Words from index k on, each at the place that `place` gives its index. -/
def wordsPut (place : Nat → Nat) (m : Tbl Word) (ws : List Word) (k : Nat) : Tbl Word :=
  (ws.zipIdx k).foldl (fun m w => tset 0 m (place w.2) w.1) m

theorem wordsPut_cons (place : Nat → Nat) (m : Tbl Word) (w : Word) (ws : List Word) (k : Nat) :
    wordsPut place m (w :: ws) k = wordsPut place (tset 0 m (place k) w) ws (k + 1) := rfl

theorem wordsPut_other {place : Nat → Nat} {a : Nat} (ws : List Word) : ∀ (m : Tbl Word) (k : Nat),
    (∀ i, i < ws.length → a ≠ place (k + i)) → tget 0 (wordsPut place m ws k) a = tget 0 m a := by
  induction ws with
  | nil => exact fun _ _ _ => rfl
  | cons w ws ih =>
    intro m k h
    rw [wordsPut_cons, ih _ _ (fun i hi => ?_), tget_tset_ne _ _ (place k) _ _ (h 0 (Nat.succ_pos _))]
    have := h (i + 1) (by rw [List.length_cons]; omega)
    rwa [show k + (i + 1) = k + 1 + i by omega] at this

/-- Places that differ hold the words put there. -/
theorem wordsPut_at {place : Nat → Nat} {n : Nat} (hinj : ∀ i j, i < n → j < n → place i = place j → i = j)
    (ws : List Word) : ∀ (m : Tbl Word) (k : Nat), k + ws.length ≤ n → ∀ i, i < ws.length →
      tget 0 (wordsPut place m ws k) (place (k + i)) = ws.getD i 0 := by
  induction ws with
  | nil => exact fun _ _ _ i hi => absurd hi (Nat.not_lt_zero i)
  | cons w ws ih =>
    intro m k hk i hi
    rw [List.length_cons] at hk hi
    rw [wordsPut_cons]
    cases i with
    | zero =>
      rw [wordsPut_other _ _ _ (fun j hj e => ?_)]
      · exact tget_tset_self _ _ _ _
      · have := hinj (k + 0) (k + 1 + j) (by omega) (by omega) e
        omega
    | succ i =>
      rw [show k + (i + 1) = k + 1 + i by omega]
      exact ih _ _ (by omega) i (by omega)

/-- The place of word i of a record at `at_` in a circular region. -/
def place (lo hi at_ i : Nat) : Nat := lo + (at_ - lo + i) % (hi - lo)

theorem place_inj {lo hi at_ n : Nat} (hn : n ≤ hi - lo) : ∀ i j, i < n → j < n → place lo hi at_ i = place lo hi at_ j →
    i = j := by
  intro i j hi' hj h
  have hm : (at_ - lo + i) % (hi - lo) = (at_ - lo + j) % (hi - lo) := Nat.add_left_cancel h
  have hji : (j - i) % (hi - lo) = 0 := by
    rw [← Nat.add_sub_add_left (at_ - lo) j i]
    exact Nat.sub_mod_eq_zero_of_mod_eq hm.symm
  have hij : (i - j) % (hi - lo) = 0 := by
    rw [← Nat.add_sub_add_left (at_ - lo) i j]
    exact Nat.sub_mod_eq_zero_of_mod_eq hm
  rw [Nat.mod_eq_of_lt (by omega)] at hji hij
  omega

theorem logWrite_mem (s : State) (lo hi at_ : Nat) (ws : List Word) :
    (logWrite s lo hi at_ ws).log.mem = wordsPut (place lo hi at_) s.log.mem ws 0 := rfl

theorem keeps_logWrite (s : State) (lo hi at_ : Nat) (ws : List Word) : Keeps [.log] s (logWrite s lo hi at_ ws) :=
  (Keeps.refl _ s).setLog (by decide)

/-! ### Records -/

theorem recordWordsOf_length (r : LogRec) (stamp : W48) (i : Nat) : 1 ≤ (recordWordsOf r stamp i).length ∧
    (recordWordsOf r stamp i).length ≤ 259 := by
  simp only [recordWordsOf, words48, List.length_append, List.length_cons, List.length_nil, List.length_take]
  omega

/-- Every region holds a record whole. -/
theorem region_size {l : Log} {r : LogRec} {lo hi at_ : Nat} (h : r.region l = (lo, hi, at_)) : 259 ≤ hi - lo := by
  unfold LogRec.region at h
  split at h <;> (injection h with h1 h2; injection h2 with h2 _; omega)

/-- The heads of the regions after a record, and the tables that stand for the records that count. -/
def recordHeads (l : Log) (r : LogRec) (next : Nat) : Log :=
  match r with
  | .rank k v => { l with mHead := next, map := tput l.map k v }
  | .clear => { l with mHead := next, map := [] }
  | .survey k d => { l with sHead := next, sets := tput l.sets k d }
  | _ => { l with jHead := next }

/-- The parts of the Logbook that its heads leave alone. -/
theorem recordHeads_frame (l : Log) (r : LogRec) (next : Nat) : (recordHeads l r next).mem = l.mem ∧
    (recordHeads l r next).commits = l.commits ∧ (recordHeads l r next).credits = l.credits ∧
    (recordHeads l r next).waitMap = l.waitMap ∧ (recordHeads l r next).waitSet = l.waitSet ∧
    (recordHeads l r next).waitJrn = l.waitJrn := by
  cases r <;> exact ⟨rfl, rfl, rfl, rfl, rfl, rfl⟩

/-- The Logbook with the commit word of a record among those that count. -/
def committedLog (l : Log) (last : Nat) : Log := { l with commits := l.commits ++ [last] }

theorem writeRecord_log {s : State} {r : LogRec} {lo hi at_ : Nat} (h : r.region s.log = (lo, hi, at_)) (ws : List Word) :
    ∃ next, writeRecord s r ws = { logWrite s lo hi at_ ws with
      log := recordHeads (committedLog (logWrite s lo hi at_ ws).log (lo + (at_ - lo + ws.length - 1) % (hi - lo))) r next } := by
  refine ⟨lo + (at_ - lo + ws.length) % (hi - lo), ?_⟩
  unfold writeRecord
  rw [h]
  cases r <;> rfl

/-- A record in its region: its words, its commit word, and the bucket. -/
theorem writeRecord_spec {s : State} {r : LogRec} {lo hi at_ : Nat} (h : r.region s.log = (lo, hi, at_)) {ws : List Word}
    (hl : 1 ≤ ws.length) (hs : ws.length ≤ hi - lo) :
    (∀ i, i < ws.length → tget 0 (writeRecord s r ws).log.mem (place lo hi at_ i) = ws.getD i 0) ∧
    (∀ a, (∀ i, i < ws.length → a ≠ place lo hi at_ i) →
      tget 0 (writeRecord s r ws).log.mem a = tget 0 s.log.mem a) ∧
    place lo hi at_ (ws.length - 1) ∈ (writeRecord s r ws).log.commits ∧
    (writeRecord s r ws).log.credits = s.log.credits - ws.length ∧
    (writeRecord s r ws).log.waitMap = s.log.waitMap ∧ (writeRecord s r ws).log.waitSet = s.log.waitSet ∧
    (writeRecord s r ws).log.waitJrn = s.log.waitJrn ∧ Keeps [.log] s (writeRecord s r ws) := by
  obtain ⟨next, hw⟩ := writeRecord_log h ws
  obtain ⟨em, ec, er, e1, e2, e3⟩ := recordHeads_frame (committedLog (logWrite s lo hi at_ ws).log
    (lo + (at_ - lo + ws.length - 1) % (hi - lo))) r next
  rw [hw]
  dsimp only
  rw [em, ec, er, e1, e2, e3]
  refine ⟨fun i hi' => ?_, fun a ha => ?_, ?_, rfl, rfl, rfl, rfl, (keeps_logWrite s lo hi at_ ws).setLog (by decide)⟩
  · have := wordsPut_at (place_inj (at_ := at_) hs) ws s.log.mem 0 (by omega) i hi'
    rwa [Nat.zero_add] at this
  · exact wordsPut_other ws s.log.mem 0 (fun i hi' => by rw [Nat.zero_add]; exact ha i hi')
  · rw [show place lo hi at_ (ws.length - 1) = lo + (at_ - lo + ws.length - 1) % (hi - lo) by
      rw [place, Nat.add_sub_assoc hl]]
    exact List.mem_append_right _ (List.mem_singleton.mpr rfl)

/-- What is dropped from the queues is the record that was next. -/
theorem dropRecord_waits {s : State} {x : LogRec × W48} (h : nextRecordOf s = some x) :
    (dropRecord s).log.waitMap.length + (dropRecord s).log.waitSet.length + (dropRecord s).log.waitJrn.length + 1 =
      s.log.waitMap.length + s.log.waitSet.length + s.log.waitJrn.length := by
  unfold nextRecordOf at h
  unfold dropRecord
  dsimp only
  cases hm : s.log.waitMap with
  | cons a m =>
    rw [if_pos (List.cons_ne_nil _ _)]
    dsimp only
    simp only [List.drop_succ_cons, List.drop_zero, List.length_cons]
    omega
  | nil =>
    rw [if_neg (fun hn => hn rfl)]
    rw [hm] at h
    dsimp only at h
    cases hs : s.log.waitSet with
    | cons a m =>
      rw [if_pos (List.cons_ne_nil _ _)]
      dsimp only
      simp only [List.drop_succ_cons, List.drop_zero, List.length_cons, List.length_nil]
      omega
    | nil =>
      rw [if_neg (fun hn => hn rfl)]
      rw [hs] at h
      dsimp only at h ⊢
      split at h
      · cases hj : s.log.waitJrn with
        | nil =>
          rw [hj] at h
          cases h
        | cons a m =>
          simp only [List.drop_succ_cons, List.drop_zero, List.length_cons, List.length_nil]
          omega
      · cases h

theorem keeps_dropRecord (s : State) : Keeps [.log] s (dropRecord s) := (Keeps.refl _ s).setLog (by decide)

/-- The heads, the words and the bucket are as before. -/
theorem dropRecord_frame (s : State) : (dropRecord s).log.mem = s.log.mem ∧ (dropRecord s).log.credits = s.log.credits ∧
    (dropRecord s).log.mHead = s.log.mHead ∧ (dropRecord s).log.sHead = s.log.sHead ∧
    (dropRecord s).log.jHead = s.log.jHead := by
  unfold dropRecord
  dsimp only
  split
  · exact ⟨rfl, rfl, rfl, rfl, rfl⟩
  split
  · exact ⟨rfl, rfl, rfl, rfl, rfl⟩
  · exact ⟨rfl, rfl, rfl, rfl, rfl⟩

theorem region_of_heads {l m : Log} (hm : m.mHead = l.mHead) (hs : m.sHead = l.sHead) (hj : m.jHead = l.jHead) (r : LogRec) :
    r.region m = r.region l := by
  unfold LogRec.region
  rw [hm, hs, hj]

theorem exec_logbookRecordWrite {s : State} {r : LogRec} {stamp : W48} (hn : nextRecordOf s = some (r, stamp))
    (hc : (recordWordsOf r stamp s.freeIdx).length ≤ s.log.credits) : exec .logbookRecordWrite s =
      answer s (writeRecord (dropRecord (takeFree s).2) r (recordWordsOf r stamp s.freeIdx)) := by
  show execLogbookRecordWrite s = _
  rw [execLogbookRecordWrite, hn]
  exact congrArg (answer s) (if_pos hc)

/-! ### Clears -/

/-- Words zeroed one after the other. -/
def wordsZeroed (m : Tbl Word) (as : List Nat) : Tbl Word := as.foldl (fun m a => tset 0 m a 0) m

theorem tget_wordsZeroed (as : List Nat) : ∀ (m : Tbl Word) (a : Nat),
    tget 0 (wordsZeroed m as) a = if a ∈ as then 0 else tget 0 m a := by
  induction as with
  | nil => exact fun m a => (if_neg List.not_mem_nil).symm
  | cons b as ih =>
    intro m a
    have hu : wordsZeroed m (b :: as) = wordsZeroed (tset 0 m b 0) as := rfl
    rw [hu, ih]
    by_cases ha : a ∈ as
    · rw [if_pos ha, if_pos (List.mem_cons_of_mem _ ha)]
    · by_cases hb : a = b
      · subst hb
        rw [if_neg ha, if_pos List.mem_cons_self, tget_tset_self]
      · rw [if_neg ha, tget_tset_ne _ _ _ _ _ hb, if_neg (fun h => (List.mem_cons.mp h).elim hb ha)]

theorem ringCommits_pages : ringCommits 0 256 = (List.range 256).map (fun i => 6 * i + 5) := by
  simp only [ringCommits, Nat.zero_add, Nat.sub_zero]

theorem ringCommits_ring : ringCommits 256 4096 = (List.range 3840).map (fun i => 6 * (256 + i) + 5) := rfl

/-- What a clear of the commits in a region leaves: those outside it. -/
theorem filter_not_commitsIn (s : State) (lo hi : Nat) :
    s.log.commits.filter (fun a => !(commitsIn s lo hi).contains a) =
      s.log.commits.filter (fun a => !(decide (lo ≤ a) && decide (a < hi))) := by
  refine List.filter_congr (fun a ha => congrArg (!·) ?_)
  rw [Bool.eq_iff_iff, List.contains_iff_mem, commitsIn, List.mem_filter]
  exact ⟨fun h => h.2, fun h => ⟨ha, h⟩⟩

theorem logClearWrite_pages (s : State) : logClearWrite 0x800000 s =
    (.ok, startClear { s with flt := { s.flt with pagesUsed := 0, page := [] } } (ringCommits 0 256)) := rfl

theorem logClearWrite_ring (s : State) : logClearWrite 0x400000 s = (.ok, startClear s (ringCommits 256 4096)) := rfl

theorem logClearWrite_journal (s : State) : logClearWrite 0x200000 s = (.ok, startClear s (commitsIn s 32768 174080)) := rfl

/-- The training area's sets go with its commit words. -/
def trainingCleared (s : State) (as : List Nat) : State :=
  { startClear s as with log := { (startClear s as).log with sets := [] } }

theorem logClearWrite_training (s : State) :
    logClearWrite 0x100000 s = (.ok, trainingCleared s (commitsIn s 26624 32768)) := rfl

theorem logClearWrite_sparing (s : State) : logClearWrite 0x080000 s = (.ok, logSet s .clear) := rfl

@[simp] theorem fin_log (s t : State) : (fin s t).log = t.log := rfl

theorem respond_log (s : State) (via : Via) (w : Bool) (a : Word) (st : Status) (d : Word) :
    (respond s via w a st d).log = s.log :=
  (Keeps.respond (l := [.ports]) (Keeps.refl _ s) (by decide)) .log (by decide)

theorem startClear_log (s : State) (as : List Nat) : (startClear s as).log = { s.log with
    busy := true
    clearing := s.log.clearing ++ as
    commits := s.log.commits.filter (fun a => !as.contains a) } := rfl

theorem keeps_startClear (s : State) (as : List Nat) : Keeps [.log] s (startClear s as) :=
  (Keeps.refl _ s).setLog (by decide)

/-- Settles O51. -/
theorem logbook : Obligations.Logbook := by
  refine ⟨fun s r stamp ws lo hi at_ hp hn hw hc hr => ?_, fun s hp hg => answer_next hp (if_pos hg), fun s hp hb => ?_,
    fun s via h hg ha => ?_, fun s via h => ?_, fun s via h => ?_, fun s via h => ?_, fun s via h => ?_, fun s via h => ?_⟩
  · subst hw
    obtain ⟨hl, h259⟩ := recordWordsOf_length r stamp s.freeIdx
    obtain ⟨fm, fc, f1, f2, f3⟩ := dropRecord_frame (takeFree s).2
    have hr' : r.region (dropRecord (takeFree s).2).log = (lo, hi, at_) := (region_of_heads f1 f2 f3 r).trans hr
    obtain ⟨hat, hother, hcommit, hcredit, hm, hset, hj, hk⟩ :=
      writeRecord_spec hr' hl (Nat.le_trans h259 (region_size hr))
    refine ⟨_, (exec_logbookRecordWrite hn hc).trans (answer_next hp rfl), hat, fun a ha => ?_, hcommit, ?_, ?_, ?_⟩
    · rw [fin_log, hother a ha, fm]
      rfl
    · rw [fin_log, hcredit, fc]
      rfl
    · rw [fin_log, hm, hset, hj]
      exact dropRecord_waits (s := (takeFree s).2) hn
    · have k1 : Keeps [.log, .freeIdx] s (takeFree s).2 := (Keeps.refl _ s).setFreeIdx (by decide)
      exact ((k1.trans ((keeps_dropRecord _).mono (by decide))).trans (hk.mono (by decide))).fin
  · refine ⟨_, answer_next hp (if_pos hb), fun a ha => ?_, fun a ha => ?_, rfl, rfl, rfl,
      Keeps.fin ((Keeps.refl _ s).setLog (by decide))⟩
    · exact (tget_wordsZeroed _ _ a).trans (if_pos ha)
    · exact (tget_wordsZeroed _ _ a).trans (if_neg ha)
  · exact answer_mgmtRead (f := logDataRead via.port) h (if_pos ha) hg
  · rw [← ringCommits_pages]
    exact answer_mgmtWrite h (logClearWrite_pages s)
  · rw [← ringCommits_ring]
    exact answer_mgmtWrite h (logClearWrite_ring s)
  · refine ⟨_, answer_mgmtWrite h (logClearWrite_journal s), ?_,
      (((keeps_startClear s _).mono (by decide)).respond (by decide)).fin⟩
    rw [fin_log, respond_log, startClear_log, filter_not_commitsIn]
    rfl
  · refine ⟨_, answer_mgmtWrite h (logClearWrite_training s), ?_,
      ((((keeps_startClear s _).mono (by decide)).setLog (by decide)).respond (by decide)).fin⟩
    rw [fin_log, respond_log, trainingCleared, startClear_log, filter_not_commitsIn]
    rfl
  · exact answer_mgmtWrite h (logClearWrite_sparing s)

end Sys2Proof.Proofs

/-! The image loader: start, words, commit, abort and the QSPI copies (R325–R328). -/

namespace Sys2Proof.Proofs

open Sys2Proof.Machine
open Sys2Proof.Safety

/-! ### IMG_CTRL -/

theorem imgCtrlWrite_start {s : State} {n : Nat} (hf : s.flt.fatal = false) (hi : s.img.phase = .idle) :
    imgCtrlWrite n 0x800000 s = (.ok, { s with img := { s.img.toIdle with
      phase := .receive
      kind := false
      owner := some n
      source := 0
      received := 0 } }) := by
  have h : imgStart n s = (.ok, { s with img := { s.img.toIdle with
      phase := .receive
      kind := false
      owner := some n
      source := 0
      received := 0 } }) := (if_neg (Bool.eq_false_iff.mp hf)).trans (if_neg (fun hn => hn hi))
  have hr : (if BitVec.getLsbD (0x800000 : Word) 23 then imgStart n s else (.ok, s)) = imgStart n s := if_pos rfl
  unfold imgCtrlWrite
  rw [hr, h]
  rfl

theorem imgCommit_ok {s : State} {n : Nat} (ho : s.img.owner = some n) (hr : s.img.phase = .ready)
    (ht : s.img.target = 0 ∨ s.mer.count.toNat + 1 < s.img.target.toNat) (ha : s.mer.arm = false) :
    imgCommit n s = (.ok, { s with img := { s.img with
      phase := .scheduled
      firstEdge := if s.img.target = 0 then some (s.elapsed + 1) else none } }) := by
  have h1 : ¬ (decide (s.img.owner ≠ some n) || decide (s.img.phase ≠ .ready)) = true := by
    rw [decide_eq_false (not_not_intro ho), decide_eq_false (not_not_intro hr)]
    exact Bool.false_ne_true
  have h2 : ¬ (decide (s.img.target ≠ 0) && decide (s.img.target.toNat ≤ s.mer.count.toNat + 1)) = true := by
    rw [Bool.and_eq_true, decide_eq_true_eq, decide_eq_true_eq]
    rintro ⟨hn, hl⟩
    exact ht.elim hn (fun hg => absurd hl (Nat.not_le_of_lt hg))
  exact (if_neg h1).trans ((if_neg h2).trans (if_neg (Bool.eq_false_iff.mp ha)))


/-- A part of a write of IMG_CTRL whose bit is clear is passed over. -/
theorem imgCtrlWrite_commit {s t : State} {n : Nat} (h : imgCommit n s = (.ok, t)) :
    imgCtrlWrite n 0x400000 s = (.ok, t) := by
  have hr : (if BitVec.getLsbD (0x400000 : Word) 22 then imgCommit n s else (.ok, s)) = (.ok, t) := (if_pos rfl).trans h
  unfold imgCtrlWrite
  simp only [show BitVec.getLsbD (0x400000 : Word) 23 = false from rfl, Bool.false_eq_true, if_false, ne_eq,
    not_true_eq_false, hr]
  rfl

theorem imgAbort_ok {s : State} {n : Nat} (ho : s.img.owner = some n) (hi : s.img.phase ≠ .idle)
    (hs : s.img.phase ≠ .switching) : imgAbort n s = (.ok, abortImage s 23) := by
  refine if_neg ?_
  rw [decide_eq_false (not_not_intro ho), decide_eq_false hi, decide_eq_false hs]
  exact Bool.false_ne_true

theorem imgCtrlWrite_abort {s t : State} {n : Nat} (h : imgAbort n s = (.ok, t)) :
    imgCtrlWrite n 0x200000 s = (.ok, t) := by
  have hr : (if BitVec.getLsbD (0x200000 : Word) 21 then imgAbort n s else (.ok, s)) = (.ok, t) := (if_pos rfl).trans h
  unfold imgCtrlWrite
  simp only [show BitVec.getLsbD (0x200000 : Word) 23 = false from rfl, show BitVec.getLsbD (0x200000 : Word) 22 = false from rfl,
    Bool.false_eq_true, if_false, ne_eq, not_true_eq_false, hr]

/-! ### Words -/

/-- The loader with one word more. -/
def wordTaken (i : Img) (data : Word) : Img :=
  { i with
    words := data :: i.words
    received := i.received + 1
    kind := if i.received = 1 then data.getLsbD 0 else i.kind }

theorem wordsArrive_more {s : State} (hf : formatBreach s.img.words.reverse = none)
    (hl : s.img.words.reverse[2]?.map BitVec.toNat ≠ some s.img.words.reverse.length) : wordsArrive s = s := by
  unfold wordsArrive
  dsimp only
  rw [hf]
  exact if_neg hl

theorem imgDataWrite_more {s : State} {n : Nat} {data : Word} (hr : s.img.phase = .receive) (ho : s.img.owner = some n)
    (hf : formatBreach (s.img.words.reverse ++ [data]) = none)
    (hl : (s.img.words.reverse ++ [data])[2]?.map BitVec.toNat ≠ some (s.img.words.length + 1)) :
    imgDataWrite n data s = (.ok, { s with img := wordTaken s.img data }) := by
  have h1 : ¬ (decide (s.img.phase ≠ .receive) || decide (s.img.owner ≠ some n)) = true := by
    rw [decide_eq_false (not_not_intro ho), decide_eq_false (not_not_intro hr)]
    exact Bool.false_ne_true
  have hw : (wordTaken s.img data).words.reverse = s.img.words.reverse ++ [data] := List.reverse_cons
  refine (if_neg h1).trans (congrArg (Prod.mk Status.ok) ?_)
  refine wordsArrive_more (s := { s with img := wordTaken s.img data }) ?_ ?_
  · rw [hw]
    exact hf
  · rw [hw, List.length_append, List.length_reverse]
    exact hl

/-! ### QSPI copies -/

theorem exec_imageReceiveTimeout {s : State} (hr : s.img.phase = .receive) (ho : s.img.owner.isSome = true) :
    exec .imageReceiveTimeout s = answer s (abortImage s 23) := by
  refine congrArg (answer s) (if_pos ?_)
  rw [hr, ho]
  rfl

theorem abortImage_of_phase {s : State} (h : s.img.phase ≠ .idle) (r : BitVec 5) : abortImage s r = { s with img := { s.img with
    phase := .idle
    owner := none
    reason := r
    detail := 0
    refusals := sat s.img.refusals 1
    structural := false
    shadow := none
    words := []
    copies := []
    firstEdge := none } } := if_neg h

/-- The loader with the copies in the order of their headers. -/
def bootStarted (s : State) (cs : List Nat) : State :=
  { s with img := { s.img with bootDue := false, copies := cs, kind := false } }

theorem nextCopy_bootStarted (s : State) (c : Nat) (cs : List Nat) : nextCopy (bootStarted s (c :: cs)) =
    { s with img := { s.img with
      bootDue := false
      copies := cs
      kind := false
      phase := .receive
      source := BitVec.ofNat 2 c
      words := []
      received := 0 } } := rfl

/-- The loader with the words of a copy. -/
def copyTaken (i : Img) (ws : List Word) : Img :=
  { i with
    words := ws.reverse
    received := ws.length
    kind := (ws.getD 1 0).getLsbD 0 }

/-- The words of a copy are judged. -/
def copyJudged (s : State) (ws : List Word) : State :=
  let t := { s with img := copyTaken s.img ws }
  match formatBreach ws with
  | some d => refuseImage t 1 d
  | none =>
    if ws[2]?.map BitVec.toNat = some ws.length then t.modImg (fun i => { i with phase := .verify })
    else refuseImage t 1 0

theorem exec_qspiCopyReadDone {s : State} {words : List Word} (hr : s.img.phase = .receive) (ho : s.img.owner = none)
    (hn : (words.getD 2 0).toNat = words.length) (h0 : words.length ≠ 0) :
    exec (.qspiCopyReadDone words) s = answer s (copyJudged s words) := by
  have hc : (decide (s.img.phase = .receive) && s.img.owner.isNone) = true := by
    rw [hr, ho]
    rfl
  have hw : (if (words.getD 2 0).toNat = 0 then words else words.take (words.getD 2 0).toNat) = words := by
    rw [hn, if_neg h0, List.take_length]
  show answer s (if _ then _ else s) = _
  rw [if_pos hc]
  dsimp only
  rw [hw]
  rfl

/-- The length word of a copy that is whole. -/
theorem lengthWord {words : List Word} (h : words[2]?.map BitVec.toNat = some words.length) :
    (words.getD 2 0).toNat = words.length := by
  rw [List.getD_eq_getElem?_getD]
  cases hw : words[2]? with
  | none =>
    rw [hw] at h
    cases h
  | some w =>
    rw [hw] at h
    exact Option.some.inj h

/-- Settles O56. -/
theorem imageLoads : Obligations.ImageLoads := by
  refine ⟨fun s via h hf hi => answer_mgmtWrite h (imgCtrlWrite_start hf hi), fun s via data h hr ho hf hl => ?_,
    fun s via h ho hr ht ha => answer_mgmtWrite h (imgCtrlWrite_commit (imgCommit_ok ho hr ht ha)),
    fun s via h ho hi hs => answer_mgmtWrite h (imgCtrlWrite_abort (imgAbort_ok ho hi hs)), fun s hp hr ho => ?_,
    fun s a b c cs hp hq hb hph hi hf hfl hc => ?_, fun s words hp hr ho h0 hl hf => ?_⟩
  · exact answer_mgmtWrite h (imgDataWrite_more hr ho hf hl)
  · refine (exec_imageReceiveTimeout hr ho).trans (answer_next hp (abortImage_of_phase ?_ 23))
    rw [hr]
    exact nofun
  · refine answer_next hp ((if_pos ?_).trans ?_)
    · rw [hq, hb, hph, hi, hf, hfl]
      rfl
    · rw [hc]
      exact nextCopy_bootStarted s c cs
  · refine (exec_qspiCopyReadDone hr ho (lengthWord hl) h0).trans (answer_next hp ?_)
    unfold copyJudged
    rw [hf]
    exact if_pos hl

end Sys2Proof.Proofs

/-! Cold resets, the fuse load and the cold start (R408–R427, R448–R450, R472–R480). -/

namespace Sys2Proof.Safety

open Sys2Proof.Machine

/-! ### What the fuse load leaves of the fuses and the Logbook -/

/-- Two states with the same fuse array and the same words of the Logbook. -/
structure FuseKept (s t : State) : Prop where
  array : t.fus.array = s.fus.array
  loaded : t.fus.loaded = s.fus.loaded
  mem : t.log.mem = s.log.mem
  head : t.log.fHead = s.log.fHead

theorem FuseKept.refl (s : State) : FuseKept s s := ⟨rfl, rfl, rfl, rfl⟩

theorem FuseKept.trans {s t u : State} (h : FuseKept s t) (k : FuseKept t u) : FuseKept s u :=
  ⟨k.array.trans h.array, k.loaded.trans h.loaded, k.mem.trans h.mem, k.head.trans h.head⟩

theorem FuseKept.of_keeps {l : List Part} {s t u : State} (h : FuseKept s t) (k : Keeps l t u) (hf : Part.fus ∉ l)
    (hl : Part.log ∉ l) : FuseKept s u := by
  have ef : u.fus = t.fus := k .fus hf
  have el : u.log = t.log := k .log hl
  exact h.trans ⟨by rw [ef], by rw [ef], by rw [el], by rw [el]⟩

theorem FuseKept.foldl {α : Type} {s : State} {g : State → α → State} (hg : ∀ u x, FuseKept s u → FuseKept s (g u x))
    (xs : List α) : ∀ {t : State}, FuseKept s t → FuseKept s (xs.foldl g t) := by
  induction xs with
  | nil => exact fun h => h
  | cons x xs ih => exact fun h => ih (hg _ x h)

theorem FuseKept.foldS {s : State} {g : State → Nat → State} (hg : ∀ u x, FuseKept s u → FuseKept s (g u x))
    (xs : List Nat) {t : State} (h : FuseKept s t) : FuseKept s (Sys2Proof.Machine.foldS xs g t) := FuseKept.foldl hg xs h

section Kept

variable {s t : State} (h : FuseKept s t)
include h

theorem FuseKept.raise {src i : Nat} {d : Word} : FuseKept s (Sys2Proof.Machine.raise t src i d) :=
  ⟨h.array, h.loaded, h.mem, h.head⟩

theorem FuseKept.logMap {r : LogRec} : FuseKept s (Sys2Proof.Machine.logMap t r) := ⟨h.array, h.loaded, h.mem, h.head⟩

theorem FuseKept.noteMarginal {b w : Nat} : FuseKept s (Sys2Proof.Machine.noteMarginal t b w) := by
  unfold Sys2Proof.Machine.noteMarginal logJournal
  split
  · split
    · exact ⟨h.array, h.loaded, h.mem, h.head⟩
    · exact ⟨h.array, h.loaded, h.mem, h.head⟩
  · exact h

theorem FuseKept.modFus {g : Fus → Fus} (ha : ∀ f, (g f).array = f.array) (hl : ∀ f, (g f).loaded = f.loaded) :
    FuseKept s (t.modFus g) := ⟨(ha _).trans h.array, (hl _).trans h.loaded, h.mem, h.head⟩

theorem FuseKept.ite {u : State} {p : Prop} [Decidable p] (k : FuseKept s u) : FuseKept s (if p then t else u) := by
  split
  · exact h
  · exact k

theorem FuseKept.loadBank {b : Nat} : FuseKept s (Sys2Proof.Machine.loadBank t b) := by
  have k : FuseKept s ((Sys2Proof.Machine.foldS (wordsRead t.fus b) (fun s w => Sys2Proof.Machine.noteMarginal s b w) t).modFus
      (fun f => { f with banks := tset {} f.banks b (judgeBank t.fus b) })) :=
    (FuseKept.foldS (fun _ _ k => k.noteMarginal) _ h).modFus (fun _ => rfl) (fun _ => rfl)
  unfold Sys2Proof.Machine.loadBank
  exact FuseKept.ite (FuseKept.foldS (fun _ _ k => k.raise) _ k) (FuseKept.ite k k.raise)

theorem FuseKept.bootRank {c k : Nat} {v : RankSp} : FuseKept s (Sys2Proof.Machine.bootRank t c k v) := by
  have kr : FuseKept s (t.setRankRaw c k v) := ⟨h.array, h.loaded, h.mem, h.head⟩
  unfold Sys2Proof.Machine.bootRank
  exact FuseKept.ite kr kr.logMap

end Kept

/-! ### The frame of the fuse load -/

section Loads

variable {l : List Part} {s t : State} (h : Keeps l s t)
include h

theorem Keeps.loadBank {b : Nat} (hf : Part.flt ∈ l) (hl : Part.log ∈ l) (hu : Part.fus ∈ l) :
    Keeps l s (Sys2Proof.Machine.loadBank t b) := by
  have k : Keeps l s ((Sys2Proof.Machine.foldS (wordsRead t.fus b) (fun s w => Sys2Proof.Machine.noteMarginal s b w) t).modFus
      (fun f => { f with banks := tset {} f.banks b (judgeBank t.fus b) })) := (h.marginals hf hl).setFus hu
  unfold Sys2Proof.Machine.loadBank
  exact Keeps.ite (Keeps.foldS (fun _ _ k => k.raise _ _ _ hf) _ k) (Keeps.ite k (k.raise _ _ _ hf))

theorem Keeps.setRankRaw {c k : Nat} {v : RankSp} (hl : Part.ranks ∈ l) : Keeps l s (t.setRankRaw c k v) := fun p hp => by
  cases p with
  | ranks => exact absurd hl hp
  | _ => exact h _ hp

theorem Keeps.bootRank {c k : Nat} {v : RankSp} (hr : Part.ranks ∈ l) (hl : Part.log ∈ l) :
    Keeps l s (Sys2Proof.Machine.bootRank t c k v) := by
  unfold Sys2Proof.Machine.bootRank
  exact Keeps.ite (h.setRankRaw hr) ((h.setRankRaw hr).logMap _ hl)

theorem Keeps.standIn {c lane : Nat} (hl : Part.tsv ∈ l) : Keeps l s (Sys2Proof.Machine.standIn t c lane) :=
  (h.setTsvOf hl).setTsvOf hl

end Loads

end Sys2Proof.Safety

namespace Sys2Proof.Proofs

open Sys2Proof.Machine
open Sys2Proof.Safety

/-- The parts that the records of a start touch, beside the fuses and the Logbook. -/
def recordParts : List Part := [.mem, .ecc, .tsv, .spr]

theorem keeps_bootRecord (s : State) (r : RepairRec × Nat) : Keeps recordParts s (bootRecord s r) := by
  have h := Keeps.refl recordParts s
  unfold bootRecord
  dsimp only
  split
  · exact Keeps.ite h ((h.setRmem (by decide)).setEccOf (by decide))
  · exact Keeps.ite h (h.setRmem (by decide))
  · exact Keeps.ite h (Keeps.ite (h.standIn (by decide)) (Keeps.ite (h.setTsvOf (by decide))
      (Keeps.ite ((h.setTsvOf (by decide)).setSprOf (by decide)) h)))
  · exact h

theorem keeps_applyLine (s : State) (r : RepairRec × Nat) : Keeps recordParts s (applyLine s r) := by
  have h := Keeps.refl recordParts s
  unfold applyLine
  split
  · refine Keeps.ite h ?_
    split
    · exact h.setEccOf (by decide)
    · exact h
  · exact h

/-- What a step of a start's sparing map leaves: everything but the ranks and the Logbook's queues. -/
structure MapStep (s t : State) : Prop where
  fuse : FuseKept s t
  keeps : Keeps [.ranks, .log] s t

theorem MapStep.refl (s : State) : MapStep s s := ⟨.refl s, Keeps.refl _ s⟩

theorem MapStep.bootRank {s t : State} (h : MapStep s t) (c k : Nat) (v : RankSp) : MapStep s (bootRank t c k v) :=
  ⟨h.fuse.bootRank, h.keeps.bootRank (by decide) (by decide)⟩

theorem MapStep.ite {s t u : State} {p : Prop} [Decidable p] (h : MapStep s t) (k : MapStep s u) :
    MapStep s (if p then t else u) := by
  split
  · exact h
  · exact k

theorem MapStep.settleSpare {s t : State} (h : MapStep s t) (c : Nat) : MapStep s (settleSpare t c) := by
  unfold Machine.settleSpare
  refine MapStep.ite h ?_
  split
  · exact h
  · exact MapStep.ite h (h.bootRank _ _ _)

theorem MapStep.retireAtBoot {s t : State} (h : MapStep s t) (c k : Nat) (r : RankSp) : MapStep s (retireAtBoot t c k r) := by
  unfold Machine.retireAtBoot
  exact MapStep.ite ((h.bootRank _ _ _).bootRank _ _ _) (h.bootRank _ _ _)

theorem MapStep.foldl {α : Type} {s : State} {g : State → α → State} (hg : ∀ u x, MapStep s u → MapStep s (g u x))
    (xs : List α) : ∀ {t : State}, MapStep s t → MapStep s (xs.foldl g t) := by
  induction xs with
  | nil => exact fun h => h
  | cons x xs ih => exact fun h => ih (hg _ x h)

theorem MapStep.applyMap {s t : State} (h : MapStep s t) (c : Nat) : MapStep s (applyMap t c) := by
  have k : MapStep s (settleRanks (Machine.settleSpare t c) c) :=
    MapStep.foldl (fun _ x k => k.retireAtBoot c x.1 x.2) _ (h.settleSpare c)
  unfold Machine.applyMap
  exact MapStep.ite (k.bootRank _ _ _) k

/-! ### The fuse load, part by part -/

/-- No bank is judged yet. -/
def banksCleared (s : State) : State := s.modFus (fun f => { f with loaded := false, banks := [] })

/-- The banks judged. -/
def banksLoaded (s : State) : State := foldS (List.range 5) loadBank (banksCleared s)

/-- The fuse controller's values after the banks. -/
def factorySet (s : State) : State :=
  s.modFus (fun f => { f with
    loaded := true
    factory := if bankGood s 0 then (fuseValue f 0 27).2.1.extractLsb' 0 5 else 0
    redirects := BitVec.ofNat 6 (if bankBad f 4 then 0 else
      ((List.range 32).filter (fun w => match fuseSense 4 (rawWord f 4 w) with
        | (0, d, _) => d.getLsbD 23
        | _ => false)).length) })

/-- The life cycle as the Lock bank gives it. -/
def lifeCycleRead (s : State) : State := { s with sec := { s.sec with lc := BitVec.ofNat 2 (lcWords s.fus) } }

/-- The records and the sparing map of a start. -/
def recordsApplied (s : State) : State :=
  (bootRecords s.fus).foldl applyLine (foldS (List.range 32) applyMap ((bootRecords s.fus).foldl bootRecord s))

/-- The Logbook's pages and the ring's head as the scan finds them. -/
def logScanned (s : State) : State :=
  { s with
    flt := { s.flt with pagesUsed := pagesFound s, head := s.log.fHead }
    log := { s.log with stateOk := true } }

theorem fuseLoad_eq (s : State) :
    fuseLoad s = logScanned (recordsApplied (loadTrims (lifeCycleRead (factorySet (banksLoaded s))))) := by
  unfold fuseLoad
  extract_lets cleared banks fus secNow lc trims recs rows ranks lines fltNow logNow
  have hb : banksLoaded s = banks := rfl
  rw [hb]
  clear_value banks
  have ht : loadTrims (lifeCycleRead (factorySet banks)) = trims := rfl
  rw [ht]
  clear_value trims
  have hr : recordsApplied trims = lines := rfl
  rw [hr]
  clear_value lines
  rfl

theorem fuseKept_foldBanks (s : State) : FuseKept s (foldS (List.range 5) loadBank s) :=
  FuseKept.foldS (fun _ _ k => k.loadBank) _ (FuseKept.refl s)

theorem banksLoaded_array (s : State) : (banksLoaded s).fus.array = s.fus.array := by
  rw [banksLoaded, (fuseKept_foldBanks _).array]
  rfl

theorem banksLoaded_log (s : State) :
    (banksLoaded s).log.mem = s.log.mem ∧ (banksLoaded s).log.fHead = s.log.fHead := by
  rw [banksLoaded, (fuseKept_foldBanks _).mem, (fuseKept_foldBanks _).head]
  exact ⟨rfl, rfl⟩

/-- The parts of the fuse load. -/
def fuseLoadParts : List Part := [.fus, .flt, .log, .sec, .mem, .ecc, .tsv, .spr, .ranks]

theorem keeps_banksLoaded (s : State) : Keeps [.fus, .flt, .log] s (banksLoaded s) := by
  have k : Keeps [.fus, .flt, .log] s (banksCleared s) := (Keeps.refl _ s).setFus (by decide)
  unfold banksLoaded
  exact Keeps.foldS (fun _ _ k => k.loadBank (by decide) (by decide) (by decide)) _ k

theorem fuseKept_loadTrims (s : State) : FuseKept s (loadTrims s) :=
  FuseKept.foldS (fun _ _ k => FuseKept.foldS (fun _ _ k => k.raise) _ k) _
    ((FuseKept.refl s).modFus (fun _ => rfl) (fun _ => rfl))

theorem keeps_loadTrims (s : State) : Keeps [.fus, .flt] s (loadTrims s) :=
  Keeps.foldS (fun _ _ k => Keeps.foldS (fun _ _ k => k.raise _ _ _ (by decide)) _ k) _ ((Keeps.refl _ s).setFus (by decide))

theorem fuseKept_recordsApplied (s : State) : FuseKept s (recordsApplied s) := by
  have h1 : FuseKept s ((bootRecords s.fus).foldl bootRecord s) :=
    FuseKept.foldl (fun _ _ k => k.of_keeps (keeps_bootRecord _ _) (by decide) (by decide)) _ (FuseKept.refl s)
  have h2 := (MapStep.foldl (fun _ c k => k.applyMap c) (List.range 32)
    (MapStep.refl ((bootRecords s.fus).foldl bootRecord s))).fuse
  exact FuseKept.foldl (fun _ _ k => k.of_keeps (keeps_applyLine _ _) (by decide) (by decide)) _ (h1.trans h2)

theorem keeps_recordsApplied (s : State) : Keeps [.mem, .ecc, .tsv, .spr, .ranks, .log] s (recordsApplied s) := by
  have h1 : Keeps [.mem, .ecc, .tsv, .spr, .ranks, .log] s ((bootRecords s.fus).foldl bootRecord s) :=
    Keeps.foldl (fun _ _ k => k.trans ((keeps_bootRecord _ _).mono (by decide))) _ (Keeps.refl _ s)
  have h2 := (MapStep.foldl (fun _ c k => k.applyMap c) (List.range 32)
    (MapStep.refl ((bootRecords s.fus).foldl bootRecord s))).keeps
  exact Keeps.foldl (fun _ _ k => k.trans ((keeps_applyLine _ _).mono (by decide))) _ (h1.trans (h2.mono (by decide)))

theorem lcWords_of_array {f g : Fus} (h : f.array = g.array) : lcWords f = lcWords g := by
  have e : ∀ w, fuseAt f 3 w = fuseAt g 3 w := fun w => by
    rw [fuseAt, fuseAt, h]
    rfl
  unfold lcWords
  simp only [e]

/-- What the whole load leaves of the fuses and the Logbook. -/
theorem fuseLoad_spec (s : State) : (fuseLoad s).fus.loaded = true ∧ (fuseLoad s).fus.array = s.fus.array ∧
    (fuseLoad s).sec.lc = BitVec.ofNat 2 (lcWords s.fus) ∧ (fuseLoad s).flt.pagesUsed = pagesFound s ∧
    (fuseLoad s).flt.head = s.log.fHead ∧ (fuseLoad s).pins = { s.pins with irqN := (fuseLoad s).pins.irqN } := by
  have ha := banksLoaded_array s
  obtain ⟨hm, hh⟩ := banksLoaded_log s
  have kb := keeps_banksLoaded s
  rw [fuseLoad_eq]
  generalize hu : banksLoaded s = u at ha hm hh kb
  have k1 : Keeps [.fus, .sec] u (lifeCycleRead (factorySet u)) := ((Keeps.refl _ u).setFus (by decide)).setSec (by decide)
  have kt := keeps_loadTrims (lifeCycleRead (factorySet u))
  have ft := fuseKept_loadTrims (lifeCycleRead (factorySet u))
  generalize hv : loadTrims (lifeCycleRead (factorySet u)) = v at kt ft
  have kr := keeps_recordsApplied v
  have fr := fuseKept_recordsApplied v
  have kall : Keeps fuseLoadParts s (recordsApplied v) :=
    ((kb.mono (by decide)).trans (k1.mono (by decide))).trans ((kt.mono (by decide)).trans (kr.mono (by decide)))
  have hsec : (recordsApplied v).sec.lc = BitVec.ofNat 2 (lcWords s.fus) := by
    rw [kr .sec (by decide), kt .sec (by decide)]
    exact congrArg (BitVec.ofNat 2) (lcWords_of_array ha)
  have hmem : (recordsApplied v).log.mem = s.log.mem := (fr.mem.trans ft.mem).trans hm
  have hpins : { (recordsApplied v).pins with irqN := true } = { s.pins with irqN := true } := kall .pins (by decide)
  generalize recordsApplied v = w at *
  refine ⟨fr.loaded.trans ft.loaded, (fr.array.trans ft.array).trans ha, hsec, ?_, (fr.head.trans ft.head).trans hh, ?_⟩
  · show pagesFound w = _
    rw [pagesFound, hmem, pagesFound]
  · show w.pins = { s.pins with irqN := w.pins.irqN }
    exact congrArg (fun p : Pins => { p with irqN := w.pins.irqN }) hpins

/-! ### Step 3 -/

/-- A cold start past step 2, before its domains wake. -/
def step3 (s : State) : State :=
  { s with
    rst := { s.rst with phase := .image }
    img := { s.img with bootDue := s.pins.bootQspi }
    sec := { s.sec with keyDue := true } }

theorem coldStep3_eq (s : State) : coldStep3 s = wakeAll (step3 s) := rfl

theorem keeps_wakeAll (s : State) : Keeps [.doms] s (wakeAll s) :=
  Keeps.foldS (fun _ _ k => k.setDom (by decide)) _ (Keeps.refl _ s)

theorem keeps_step3 (s : State) : Keeps [.rst, .img, .sec] s (step3 s) := fun p hp => by
  cases p with
  | rst | img | sec => exact absurd (by decide) hp
  | _ => rfl

theorem keeps_coldStep3 (s : State) : Keeps [.rst, .img, .sec, .doms] s (coldStep3 s) := by
  have k := (keeps_step3 s).mono (k := [.rst, .img, .sec, .doms]) (by decide)
  rw [coldStep3_eq]
  exact k.trans ((keeps_wakeAll _).mono (by decide))

theorem coldStep3_pins (s : State) : (coldStep3 s).pins = s.pins := by
  have h : ∀ (xs : List Nat) (u : State), (foldS xs startWake u).pins = u.pins := fun xs u =>
    foldS_induction (P := fun t => t.pins = u.pins) (g := startWake) (fun _ _ h => h) xs rfl
  rw [coldStep3_eq, wakeAll, h]
  rfl

theorem coldStep3_parts (s : State) : (coldStep3 s).rst.phase = .image ∧ (coldStep3 s).img.bootDue = s.pins.bootQspi ∧
    (coldStep3 s).sec.keyDue = true ∧ (coldStep3 s).sec.lc = s.sec.lc := by
  have k := keeps_wakeAll (step3 s)
  rw [coldStep3_eq, k .rst (by decide), k .img (by decide), k .sec (by decide)]
  exact ⟨rfl, rfl, rfl, rfl⟩

theorem coldRelease_goes {s : State} (hp : s.pins.pwrgood = true) (hh : s.rst.phase = .held) (hw : s.rst.warm = false)
    (hn : pinsHold s = false) : coldRelease s = coldStep3 s := by
  refine if_pos ?_
  rw [hp, hh, hw, hn]
  rfl

theorem pinsHold_of_free {s : State} (hr : s.pins.resetN = true) (hc : s.pins.refclk = true) (ht : s.pins.testEn = false) :
    pinsHold s = false := by
  rw [pinsHold, hr, hc, ht]
  rfl

/-- A pin that lets a cold start go on. -/
theorem released {s : State} {q : Pins} (hb : q.bootQspi = s.pins.bootQspi) (hp : q.pwrgood = true) (hr : q.resetN = true)
    (hc : q.refclk = true) (ht : q.testEn = false) (hh : s.rst.phase = .held) (hw : s.rst.warm = false) :
    coldRelease { s with pins := q } = coldStep3 { s with pins := q } ∧
    (fin s (coldRelease { s with pins := q })).rst.phase = .image ∧
    (fin s (coldRelease { s with pins := q })).sec.keyDue = true ∧
    (fin s (coldRelease { s with pins := q })).img.bootDue = s.pins.bootQspi ∧
    Keeps [.pins, .rst, .img, .sec, .doms] s (fin s (coldRelease { s with pins := q })) := by
  have hg := coldRelease_goes (s := { s with pins := q }) hp hh hw (pinsHold_of_free hr hc ht)
  obtain ⟨h1, h2, h3, -⟩ := coldStep3_parts { s with pins := q }
  have k : Keeps [.pins, .rst, .img, .sec, .doms] s { s with pins := q } := (Keeps.refl _ s).setPins (by decide)
  have kk := k.trans ((keeps_coldStep3 { s with pins := q }).mono (by decide))
  rw [hg]
  exact ⟨rfl, h1, h3, h2.trans hb, kk.fin⟩


theorem fin_pins (s t : State) :
    (fin s t).pins = { t.pins with irqN := !(t.flt.fatal || (t.flt.irq && t.flt.irqEn)) } := rfl

/-! ### The fuse load's end -/

/-- The pins or the life cycle hold the start. -/
theorem pinsHold_iff (s : State) : pinsHold s = true ↔
    s.pins.resetN = false ∨ s.pins.refclk = false ∨ (s.pins.testEn = true ∧ s.sec.lc ≠ 0) := by
  rw [pinsHold, Bool.or_eq_true, Bool.or_eq_true, Bool.and_eq_true, Bool.not_eq_true', Bool.not_eq_true', decide_eq_true_eq,
    or_assoc]

theorem lcWords_le (f : Fus) : lcWords f ≤ 3 := by
  have h := List.length_filter_le (fun w => fuseProgrammed (fuseAt f 3 w)) (List.range 3)
  rwa [List.length_range] at h

theorem ofNat_lcWords_ne_zero (f : Fus) : BitVec.ofNat 2 (lcWords f) ≠ 0 ↔ lcWords f ≠ 0 := by
  have h := lcWords_le f
  generalize lcWords f = n at h ⊢
  obtain rfl | rfl | rfl | rfl : n = 0 ∨ n = 1 ∨ n = 2 ∨ n = 3 := by omega
  · decide
  · decide
  · decide
  · decide

theorem coldGo_phase (s : State) : (coldGo s).rst.phase = if pinsHold s = true then .held else .image := by
  unfold coldGo
  split
  · rfl
  · exact (coldStep3_parts s).1

/-- Of the rest, step 3 leaves the fuses, the faults and the life cycle. -/
theorem coldGo_rest (s : State) : (coldGo s).fus = s.fus ∧ (coldGo s).flt = s.flt ∧ (coldGo s).sec.lc = s.sec.lc := by
  unfold coldGo
  split
  · exact ⟨rfl, rfl, rfl⟩
  · exact ⟨keeps_coldStep3 s .fus (by decide), keeps_coldStep3 s .flt (by decide), (coldStep3_parts s).2.2.2⟩

theorem exec_fuseLoadComplete {s : State} (hp : s.rst.phase = .fuse) (hg : s.gazBuilt = true) :
    exec .fuseLoadComplete s = answer s (coldGo (fuseLoad s)) := by
  refine congrArg (answer s) (if_pos ?_)
  rw [hp, hg]
  rfl

/-! ### Cold states -/

theorem lostCells (n : Nat) (xs : List Nat) (k : Nat) :
    (tget ({} : RankMem) (xs.map (fun j => (j, { lost := n }))) k).lines = [] ∧
    (tget ({} : RankMem) (xs.map (fun j => (j, { lost := n }))) k).filled = false := by
  induction xs with
  | nil => exact ⟨rfl, rfl⟩
  | cons x xs ih =>
    rw [List.map_cons, tget]
    split
    · exact ⟨rfl, rfl⟩
    · exact ih

theorem brokenArray_idle {f : Fus} (h : f.op = none) (n : Nat) : brokenArray f n = f.array := by
  rw [brokenArray, h]

theorem coldLog_mem {l : Log} (h : l.clearing = []) : (coldLog l).mem = l.mem := by
  show l.clearing.foldl _ l.mem = _
  rw [h]
  rfl

/-- The cold state with its supply as given is what a cold reset leaves. -/
theorem coldFrom_coldState (s : State) (cause : BitVec 3) (good : Bool) :
    ColdFrom s (fin s { coldState s cause with pins := { (coldState s cause).pins with pwrgood := good } }) cause :=
  ⟨rfl, rfl, rfl, rfl, rfl, rfl, rfl, rfl, rfl, rfl, rfl, rfl, rfl, rfl, rfl, fun k => lostCells _ _ k,
    fun h => brokenArray_idle h _, rfl, fun h => coldLog_mem h, rfl, rfl, rfl, rfl, rfl, rfl⟩

theorem powerOff_of_good {s : State} (h : s.pins.pwrgood = true) :
    powerOff s = { coldState s 0 with pins := { (coldState s 0).pins with pwrgood := false } } := if_pos h

theorem rstCtrlWrite_cold (s : State) : rstCtrlWrite 0x800000 s = (.ok, coldState s 1) := rfl

theorem respond_cold (s : State) (cause : BitVec 3) (via : Via) (w : Bool) (a : Word) (st : Status) (d : Word) :
    respond (coldState s cause) via w a st d = coldState s cause := rfl

/-- Settles O58. -/
theorem coldStart : Obligations.ColdStart := by
  refine ⟨fun s hp => ?_, fun s hp => ?_, fun s hp => ?_, fun s via h => ?_, fun s hp hf hg => ?_,
    fun s hh hw hp hc ht => ?_, fun s hh hw hp hr ht => ?_, fun s hh hw hp hr hc => ?_⟩
  · exact ⟨_, congrArg (fun t => Host.Outcome.next (fin s t)) (powerOff_of_good hp), rfl, coldFrom_coldState s 0 false⟩
  · exact ⟨_, congrArg (fun t => Host.Outcome.next (fin s t)) (powerOff_of_good hp), rfl, coldFrom_coldState s 0 false⟩
  · exact ⟨_, congrArg (fun t => Host.Outcome.next (fin s t)) (if_neg (Bool.eq_false_iff.mp hp)), rfl,
      coldFrom_coldState s 0 true⟩
  · have hg : { coldState s 1 with pins := { (coldState s 1).pins with pwrgood := true } } = coldState s 1 := by
      rw [← h.1]
      rfl
    refine ⟨_, answer_mgmtWrite h (rstCtrlWrite_cold s), ?_, ?_⟩
    · rw [respond_cold]
      exact h.1
    · rw [respond_cold, ← hg]
      exact coldFrom_coldState s 1 true
  · obtain ⟨hl, ha, hlc, hpg, hh, hpin⟩ := fuseLoad_spec s
    obtain ⟨gf, gl, gs⟩ := coldGo_rest (fuseLoad s)
    refine ⟨_, (exec_fuseLoadComplete hf hg).trans (answer_next hp rfl), ?_, ?_, ?_, ?_, ?_, ?_⟩
    · rw [fin_fus, gf, hl]
    · rw [fin_fus, gf, ha]
    · rw [fin_sec, gs, hlc]
    · rw [fin_flt, gl, hpg]
    · rw [fin_flt, gl, hh]
    · rw [fin_rst, coldGo_phase]
      refine ite_congr (propext ?_) (fun _ => rfl) (fun _ => rfl)
      rw [pinsHold_iff, hlc, hpin, ofNat_lcWords_ne_zero]
  · obtain ⟨-, h1, h2, h3, hk⟩ := released (s := s) (q := { s.pins with resetN := true }) rfl hp rfl hc ht hh hw
    refine ⟨_, rfl, ?_, h1, h2, h3, hk⟩
    rw [fin_pins, coldRelease_goes (s := { s with pins := { s.pins with resetN := true } }) hp hh hw
      (pinsHold_of_free rfl hc ht), coldStep3_pins]
  · obtain ⟨-, h1, h2, h3, hk⟩ := released (s := s) (q := { s.pins with refclk := true }) rfl hp hr rfl ht hh hw
    refine ⟨_, rfl, ?_, h1, hk⟩
    rw [fin_pins, coldRelease_goes (s := { s with pins := { s.pins with refclk := true } }) hp hh hw
      (pinsHold_of_free hr rfl ht), coldStep3_pins]
  · obtain ⟨-, h1, h2, h3, hk⟩ := released (s := s) (q := { s.pins with testEn := false }) rfl hp hr hc rfl hh hw
    refine ⟨_, rfl, ?_, h1, hk⟩
    rw [fin_pins, coldRelease_goes (s := { s with pins := { s.pins with testEn := false } }) hp hh hw
      (pinsHold_of_free hr hc rfl), coldStep3_pins]

end Sys2Proof.Proofs

/-! Warm resets: what quiesces, what is held in reset, and the end of the hold (R455–R458, R475, R478, R480). -/

namespace Sys2Proof.Safety

open Sys2Proof.Machine

/-! ### What a stop leaves of the fuse array -/

section Kept

variable {s t : State} (h : FuseKept s t)
include h

theorem FuseKept.commitDropped {j : FuseJob} : FuseKept s (Proofs.commitDropped t j) :=
  h.of_keeps ((Keeps.refl [.ecc] t).commitDropped (by decide)) (by decide) (by decide)

theorem FuseKept.refuseCommits : FuseKept s (Sys2Proof.Machine.refuseCommits t) := by
  unfold Sys2Proof.Machine.refuseCommits
  refine FuseKept.modFus (FuseKept.foldl (fun u j k => ?_) _ h) (fun _ => rfl) (fun _ => rfl)
  cases j with
  | commit c => exact k.of_keeps ((Keeps.refl [.ecc] u).setEccOf (by decide)) (by decide) (by decide)
  | _ => exact k

theorem FuseKept.lcFollow : FuseKept s (Sys2Proof.Machine.lcFollow t) := by
  unfold Sys2Proof.Machine.lcFollow
  dsimp only
  split
  · exact FuseKept.refuseCommits ⟨h.array, h.loaded, h.mem, h.head⟩
  · exact ⟨h.array, h.loaded, h.mem, h.head⟩

theorem FuseKept.clearOp : FuseKept s (Sys2Proof.Machine.clearOp t) := h.modFus (fun _ => rfl) (fun _ => rfl)

theorem FuseKept.stopOp : FuseKept s (Sys2Proof.Machine.stopOp t) := by
  unfold Sys2Proof.Machine.stopOp
  split
  · exact h
  next o _ =>
    refine FuseKept.modFus (FuseKept.clearOp (FuseKept.lcFollow ?_)) (fun _ => rfl) (fun _ => rfl)
    cases o.job with
    | commit c => exact h.of_keeps ((Keeps.refl [.ecc] t).setEccOf (by decide)) (by decide) (by decide)
    | _ => exact h

theorem FuseKept.haltOp : FuseKept s (Proofs.haltOp t) := by
  unfold Proofs.haltOp
  split
  · exact h
  split
  · exact h.modFus (fun _ => rfl) (fun _ => rfl)
  · exact h.stopOp

theorem FuseKept.haltFuses : FuseKept s (Sys2Proof.Machine.haltFuses t) :=
  FuseKept.haltOp (FuseKept.modFus (FuseKept.foldl (fun _ _ k => k.commitDropped) _ h) (fun _ => rfl) (fun _ => rfl))

end Kept

/-! ### Frames -/

section Warm

variable {l : List Part} {s t : State} (h : Keeps l s t)
include h

theorem Keeps.engineWarm (hp : Part.pool ∈ l) (hx : Part.ctxs ∈ l) (he : Part.engs ∈ l) (hc : Part.chks ∈ l) :
    Keeps l s (Sys2Proof.Machine.engineWarm t) := by
  have k : Keeps l s { t with pool := {}, ctxs := t.ctxs.map (fun c => (c.1, { c.2 with busy := false })) } := fun p hn => by
    cases p with
    | pool => exact absurd hp hn
    | ctxs => exact absurd hx hn
    | _ => exact h _ hn
  exact Keeps.foldS (fun _ _ k => k.setChk hc) _ (Keeps.foldS (fun _ _ k => k.setEng he) _ k)

theorem Keeps.bistWarm (hb : Part.bst ∈ l) (hr : Part.rst ∈ l) : Keeps l s (Sys2Proof.Machine.bistWarm t) := fun p hp => by
  cases p with
  | bst => exact absurd hb hp
  | rst => exact absurd hr hp
  | _ => exact h _ hp

theorem Keeps.wantSurvey {c : Nat} {w : BitVec 3} (hl : Part.trn ∈ l) : Keeps l s (Sys2Proof.Machine.wantSurvey t c w) :=
  h.setTrnOf hl

theorem Keeps.abortBist {c : Nat} (hl : Part.bst ∈ l) : Keeps l s (Sys2Proof.Machine.abortBist t c) :=
  Keeps.ite h (h.setBstOf hl)

/-- The parts that the start of a rescue touches. -/
def rescueParts : List Part := .bst :: settleParts

theorem Keeps.stopChanWork {c : Nat} (hl : rescueParts ⊆ l) : Keeps l s (Sys2Proof.Machine.stopChanWork t c) :=
  Keeps.setChan (Keeps.setTsvOf (Keeps.setTrnOf (h.abortBist (hl (by decide))) (hl (by decide))) (hl (by decide)))
    (hl (by decide))

theorem Keeps.beginRescue {c : Nat} (hl : rescueParts ⊆ l) : Keeps l s (Sys2Proof.Machine.beginRescue t c) := by
  have k := (h.stopChanWork (c := c) hl).setTsvOf (i := c)
    (v := { (Machine.stopChanWork t c).tsvOf c with action := .rescue }) (hl (by decide))
  refine Keeps.settleChan (Keeps.ite ?_ ?_) (fun p hp => hl (List.mem_cons_of_mem _ hp))
  · exact (k.setChan (hl (by decide))).wantSurvey (hl (by decide))
  · exact (k.setChan (hl (by decide))).settlePoint (hl (by decide))

theorem Keeps.bootCheck {c : Nat} (hl : Part.trn ∈ l) : Keeps l s (Sys2Proof.Machine.bootCheck t c) := by
  unfold Sys2Proof.Machine.bootCheck
  dsimp only
  split
  · refine Keeps.setTrnOf (Keeps.setTrnOf (Keeps.ite h ?_) hl) hl
    split
    · exact h.setTrnOf hl
    · exact h.setTrnOf hl
  · exact h

end Warm

end Sys2Proof.Safety

namespace Sys2Proof.Proofs

open Sys2Proof.Machine
open Sys2Proof.Safety

/-! ### What stops at once -/

/-- What a warm reset stops first: the load of an image, save the shadow of a structural switch. -/
def loadStopped (s : State) : State := if s.img.phase = .switching then s else abortImage s 23

theorem warmStop_eq (s : State) : warmStop s = haltFuses (bistWarm (engineWarm (loadStopped s))) := rfl

/-- The parts that a warm stop touches. -/
def warmStopParts : List Part := [.img, .pool, .ctxs, .engs, .chks, .bst, .rst, .fus, .ecc, .sec]

theorem keeps_loadStopped (s : State) : Keeps [.img] s (loadStopped s) :=
  Keeps.ite (Keeps.refl _ s) ((Keeps.refl _ s).abortImage (by decide))

theorem keeps_engineWarm (s : State) : Keeps [.pool, .ctxs, .engs, .chks] s (engineWarm s) :=
  (Keeps.refl _ s).engineWarm (by decide) (by decide) (by decide) (by decide)

theorem keeps_haltFuses (s : State) : Keeps [.fus, .ecc, .sec] s (haltFuses s) :=
  (Keeps.refl _ s).haltFuses (by decide) (by decide) (by decide)

theorem keeps_bistWarm (s : State) : Keeps [.bst, .rst] s (bistWarm s) := (Keeps.refl _ s).bistWarm (by decide) (by decide)

theorem keeps_warmStop (s : State) : Keeps warmStopParts s (warmStop s) := by
  have h := ((keeps_loadStopped s).mono (k := warmStopParts) (by decide)).trans ((keeps_engineWarm _).mono (by decide))
  rw [warmStop_eq]
  exact (h.trans ((keeps_bistWarm _).mono (by decide))).trans ((keeps_haltFuses _).mono (by decide))

theorem foldS_modEng_pool (g : Eng → Eng) (xs : List Nat) (s : State) :
    (foldS xs (fun s e => s.modEng e g) s).pool = s.pool :=
  Keeps.foldS (l := [.engs]) (fun _ _ k => k.setEng (by decide)) xs (Keeps.refl _ s) .pool (by decide)

theorem foldS_setChk_pool (v : Chk) (xs : List Nat) (s : State) : (foldS xs (fun s u => s.setChk u v) s).pool = s.pool :=
  Keeps.foldS (l := [.chks]) (fun _ _ k => k.setChk (by decide)) xs (Keeps.refl _ s) .pool (by decide)

theorem engineWarm_pool (s : State) : (engineWarm s).pool = {} := by
  unfold engineWarm
  rw [foldS_setChk_pool, foldS_modEng_pool]

theorem warmStop_stopped (s : State) : (warmStop s).pool = {} ∧ (warmStop s).bst = [] ∧
    (s.img.phase ≠ .switching → (warmStop s).img.phase = .idle) := by
  rw [warmStop_eq, keeps_haltFuses _ .pool (by decide), keeps_haltFuses _ .bst (by decide),
    keeps_haltFuses _ .img (by decide), keeps_bistWarm _ .pool (by decide), keeps_bistWarm _ .img (by decide),
    keeps_engineWarm _ .img (by decide)]
  refine ⟨engineWarm_pool _, rfl, fun h => ?_⟩
  rw [loadStopped, if_neg h]
  unfold abortImage
  split
  · assumption
  · rfl

theorem warmStop_array (s : State) : (warmStop s).fus.array = s.fus.array := by
  rw [warmStop_eq, (FuseKept.refl _).haltFuses.array, keeps_bistWarm _ .fus (by decide), keeps_engineWarm _ .fus (by decide),
    keeps_loadStopped _ .fus (by decide)]

/-- Of the resets, a warm stop touches the fills due alone. -/
theorem warmStop_rst (s : State) : ∃ due, (warmStop s).rst = { s.rst with fillsDue := due } := by
  have e : (engineWarm (loadStopped s)).rst = s.rst :=
    (keeps_engineWarm _ .rst (by decide)).trans (keeps_loadStopped s .rst (by decide))
  rw [warmStop_eq, keeps_haltFuses _ .rst (by decide), ← e]
  exact ⟨_, rfl⟩

/-! ### The quiesce -/

/-- A reset under way from a warm trigger. -/
def warmTriggered (s : State) (cause : BitVec 3) : State :=
  { s with rst := { s.rst with
      cause := cause
      warmCount := sat s.rst.warmCount 1
      trigger := s.elapsed
      warm := true
      bistPlan := [] } }

theorem warmTrigger_ready {s : State} (h : s.rst.phase = .ready) (cause : BitVec 3) :
    warmTrigger s cause = quiesce (warmTriggered s cause) := by
  unfold warmTrigger
  rw [h]
  rfl

/-- A port drops what has not passed lookup. -/
def portQuiesced (p : Port) : Port := { p.freeDescs with rxq := [], freed := [] }

/-- A stack that is stopped quiesces. -/
def quiesceStarted (s : State) : State := { s with rst := { s.rst with phase := .quiesce } }

theorem quiesce_eq (s : State) : quiesce s =
    foldS (List.range 8) (fun s n => s.modPort n portQuiesced) (quiesceStarted (warmStop s)) := rfl

theorem keeps_portsQuiesced (s : State) : Keeps [.ports] s (foldS (List.range 8) (fun s n => s.modPort n portQuiesced) s) :=
  Keeps.foldS (fun _ _ k => k.setPort (by decide)) _ (Keeps.refl _ s)

theorem modPort_rxq {s : State} {m n : Nat} (h : (s.port n).rxq = []) : ((s.modPort m portQuiesced).port n).rxq = [] := by
  by_cases e : n = m
  · subst e
    rw [State.modPort, port_setPort]
    rfl
  · rw [State.modPort, port_setPort_ne s m n _ e, h]

theorem portsQuiesced_rxq {s : State} {n : Nat} (hn : n < 8) :
    ((foldS (List.range 8) (fun s n => s.modPort n portQuiesced) s).port n).rxq = [] :=
  foldS_establishes (P := fun n t => (t.port n).rxq = []) (g := fun s n => s.modPort n portQuiesced)
    (fun u m => by rw [State.modPort, port_setPort]; rfl) (fun _ _ _ h => modPort_rxq h) _ s n
    (Or.inl (List.mem_range.mpr hn))

/-- What a warm trigger from READY leaves. -/
theorem quiesced (s : State) (cause : BitVec 3) : QuiescedFrom s (quiesce (warmTriggered s cause)) cause := by
  obtain ⟨hpool, hbst, himg⟩ := warmStop_stopped (warmTriggered s cause)
  obtain ⟨due, hrst⟩ := warmStop_rst (warmTriggered s cause)
  have kw := keeps_warmStop (warmTriggered s cause)
  rw [quiesce_eq]
  generalize warmStop (warmTriggered s cause) = u at *
  have k := keeps_portsQuiesced (quiesceStarted u)
  have hr : (foldS (List.range 8) (fun s n => s.modPort n portQuiesced) (quiesceStarted u)).rst =
      { (warmTriggered s cause).rst with fillsDue := due, phase := .quiesce } := by
    rw [k .rst (by decide), quiesceStarted, hrst]
  unfold QuiescedFrom
  rw [hr, k .bst (by decide), k .pool (by decide), k .img (by decide), k .mem (by decide), k .mer (by decide)]
  exact ⟨rfl, rfl, rfl, rfl, rfl, fun n hn => portsQuiesced_rxq hn, hbst, hpool, himg, kw .mem (by decide), kw .mer (by decide)⟩

theorem quiescedFrom_fin {s t : State} {cause : BitVec 3} (h : QuiescedFrom s t cause) : QuiescedFrom s (fin s t) cause := h

theorem quiescedFrom_respond {s t : State} {cause : BitVec 3} (h : QuiescedFrom s t cause) (via : Via) (w : Bool) (a : Word)
    (st : Status) (d : Word) : QuiescedFrom s (respond t via w a st d) cause := by
  have k : Keeps [.ports] t (Machine.respond t via w a st d) := (Keeps.refl _ t).respond (by decide)
  obtain ⟨h1, h2, h3, h4, h5, hq, h7, h8, h9, h10, h11⟩ := h
  unfold QuiescedFrom
  rw [k .rst (by decide), k .bst (by decide), k .pool (by decide), k .img (by decide), k .mem (by decide),
    k .mer (by decide)]
  refine ⟨h1, h2, h3, h4, h5, fun n hn => ?_, h7, h8, h9, h10, h11⟩
  obtain ⟨wait, out, ho⟩ := respond_port t via w a st d n
  rw [ho]
  exact hq n hn

theorem quiesce_pins (s : State) : { (quiesce s).pins with irqN := true } = { s.pins with irqN := true } := by
  have k : Keeps warmStopParts s (quiesceStarted (warmStop s)) := (keeps_warmStop s).setRst (by decide)
  rw [quiesce_eq]
  exact (keeps_portsQuiesced _ .pins (by decide)).trans (k .pins (by decide))

/-! ### The hold -/

/-- Requests and slots of a stack that enters the hold are over. -/
def slotsEnded (s : State) : State :=
  foldS (List.range 32) sleepRanks (endSlots (if (warmStop s).flt.fatal || (warmStop s).pwr.lost then warmStop s
    else drainAll (warmStop s)))

theorem enterHeld_eq (s : State) : enterHeld s = warmState (slotsEnded s) := rfl

/-- The parts that a stack that enters the hold touches before they are reset. -/
def holdParts : List Part := warmStopParts ++ drainParts ++ [.rfr, .flt, .tiers, .trn]

theorem keeps_endSlots (s : State) : Keeps [.rfr, .flt, .tiers, .trn] s (endSlots s) :=
  Keeps.foldS (fun _ _ k => Keeps.foldS (fun _ _ k => k.slotEndChan (by decide) (by decide)) _ k) _ (Keeps.refl _ s)

theorem keeps_drained (s : State) : Keeps drainParts s (if s.flt.fatal || s.pwr.lost then s else drainAll s) :=
  Keeps.ite (Keeps.refl _ s) ((Keeps.refl _ s).drainAll (fun _ h => h))

theorem keeps_sleepAll (s : State) : Keeps [.rfr] s (foldS (List.range 32) sleepRanks s) :=
  Keeps.foldS (fun _ _ k => k.sleepRanks (by decide)) _ (Keeps.refl _ s)

theorem keeps_slotsEnded (s : State) : Keeps holdParts (warmStop s) (slotsEnded s) :=
  (((keeps_drained _).mono (by decide)).trans ((keeps_endSlots _).mono (by decide))).trans
    ((keeps_sleepAll _).mono (by decide))

theorem slotsEnded_fus (s : State) : (slotsEnded s).fus.array = s.fus.array := by
  unfold slotsEnded
  rw [keeps_sleepAll _ .fus (by decide), keeps_endSlots _ .fus (by decide), keeps_drained _ .fus (by decide), warmStop_array]

theorem warmState_kept (u : State) : (warmState u).mer = warmMer u.mer ∧ (warmState u).elapsed = u.elapsed ∧
    (warmState u).log = u.log ∧ (warmState u).fus.array = u.fus.array := ⟨rfl, rfl, rfl, rfl⟩

/-- What the hold keeps of the stack. -/
theorem enterHeld_keeps (s : State) : (enterHeld s).mer = warmMer s.mer ∧ (enterHeld s).elapsed = s.elapsed ∧
    (enterHeld s).log = s.log ∧ (enterHeld s).fus.array = s.fus.array := by
  have kw := keeps_warmStop s
  have kh := keeps_slotsEnded s
  obtain ⟨hm, he, hl, ha⟩ := warmState_kept (slotsEnded s)
  rw [enterHeld_eq, hm, he, hl, ha, kh .mer (by decide), kw .mer (by decide), kh .elapsed (by decide),
    kw .elapsed (by decide), kh .log (by decide), kw .log (by decide), slotsEnded_fus]
  exact ⟨rfl, rfl, rfl, rfl⟩

/-! ### The end of the hold -/

/-- The hold is over: Fatal and Gale end. -/
def holdLeft (s : State) : State :=
  { s with
    rst := { s.rst with phase := .image }
    flt := { s.flt with fatal := false, gale := false }
    pins := { s.pins with thermtripN := true } }

/-- The Lock and Root banks are read again. -/
def banksReread (s : State) : State := loadBank (loadBank s 3) 2

/-- The device key is due again. -/
def keyWanted (s : State) : State := { s with sec := { s.sec with keyDue := true } }

/-- The ports start. -/
def portsStarted (s : State) : State :=
  foldS ((List.range 8).filter (portPresent s.variant)) (fun s n => s.modPort n (fun p => { p with st := idleSt s n })) s

/-- A channel starts, or is rescued. -/
def chanStarted (s : State) (c : Nat) : State := bootCheck (if (s.sprOf c).st = .rescue then beginRescue s c else s) c

/-- The start before the shadow of a structural switch is looked at. -/
def restarted (s : State) : State :=
  foldS (List.range 32) chanStarted (portsStarted (keyWanted (lcFollow (banksReread (holdLeft s)))))

theorem heldEnd_eq (s : State) : heldEnd s = applyShadow (restarted s) := by
  unfold heldEnd
  extract_lets rstNow fltNow pinsNow left life secNow key ports chans
  have hl : lcFollow (banksReread (holdLeft s)) = life := rfl
  unfold restarted
  rw [hl]
  clear_value life
  have hk : keyWanted life = key := rfl
  rw [hk]
  clear_value key
  have hp : portsStarted key = ports := rfl
  rw [hp]
  clear_value ports
  rfl

/-- Two states with the same Fatal and Gale. -/
def FlagsKept (s t : State) : Prop := t.flt.fatal = s.flt.fatal ∧ t.flt.gale = s.flt.gale

theorem FlagsKept.raise {s t : State} (h : FlagsKept s t) (src i : Nat) (d : Word) : FlagsKept s (raise t src i d) := h

theorem FlagsKept.noteMarginal {s t : State} (h : FlagsKept s t) (b w : Nat) : FlagsKept s (noteMarginal t b w) := by
  unfold Machine.noteMarginal logJournal
  split
  · split
    · exact h
    · exact h
  · exact h

theorem FlagsKept.foldS {s : State} {g : State → Nat → State} (hg : ∀ u i, FlagsKept s u → FlagsKept s (g u i))
    (xs : List Nat) {t : State} (h : FlagsKept s t) : FlagsKept s (foldS xs g t) :=
  foldS_induction (P := FlagsKept s) hg xs h

theorem FlagsKept.loadBank {s t : State} (h : FlagsKept s t) (b : Nat) : FlagsKept s (loadBank t b) := by
  have k : FlagsKept s ((Machine.foldS (wordsRead t.fus b) (fun s w => Machine.noteMarginal s b w) t).modFus
      (fun f => { f with banks := tset {} f.banks b (judgeBank t.fus b) })) :=
    FlagsKept.foldS (fun _ _ k => k.noteMarginal _ _) _ h
  unfold Machine.loadBank
  dsimp only
  split
  · exact FlagsKept.foldS (fun _ _ k => k.raise _ _ _) _ k
  split
  · exact k
  · exact k.raise _ _ _

theorem keeps_banksReread (s : State) : Keeps [.flt, .log, .fus] s (banksReread s) :=
  ((Keeps.refl _ s).loadBank (by decide) (by decide) (by decide)).loadBank (by decide) (by decide) (by decide)

theorem keeps_portsStarted (s : State) : Keeps [.ports] s (portsStarted s) :=
  Keeps.foldS (fun _ _ k => k.setPort (by decide)) _ (Keeps.refl _ s)

theorem keeps_chansStarted (s : State) : Keeps rescueParts s (foldS (List.range 32) chanStarted s) :=
  Keeps.foldS (fun _ _ k => (Keeps.ite (k.beginRescue (fun _ h => h)) k).bootCheck (by decide)) _ (Keeps.refl _ s)

theorem keeps_lcFollow (s : State) : Keeps [.fus, .ecc, .sec] s (lcFollow s) :=
  (Keeps.refl _ s).lcFollow (by decide) (by decide) (by decide)

/-- The parts that the end of the hold touches after Fatal has ended. -/
def startParts : List Part := [.flt, .log, .fus, .ecc, .sec, .ports] ++ rescueParts

theorem keeps_restarted (s : State) : Keeps startParts (holdLeft s) (restarted s) := by
  have h1 := ((keeps_banksReread (holdLeft s)).mono (k := startParts) (by decide)).trans ((keeps_lcFollow _).mono (by decide))
  have h2 : Keeps startParts (holdLeft s) (keyWanted (lcFollow (banksReread (holdLeft s)))) := h1.setSec (by decide)
  exact (h2.trans ((keeps_portsStarted _).mono (by decide))).trans ((keeps_chansStarted _).mono (by decide))

theorem keyWanted_spec (s : State) : (keyWanted s).flt = s.flt ∧ (keyWanted s).sec.keyDue = true := ⟨rfl, rfl⟩

theorem restarted_flags (s : State) : (restarted s).flt.fatal = false ∧ (restarted s).flt.gale = false ∧
    (restarted s).sec.keyDue = true := by
  have hf : FlagsKept (holdLeft s) (banksReread (holdLeft s)) :=
    FlagsKept.loadBank (FlagsKept.loadBank ⟨rfl, rfl⟩ 3) 2
  unfold restarted
  rw [keeps_chansStarted _ .flt (by decide), keeps_chansStarted _ .sec (by decide), keeps_portsStarted _ .flt (by decide),
    keeps_portsStarted _ .sec (by decide)]
  rw [(keyWanted_spec _).1, (keyWanted_spec _).2, keeps_lcFollow _ .flt (by decide), hf.1, hf.2]
  exact ⟨rfl, rfl, rfl⟩

theorem applyShadow_none {s : State} (h : s.img.shadow = none) :
    applyShadow s = s.modImg (fun i => { i with bootDue := s.pins.bootQspi }) := by
  unfold applyShadow
  rw [h]

theorem exec_warmHeldEnd {s : State} (hh : s.rst.phase = .held) (hw : s.rst.warm = true) (hr : s.pins.resetN = true)
    (hc : s.pins.refclk = true) (hg : s.flt.gale = false) : exec .warmHeldEnd s = answer s (heldEnd s) := by
  refine congrArg (answer s) (if_pos ?_)
  rw [hh, hw, hr, hc, hg]
  rfl

/-- The state at the end of the hold, with no shadow to apply. -/
theorem heldEnd_spec {s : State} (h : s.img.shadow = none) : (heldEnd s).rst.phase = .image ∧
    (heldEnd s).flt.fatal = false ∧ (heldEnd s).flt.gale = false ∧ (heldEnd s).pins.thermtripN = true ∧
    (heldEnd s).sec.keyDue = true ∧ (heldEnd s).img = { s.img with bootDue := s.pins.bootQspi } ∧
    (heldEnd s).mer = s.mer := by
  have k := keeps_restarted s
  obtain ⟨hf, hg, hk⟩ := restarted_flags s
  have hi : (restarted s).img = s.img := k .img (by decide)
  have hpin : { (restarted s).pins with irqN := true } = { (holdLeft s).pins with irqN := true } := k .pins (by decide)
  have hrst : (restarted s).rst = (holdLeft s).rst := k .rst (by decide)
  have hmer : (restarted s).mer = s.mer := k .mer (by decide)
  have hs : (restarted s).img.shadow = none := by rw [hi, h]
  rw [heldEnd_eq, applyShadow_none hs]
  generalize restarted s = u at *
  refine ⟨congrArg Rst.phase hrst, hf, hg, congrArg Pins.thermtripN hpin, hk, ?_, hmer⟩
  have hq := congrArg Pins.bootQspi hpin
  have hb : u.pins.bootQspi = s.pins.bootQspi := hq
  show { u.img with bootDue := u.pins.bootQspi } = _
  rw [hi, hb]

/-! ### The pins -/

theorem coldRelease_of_not_held {s : State} (h : s.rst.phase ≠ .held) : coldRelease s = s := by
  refine if_neg ?_
  rw [decide_eq_false h, Bool.and_false, Bool.false_and, Bool.false_and]
  exact Bool.false_ne_true

theorem pinTrigger_ready {s : State} (hp : s.pins.pwrgood = true) (hr : s.rst.phase = .ready) :
    pinTrigger s = quiesce (warmTriggered s 2) := (if_pos hp).trans (warmTrigger_ready hr 2)

theorem resetNLow_long {ns : Nat} (h : 1000 ≤ ns) (s : State) : exec (.resetNLow ns) s =
    .next (fin s (pinTrigger { s with pins := { s.pins with resetN := false } })) := by
  refine congrArg (fun t => Host.Outcome.next (fin s t)) ?_
  rw [if_neg (by omega), if_neg (by omega)]

theorem rstCtrlWrite_warm (s : State) : rstCtrlWrite 0x400000 s = (.ok, warmTrigger s 3) := rfl

theorem fin_elapsed (s t : State) : (fin s t).elapsed = t.elapsed := rfl

/-- Settles O59. -/
theorem warmResets : Obligations.WarmResets := by
  refine ⟨fun s via h hr => ?_, fun s ns hp hr hn => ?_, fun s ns hn => ?_, fun s hp hr hc => ?_, fun s hh => ?_,
    fun s hp hq ho => ?_, fun s hp hh hw hr hc hg hsh => ?_⟩
  · refine ⟨_, answer_mgmtWrite h (rstCtrlWrite_warm s), ?_⟩
    rw [warmTrigger_ready hr]
    exact quiescedFrom_fin (quiescedFrom_respond (quiesced s 3) _ _ _ _ _)
  · have e := pinTrigger_ready (s := { s with pins := { s.pins with resetN := false } }) hp hr
    refine ⟨_, resetNLow_long hn s, ?_, ?_⟩
    · rw [e]
      exact congrArg Pins.resetN (quiesce_pins (warmTriggered { s with pins := { s.pins with resetN := false } } 2))
    · rw [e]
      exact quiescedFrom_fin (quiesced { s with pins := { s.pins with resetN := false } } 2)
  · exact congrArg (fun t => Host.Outcome.next (fin s t)) (if_pos hn)
  · have e := pinTrigger_ready (s := { s with pins := { s.pins with refclk := false } }) hp hr
    refine ⟨_, congrArg (fun t => Host.Outcome.next (fin s t)) (if_pos hc), ?_, ?_⟩
    · rw [e]
      exact congrArg Pins.refclk (quiesce_pins (warmTriggered { s with pins := { s.pins with refclk := false } } 2))
    · rw [e]
      exact quiescedFrom_fin (quiesced { s with pins := { s.pins with refclk := false } } 2)
  · have e (q : Pins) : coldRelease { s with pins := q } = { s with pins := q } := coldRelease_of_not_held hh
    exact ⟨congrArg (fun t => Host.Outcome.next (fin s t)) (e _), congrArg (fun t => Host.Outcome.next (fin s t)) (e _),
      congrArg (fun t => Host.Outcome.next (fin s t)) (e _)⟩
  · obtain ⟨hm, he, hl, ha⟩ := enterHeld_keeps s
    refine ⟨_, exec_warmQuiesceDone_of_over hp hq ho, rfl, rfl, rfl, rfl, rfl, rfl, rfl, ?_⟩
    rw [fin_mer, hm, fin_log, hl, fin_fus, ha, fin_elapsed, he]
    exact ⟨rfl, rfl, rfl, rfl, rfl, rfl, rfl⟩
  · rw [exec_warmHeldEnd hh hw hr hc hg]
    have h := heldEnd_spec hsh
    generalize heldEnd s = u at h ⊢
    exact ⟨_, answer_next hp rfl, h⟩

end Sys2Proof.Proofs

/-! Images: verification, admission and the switch (R325–R331). -/

namespace Sys2Proof.Safety

open Sys2Proof.Machine

/-! ### What the tables of an image touch as they come into force -/

/-- The parts that the end of a descriptor touches. -/
def descParts : List Part := [.flowRt, .flt, .queues, .pool, .ctxs, .engs, .chks]

section Descs

variable {l : List Part} {s t : State} (h : Keeps l s t)
include h

theorem Keeps.postDone {d : Desc} {r v : Nat} (hr : Part.flowRt ∈ l) (hq : Part.queues ∈ l) (hf : Part.flt ∈ l) :
    Keeps l s (Sys2Proof.Machine.postDone t d r v) :=
  Keeps.ite (h.postFlow hq hf hr) (Keeps.ite (h.pushRecord hq hf) h)

theorem Keeps.saveWork {d : Desc} (hc : Part.ctxs ∈ l) : Keeps l s (Sys2Proof.Machine.saveWork t d) :=
  Keeps.ite (h.setCtx hc) h

theorem Keeps.endDesc {e f : Nat} {d : Desc} (hl : descParts ⊆ l) : Keeps l s (Sys2Proof.Machine.endDesc t e f d) := by
  have k := h.saveWork (d := d) (hl (by decide))
  refine Keeps.postDone (Keeps.setEng (Keeps.setEngQ (Keeps.freeUnitsOf (Keeps.ite (k.setCtx (hl (by decide))) k)
    (hl (by decide))) (hl (by decide))) (hl (by decide))) (hl (by decide)) (hl (by decide)) (hl (by decide))

theorem Keeps.abortRunning {e : Nat} (hl : descParts ⊆ l) : Keeps l s (Sys2Proof.Machine.abortRunning t e) := by
  unfold Sys2Proof.Machine.abortRunning
  split
  · exact h
  · exact Keeps.ite ((h.putHead (hl (by decide))).endDesc hl) (h.putHead (hl (by decide)))

theorem Keeps.dropFlowDescs {f : Nat} (hl : descParts ⊆ l) : Keeps l s (Sys2Proof.Machine.dropFlowDescs t f) := by
  unfold Sys2Proof.Machine.dropFlowDescs
  dsimp only
  split
  · exact Keeps.foldl (fun _ _ k => k.postDone (hl (by decide)) (hl (by decide)) (hl (by decide))) _
      ((h.setEngQ (hl (by decide))).abortRunning hl)
  · exact Keeps.foldl (fun _ _ k => Keeps.postDone (Keeps.ite (k.setCtx (hl (by decide))) k) (hl (by decide))
      (hl (by decide)) (hl (by decide))) _ (h.setEngQ (hl (by decide)))

end Descs

/-- The parts that new tables touch, beside the tables themselves. -/
def tableParts : List Part :=
  [.reqs, .flowRt, .flt, .queues, .pool, .ctxs, .engs, .chks, .ranks, .log, .mig, .flw, .slots, .paths, .rfr, .tiers, .tel,
    .chans, .mem, .ecc, .cip]

section Tables

variable {l : List Part} {s t : State} (h : Keeps l s t)
include h

theorem Keeps.setRank {c k : Nat} {v : RankSp} (hr : Part.ranks ∈ l) (hl : Part.log ∈ l) :
    Keeps l s (Sys2Proof.Machine.setRank t c k v) :=
  Keeps.ite (h.setRankRaw hr) ((h.setRankRaw hr).logMap _ hl)

theorem Keeps.giveGrans (hr : Part.ranks ∈ l) (hl : Part.log ∈ l) (hm : Part.mig ∈ l) :
    Keeps l s (Sys2Proof.Machine.giveGrans t) := by
  refine Keeps.foldS (fun u key k => ?_) _ h
  dsimp only
  split
  · split
    · exact k.setRankRaw hr
    · exact (k.setRank hr hl).setMig hm
  · exact k

theorem Keeps.freeGrans (hr : Part.ranks ∈ l) : Keeps l s (Sys2Proof.Machine.freeGrans t) := fun p hp => by
  cases p with
  | ranks => exact absurd hr hp
  | _ => exact h _ hp

theorem Keeps.closeChanged {tb : Tables} {f : Nat} (hl : windowParts ⊆ l) :
    Keeps l s (Sys2Proof.Machine.closeChanged tb t f) :=
  Keeps.ite ((h.setFlowR (hl (by decide))).closeWindow hl) h

theorem Keeps.startSpan {f : Nat} (hl : windowParts ⊆ l) : Keeps l s (Sys2Proof.Machine.startSpan t f) :=
  Keeps.ite (h.openWindow hl) ((h.openWindow hl).setFlowR (hl (by decide)))

theorem Keeps.startChanged {old : Tables} {f : Nat} (hl : tableParts ⊆ l) :
    Keeps l s (Sys2Proof.Machine.startChanged old t f) := by
  have hw : windowParts ⊆ l := fun p hp => hl (by revert p; decide)
  have hd : descParts ⊆ l := fun p hp => hl (by revert p; decide)
  exact Keeps.ite ((h.setFlowR (hl (by decide))).dropFlowDescs hd) (Keeps.ite (h.startSpan hw)
    (Keeps.ite ((h.openWindow hw).unparkFlow (hl (by decide))) (Keeps.ite (h.setFlowR (hl (by decide))) h)))

theorem Keeps.changeQueues {old : Tables} (hq : Part.queues ∈ l) : Keeps l s (Sys2Proof.Machine.changeQueues old t) :=
  Keeps.foldS (fun _ _ k => k.setEvq hq) _ h

theorem Keeps.restartCounts (hr : Part.flowRt ∈ l) (hq : Part.queues ∈ l) (hf : Part.flw ∈ l) :
    Keeps l s (Sys2Proof.Machine.restartCounts t) := fun p hp => by
  cases p with
  | flowRt => exact absurd hr hp
  | queues => exact absurd hq hp
  | flw => exact absurd hf hp
  | _ => exact h _ hp

theorem Keeps.clearSlotNow {i : Nat} (hd : Proofs.drainParts ⊆ l) (hs : Part.slots ∈ l) :
    Keeps l s (Sys2Proof.Machine.clearSlotNow t i) :=
  Keeps.ite ((h.purgeLines hd).setSlot hs) h

theorem Keeps.changeKeys {old : Tables} {full : Bool} (hd : Proofs.drainParts ⊆ l) (hs : Part.slots ∈ l)
    (hp : Part.paths ∈ l) : Keeps l s (Sys2Proof.Machine.changeKeys old full t) := by
  have k : Keeps l s (Machine.foldS ((old.slots.filter (fun e => tfind t.tables.slots e.1 ≠ some e.2)).map (·.1))
      Machine.clearSlotNow t) := Keeps.foldS (fun _ _ k => k.clearSlotNow hd hs) _ h
  exact Keeps.ite (Keeps.foldS (fun _ _ k => k.setPath hp) _ k) k

theorem Keeps.chargeSlot {i : Nat} (hl : owedParts ⊆ l) : Keeps l s (Sys2Proof.Machine.chargeSlot t i) := by
  unfold Sys2Proof.Machine.chargeSlot
  split
  · exact h
  · exact Keeps.ite h (Keeps.foldS (fun _ _ k => Keeps.ite k (k.oweAll hl)) _ h)

theorem Keeps.changeLull {old : Tables} (hl : owedParts ⊆ l) : Keeps l s (Sys2Proof.Machine.changeLull old t) :=
  Keeps.ite h (Keeps.foldS (fun _ _ k => k.chargeSlot hl) _ h)

theorem Keeps.changeFaults {old : State} (hf : Part.flt ∈ l) : Keeps l s (Sys2Proof.Machine.changeFaults old t) :=
  h.setFlt hf

theorem Keeps.changeTelemetry {ns : List Nat} (ht : Part.tel ∈ l) : Keeps l s (Sys2Proof.Machine.changeTelemetry ns t) :=
  Keeps.setTel (Keeps.foldS (fun _ _ k => k.setTel ht) _ h) ht

end Tables

end Sys2Proof.Safety

namespace Sys2Proof.Proofs

open Sys2Proof.Machine
open Sys2Proof.Safety

/-! ### The installation of tables, in two parts -/

/-- The windows whose length changes are closed, and the tables stand. -/
def tablesSet (old : State) (t : Tables) : State :=
  { foldS (flowKeys old.tables t) (closeChanged t) old with tables := t }

/-- Of new tables, the granules and the counts of a full image. -/
def countsRestarted (full : Bool) (s : State) : State :=
  let s := if full then giveGrans (freeGrans s) else s
  if full then restartCounts s else s

/-- The flows, queues, keys, slots and faults under tables that stand. -/
def contractsStarted (old : State) (t : Tables) (full : Bool) (s : State) : State :=
  changeFaults old (changeLull old.tables (changeKeys old.tables full (changeQueues old.tables
    (foldS (flowKeys old.tables t) (startChanged old.tables) s))))

/-- The telemetry selections and the budgets under tables that stand. -/
def budgetsStarted (changed full : Bool) (ns : List Nat) (s : State) : State :=
  let s := if changed then changeTelemetry ns s else s
  let s := if full then { s with flw := { s.flw with shortfall := false, factor := 64, shed := 0, clean := 0, posted := [], heldBack := [] } } else s
  budgetDue (setFloors s)

theorem installTables_eq (old : State) (t : Tables) (a : Option (List Nat)) (live : Bool) :
    installTables old t a live = budgetsStarted (!live || telChanged old.tables t) a.isNone (a.getD (List.range 256))
      (contractsStarted old t a.isNone (countsRestarted a.isNone (tablesSet old t))) := rfl

theorem keeps_countsRestarted (full : Bool) (s : State) : Keeps tableParts s (countsRestarted full s) := by
  have h := Keeps.refl tableParts s
  have k : Keeps tableParts s (if full = true then giveGrans (freeGrans s) else s) :=
    Keeps.ite ((h.freeGrans (by decide)).giveGrans (by decide) (by decide) (by decide)) h
  exact Keeps.ite (k.restartCounts (by decide) (by decide) (by decide)) k

theorem keeps_contractsStarted (old : State) (t : Tables) (full : Bool) (s : State) :
    Keeps tableParts s (contractsStarted old t full s) := by
  have k : Keeps tableParts s (foldS (flowKeys old.tables t) (startChanged old.tables) s) :=
    Keeps.foldS (fun _ _ k => k.startChanged (fun _ h => h)) _ (Keeps.refl _ s)
  exact (((k.changeQueues (by decide)).changeKeys (by decide) (by decide) (by decide)).changeLull (by decide)).changeFaults
    (by decide)

theorem keeps_budgetsStarted (changed full : Bool) (ns : List Nat) (s : State) :
    Keeps tableParts s (budgetsStarted changed full ns s) := by
  have h := Keeps.refl tableParts s
  have k : Keeps tableParts s (if changed = true then changeTelemetry ns s else s) :=
    Keeps.ite (h.changeTelemetry (by decide)) h
  exact Keeps.budgetDue (Keeps.setFloors (Keeps.ite (k.setFlw (by decide)) k) (by decide)) (by decide)

theorem tablesSet_spec (old : State) (t : Tables) : (tablesSet old t).tables = t ∧ (tablesSet old t).img = old.img ∧
    (tablesSet old t).rst = old.rst := by
  have k : Keeps windowParts old (foldS (flowKeys old.tables t) (closeChanged t) old) :=
    Keeps.foldS (fun _ _ k => k.closeChanged (fun _ h => h)) _ (Keeps.refl _ old)
  exact ⟨rfl, k .img (by decide), k .rst (by decide)⟩

/-- New tables stand; the loader and the resets are as they were. -/
theorem installTables_spec (old : State) (t : Tables) (a : Option (List Nat)) (live : Bool) :
    (installTables old t a live).tables = t ∧ (installTables old t a live).img = old.img ∧
      (installTables old t a live).rst = old.rst := by
  have kc := keeps_countsRestarted a.isNone (tablesSet old t)
  have ks := keeps_contractsStarted old t a.isNone (countsRestarted a.isNone (tablesSet old t))
  have k := (kc.trans ks).trans (keeps_budgetsStarted (!live || telChanged old.tables t) a.isNone (a.getD (List.range 256)) _)
  obtain ⟨ht, hi, hr⟩ := tablesSet_spec old t
  rw [installTables_eq, k .tables (by decide), k .img (by decide), k .rst (by decide), ht, hi, hr]
  exact ⟨rfl, rfl, rfl⟩

/-! ### Refusals, verification and admission -/

/-- An image refused, of a load that a path owns. -/
def imageRefused (s : State) (r : Nat × Word) : State :=
  { s with
    img := { s.img.toIdle with reason := BitVec.ofNat 5 r.1, detail := r.2, refusals := sat s.img.refusals 1 }
    flt := { s.flt with detected := s.flt.detected ++ [{ src := 0x34, inst := 0, detail := 0 }] } }

theorem refuseImage_owned {s : State} {n : Nat} (h : s.img.owner = some n) (r : Nat × Word) :
    refuseImage s r.1 r.2 = imageRefused s r := by
  refine if_neg ?_
  rw [bootLoad, h, Option.isNone_some, Bool.and_false]
  exact Bool.false_ne_true

/-- An image admitted, of a load that a path owns. -/
def imageAdmitted (s : State) : State :=
  { s with img := { s.img with
      phase := .ready
      structural := isStructural s (parseImage s.img.words.reverse)
      shadow := some (tablesOf s (parseImage s.img.words.reverse))
      firstEdge := none } }

theorem exec_signatureVerified {s : State} {n : Nat} (hp : s.pins.pwrgood = true) (h : s.img.phase = .verify)
    (ho : s.img.owner = some n) : exec .signatureVerified s = .next (fin s (
      if authentic s.fus s.img.words.reverse then { s with img := { s.img with phase := .admission } }
      else imageRefused s (2, 0))) := by
  refine (congrArg (answer s) (if_pos h)).trans (answer_next hp ?_)
  rw [← refuseImage_owned ho]
  rfl

theorem exec_admissionDone {s : State} (hp : s.pins.pwrgood = true) (h : s.img.phase = .admission) :
    exec .admissionDone s = .next (fin s (match judgeImage s (parseImage s.img.words.reverse) with
      | some r => refuseImage s r.1 r.2
      | none => s.modImg (fun i => { i with
          structural := isStructural s (parseImage s.img.words.reverse)
          shadow := some (tablesOf s (parseImage s.img.words.reverse))
          phase := if i.owner.isNone then .scheduled else .ready
          firstEdge := if i.owner.isNone then some (s.elapsed + 1) else none }))) :=
  (congrArg (answer s) (if_pos h)).trans (answer_next hp rfl)

theorem modImg_admitted {s : State} {n : Nat} (ho : s.img.owner = some n) : s.modImg (fun i => { i with
    structural := isStructural s (parseImage s.img.words.reverse)
    shadow := some (tablesOf s (parseImage s.img.words.reverse))
    phase := if i.owner.isNone then .scheduled else .ready
    firstEdge := if i.owner.isNone then some (s.elapsed + 1) else none }) = imageAdmitted s := by
  have hp : (if s.img.owner.isNone then LoadPhase.scheduled else .ready) = .ready := if_neg (by rw [ho]; exact Bool.false_ne_true)
  have he : (if s.img.owner.isNone then some (s.elapsed + 1) else none) = none := if_neg (by rw [ho]; exact Bool.false_ne_true)
  simp only [State.modImg, imageAdmitted, hp, he]

/-! ### The switch -/

/-- An image whose edge has come: the words kept are judged again. -/
theorem exec_imageSwitch {s : State} {tb : Tables} (hp : s.pins.pwrgood = true) (hs : s.img.shadow = some tb)
    (hph : s.img.phase = .scheduled) (hd : switchDue s = true) : exec .imageSwitch s = .next (fin s (
      match judgeRun s (parseImage s.img.words.reverse) tb with
      | some r => refuseImage s r.1 r.2
      | none =>
        if s.rst.phase = .image && !s.img.inForce then
          enterBist ((bootSwitch (noteSwitch s (parseImage s.img.words.reverse)) tb).modImg Img.toIdle)
        else if s.img.structural then
          warmTrigger ((noteSwitch s (parseImage s.img.words.reverse)).modImg (fun i => { i with phase := .switching })) 4
        else (liveSwitch (noteSwitch s (parseImage s.img.words.reverse)) (parseImage s.img.words.reverse) tb).modImg
          Img.toIdle)) := by
  have hc : ¬ (decide (s.img.phase ≠ .scheduled) || !switchDue s) = true := by
    rw [hph, hd]
    decide
  show execImageSwitch s = _
  unfold execImageSwitch
  rw [hs]
  exact (congrArg (answer s) (if_neg hc)).trans (answer_next hp rfl)

theorem noteSwitch_img (s : State) (p : Parsed) : (noteSwitch s p).img.switched = s.mer.count ∧
    (noteSwitch s p).img.loads = sat s.img.loads 1 ∧ (noteSwitch s p).img.inForce = s.img.inForce ∧
    (noteSwitch s p).img.shadow = s.img.shadow := by
  unfold noteSwitch State.modImg
  dsimp only
  split
  · exact ⟨rfl, rfl, rfl, rfl⟩
  · exact ⟨rfl, rfl, rfl, rfl⟩

theorem warmStop_img_of_switching {s : State} (h : s.img.phase = .switching) : (warmStop s).img = s.img := by
  rw [warmStop_eq, keeps_haltFuses _ .img (by decide), keeps_bistWarm _ .img (by decide), keeps_engineWarm _ .img (by decide),
    loadStopped, if_pos h]

/-- A quiesce for a structural switch leaves its shadow. -/
theorem quiesce_of_switching {s : State} (h : s.img.phase = .switching) : (quiesce s).img = s.img ∧
    (quiesce s).tables = s.tables := by
  rw [quiesce_eq, keeps_portsQuiesced _ .img (by decide), keeps_portsQuiesced _ .tables (by decide)]
  exact ⟨warmStop_img_of_switching h, keeps_warmStop s .tables (by decide)⟩

/-- A structural switch quiesces the stack and leaves the loader as it is. -/
theorem warmTrigger_switching {u : State} (hr : u.rst.phase = .ready) (h : u.img.phase = .switching) :
    (warmTrigger u 4).tables = u.tables ∧ (warmTrigger u 4).img = u.img ∧ (warmTrigger u 4).rst.phase = .quiesce ∧
      (warmTrigger u 4).rst.cause = 4 ∧ (warmTrigger u 4).rst.warm = true ∧
      (warmTrigger u 4).rst.warmCount = sat u.rst.warmCount 1 := by
  obtain ⟨q1, q2, q3, q4, -⟩ := quiesced u 4
  obtain ⟨hi, ht⟩ := quiesce_of_switching (s := warmTriggered u 4) h
  rw [warmTrigger_ready hr]
  exact ⟨ht, hi, q1, q2, q3, q4⟩

/-- An image about to switch through a warm reset. -/
def switching (s : State) (p : Parsed) : State := (noteSwitch s p).modImg (fun i => { i with phase := .switching })

theorem switching_spec (s : State) (p : Parsed) : (switching s p).tables = s.tables ∧ (switching s p).rst = s.rst ∧
    (switching s p).img.phase = .switching ∧ (switching s p).img.shadow = s.img.shadow ∧
    (switching s p).img.switched = s.mer.count := by
  obtain ⟨h1, -, -, h4⟩ := noteSwitch_img s p
  exact ⟨rfl, rfl, rfl, h4, h1⟩

theorem not_first {s : State} (hf : s.img.inForce = true) : ¬ (decide (s.rst.phase = .image) && !s.img.inForce) = true := by
  rw [hf, Bool.not_true, Bool.and_false]
  exact Bool.false_ne_true

/-- Settles O57. -/
theorem imagesJudgedAndSwitched : Obligations.ImagesJudgedAndSwitched := by
  refine ⟨fun s n hp hph ho => exec_signatureVerified hp hph ho, fun s n hp hph ho => ?_,
    fun s tb hp hs hph hd hj hf hst => ?_, fun s tb hp hs hph hd hj hf hst hr => ?_, fun s tb n r hp hs hph hd ho hj => ?_⟩
  · rw [exec_admissionDone hp hph]
    cases judgeImage s (parseImage s.img.words.reverse) with
    | none => exact congrArg (fun t => Host.Outcome.next (fin s t)) (modImg_admitted ho)
    | some r => exact congrArg (fun t => Host.Outcome.next (fin s t)) (refuseImage_owned ho r)
  · rw [exec_imageSwitch hp hs hph hd, hj]
    dsimp only
    rw [if_neg (not_first hf), if_neg (Bool.eq_false_iff.mp hst)]
    obtain ⟨h1, h2, h3, -⟩ := noteSwitch_img s (parseImage s.img.words.reverse)
    obtain ⟨ht, hi, hr⟩ := installTables_spec (noteSwitch s (parseImage s.img.words.reverse)) tb
      (if (parseImage s.img.words.reverse).amend then
        some (((parseImage s.img.words.reverse).recs.filter (fun r => r.sheet = 9 && r.rtype = 2)).map (·.index)) else none)
      true
    refine ⟨_, rfl, ht, rfl, rfl, rfl, ?_, ?_, ?_, hr⟩
    · exact (congrArg Img.inForce hi).trans (h3.trans hf)
    · exact (congrArg Img.switched hi).trans h1
    · exact (congrArg Img.loads hi).trans h2
  · rw [exec_imageSwitch hp hs hph hd, hj]
    dsimp only
    obtain ⟨hut, hur, hup, hush, hus⟩ := switching_spec s (parseImage s.img.words.reverse)
    rw [if_neg (not_first hf), if_pos hst]
    change ∃ t, Host.Outcome.next (fin s (warmTrigger (switching s (parseImage s.img.words.reverse)) 4)) = .next t ∧ _
    generalize switching s (parseImage s.img.words.reverse) = u at *
    obtain ⟨ht, hi, h1, h2, h3, h4⟩ := warmTrigger_switching (hur ▸ hr) hup
    rw [hut] at ht
    rw [hur] at h4
    generalize warmTrigger u 4 = v at *
    refine ⟨_, rfl, ht, ?_, ?_, ?_, h1, h2, h3, h4⟩
    · rw [fin_img, hi, hup]
    · rw [fin_img, hi, hush, hs]
    · rw [fin_img, hi, hus]
  · rw [exec_imageSwitch hp hs hph hd, hj]
    exact congrArg (fun t => Host.Outcome.next (fin s t)) (refuseImage_owned ho r)

end Sys2Proof.Proofs

/-! Supply hold and Gale (R371–R375). -/

namespace Sys2Proof.Safety

open Sys2Proof.Machine

/-! ### The variant stays through a drain -/

/-- Two states of one variant. -/
def VariantKept (s t : State) : Prop := t.variant = s.variant

theorem VariantKept.foldl {α : Type} {s : State} {g : State → α → State} (hg : ∀ u x, VariantKept s u → VariantKept s (g u x))
    (xs : List α) : ∀ {t : State}, VariantKept s t → VariantKept s (xs.foldl g t) := by
  induction xs with
  | nil => exact fun h => h
  | cons x xs ih => exact fun h => ih (hg _ x h)

theorem VariantKept.foldS {s : State} {g : State → Nat → State} (hg : ∀ u i, VariantKept s u → VariantKept s (g u i))
    (xs : List Nat) {t : State} (h : VariantKept s t) : VariantKept s (Sys2Proof.Machine.foldS xs g t) :=
  VariantKept.foldl hg xs h

theorem VariantKept.ite {s t u : State} {p : Prop} [Decidable p] (h : VariantKept s t) (k : VariantKept s u) :
    VariantKept s (if p then t else u) := by
  split
  · exact h
  · exact k

section Variant

variable {s t : State} (h : VariantKept s t)
include h

theorem VariantKept.setChan {c : Nat} {v : Chan} : VariantKept s (t.setChan c v) := h

theorem VariantKept.setEccOf {c : Nat} {v : Ecc} : VariantKept s (t.setEccOf c v) := h

theorem VariantKept.setRmem {k : Nat} {v : RankMem} : VariantKept s (t.setRmem k v) := h

theorem VariantKept.setReqs {v : List Req} : VariantKept s { t with reqs := v } := h

theorem VariantKept.setMig {v : Mig} : VariantKept s { t with mig := v } := h

theorem VariantKept.setCip {v : Cip} : VariantKept s { t with cip := v } := h

theorem VariantKept.perf {ev i k : Nat} : VariantKept s (Sys2Proof.Machine.perf t ev i k) := h

theorem VariantKept.cellWrite {x : Loc} {w : Half × Half} : VariantKept s (Sys2Proof.Machine.cellWrite t x w) := by
  unfold Sys2Proof.Machine.cellWrite
  split
  · exact h.setEccOf
  · exact h.setRmem

theorem VariantKept.countWr {c : Nat} : VariantKept s (Sys2Proof.Machine.countWr t c) := h.setChan.perf

theorem VariantKept.burstAt {x : Loc} {mask : Bool × Bool} {w : Half × Half} {me : Nat} :
    VariantKept s (Sys2Proof.Machine.burstAt t x mask w me) := h.cellWrite.setChan.countWr

theorem VariantKept.burst {x : Loc} {mask : Bool × Bool} {w : Half × Half} {me : Nat} :
    VariantKept s (Sys2Proof.Machine.burst t x mask w me) := by
  rw [Proofs.burst_eq]
  split
  · refine VariantKept.burstAt ?_
    unfold Proofs.stagedFollows
    exact VariantKept.ite h.burstAt.setMig h.burstAt
  · exact h.burstAt

theorem VariantKept.flushed {c line : Nat} : VariantKept s (Sys2Proof.Machine.flushed t c line) :=
  VariantKept.ite h h.setReqs

theorem VariantKept.applyCol {c col : Nat} {e : Entry} : VariantKept s (Sys2Proof.Machine.applyCol t c e col) := by
  unfold Sys2Proof.Machine.applyCol
  exact VariantKept.ite h.burstAt.setMig.perf (VariantKept.ite h.burst.setEccOf (VariantKept.ite h.burst h.burst.flushed))

theorem VariantKept.entryDrained {c col : Nat} {e : Entry} : VariantKept s (Proofs.entryDrained t c e col) := by
  unfold Proofs.entryDrained
  dsimp only
  split
  · exact h.setChan.setReqs
  · exact h.setChan

theorem VariantKept.drainCol {sel : Entry → Nat → Bool} {c id col : Nat} :
    VariantKept s (Proofs.drainCol sel c id t col) := by
  unfold Proofs.drainCol
  split
  · exact h
  · exact VariantKept.ite h (VariantKept.ite h.entryDrained.setEccOf h.entryDrained.applyCol)

theorem VariantKept.drainEntries {sel : Entry → Nat → Bool} {c : Nat} :
    VariantKept s (Sys2Proof.Machine.drainEntries sel t c) := by
  rw [Proofs.drainEntries_eq]
  exact VariantKept.foldl (fun _ _ k => VariantKept.foldl (fun _ _ k => k.drainCol) _ k) _ h

theorem VariantKept.countEnc {b : Bool} : VariantKept s (Sys2Proof.Machine.countEnc t b) :=
  VariantKept.ite h.setCip.perf h

theorem VariantKept.drainLine {c : Nat} {x : LbLine} : VariantKept s (Sys2Proof.Machine.drainLine t c x) := by
  unfold Sys2Proof.Machine.drainLine
  dsimp only
  split
  · exact h.setReqs
  · exact VariantKept.ite h.setReqs (VariantKept.flushed
      (VariantKept.setChan (VariantKept.burst (VariantKept.perf (VariantKept.countEnc h.drainEntries)))))

theorem VariantKept.purgeLines {sel : LbLine → Bool} : VariantKept s (Sys2Proof.Machine.purgeLines sel t) :=
  VariantKept.foldS (fun _ _ k => VariantKept.setChan (VariantKept.foldl (fun _ _ k => k.drainLine) _ k)) _ h

theorem VariantKept.wipeSlots : VariantKept s (Sys2Proof.Machine.wipeSlots t) := h

theorem VariantKept.setDom {d : Nat} {v : Dom} : VariantKept s (t.setDom d v) := h

theorem VariantKept.cipherParked : VariantKept s (Sys2Proof.Machine.cipherParked t) := h.purgeLines.wipeSlots

theorem VariantKept.galeOff {d : Nat} : VariantKept s (Sys2Proof.Machine.galeOff t d) :=
  VariantKept.ite h (VariantKept.ite h.setDom.cipherParked (VariantKept.ite h.setDom.setChan h.setDom))

end Variant

/-! ### Frames -/

section Holds

variable {l : List Part} {s t : State} (h : Keeps l s t)
include h

theorem Keeps.beginCommit {c : Nat} (hf : Part.fus ∈ l) (he : Part.ecc ∈ l) :
    Keeps l s (Sys2Proof.Machine.beginCommit t c) := (h.setEccOf he).setFus hf

theorem Keeps.nextRecord {c : Nat} (hf : Part.fus ∈ l) : Keeps l s (Sys2Proof.Machine.nextRecord t c) := by
  unfold Sys2Proof.Machine.nextRecord
  split
  · exact h.setFus hf
  split
  · exact h.setFus hf
  · exact h.setFus hf

theorem Keeps.startJob {j : FuseJob} (hf : Part.fus ∈ l) (he : Part.ecc ∈ l) :
    Keeps l s (Sys2Proof.Machine.startJob t j) := by
  unfold Sys2Proof.Machine.startJob
  split
  · exact h
  · dsimp only
    split
    · exact h
    · exact h.setFus hf
  · exact (h.beginCommit hf he).nextRecord hf

theorem Keeps.startNext (hf : Part.fus ∈ l) (he : Part.ecc ∈ l) : Keeps l s (Sys2Proof.Machine.startNext t) := by
  unfold Sys2Proof.Machine.startNext
  refine Keeps.ite h ?_
  split
  · exact h
  · exact (h.setFus hf).startJob hf he

theorem Keeps.resumeFuses (hf : Part.fus ∈ l) (he : Part.ecc ∈ l) : Keeps l s (Sys2Proof.Machine.resumeFuses t) :=
  (h.setFus hf).startNext hf he

theorem Keeps.holdSweeps {g : State → Nat → State} (hg : ∀ u c, Keeps l s u → Keeps l s (g u c)) :
    Keeps l s (Sys2Proof.Machine.holdSweeps g t) := Keeps.foldS hg _ h

theorem Keeps.closeRows {c : Nat} (hc : Part.chans ∈ l) : Keeps l s (Sys2Proof.Machine.closeRows t c) := h.closeBanks hc

theorem Keeps.wipeSlots (hs : Part.slots ∈ l) (hc : Part.cip ∈ l) : Keeps l s (Sys2Proof.Machine.wipeSlots t) := fun p hp => by
  cases p with
  | slots => exact absurd hs hp
  | cip => exact absurd hc hp
  | _ => exact h _ hp

theorem Keeps.cipherParked (hd : Proofs.drainParts ⊆ l) (hs : Part.slots ∈ l) :
    Keeps l s (Sys2Proof.Machine.cipherParked t) := (h.purgeLines hd).wipeSlots hs (hd (by decide))

theorem Keeps.galeOff {d : Nat} (hd : Proofs.drainParts ⊆ l) (hs : Part.slots ∈ l) (hm : Part.doms ∈ l) :
    Keeps l s (Sys2Proof.Machine.galeOff t d) :=
  Keeps.ite h (Keeps.ite ((h.setDom hm).cipherParked hd hs) (Keeps.ite ((h.setDom hm).setChan (hd (by decide)))
    (h.setDom hm)))

end Holds

end Sys2Proof.Safety

namespace Sys2Proof.Proofs

open Sys2Proof.Machine
open Sys2Proof.Safety

/-! ### The hold's entry, release and loss -/

/-- The hold begins: its causes are not known yet. -/
def holdBegun (s : State) : State :=
  { holdSweeps pauseSweep s with
    pwr := { (holdSweeps pauseSweep s).pwr with
      hold := true
      lost := false
      causeDram := false
      causeCore := false
      holds := sat (holdSweeps pauseSweep s).pwr.holds 1 }
    tel := { (holdSweeps pauseSweep s).tel with heldSince := true } }

theorem keeps_holdSweeps (s : State) : Keeps [.trn] s (holdSweeps pauseSweep s) ∧ Keeps [.trn] s (holdSweeps resumeSweep s) :=
  ⟨(Keeps.refl _ s).holdSweeps (fun _ _ k => k.setTrnOf (by decide)),
    (Keeps.refl _ s).holdSweeps (fun _ _ k => k.setTrnOf (by decide))⟩

/-- The hold of a state with no trip shows the trips that began it. -/
theorem tripRails_first {s : State} (hd : s.pwr.causeDram = false) (hc : s.pwr.causeCore = false) (dram core : Bool) :
    (tripRails s dram core).pwr = { s.pwr with
      dramLow := s.pwr.dramLow || dram
      coreLow := s.pwr.coreLow || core
      causeDram := dram
      causeCore := core } ∧
    (tripRails s dram core).flt = { s.flt with detected := s.flt.detected ++
      ((if dram then [{ src := 0x20, inst := 0, detail := 0 }] else []) ++
       (if core then [{ src := 0x21, inst := 0, detail := 0 }] else [])) } ∧
    Keeps [.pwr, .flt] s (tripRails s dram core) := by
  have k : Keeps [.pwr, .flt] s (tripRails s dram core) := by
    have k0 := Keeps.refl [.pwr, .flt] s
    unfold tripRails
    refine Keeps.ite (Keeps.raise _ _ _ (Keeps.ite (Keeps.raise _ _ _ (k0.setPwr (by decide)) (by decide))
      (k0.setPwr (by decide))) (by decide)) (Keeps.ite (Keeps.raise _ _ _ (k0.setPwr (by decide)) (by decide))
      (k0.setPwr (by decide)))
  refine ⟨?_, ?_, k⟩
  · unfold tripRails
    rw [hd, hc]
    cases dram <;> cases core <;> rfl
  · unfold tripRails
    rw [hd, hc]
    cases dram with
    | false =>
      cases core with
      | false => exact congrArg (fun d : List Detected => { s.flt with detected := d }) (List.append_nil _).symm
      | true => rfl
    | true =>
      cases core with
      | false => rfl
      | true => exact congrArg (fun d : List Detected => { s.flt with detected := d }) (List.append_assoc _ _ _)

theorem bistAbortAll_of_none {s : State} (h : s.bst = []) (sel : Bst → Bool) : bistAbortAll s sel = s := by
  refine foldS_fixed (fun c => ?_) _
  have e : s.bstOf c = {} := by rw [State.bstOf, h, tget_nil]
  have ha : bistAbortOne s c = s := by
    unfold bistAbortOne
    rw [e]
    rfl
  rw [ha, ite_self]

theorem exec_supplyHoldEntry {s : State} {dram core : Bool} (hp : s.pins.pwrgood = true) (ht : (dram || core) = true)
    (hh : s.pwr.hold = false) : exec (.supplyHoldEntry dram core) s = .next (fin s
      (foldS (List.range 32) settleChan (bistAbortAll (spoilAll (tripRails (holdBegun s) dram core)) (fun _ => true)))) := by
  refine (congrArg (answer s) ((if_neg ?_).trans (if_neg (Bool.eq_false_iff.mp hh)))).trans (answer_next hp rfl)
  rw [ht]
  exact Bool.false_ne_true

theorem keeps_settleAll (s : State) : Keeps settleParts s (foldS (List.range 32) settleChan s) :=
  Keeps.foldS (fun _ _ k => k.settleChan (fun _ h => h)) _ (Keeps.refl _ s)

theorem holdBegun_spec (s : State) : (holdBegun s).pwr = { s.pwr with
      hold := true, lost := false, causeDram := false, causeCore := false, holds := sat s.pwr.holds 1 } ∧
    (holdBegun s).flt = s.flt ∧ (holdBegun s).bst = s.bst ∧ Keeps [.trn, .pwr, .tel] s (holdBegun s) := by
  have k := (keeps_holdSweeps s).1
  have hw : (holdSweeps pauseSweep s).pwr = s.pwr := k .pwr (by decide)
  refine ⟨?_, k .flt (by decide), k .bst (by decide), ?_⟩
  · rw [← hw]
    rfl
  · have k2 := k.mono (k := [.trn, .pwr, .tel]) (by decide)
    intro p hp
    cases p with
    | trn | pwr | tel => exact absurd (by decide) hp
    | _ => exact k2 _ hp

theorem exec_supplyHoldRelease {s : State} (hp : s.pins.pwrgood = true) (hh : s.pwr.hold = true) (us : Nat) :
    exec (.supplyHoldRelease us) s = .next (fin s (foldS (List.range 32) (fun s c => settleChan (settlePoint s c) c)
      (resumeFuses { holdSweeps resumeSweep s with pwr := { (holdSweeps resumeSweep s).pwr with
        hold := false
        dramLow := false
        coreLow := false
        holdMax := BitVec.ofNat 24 (max (holdSweeps resumeSweep s).pwr.holdMax.toNat (min us (2 ^ 24 - 1))) } }))) := by
  refine (congrArg (answer s) (if_neg ?_)).trans (answer_next hp rfl)
  rw [hh]
  exact Bool.false_ne_true

/-! ### Gale -/

/-- A channel under Gale keeps no line and no write, and its rows are closed. -/
def galeEmptied (s : State) (c : Nat) : State :=
  sleepRanks (closeRows (s.modChan c (fun ch => { ch with lb := [], wrq := [], wrWait := [] })) c) c

/-- No line and no write of channel c is left. -/
def Emptied (c : Nat) (s : State) : Prop := (s.chan c).lb = [] ∧ (s.chan c).wrq = [] ∧ (s.chan c).wrWait = []

theorem galeEmptied_chan (s : State) (c : Nat) : Emptied c (galeEmptied s c) := by
  unfold Emptied galeEmptied
  rw [(Keeps.sleepRanks (l := [.rfr]) (Keeps.refl _ _) (by decide)).chan_eq (by decide), closeRows, closeBanks, modChan_def,
    chan_setChan, modChan_def, chan_setChan]
  exact ⟨rfl, rfl, rfl⟩

theorem galeEmptied_other {s : State} {c d : Nat} (h : Emptied d s) : Emptied d (galeEmptied s c) := by
  by_cases e : d = c
  · exact e ▸ galeEmptied_chan s c
  · unfold Emptied galeEmptied
    rw [(Keeps.sleepRanks (l := [.rfr]) (Keeps.refl _ _) (by decide)).chan_eq (by decide), closeRows, closeBanks, modChan_def,
      chan_setChan_ne _ _ _ _ e, modChan_def, chan_setChan_ne _ _ _ _ e]
    exact h

theorem galeEmptied_all (s : State) {c : Nat} (hc : c < 32) : Emptied c (foldS (List.range 32) galeEmptied s) :=
  foldS_establishes (P := Emptied) (g := galeEmptied) (fun s n => galeEmptied_chan s n) (fun _ _ _ h => galeEmptied_other h)
    _ s c (Or.inl (List.mem_range.mpr hc))

theorem keeps_galeEmptied (s : State) : Keeps [.chans, .rfr] s (foldS (List.range 32) galeEmptied s) :=
  Keeps.foldS (fun _ _ k => ((k.setChan (by decide)).closeRows (by decide)).sleepRanks (by decide)) _ (Keeps.refl _ s)

theorem exec_galeWritebackDone {s : State} (hp : s.pins.pwrgood = true) (hg : s.flt.gale = true) (hw : s.pwr.galeWb = false)
    (hh : s.pwr.hold = false ∨ s.pwr.lost = true) : exec .galeWritebackDone s = .next (fin s
      { foldS (List.range 32) galeEmptied (if s.pwr.lost then s else drainAll s) with
        pwr := { (foldS (List.range 32) galeEmptied (if s.pwr.lost then s else drainAll s)).pwr with galeWb := true } }) := by
  refine (congrArg (answer s) (if_pos ?_)).trans (answer_next hp rfl)
  rw [hg, hw]
  rcases hh with h | h <;> rw [h] <;> simp

theorem exec_galePark {s : State} (hp : s.pins.pwrgood = true) (hg : s.flt.gale = true) (hw : s.pwr.galeWb = true)
    (hd : s.pwr.galeDone = false) : exec .galePark s = .next (fin s
      { foldS ((List.range 43).map (9 + ·)) galeOff s with
        pwr := { (foldS ((List.range 43).map (9 + ·)) galeOff s).pwr with galeDone := true } }) := by
  refine (congrArg (answer s) (if_pos ?_)).trans (answer_next hp rfl)
  rw [hg, hw, hd]
  rfl

/-- Domain d of a state of variant v is parked, or held, where v has it. -/
def Parked (v : Variant) (d : Nat) (s : State) : Prop :=
  s.variant = v ∧ (0 < d → domPresent v d = true → (s.dom d).st = .off ∨ (s.dom d).st = .held)

/-- Domain d as Gale parks it. -/
def domParked (x : Dom) : Dom :=
  { x with
    st := .off
    enable := false
    latched := false
    queued := false
    waiting := false
    cycWaking := false
    transitions := if x.st = .parking then x.transitions else sat x.transitions 1 }

/-- What hangs on domain d goes with it. -/
def followsPark (s : State) (d : Nat) : State :=
  if d = 45 then cipherParked s
  else if 9 ≤ d && d ≤ 40 then
    s.modChan (d - 9) (fun ch => { ch with st := if ch.st = .fenced then .fenced else .closed })
  else s

theorem galeOff_eq (s : State) (d : Nat) : galeOff s d =
    if d = 0 || !domPresent s.variant d || (s.dom d).st = .off || (s.dom d).st = .held then s
    else followsPark (s.setDom d (domParked (s.dom d))) d := rfl

theorem followsPark_dom (s : State) (d x : Nat) : (followsPark s d).dom x = s.dom x := by
  have k : Keeps (.slots :: drainParts) s (followsPark s d) := by
    have h := Keeps.refl (.slots :: drainParts) s
    exact Keeps.ite (h.cipherParked (by decide) (by decide)) (Keeps.ite (h.setChan (by decide)) h)
  exact k.dom_eq (by decide) x

theorem galeOff_dom_ne (s : State) {d x : Nat} (h : x ≠ d) : (galeOff s d).dom x = s.dom x := by
  rw [galeOff_eq]
  split
  · rfl
  · rw [followsPark_dom, dom_setDom_ne _ _ _ _ h]

theorem galeOff_parks (s : State) (d : Nat) (h0 : 0 < d) (hp : domPresent s.variant d = true) :
    ((galeOff s d).dom d).st = .off ∨ ((galeOff s d).dom d).st = .held := by
  rw [galeOff_eq]
  split
  next hc =>
    rw [hp, decide_eq_false (Nat.pos_iff_ne_zero.mp h0), Bool.not_true, Bool.or_self, Bool.false_or, Bool.or_eq_true,
      decide_eq_true_eq, decide_eq_true_eq] at hc
    exact hc
  · rw [followsPark_dom, dom_setDom]
    exact Or.inl rfl

theorem Parked.galeOff {v : Variant} {d : Nat} {s : State} (h : Parked v d s) (m : Nat) : Parked v d (galeOff s m) := by
  have hv : (Machine.galeOff s m).variant = v := (VariantKept.galeOff (s := s) (t := s) rfl).trans h.1
  refine ⟨hv, fun h0 hp => ?_⟩
  by_cases e : d = m
  · subst e
    exact galeOff_parks s d h0 (h.1 ▸ hp)
  · rw [galeOff_dom_ne s e]
    exact h.2 h0 hp

/-- Gale's parks leave every domain of the list parked. -/
theorem galePark_parks {v : Variant} (xs : List Nat) : ∀ (s : State) (d : Nat), s.variant = v → d ∈ xs ∨ Parked v d s →
    Parked v d (foldS xs galeOff s) := by
  induction xs with
  | nil => exact fun s d _ h => h.elim (fun hn => absurd hn List.not_mem_nil) id
  | cons x xs ih =>
    intro s d hv h
    have hv' : (galeOff s x).variant = v := (VariantKept.galeOff (s := s) (t := s) rfl).trans hv
    refine ih _ d hv' ?_
    rcases h with h | h
    · rcases List.mem_cons.mp h with rfl | h
      · exact Or.inr ⟨hv', fun h0 hp => galeOff_parks s d h0 (hv ▸ hp)⟩
      · exact Or.inl h
    · exact Or.inr (h.galeOff x)

/-- The parts that Gale's parks touch. -/
def galeParts : List Part := [.doms, .slots] ++ drainParts

theorem keeps_galePark (s : State) : Keeps galeParts s (foldS ((List.range 43).map (9 + ·)) galeOff s) :=
  Keeps.foldS (fun _ _ k => k.galeOff (by decide) (by decide) (by decide)) _ (Keeps.refl _ s)

theorem mem_galeDomains {d : Nat} (h9 : 9 ≤ d) (h : d < 52) : d ∈ (List.range 43).map (9 + ·) :=
  List.mem_map.mpr ⟨d - 9, List.mem_range.mpr (by omega), by omega⟩

theorem fin_pwr (s t : State) : (fin s t).pwr = t.pwr := rfl

/-- Settles O47. -/
theorem supplyHoldAndGale : Obligations.SupplyHoldAndGale := by
  refine ⟨fun s dram core hp ht hh hb => ?_, fun s us hp hh => ?_, fun s hp hh hl => ?_, fun s hp hg hw hh => ?_,
    fun s hp hg hw hd => ?_⟩
  · obtain ⟨b1, b2, b3, b4⟩ := holdBegun_spec s
    obtain ⟨t1, t2, t3⟩ := tripRails_first (s := holdBegun s) (by rw [b1]) (by rw [b1]) dram core
    have hbst : (spoilAll (tripRails (holdBegun s) dram core)).bst = [] := by
      rw [Keeps.spoilAll (l := [.flowRt]) (Keeps.refl _ _) (by decide) .bst (by decide), t3 .bst (by decide), b3, hb]
    rw [exec_supplyHoldEntry hp ht hh, bistAbortAll_of_none hbst]
    generalize holdBegun s = u at *
    have ks := Keeps.spoilAll (l := [.flowRt]) (Keeps.refl _ (tripRails u dram core)) (by decide)
    have ka := keeps_settleAll (spoilAll (tripRails u dram core))
    have k : Keeps [.pwr, .flt, .tel, .flowRt, .chans, .trn, .tsv] s (foldS (List.range 32) settleChan
        (spoilAll (tripRails u dram core))) :=
      ((b4.mono (by decide)).trans (t3.mono (by decide))).trans ((ks.mono (by decide)).trans (ka.mono (by decide)))
    refine ⟨_, rfl, ?_, ?_, k.fin⟩
    · rw [fin_pwr, ka .pwr (by decide), ks .pwr (by decide), t1, b1]
    · rw [fin_flt, ka .flt (by decide), ks .flt (by decide), t2, b2]
  · have kw := (keeps_holdSweeps s).2
    have hpw : (holdSweeps resumeSweep s).pwr = s.pwr := kw .pwr (by decide)
    rw [exec_supplyHoldRelease hp hh, hpw]
    generalize holdSweeps resumeSweep s = u at *
    have k0 : Keeps [.trn, .pwr] s { u with pwr := { s.pwr with
        hold := false
        dramLow := false
        coreLow := false
        holdMax := BitVec.ofNat 24 (max s.pwr.holdMax.toNat (min us (2 ^ 24 - 1))) } } :=
      (kw.mono (by decide)).setPwr (by decide)
    have kr : Keeps [.fus, .ecc] _ (resumeFuses { u with pwr := { s.pwr with
        hold := false
        dramLow := false
        coreLow := false
        holdMax := BitVec.ofNat 24 (max s.pwr.holdMax.toNat (min us (2 ^ 24 - 1))) } }) :=
      (Keeps.refl _ _).resumeFuses (by decide) (by decide)
    generalize resumeFuses _ = v at *
    have ka : Keeps settleParts v (foldS (List.range 32) (fun s c => settleChan (settlePoint s c) c) v) :=
      Keeps.foldS (fun _ _ k => (k.settlePoint (by decide)).settleChan (fun _ h => h)) _ (Keeps.refl _ v)
    refine ⟨_, rfl, ?_, ?_⟩
    · rw [fin_pwr, ka .pwr (by decide), kr .pwr (by decide)]
    · exact ((k0.mono (by decide)).trans ((kr.mono (by decide)).trans (ka.mono (by decide)))).fin
  · refine (congrArg (answer s) (if_pos ?_)).trans (answer_next hp rfl)
    rw [hh, hl]
    rfl
  · rw [exec_galeWritebackDone hp hg hw hh]
    have kd : Keeps drainParts s (if s.pwr.lost then s else drainAll s) :=
      Keeps.ite (Keeps.refl _ s) ((Keeps.refl _ s).drainAll (fun _ h => h))
    generalize (if s.pwr.lost then s else drainAll s) = u at *
    have ke := keeps_galeEmptied u
    have he : ∀ c, c < 32 → Emptied c (foldS (List.range 32) galeEmptied u) := fun c hc => galeEmptied_all u hc
    generalize foldS (List.range 32) galeEmptied u = v at *
    refine ⟨_, rfl, rfl, fun c hc => he c hc, ?_⟩
    exact (((kd.mono (by decide)).trans (ke.mono (by decide))).setPwr (by decide)).fin
  · rw [exec_galePark hp hg hw hd]
    have k := keeps_galePark s
    have hpk : ∀ d, 9 ≤ d → d < 52 → domPresent s.variant d = true →
        ((foldS ((List.range 43).map (9 + ·)) galeOff s).dom d).st = .off ∨
        ((foldS ((List.range 43).map (9 + ·)) galeOff s).dom d).st = .held := fun d h9 h52 hpr =>
      (galePark_parks _ s d rfl (Or.inl (mem_galeDomains h9 h52))).2 (by omega) hpr
    generalize foldS ((List.range 43).map (9 + ·)) galeOff s = u at *
    refine ⟨_, rfl, ?_, hpk, ((k.mono (by decide)).setPwr (by decide)).fin⟩
    have e : u.pwr = s.pwr := k .pwr (by decide)
    rw [fin_pwr, ← e]

end Sys2Proof.Proofs

/-! The fill of a start over a remap table in which an index stands twice (R229). -/

namespace Sys2Proof.Proofs

open Sys2Proof.Machine
open Sys2Proof.Safety

/-- The line of rank 0 that reads wrong after the fill. -/
def shadowedLine : Loc := { ch := 0, rank := 0, bank := 0, row := 0, col := 0 }

/-- A stack about to fill its ranks: of channel 0 rank 0's domain is ON and rank 1's is OFF, and index 0 of the remap table
names a line of rank 1 first and a line of rank 0 behind it. -/
def fillOverTwins : State :=
  { State.reset with
    rst := { phase := .fill, fillDue := true }
    doms := [(56, { st := .on })]
    ecc := [(0, { remap := [
      (0, { st := .committed, loc := { shadowedLine with rank := 1 }, words := (1, 0), recorded := true }),
      (0, { st := .committed, loc := shadowedLine, words := (1, 0), recorded := true })] })] }

/-- A cold start's fill is over. -/
def fillEnded (s : State) : State :=
  { s with rst := { s.rst with fillDue := false, fillsDue := [], pagesDue := false } }

theorem markFill_rst (s : State) (v : BitVec 2) : (markFill s v).rst = s.rst :=
  Keeps.foldS (l := [.ecc]) (fun _ _ k => k.setEccOf (by decide)) _ (Keeps.refl _ s) .rst (by decide)

theorem fillRank_rst (s : State) (c k : Nat) : (fillRank s c k).rst = s.rst := rfl

theorem fillCold_rst {s : State} (h : s.tables.compat = false) : (fillCold s).rst = s.rst := by
  rw [fillCold, if_neg (Bool.eq_false_iff.mp h)]
  refine foldS_induction (P := fun t => t.rst = s.rst) (fun t key e => ?_) _ rfl
  split
  · rw [fillRank_rst, e]
  · exact e

/-- The fill's end where the fill of a cold start is all that is due. -/
theorem exec_nativeFillDone_cold {s : State} (hp : s.pins.pwrgood = true) (hc : (decide (s.rst.phase ≠ .fill) ||
      !fillWaits s || s.pwr.hold || s.flt.fatal || !chansUp s) = false) (hd : s.rst.fillDue = true)
    (hf : s.rst.fillsDue = []) (hg : s.rst.pagesDue = false) (ht : (markFill s 2).tables.compat = false) :
    exec .nativeFillDone s = .next (fin s (fillEnded (fillCold (markFill s 2)))) := by
  refine (congrArg (answer s) (if_neg (Bool.eq_false_iff.mp hc))).trans (answer_next hp ?_)
  have h1 : (if (markFill s 2).rst.fillDue then fillCold (markFill s 2) else markFill s 2) = fillCold (markFill s 2) :=
    if_pos (by rw [markFill_rst, hd])
  have hr : (fillCold (markFill s 2)).rst = s.rst := (fillCold_rst ht).trans (markFill_rst s 2)
  dsimp only
  rw [h1]
  generalize fillCold (markFill s 2) = u at hr ⊢
  rw [hr, hf]
  change fillEnded (if u.rst.pagesDue then fillPages u else u) = _
  rw [hr, if_neg (Bool.eq_false_iff.mp hg)]

theorem markFill_compat (s : State) (v : BitVec 2) : (markFill s v).tables.compat = s.tables.compat :=
  congrArg Tables.compat
    (Keeps.foldS (l := [.ecc]) (fun _ _ k => k.setEccOf (by decide)) _ (Keeps.refl _ s) .tables (by decide))

/-- The line still reads what it held: its index gives the entry that stands before its own. -/
theorem fillOverTwins_reads : cellRead (fillEnded (fillCold (markFill fillOverTwins 2))) shadowedLine ≠ zeroWords := by
  decide +kernel

theorem cellRead_fin (s t : State) (l : Loc) : cellRead (fin s t) l = cellRead t l := rfl

/-- Refutes O60: where an index of a channel's remap table stands twice, a line of a rank that is filled reads as the entry
before its own gives it, of a rank whose domain is OFF and which is not filled. -/
theorem not_partResetsAndReady : ¬ Obligations.PartResetsAndReady := by
  rintro ⟨-, -, -, -, h, -⟩
  have he := exec_nativeFillDone_cold (s := fillOverTwins) rfl (by decide +kernel) rfl rfl rfl
    ((markFill_compat fillOverTwins 2).trans rfl)
  obtain ⟨t, ht, -, hz, -⟩ := h fillOverTwins rfl rfl rfl rfl rfl rfl rfl (by decide +kernel) rfl
  have e := Host.Outcome.next.inj (he.symm.trans ht)
  have hx := hz 0 0 (by decide) rfl (by decide) shadowedLine rfl rfl
  rw [← e, cellRead_fin] at hx
  exact fillOverTwins_reads hx

end Sys2Proof.Proofs

/-! Fault events: their counting, their reports and their reactions, and the writing of the ring (R338–R353). -/

namespace Sys2Proof.Proofs

open Sys2Proof.Machine
open Sys2Proof.Safety

/-! ### One event at a time -/

/-- An event as the collector takes it. -/
def detectedOf (e : FaultEv) : Detected := { src := e.src, inst := e.inst, detail := e.detail }

theorem detected_cleared {s : State} (h : s.flt.detected = []) : { s with flt := { s.flt with detected := [] } } = s := by
  rw [← h]

/-- An event of a source at a place that the variant has, which no test gates, is classified, reported and answered
by its reaction. -/
theorem exec_faultEvent_one {s : State} {e : FaultEv} {x : Source} (hp : s.pins.pwrgood = true) (hd : s.flt.detected = [])
    (hx : sourceOf e.src = some x) (hs : sourcePresent s.variant e.src = true)
    (hi : instPresent s.variant x.scope e.inst = true) (hg : gated s (detectedOf e) = false) :
    exec (.faultEvent [e]) s = .next (fin s (react (report (classify s (detectedOf e)).1 (classify s (detectedOf e)).2)
      (classify s (detectedOf e)).2)) := by
  refine answer_next hp ?_
  rw [hd]
  change collect s [detectedOf e] = _
  unfold collect
  dsimp only
  rw [List.filter_cons_of_pos, List.filter_nil, detected_cleared hd]
  · rfl
  · have hx' : sourceOf (detectedOf e).src = some x := hx
    have hs' : sourcePresent s.variant (detectedOf e).src = true := hs
    have hi' : instPresent s.variant x.scope (detectedOf e).inst = true := hi
    simp only [hx', hs', hi', hg, Bool.and_self, Bool.not_false]

/-! ### Counting (R338) -/

/-- The window of a counted place has run out, or counts nothing. -/
def freshWindow (s : State) (d : Detected) : Bool :=
  (srcInst s d.src d.inst).count = 0 ||
    decide ((srcInst s d.src d.inst).start + cfgWindow (cfgWord s d.src) ≤ s.elapsed)

/-- Events of the window with this one. -/
def countedWith (s : State) (d : Detected) : Nat :=
  (if freshWindow s d then 0 else (srcInst s d.src d.inst).count) + 1

/-- The highest level of a source. -/
def capOfSource (src : Nat) : Nat := match sourceOf src with | some r => r.cap | none => 0

/-- The event raises the level of its place. -/
def raisesLevel (s : State) (d : Detected) : Bool :=
  decide (levelOf s d.src d.inst < capOfSource d.src) &&
    (if d.src = 0x3B then d.force
     else decide (0 < cfgN (cfgWord s d.src)) && decide (cfgN (cfgWord s d.src) ≤ countedWith s d))

/-- A counted place after an event. -/
def countedInst (s : State) (d : Detected) : SrcInst :=
  { srcInst s d.src d.inst with
    level := if raisesLevel s d then levelOf s d.src d.inst + 1 else levelOf s d.src d.inst
    touched := true
    count := if raisesLevel s d then 0 else countedWith s d
    start := if freshWindow s d then s.elapsed else (srcInst s d.src d.inst).start
    events := (srcInst s d.src d.inst).events + 1 }

theorem countEvent_eq (s : State) (d : Detected) : countEvent s d =
    (setSrcInst s d.src d.inst (countedInst s d), (countedInst s d).level, raisesLevel s d) := rfl

/-- An event under no mask, judged. -/
def judgedFree (s : State) (d : Detected) : Judged :=
  { src := d.src, inst := d.inst, detail := d.detail, sev := (countedInst s d).level, esc := raisesLevel s d, cause := none,
    rescue := d.rescue }

theorem classify_free {s : State} {d : Detected} (h : maskOf s d.src d.inst = none) :
    classify s d = (setSrcInst s d.src d.inst (countedInst s d), judgedFree s d) := by
  unfold classify
  rw [h]
  rfl

theorem classify_masked {s : State} {d : Detected} {m : Mask} (h : maskOf s d.src d.inst = some m) : classify s d =
    (setSrcInst s d.src d.inst { srcInst s d.src d.inst with conseq := sat (srcInst s d.src d.inst).conseq 1 },
      { src := d.src, inst := d.inst, detail := d.detail, sev := 0, esc := false, cause := some m.cause,
        rescue := d.rescue }) := by
  unfold classify
  rw [h]

theorem srcInst_setSrcInst (s : State) (src inst : Nat) (x : SrcInst) : srcInst (setSrcInst s src inst x) src inst = x :=
  tget_tset_self _ _ _ _

theorem srcInst_of_insts {s t : State} (h : t.flt.insts = s.flt.insts) (src inst : Nat) :
    srcInst t src inst = srcInst s src inst := by
  rw [srcInst, h, srcInst]

theorem keeps_setSrcInst (s : State) (src inst : Nat) (x : SrcInst) : Keeps [.flt] s (setSrcInst s src inst x) :=
  (Keeps.refl _ s).setFlt (by decide)

/-- With N at 0, or not reached, the level stays. -/
theorem countedInst_level_kept {s : State} {d : Detected} (h : raisesLevel s d = false) :
    (countedInst s d).level = levelOf s d.src d.inst := if_neg (Bool.eq_false_iff.mp h)

theorem raisesLevel_of_n_zero {s : State} {d : Detected} (hs : d.src ≠ 0x3B) (h : cfgN (cfgWord s d.src) = 0) :
    raisesLevel s d = false := by
  rw [raisesLevel, if_neg hs, h]
  exact Bool.and_false _

/-! ### Reports -/

/-- The entry of the ring that an event makes. -/
def ringEntry (s : State) (j : Judged) (first : Bool) : RingEntry :=
  { source := j.src, severity := j.sev, esc := j.esc, conseq := j.cause.isSome, first := first, inst := j.inst,
    cause := j.cause.getD 0x7F, stamp := s.mer.count, detail := j.detail, page := s.flt.page.map (fun p => 16 * p.1 + p.2) }

theorem toRing_of_room {s : State} {j : Judged} {first : Bool} (h : s.flt.queue.length < 64) : toRing s j first =
    { s with flt := { s.flt with
      queue := s.flt.queue ++ [ringEntry s j first]
      page := fillPage s.flt.page } } := if_neg (Nat.not_le_of_lt h)

theorem keeps_report (s : State) (j : Judged) : Keeps [.flt] s (report s j) := by
  cases hr : reportable s j with
  | false =>
    rw [report_of_unreportable hr]
    exact Keeps.refl _ s
  | true =>
    have k1 : Keeps [.flt] s (takenByFirst s j) := by
      have k0 := Keeps.refl [.flt] s
      exact Keeps.ite (k0.setFlt (by decide)) (Keeps.ite (k0.setFlt (by decide)) k0)
    have k2 : Keeps [.flt] s (takenByIrq (takenByFirst s j) j) := Keeps.ite (k1.setFlt (by decide)) k1
    rw [report_of_reportable hr]
    exact Keeps.ite (k2.setFlt (by decide)) (k2.setFlt (by decide))

theorem reportable_of_sev {s : State} {j : Judged} (h : 1 ≤ j.sev) : reportable s j = true := by
  rw [reportable, decide_eq_true h, Bool.or_true, Bool.true_or]

theorem reportable_of_cause {s : State} {j : Judged} (h : j.cause.isSome = true) : reportable s j = true := by
  rw [reportable, h, Bool.true_or, Bool.true_or]

/-- A report leaves Fatal and the instances as they are. -/
theorem report_frame (s : State) (j : Judged) : (report s j).flt.fatal = s.flt.fatal ∧
    (report s j).flt.insts = s.flt.insts := by
  cases hr : reportable s j with
  | false =>
    rw [report_of_unreportable hr]
    exact ⟨rfl, rfl⟩
  | true =>
    obtain ⟨irq, lost, queue, page, h⟩ := report_flt hr
    have k : (takenByFirst s j).flt.fatal = s.flt.fatal ∧ (takenByFirst s j).flt.insts = s.flt.insts := by
      unfold takenByFirst
      split
      · exact ⟨rfl, rfl⟩
      split
      · exact ⟨rfl, rfl⟩
      · exact ⟨rfl, rfl⟩
    rw [h]
    exact k

/-- An event reported while FLT_FIRST holds another: it is counted there and joins the ring. -/
theorem report_later {s : State} {j : Judged} (hs : 1 ≤ j.sev) (hc : j.cause = none) (hv : s.flt.valid = true)
    (hq : s.flt.queue.length < 64) : report s j = { s with flt := { s.flt with
      overflow := true
      later := sat s.flt.later 1
      irq := s.flt.irq || decide (s.flt.irqSev.toNat ≤ j.sev)
      queue := s.flt.queue ++ [ringEntry s j false]
      page := fillPage s.flt.page } } := by
  rw [report_of_reportable (reportable_of_sev hs), takenByFirst_of_valid hv, takenByIrq, hc, hv]
  by_cases hi : s.flt.irqSev.toNat ≤ j.sev
  · rw [decide_eq_true hi, Bool.or_true, Option.isNone_none, Bool.true_and, if_pos rfl]
    exact toRing_of_room hq
  · rw [decide_eq_false hi, Bool.or_false, Option.isNone_none, Bool.true_and, if_neg Bool.false_ne_true]
    exact toRing_of_room hq

/-! ### Reactions -/

theorem react_of_low {j : Judged} (h : j.sev = 1) (he : j.esc = false) (hs : j.src ≠ 0x3F) (s : State) : react s j = s := by
  refine if_neg ?_
  rw [h, he, decide_eq_false hs, Bool.or_false, Bool.and_false]
  simp

theorem react_of_zero {j : Judged} (h : j.sev = 0) (s : State) : react s j = s := by
  refine if_neg ?_
  rw [h]
  simp

theorem react_of_masked {j : Judged} {k : Nat} (h : j.cause = some k) (s : State) : react s j = s := by
  refine if_neg ?_
  rw [h]
  exact Bool.false_ne_true

/-- A source whose only reaction is Fatal. -/
def FatalOnly (src : Nat) : Prop := src = 0x22 ∨ (0x27 ≤ src ∧ src < 0x3B) ∨ src = 0x3C ∨ 0x40 ≤ src

/-- The reaction of a source that has none but Fatal. -/
theorem reactAt_fatalOnly {j : Judged} (h : FatalOnly j.src) (s : State) :
    reactAt s j = if 3 ≤ j.sev then enterFatal s (j.src = 0x28) else s := by
  have hs : 7 ≤ j.src ∧ j.src ≠ 0x08 ∧ j.src ≠ 0x19 ∧ j.src ≠ 0x09 ∧ j.src ≠ 0x0A ∧ j.src ≠ 0x0B ∧ j.src ≠ 0x0E ∧
      j.src ≠ 0x11 ∧ j.src ≠ 0x23 ∧ j.src ≠ 0x26 ∧ j.src ≠ 0x3B ∧ j.src ≠ 0x3D ∧ j.src ≠ 0x3E ∧ j.src ≠ 0x3F := by
    unfold FatalOnly at h
    omega
  obtain ⟨h7, h8, h19, h9, hA, hB, hE, h11, h23, h26, h3B, h3D, h3E, h3F⟩ := hs
  have h2 : j.src ≠ 2 := by omega
  have h6 : ¬ j.src ≤ 6 := by omega
  unfold reactAt
  simp only [h2, h6, h8, h19, h9, hA, hB, hE, h11, h23, h26, h3B, h3D, h3E, h3F, decide_false, Bool.false_and, Bool.or_self,
    Bool.false_eq_true, if_false]

theorem react_fatalOnly_low {j : Judged} (h : FatalOnly j.src) (hs : j.sev = 1) (s : State) : react s j = s := by
  unfold react
  rw [reactAt_fatalOnly h, if_neg (show ¬ 3 ≤ j.sev by omega), ite_self]

theorem react_fatalOnly {j : Judged} (h : FatalOnly j.src) (hc : j.cause = none) (hs : 3 ≤ j.sev) (s : State) :
    react s j = enterFatal s (j.src = 0x28) := by
  have h2 : decide (2 ≤ j.sev) = true := decide_eq_true (by omega)
  unfold react
  rw [reactAt_fatalOnly h, if_pos hs, hc, h2, Bool.true_or]
  rfl

/-- CHK_FAULT at its base level takes its unit out of use. -/
theorem react_chkFault {j : Judged} {s : State} (h : j.src = 0x3F) (hc : j.cause = none) (hs : j.sev = 1)
    (hb : (s.chk j.inst).busy = false) : react s j = s.modChk j.inst (fun y => { y with out := true }) := by
  have e : reactAt s j = unitOut s j.inst := by
    unfold reactAt
    rw [h, hs]
    rfl
  unfold react
  rw [e, hc, hs, h]
  refine (if_pos ?_).trans (if_neg (Bool.eq_false_iff.mp hb))
  simp

/-! ### Fatal -/

/-- A port's session closed, its held accesses dropped and its requests orphaned, before its completions leave. -/
def portCut (s : State) (n : Nat) : State :=
  let t := closeSession ((returnEvents s (s.port n).ctrlOut).modPort n (fun p => p.freeDescs.quiet)) n
  { t with
    heldAcc := t.heldAcc.filter (fun a => a.via.port ≠ n)
    reqs := t.reqs.map (fun r => if r.port = n && r.eng.isNone then { r with orphan := true } else r) }

theorem portDown_eq (s : State) (n : Nat) :
    portDown s n = budgetDue ((s.port n).unsent.foldl (fun s c => sendCmp s n true c) (portCut s n)) := rfl

theorem closeSession_port (s : State) (n m : Nat) : (closeSession s n).port m = s.port m := rfl

theorem portCut_port (s : State) (n m : Nat) :
    (portCut s n).port m = ((returnEvents s (s.port n).ctrlOut).modPort n (fun p => p.freeDescs.quiet)).port m :=
  closeSession_port _ n m

theorem portCut_st (s : State) (n m : Nat) : ((portCut s n).port m).st = (s.port m).st := by
  have hr : (returnEvents s (s.port n).ctrlOut).port m = s.port m := by
    rw [State.port, returnEvents_ports, State.port]
  rw [portCut_port, modPort_def]
  by_cases e : m = n
  · subst e
    rw [port_setPort, hr]
    rfl
  · rw [port_setPort_ne _ _ _ _ e, hr]

theorem portDown_st (s : State) (n m : Nat) : ((portDown s n).port m).st = (s.port m).st := by
  obtain ⟨out, k, ho⟩ := sameButCmps_sendAll n (s.port n).unsent (portCut s n) m
  rw [portDown_eq, budgetDue_port, ho]
  exact portCut_st s n m

/-- A port that Fatal takes down, before its traffic ends. -/
def portSignals (g : Bool) (p : Port) : Port := { p.endCodeword with st := .signalDown, orderedSet := some g }

/-- The end of a port's traffic under Fatal: the codeword under way still leaves. -/
def portEnds (s : State) (n : Nat) : State := (portDown s n).modPort n (fun p => { p with txLanes := (s.port n).txLanes })

/-- The ports that Fatal takes down. -/
def portsUp (s : State) : List Nat :=
  (List.range 8).filter (fun n => (s.port n).st = .active || (s.port n).st = .recovery || (s.port n).st = .down)

/-- The ports' traffic ends. -/
def portsEnded (s : State) (g : Bool) : State :=
  foldS (portsUp s) portEnds (foldS (portsUp s) (fun s n => s.modPort n (portSignals g)) s)

theorem portsDown_eq (s : State) (g : Bool) : portsDown s g =
    { portsEnded s g with reqs := (portsEnded s g).reqs.map (fun r => { r with inDown := false }) } := rfl

theorem portEnds_st (s : State) (n m : Nat) : ((portEnds s n).port m).st = (s.port m).st := by
  rw [← portDown_st s n m]
  by_cases e : m = n
  · subst e
    rw [portEnds, modPort_def, port_setPort]
  · rw [portEnds, modPort_def, port_setPort_ne _ _ _ _ e]

theorem portsEnded_st (s : State) (g : Bool) {n : Nat} (hn : n ∈ portsUp s) :
    ((portsEnded s g).port n).st = .signalDown := by
  have h1 : ((foldS (portsUp s) (fun s n => s.modPort n (portSignals g)) s).port n).st = .signalDown :=
    foldS_establishes (P := fun n t => (t.port n).st = .signalDown) (g := fun s n => s.modPort n (portSignals g))
      (fun u m => by rw [modPort_def, port_setPort]; rfl)
      (fun u m n h => by
        by_cases e : n = m
        · subst e
          rw [modPort_def, port_setPort]
          rfl
        · rw [modPort_def, port_setPort_ne _ _ _ _ e, h]) _ s n (Or.inl hn)
  exact foldS_induction (P := fun t => (t.port n).st = .signalDown) (fun u m h => (portEnds_st u m n).trans h) _ h1

theorem portsDown_st (s : State) (g : Bool) {n : Nat} (hn : n < 8) (h : (s.port n).st = .active) :
    ((portsDown s g).port n).st = .signalDown := by
  rw [portsDown_eq]
  refine portsEnded_st s g (List.mem_filter.mpr ⟨List.mem_range.mpr hn, ?_⟩)
  rw [h]
  rfl

theorem flagsKept_foldl {α : Type} {s : State} {g : State → α → State} (hg : ∀ u x, FlagsKept s u → FlagsKept s (g u x))
    (xs : List α) : ∀ {t : State}, FlagsKept s t → FlagsKept s (xs.foldl g t) := by
  induction xs with
  | nil => exact fun h => h
  | cons x xs ih => exact fun h => ih (hg _ x h)

theorem flagsKept_sendCmp {s t : State} (h : FlagsKept s t) (n : Nat) (o : Bool) (c : Cmp) :
    FlagsKept s (sendCmp t n o c) := by
  unfold sendCmp
  dsimp only
  split
  · exact h
  split
  · exact h
  · exact h

theorem flagsKept_returnEvents {s t : State} (h : FlagsKept s t) (ms : List CtrlMsg) : FlagsKept s (returnEvents t ms) := by
  induction ms with
  | nil => exact h
  | cons m ms ih =>
    cases m with
    | event q r => exact ih
    | credit _ _ _ => exact ih

theorem flagsKept_portDown {s t : State} (h : FlagsKept s t) (n : Nat) : FlagsKept s (portDown t n) :=
  flagsKept_foldl (fun _ _ k => flagsKept_sendCmp k _ _ _) _ (flagsKept_returnEvents h (t.port n).ctrlOut)

theorem flagsKept_modPort {s t : State} (h : FlagsKept s t) (n : Nat) (g : Port → Port) : FlagsKept s (t.modPort n g) := h

theorem flagsKept_portsEnded {s t : State} (h : FlagsKept s t) (g : Bool) : FlagsKept s (portsEnded t g) :=
  FlagsKept.foldS (fun _ _ k => flagsKept_modPort (flagsKept_portDown k _) _ _) _
    (FlagsKept.foldS (fun _ _ k => flagsKept_modPort k _ _) _ h)

theorem flagsKept_portsDown {s t : State} (h : FlagsKept s t) (g : Bool) : FlagsKept s (portsDown t g) := by
  have k := flagsKept_portsEnded h g
  rw [portsDown_eq]
  generalize portsEnded t g = u at k ⊢
  exact k

/-- Channel c reads nothing more, and ends the reads that it has issued. -/
theorem fatalChan_chan (g : Bool) (s : State) (c : Nat) : ((fatalChan g s c).chan c).rdq = [] ∧
    ((fatalChan g s c).chan c).inflight = (s.chan c).inflight := by
  unfold fatalChan
  dsimp only
  split
  · rw [modChan_def, chan_setChan]
    exact ⟨rfl, rfl⟩
  · rw [(Keeps.sleepRanks (l := [.rfr]) (Keeps.refl _ _) (by decide)).chan_eq (by decide), closeRows, closeBanks, modChan_def,
      chan_setChan, modChan_def, chan_setChan]
    exact ⟨rfl, rfl⟩

theorem fatalChan_other (g : Bool) (s : State) {c d : Nat} (h : d ≠ c) : (fatalChan g s c).chan d = s.chan d := by
  unfold fatalChan
  dsimp only
  split
  · rw [modChan_def, chan_setChan_ne _ _ _ _ h]
  · rw [(Keeps.sleepRanks (l := [.rfr]) (Keeps.refl _ _) (by decide)).chan_eq (by decide), closeRows, closeBanks, modChan_def,
      chan_setChan_ne _ _ _ _ h, modChan_def, chan_setChan_ne _ _ _ _ h]

theorem fatalChans_rdq (g : Bool) (s : State) {c : Nat} (hc : c < 32) :
    ((foldS (List.range 32) (fatalChan g) s).chan c).rdq = [] :=
  foldS_establishes (P := fun c t => (t.chan c).rdq = []) (g := fatalChan g) (fun u m => (fatalChan_chan g u m).1)
    (fun u m n h => by
      by_cases e : n = m
      · exact e ▸ (fatalChan_chan g u n).1
      · rw [fatalChan_other g u e, h]) _ s c (Or.inl (List.mem_range.mpr hc))

theorem fatalChans_inflight (g : Bool) (s : State) (c : Nat) :
    ((foldS (List.range 32) (fatalChan g) s).chan c).inflight = (s.chan c).inflight :=
  foldS_induction (P := fun t => (t.chan c).inflight = (s.chan c).inflight) (fun u m h => by
    by_cases e : c = m
    · subst e
      rw [(fatalChan_chan g u c).2, h]
    · rw [fatalChan_other g u e, h]) _ rfl

theorem keeps_fatalChans (g : Bool) (s : State) : Keeps [.chans, .rfr] s (foldS (List.range 32) (fatalChan g) s) :=
  Keeps.foldS (fun _ _ k => k.fatalChan (by decide) (by decide)) _ (Keeps.refl _ s)

theorem keeps_stopEngines (s : State) : Keeps [.pool] s (stopEngines s) := (Keeps.refl _ s).stopEngines (by decide)

theorem stackStopped_spec (s : State) (g : Bool) : (stackStopped s g).reqs = [] ∧ (stackStopped s g).tel.stopped = true ∧
    (stackStopped s g).flt.fatal = true ∧ (∀ c, (stackStopped s g).chan c = s.chan c) ∧
    ∀ n, n < 8 → (s.port n).st = .active → ((stackStopped s g).port n).st = .signalDown := by
  have ha := (Keeps.refl [.img] (portsDown { s with flt := { s.flt with fatal := true, gale := g } } g)).abortImage
    (r := 23) (by decide)
  have hf : FlagsKept { s with flt := { s.flt with fatal := true, gale := g } }
      (portsDown { s with flt := { s.flt with fatal := true, gale := g } } g) := flagsKept_portsDown ⟨rfl, rfl⟩ g
  have hk : Keeps portDownParts { s with flt := { s.flt with fatal := true, gale := g } }
      (portsDown { s with flt := { s.flt with fatal := true, gale := g } } g) :=
    (Keeps.refl _ _).portsDown (fun _ h => h)
  have hst : ∀ n, n < 8 → (s.port n).st = .active →
      ((portsDown { s with flt := { s.flt with fatal := true, gale := g } } g).port n).st = .signalDown :=
    fun n hn h => portsDown_st { s with flt := { s.flt with fatal := true, gale := g } } g hn h
  unfold stackStopped
  generalize portsDown { s with flt := { s.flt with fatal := true, gale := g } } g = u at *
  generalize abortImage u 23 = v at *
  refine ⟨rfl, rfl, ?_, fun c => ?_, fun n hn h => ?_⟩
  · have e : v.flt = u.flt := ha .flt (by decide)
    exact (congrArg Flt.fatal e).trans hf.1
  · exact (ha.chan_eq (by decide) c).trans (hk.chan_eq (by decide) c)
  · have e : v.ports = u.ports := ha .ports (by decide)
    show (v.port n).st = _
    rw [State.port, e]
    exact hst n hn h

/-- The stack in Fatal. -/
theorem enterFatal_spec {s : State} (h : s.flt.fatal = false) (g : Bool) : (enterFatal s g).flt.fatal = true ∧
    (enterFatal s g).reqs = [] ∧ (enterFatal s g).tel.stopped = true ∧
    (∀ c, c < 32 → ((enterFatal s g).chan c).rdq = [] ∧ ((enterFatal s g).chan c).inflight = (s.chan c).inflight) ∧
    ∀ n, n < 8 → (s.port n).st = .active → ((enterFatal s g).port n).st = .signalDown := by
  obtain ⟨h1, h2, h3, h4, h5⟩ := stackStopped_spec s g
  rw [enterFatal_of_running h]
  generalize stackStopped s g = u at *
  have kc := keeps_fatalChans g u
  have hq := fun c (hc : c < 32) => fatalChans_rdq g u hc
  have hi := fatalChans_inflight g u
  generalize foldS (List.range 32) (fatalChan g) u = v at *
  have kh := ((keeps_haltFuses v).mono (k := [.fus, .ecc, .sec, .pool]) (by decide)).trans
    ((keeps_stopEngines (haltFuses v)).mono (by decide))
  generalize stopEngines (haltFuses v) = w at *
  refine ⟨?_, ?_, ?_, fun c hc => ?_, fun n hn hst => ?_⟩
  · rw [kh .flt (by decide), kc .flt (by decide), h3]
  · rw [kh .reqs (by decide), kc .reqs (by decide), h1]
  · rw [kh .tel (by decide), kc .tel (by decide), h2]
  · rw [kh.chan_eq (by decide), hi, hq c hc, h4]
    exact ⟨rfl, rfl⟩
  · rw [State.port, kh .ports (by decide), kc .ports (by decide)]
    exact h5 n hn hst

end Sys2Proof.Proofs

/-! What an event of the fault collector does, and one entry of the ring written (R338–R353). -/

namespace Sys2Proof.Proofs

open Sys2Proof.Machine
open Sys2Proof.Safety

/-! ### Counts that stay below N, and counts that reach it -/

theorem countedInst_first {s : State} {d : Detected} (hs : d.src ≠ 0x3B) (hc : (srcInst s d.src d.inst).count = 0)
    (hn : cfgN (cfgWord s d.src) ≠ 1) (hl : levelOf s d.src d.inst = 0) : countedInst s d =
      { srcInst s d.src d.inst with
        level := 0
        touched := true
        count := 1
        start := s.elapsed
        events := (srcInst s d.src d.inst).events + 1 } := by
  have hf : freshWindow s d = true := by rw [freshWindow, hc]; rfl
  have hw : countedWith s d = 1 := by rw [countedWith, hf]; rfl
  have hr : raisesLevel s d = false := by
    have h0 : (decide (0 < cfgN (cfgWord s d.src)) && decide (cfgN (cfgWord s d.src) ≤ 1)) = false := by
      rw [← Bool.decide_and, decide_eq_false]
      omega
    rw [raisesLevel, if_neg hs, hw, h0, Bool.and_false]
  unfold countedInst
  rw [hr, hf, hw, hl]
  rfl

theorem countedInst_reaches {s : State} {d : Detected} {x : Source} (hs : d.src ≠ 0x3B) (hx : sourceOf d.src = some x)
    (hcap : 0 < x.cap) (hc : (srcInst s d.src d.inst).count ≠ 0)
    (hw : s.elapsed < (srcInst s d.src d.inst).start + cfgWindow (cfgWord s d.src))
    (hn : cfgN (cfgWord s d.src) = (srcInst s d.src d.inst).count + 1) (hl : levelOf s d.src d.inst = 0) :
    raisesLevel s d = true ∧ countedInst s d =
      { srcInst s d.src d.inst with
        level := 1
        touched := true
        count := 0
        events := (srcInst s d.src d.inst).events + 1 } := by
  have hf : freshWindow s d = false := by
    rw [freshWindow, decide_eq_false hc, decide_eq_false (Nat.not_le_of_lt hw)]
    rfl
  have hcw : countedWith s d = (srcInst s d.src d.inst).count + 1 := by rw [countedWith, hf]; rfl
  have hcs : capOfSource d.src = x.cap := by rw [capOfSource, hx]
  have hr : raisesLevel s d = true := by
    rw [raisesLevel, if_neg hs, hl, hcs, hcw, hn, decide_eq_true hcap, decide_eq_true (Nat.succ_pos _),
      decide_eq_true (Nat.le_refl _)]
    rfl
  refine ⟨hr, ?_⟩
  unfold countedInst
  rw [hr, hf, hl]
  rfl

theorem judgedFree_of {s : State} {d : Detected} {sev : Nat} {esc : Bool} (hl : (countedInst s d).level = sev)
    (hr : raisesLevel s d = esc) : judgedFree s d =
      { src := d.src, inst := d.inst, detail := d.detail, sev := sev, esc := esc, cause := none, rescue := d.rescue } := by
  rw [judgedFree, hl, hr]

theorem countedInst_level_ge {s : State} {d : Detected} {n : Nat} (h : levelOf s d.src d.inst = n) :
    n ≤ (countedInst s d).level := by
  show n ≤ if raisesLevel s d then levelOf s d.src d.inst + 1 else levelOf s d.src d.inst
  split <;> omega

/-! ### The first fault, and a consequential event -/

theorem fillPage_opened (ps : List (Nat × Nat)) (n : Nat) : fillPage (ps ++ [(n, 0)]) = fillPage ps ++ [(n, 1)] := by
  rw [fillPage, List.filter_append, List.map_append]
  rfl

/-- The state of a collector that latches its first fault. -/
theorem report_first {s : State} {j : Judged} (hs : 1 ≤ j.sev) (hc : j.cause = none) (hv : s.flt.valid = false)
    (hp : s.flt.pagesUsed < 16) (hq : s.flt.queue.length < 64) : ∃ irq, report s j = { s with flt := { s.flt with
      valid := true
      overflow := false
      severity := BitVec.ofNat 2 j.sev
      source := BitVec.ofNat 7 j.src
      inst := BitVec.ofNat 14 j.inst
      later := 0
      stamp := s.mer.count
      irq := irq
      page := fillPage s.flt.page ++ [(s.flt.pagesUsed, 1)]
      pagesUsed := s.flt.pagesUsed + 1
      queue := s.flt.queue ++ [{ ringEntry s j true with
        page := s.flt.page.map (fun p => 16 * p.1 + p.2) ++ [16 * s.flt.pagesUsed] }] } } := by
  obtain ⟨irq, hi⟩ : ∃ irq, takenByIrq (latchFirst s j) j =
      { latchFirst s j with flt := { (latchFirst s j).flt with irq := irq } } := by
    unfold takenByIrq
    split
    · exact ⟨true, rfl⟩
    · exact ⟨(latchFirst s j).flt.irq, rfl⟩
  have hq' : ({ latchFirst s j with flt := { (latchFirst s j).flt with irq := irq } } : State).flt.queue.length < 64 := hq
  have hm : (s.flt.page ++ [(s.flt.pagesUsed, 0)]).map (fun p : Nat × Nat => 16 * p.1 + p.2) =
      s.flt.page.map (fun p => 16 * p.1 + p.2) ++ [16 * s.flt.pagesUsed] := List.map_append
  refine ⟨irq, ?_⟩
  rw [report_of_reportable (reportable_of_sev hs), takenByFirst_latches hv hc, hi, toRing_of_room hq', hv, hc]
  unfold ringEntry latchFirst
  rw [if_pos hp, if_pos hp]
  dsimp only
  rw [fillPage_opened, hm]
  rfl

/-- A consequential event joins the ring, and FLT_FIRST counts it where it holds a fault. -/
theorem report_masked {s : State} {j : Judged} {k : Nat} (hc : j.cause = some k) (hq : s.flt.queue.length < 64) :
    ∃ overflow later, report s j = { s with flt := { s.flt with
      overflow := overflow
      later := later
      queue := s.flt.queue ++ [ringEntry s j false]
      page := fillPage s.flt.page } } := by
  have hr : reportable s j = true := reportable_of_cause (by rw [hc]; rfl)
  obtain ⟨overflow, later, hf⟩ : ∃ overflow later, takenByFirst s j =
      { s with flt := { s.flt with overflow := overflow, later := later } } := by
    cases hv : s.flt.valid with
    | true => exact ⟨true, sat s.flt.later 1, takenByFirst_of_valid hv j⟩
    | false =>
      refine ⟨s.flt.overflow, s.flt.later, takenByFirst_of_consequential hv ?_⟩
      rw [hc]
      exact Option.some_ne_none k
  refine ⟨overflow, later, ?_⟩
  rw [report_of_reportable hr, hf, takenByIrq, hc, Option.isNone_some, Bool.false_and, Bool.and_false,
    if_neg Bool.false_ne_true]
  exact toRing_of_room hq

/-! ### The ring -/

/-- The words of an entry with their commit word. -/
def entryWords (e : RingEntry) : List Word := e.words ++ [commitWord e.words]

theorem ringPlace (h i : Nat) (hh : h < 4096) (hi : i < 6) : place 0 24576 (6 * h) i = 6 * h + i := by
  rw [place, Nat.zero_add, Nat.sub_zero, Nat.sub_zero, Nat.mod_eq_of_lt (by omega)]

/-- The ring after one write. -/
def ringWritten (s : State) (e : RingEntry) (more : List RingEntry) : State :=
  { logWrite s 0 24576 (6 * s.flt.head) (entryWords e) with
    flt := { s.flt with
      queue := more
      head := if s.flt.head = 4095 then 256 else s.flt.head + 1
      lastWrite := some s.elapsed }
    log := { (logWrite s 0 24576 (6 * s.flt.head) (entryWords e)).log with
      fHead := if s.flt.head = 4095 then 256 else s.flt.head + 1 } }

theorem exec_faultRingWrite {s : State} {e : RingEntry} {more : List RingEntry} (hp : s.pins.pwrgood = true)
    (hq : s.flt.queue = e :: more) (hm : s.log.waitMap = []) (hs : s.log.waitSet = []) (hc : e.size ≤ s.log.credits)
    (hb : ∀ b, s.flt.lastWrite = some b → b + 8 ≤ s.elapsed) (hg : e.page = []) :
    exec .faultRingWrite s = .next (fin s (ringWritten s e more)) := by
  have hdue : (match s.flt.lastWrite with | some t => decide (t + 8 ≤ s.elapsed) | none => true) = true := by
    cases hl : s.flt.lastWrite with
    | none => rfl
    | some b => exact decide_eq_true (hb b hl)
  refine answer_next hp ?_
  rw [hq]
  dsimp only
  rw [if_pos]
  · rw [hg]
    rfl
  · rw [hm, hs, decide_eq_true hc, Bool.and_true]
    refine Bool.and_eq_true_iff.mpr ⟨Bool.and_eq_true_iff.mpr ⟨hdue, rfl⟩, rfl⟩

theorem ringWritten_mem (s : State) (e : RingEntry) (more : List RingEntry) (hh : s.flt.head < 4096) :
    (∀ i, i < 5 → tget 0 (ringWritten s e more).log.mem (6 * s.flt.head + i) = e.words.getD i 0) ∧
    tget 0 (ringWritten s e more).log.mem (6 * s.flt.head + 5) = commitWord e.words ∧
    ∀ a, a < 6 * s.flt.head ∨ 6 * s.flt.head + 6 ≤ a →
      tget 0 (ringWritten s e more).log.mem a = tget 0 s.log.mem a := by
  have hmem : (ringWritten s e more).log.mem = wordsPut (place 0 24576 (6 * s.flt.head)) s.log.mem (entryWords e) 0 := rfl
  have hat : ∀ i, i < 6 → tget 0 (ringWritten s e more).log.mem (6 * s.flt.head + i) = (entryWords e).getD i 0 := by
    intro i hi
    have h := wordsPut_at (place_inj (lo := 0) (hi := 24576) (at_ := 6 * s.flt.head) (n := 6) (by decide)) (entryWords e)
      s.log.mem 0 (Nat.le_refl 6) i hi
    rwa [Nat.zero_add, ringPlace _ _ hh hi, ← hmem] at h
  refine ⟨fun i hi => ?_, hat 5 (by decide), fun a ha => ?_⟩
  · rw [hat i (by omega), entryWords]
    rw [List.getD_eq_getElem?_getD, List.getElem?_append_left (show i < e.words.length from hi),
      ← List.getD_eq_getElem?_getD]
  · rw [hmem]
    refine wordsPut_other _ _ _ (fun i hi => ?_)
    have hi6 : i < 6 := hi
    rw [Nat.zero_add, ringPlace _ _ hh hi6]
    omega

theorem keeps_ringWritten (s : State) (e : RingEntry) (more : List RingEntry) : Keeps [.flt, .log] s (ringWritten s e more) :=
  fun p hp => by
    cases p with
    | flt | log => exact absurd (by decide) hp
    | _ => rfl

/-- Settles O48. -/
theorem faultEvents : Obligations.FaultEvents := by
  refine ⟨fun s e x hp hd hx hs hi hg hm h3B hl hnote hc hn => ?_,
    fun s e x hp hd hx hs hi hg hm hlo hhi hl hcap hc hw hn hv hq => ?_,
    fun s e x hp hd hx hs hi hg hm h3B h3F hl hn hv hpg hq => ?_,
    fun s u detail hp hd hu hg hm hl hn hq hb => ?_,
    fun s e x m hp hd hx hs hi hg hm hq => ?_,
    fun s e x hp hd hx hs hi hg hm hsrc hl hf => ?_,
    fun s src inst hp => answer_next hp rfl,
    fun s e more hp hq hm hs hc hb hg hh => ?_⟩
  · have hct := countedInst_first (s := s) (d := detectedOf e) h3B hc hn hl
    have hlv : (countedInst s (detectedOf e)).level = 0 := by rw [hct]
    have hrep : reportable (setSrcInst s e.src e.inst (countedInst s (detectedOf e))) (judgedFree s (detectedOf e)) = false := by
      have hcw : cfgNote (cfgWord (setSrcInst s e.src e.inst (countedInst s (detectedOf e))) e.src) = false := hnote
      show ((false || decide (1 ≤ (countedInst s (detectedOf e)).level)) || _) = false
      rw [hlv]
      exact hcw
    rw [exec_faultEvent_one hp hd hx hs hi hg, classify_free hm]
    dsimp only
    rw [react_of_zero hlv]
    exact (congrArg (fun t => Host.Outcome.next (fin s t)) (report_of_unreportable hrep)).trans
      (congrArg (fun i => Host.Outcome.next (fin s (setSrcInst s e.src e.inst i))) hct)
  · have h3B : e.src ≠ 0x3B := by omega
    obtain ⟨hr, hct⟩ := countedInst_reaches (s := s) (d := detectedOf e) h3B hx hcap hc hw hn hl
    rw [exec_faultEvent_one hp hd hx hs hi hg, classify_free hm, judgedFree_of (by rw [hct]) hr]
    dsimp only
    rw [react_fatalOnly_low (Or.inr (Or.inl ⟨hlo, hhi⟩)) rfl]
    have he := report_later (s := setSrcInst s e.src e.inst (countedInst s (detectedOf e)))
      (j := { src := e.src, inst := e.inst, detail := e.detail, sev := 1, esc := true, cause := none, rescue := false })
      (Nat.le_refl 1) rfl hv hq
    refine ⟨_, congrArg (fun t => Host.Outcome.next (fin s t)) he, ?_, rfl, rfl, rfl, rfl,
      ((keeps_setSrcInst s _ _ _).setFlt (by decide)).fin⟩
    exact (srcInst_setSrcInst s e.src e.inst _).trans hct
  · have hr : raisesLevel s (detectedOf e) = false := raisesLevel_of_n_zero h3B hn
    have hlv : (countedInst s (detectedOf e)).level = 1 := (countedInst_level_kept hr).trans hl
    rw [exec_faultEvent_one hp hd hx hs hi hg, classify_free hm, judgedFree_of hlv hr]
    dsimp only
    rw [react_of_low rfl rfl h3F]
    obtain ⟨irq, he⟩ := report_first (s := setSrcInst s e.src e.inst (countedInst s (detectedOf e)))
      (j := { src := e.src, inst := e.inst, detail := e.detail, sev := 1, esc := false, cause := none, rescue := false })
      (Nat.le_refl 1) rfl hv hpg hq
    refine ⟨_, congrArg (fun t => Host.Outcome.next (fin s t)) he, rfl, rfl, rfl, rfl, rfl, rfl, rfl, rfl, rfl, rfl,
      ((keeps_setSrcInst s _ _ _).setFlt (by decide)).fin⟩
  · have hu' : u < 16 ∧ s.variant ≠ .N := by
      rw [chkPresent, Bool.and_eq_true, decide_eq_true_eq, decide_eq_true_eq] at hu
      exact hu
    have hs : sourcePresent s.variant 0x3F = true := by
      cases hv : s.variant with
      | N => exact absurd hv hu'.2
      | _ => decide
    obtain ⟨x, hx, hsc⟩ : ∃ x, sourceOf 0x3F = some x ∧ x.scope = .checkUnit := ⟨_, rfl, rfl⟩
    have hr : raisesLevel s (detectedOf ⟨0x3F, u, detail⟩) = false :=
      raisesLevel_of_n_zero (show (0x3F : Nat) ≠ 0x3B by decide) hn
    have hlv : (countedInst s (detectedOf ⟨0x3F, u, detail⟩)).level = 1 := (countedInst_level_kept hr).trans hl
    rw [exec_faultEvent_one (e := { src := 0x3F, inst := u, detail := detail }) hp hd hx hs (by rw [hsc]; exact hu) hg,
      classify_free hm, judgedFree_of hlv hr]
    have k := (keeps_setSrcInst s 0x3F u (countedInst s (detectedOf ⟨0x3F, u, detail⟩))).trans
      (keeps_report (setSrcInst s 0x3F u (countedInst s (detectedOf ⟨0x3F, u, detail⟩)))
        { src := 0x3F, inst := u, detail := detail, sev := 1, esc := false, cause := none, rescue := false })
    change ∃ t, Host.Outcome.next (fin s (react (report (setSrcInst s 0x3F u (countedInst s (detectedOf ⟨0x3F, u, detail⟩)))
      { src := 0x3F, inst := u, detail := detail, sev := 1, esc := false, cause := none, rescue := false })
      { src := 0x3F, inst := u, detail := detail, sev := 1, esc := false, cause := none, rescue := false })) = _ ∧ _
    generalize report _ _ = v at k ⊢
    have hk := k.chk_eq (by decide)
    rw [react_chkFault rfl rfl rfl ((congrArg Chk.busy (hk u)).trans hb)]
    refine ⟨_, rfl, ?_, fun w hw => ?_, ((k.mono (by decide)).setChk (by decide)).fin⟩
    · rw [fin_chk, State.modChk, chk_setChk, hk]
    · rw [fin_chk, State.modChk, chk_setChk_ne _ _ _ _ hw, hk]
  · rw [exec_faultEvent_one hp hd hx hs hi hg, classify_masked hm]
    dsimp only
    rw [react_of_masked rfl]
    obtain ⟨overflow, later, he⟩ := report_masked
      (s := setSrcInst s e.src e.inst { srcInst s e.src e.inst with conseq := sat (srcInst s e.src e.inst).conseq 1 })
      (j := { src := e.src, inst := e.inst, detail := e.detail, sev := 0, esc := false, cause := some m.cause, rescue := false })
      rfl hq
    refine ⟨_, congrArg (fun t => Host.Outcome.next (fin s t)) he, ?_, rfl, rfl, rfl, rfl,
      ((keeps_setSrcInst s _ _ _).setFlt (by decide)).fin⟩
    exact srcInst_setSrcInst s e.src e.inst _
  · have hsev : 3 ≤ (judgedFree s (detectedOf e)).sev := countedInst_level_ge hl
    rw [exec_faultEvent_one hp hd hx hs hi hg, classify_free hm, react_fatalOnly (show FatalOnly (judgedFree s (detectedOf e)).src from hsrc) rfl hsev]
    have k := (keeps_setSrcInst s e.src e.inst (countedInst s (detectedOf e))).trans
      (keeps_report (setSrcInst s e.src e.inst (countedInst s (detectedOf e))) (judgedFree s (detectedOf e)))
    have hfat : (report (setSrcInst s e.src e.inst (countedInst s (detectedOf e))) (judgedFree s (detectedOf e))).flt.fatal =
        false := (report_frame _ _).1.trans hf
    change ∃ t, Host.Outcome.next (fin s (enterFatal (report (setSrcInst s e.src e.inst (countedInst s (detectedOf e)))
      (judgedFree s (detectedOf e))) (e.src = 0x28))) = _ ∧ _
    generalize report _ _ = v at k hfat ⊢
    obtain ⟨h1, h2, h3, h4, h5⟩ := enterFatal_spec hfat (e.src = 0x28)
    generalize enterFatal v _ = w at *
    refine ⟨_, rfl, h1, ?_, h2, h3, fun c hc => ?_, fun n hn hst => h5 n hn ?_⟩
    · rw [fin_pins, h1]
      rfl
    · rw [fin_chan, (h4 c hc).1, (h4 c hc).2, k.chan_eq (by decide)]
      exact ⟨rfl, rfl⟩
    · rw [State.port, k .ports (by decide)]
      exact hst
  · obtain ⟨h1, h2, h3⟩ := ringWritten_mem s e more hh
    refine ⟨_, exec_faultRingWrite hp hq hm hs hc hb hg, rfl, h1, h2, h3, rfl, ?_⟩
    exact (keeps_ringWritten s e more).fin

end Sys2Proof.Proofs

/-! The fill after an MBIST over a remap table in which an index stands twice (R401). -/

namespace Sys2Proof.Proofs

open Sys2Proof.Machine
open Sys2Proof.Safety

/-- A stack in service about to refill rank 0 of channel 0 after its MBIST; index 0 of the channel's remap table names a line
of rank 1 first and a line of rank 0 behind it. -/
def refillOverTwins : State :=
  { State.reset with
    rst := { phase := .ready, fillDue := false }
    bst := [(0, { st := .refill })]
    ecc := [(0, { remap := [
      (0, { st := .committed, loc := { shadowedLine with rank := 1 }, words := (1, 0), recorded := true }),
      (0, { st := .committed, loc := shadowedLine, words := (1, 0), recorded := true })] })] }

theorem exec_refillOverTwins : exec (.bistFillDone 0) refillOverTwins =
    .next (fin refillOverTwins (bistFree (fillRank refillOverTwins 0 0) 0)) :=
  (congrArg (answer refillOverTwins) (if_pos (by decide))).trans (answer_next rfl rfl)

/-- The line still reads what it held: its index gives the entry that stands before its own. -/
theorem refillOverTwins_reads : cellRead (bistFree (fillRank refillOverTwins 0 0) 0) shadowedLine ≠ zeroWords := by
  decide +kernel

/-- Refutes O44: where an index of a channel's remap table stands twice, a line of the rank that is filled reads as the entry
before its own gives it, of another rank. -/
theorem not_builtInTests : ¬ Obligations.BuiltInTests := by
  rintro ⟨-, -, -, -, h, -⟩
  obtain ⟨t, ht, -, hz, -⟩ := h refillOverTwins 0 0 rfl rfl rfl rfl rfl rfl (by decide) rfl rfl rfl rfl rfl rfl
  have e := Host.Outcome.next.inj (exec_refillOverTwins.symm.trans ht)
  have hx := hz shadowedLine rfl rfl
  rw [← e, cellRead_fin] at hx
  exact refillOverTwins_reads hx

end Sys2Proof.Proofs

/-! The burst of a read that returns without error, and the completion of a request (R111, R166, R215). -/

namespace Sys2Proof.Safety

open Sys2Proof.Machine

section Returns

variable {l : List Part} {s t : State} (h : Keeps l s t)
include h

theorem Keeps.decodeLine_eq (hl : Part.tsv ∉ l) (c : Nat) (w : Half × Half) : decodeLine t c w = decodeLine s c w := by
  rw [decodeLine, erasedOf, h.tsvOf_eq hl, decodeLine, erasedOf]

end Returns

end Sys2Proof.Safety

namespace Sys2Proof.Proofs

open Sys2Proof.Machine
open Sys2Proof.Safety

/-! ### One line of a request -/

/-- What a line served OK with data `x`, line `i` of its request, leaves of an open request. -/
def lineServed (i : Nat) (x : Line) (y : Req) : Req :=
  { y with
    status := Status.first y.status .ok
    rdata := tput y.rdata i x
    linesDue := y.linesDue - 1
    stage := if y.linesDue ≤ 1 then .done else y.stage }

/-- One line served OK: the open requests of that number are a line further. -/
theorem lineDone_ok_reqs (s : State) (id i : Nat) (x : Line) :
    (lineDone s id i .ok (some x)).reqs =
      s.reqs.map (fun y => if y.id = id ∧ y.stage ≠ .done then lineServed i x y else y) := by
  refine List.map_congr_left fun y _ => ?_
  dsimp only
  by_cases hid : y.id = id
  · by_cases hd : y.stage = .done
    · rw [if_pos hid, if_pos hd, if_neg (fun h => h.2 hd)]
    · have hb : y.id = id ∧ y.stage ≠ .done := ⟨hid, hd⟩
      rw [if_pos hid, if_neg hd, if_pos hb]
      rfl
  · rw [if_neg hid, if_neg (fun h => hid h.1)]

/-- The first line of an entry is the line of its address. -/
theorem entryLine_first {e : Entry} (h : e.dpaLine ≠ dpaNone) : entryLine e e.loc.col = e.dpaLine := by
  rw [entryLine, if_neg h, Nat.sub_self, Nat.add_zero]

theorem allocClean_skipped {s : State} {r : Req} {line : Nat} {stale : Bool}
    (h : stale = true ∨ bypass s (homeChan s line) = true) (x : Line) : allocClean s r line x stale = s := by
  refine if_pos ?_
  obtain h | h := h
  · rw [h, Bool.or_true]
    rfl
  · rw [h]
    rfl

/-! ### The burst of a clean line -/

theorem out_clean {d : Decoded} (ha : d.a = .clean) (hb : d.b = .clean) : d.out = .clean := by
  rw [Decoded.out, ha, hb]
  rfl

theorem monitorLine_clean {d : Decoded} (ha : d.a = .clean) (hb : d.b = .clean) (s : State) (c : Nat) :
    monitorLine s c d = s := by
  simp only [monitorLine, ha, hb, reduceCtorEq, if_false]

theorem afterDecode_clean {d : Decoded} (h : d.out = .clean) (s : State) (e : Entry) (col : Nat) (l : Loc) (w : Half × Half) :
    afterDecode s e col l w d = s := by
  unfold afterDecode
  simp only [h]

/-- A clean plain line of an open request goes to the request; no buffer takes it where the entry is stale or the
buffer is bypassed. -/
theorem hostLine_clean {s : State} {e : Entry} {col : Nat} {d : Decoded} {r : Req} (hr : e.req = some r.id)
    (hf : findReq s r.id = some r) (hd : r.stage ≠ .done) (he : r.enc = false) (ho : d.out = .clean)
    (hs : e.stale = true ∨ bypass s (homeChan s (entryLine e col)) = true) :
    hostLine s e col d = lineDone s r.id (entryLine e col - r.dpa / 64) .ok (some (lineOfHalves d.words)) := by
  have hb : e.req.bind (findReq s) = some r := by rw [hr, Option.bind_some, hf]
  have hopen : openLine s r (entryLine e col) d.words = (lineOfHalves d.words, s) := by
    unfold openLine
    rw [he]
    rfl
  unfold hostLine
  rw [hb]
  simp only [hd, he, ho, hopen, if_false, Bool.false_and, Bool.false_eq_true]
  rw [allocClean_skipped hs]
  rfl

/-- The erasures that a burst used counted, and its channel's lane monitor told that the rank answered. -/
def burstNoted (s : State) (c k : Nat) (d : Decoded) : State :=
  (countErase s c d).modTsvOf c (fun t => { t with noLane := tset 0 t.noLane k 0 })

theorem keeps_burstNoted (s : State) (c k : Nat) (d : Decoded) : Keeps [.ecc, .tsv] s (burstNoted s c k d) :=
  Keeps.setTsvOf ((Keeps.refl _ s).setEccOf (by decide)) (by decide)

theorem burstNoted_waits (s : State) (c k : Nat) (d : Decoded) :
    ((burstNoted s c k d).tsvOf c).waits = (s.tsvOf c).waits := by
  rw [burstNoted, modTsvOf_def, tsvOf_setTsvOf]
  rfl

theorem burstNoted_visit (s : State) (c k : Nat) (d : Decoded) :
    ((burstNoted s c k d).eccOf c).visit = (s.eccOf c).visit := by
  have e : (burstNoted s c k d).eccOf c = (countErase s c d).eccOf c := rfl
  rw [e, countErase, modEccOf_def, eccOf_setEccOf]

/-- A clean burst of a host's read settles its line. -/
theorem burstReturns_clean {s : State} {c : Nat} {e : Entry} {col : Nat} {r : Req} (hk : e.kind = .hostRead)
    (hr : e.req = some r.id) (hf : findReq s r.id = some r) (hd : r.stage ≠ .done) (he : r.enc = false)
    (ha : (decodeLine s c e.got).a = .clean) (hb : (decodeLine s c e.got).b = .clean)
    (hs : e.stale = true ∨ bypass s (homeChan s (entryLine e col)) = true) :
    burstReturns s c 0 0 e col = lineDone (burstNoted s c e.loc.rank (decodeLine s c e.got)) r.id
      (entryLine e col - r.dpa / 64) .ok (some (lineOfHalves (decodeLine s c e.got).words)) := by
  have hgot : (e.got.1 ^^^ (0 : Half), e.got.2 ^^^ (0 : Half)) = e.got := by simp
  have k := keeps_burstNoted s c e.loc.rank (decodeLine s c e.got)
  have hf' : findReq (burstNoted s c e.loc.rank (decodeLine s c e.got)) r.id = some r := by
    rw [findReq, k .reqs (by decide)]
    exact hf
  have hs' : e.stale = true ∨ bypass (burstNoted s c e.loc.rank (decodeLine s c e.got))
      (homeChan (burstNoted s c e.loc.rank (decodeLine s c e.got)) (entryLine e col)) = true := by
    rw [k.homeChan_eq (by decide), k.bypass_eq (by decide)]
    exact hs
  unfold burstReturns
  simp only [hgot, hk, reduceCtorEq, if_false, monitorLine_clean ha hb, afterDecode_clean (out_clean ha hb), ite_self]
  exact hostLine_clean hr hf' hd he (out_clean ha hb) hs'

/-! ### What follows the burst -/

theorem endVisit_of_none {s : State} {c : Nat} (h : (s.eccOf c).visit = 0) : endVisit s c = s := by
  unfold endVisit
  dsimp only
  rw [h]
  rfl

/-- With no check due or waiting and no visit, what follows a burst only settles the channel's state. -/
theorem afterBurst {s : State} {c : Nat} (hd : (s.trnOf c).checkDue = false) (hw : (s.tsvOf c).waits = [])
    (hv : (s.eccOf c).visit = 0) :
    endVisit (settleChan s c) c = s.modChan c (fun ch => { ch with st := settledSt s c }) := by
  rw [settleChan_of_no_wait (startWaiting_of_none hd hw)]
  exact endVisit_of_none hv

theorem exec_readDataReturn {s : State} {c now : Nat} {e : Entry} {col : Nat} {rest : List (Entry × Nat)}
    (hp : s.pins.pwrgood = true) (hi : (s.chan c).inflight = (e, col) :: rest) (a b : Half) :
    exec (.readDataReturn ⟨c, now⟩ a b) s = .next (fin s (endVisit (settleChan (burstReturns
      ((atPs s now).modChan c (fun ch => { ch with inflight := rest })) c a b e col) c) c)) := by
  have hi' : ((atPs s now).chan c).inflight = (e, col) :: rest := by
    rw [(keeps_atPs s now).chan_eq (by decide), hi]
  refine answer_next hp ?_
  dsimp only
  rw [hi']

/-! ### Completions -/

theorem sendCmp_active {s : State} {n : Nat} (h : (s.port n).st = .active) (c : Cmp) :
    sendCmp s n false c = s.modPort n (fun p => { p with cmpOut := p.cmpOut ++ [c] }) := by
  unfold sendCmp
  simp [h]

theorem exec_completionFormed {s : State} {r : Req} (hp : s.pins.pwrgood = true) (hf : findReq s r.id = some r)
    (hd : r.stage = .done) (hfat : s.flt.fatal = false) (he : r.eng = none) :
    exec (.completionFormed r.id) s = .next (fin s (sendCmp (dropReq s r.id) r.port r.orphan (mkCmp r))) := by
  refine answer_next hp ?_
  simp only [hf, hd, hfat, he, stackDown, ne_eq, not_true_eq_false, decide_false, Bool.false_and, Bool.or_self,
    Bool.false_eq_true, if_false]

/-- Settles O28. -/
theorem readsReturnAndComplete : Obligations.ReadsReturnAndComplete := by
  refine ⟨fun s c now e col rest r x hp hi hk hq hf hd he hl hcol hs hn ha hb hwords hx hdue hw hv => ?_,
    fun s r hp hf hd hfat he ho hst => ?_⟩
  · subst hcol hx
    have hline : entryLine e e.loc.col = r.dpa / 64 := (entryLine_first hn).trans hl
    have hexec := exec_readDataReturn (now := now) hp hi 0 0
    have k : Keeps [.clock, .chans] s ((atPs s now).modChan c (fun ch => { ch with inflight := rest })) :=
      ((keeps_atPs s now).mono (by decide)).setChan (by decide)
    have hrest : (((atPs s now).modChan c (fun ch => { ch with inflight := rest })).chan c).inflight = rest := by
      rw [modChan_def, chan_setChan]
    generalize (atPs s now).modChan c (fun ch => { ch with inflight := rest }) = u at hexec k hrest
    have hdec : decodeLine u c e.got = decodeLine s c e.got := k.decodeLine_eq (by decide) c e.got
    have hreqs : u.reqs = s.reqs := k .reqs (by decide)
    have hs' : e.stale = true ∨ bypass u (homeChan u (entryLine e e.loc.col)) = true := by
      rw [hline, k.homeChan_eq (by decide), k.bypass_eq (by decide)]
      exact hs
    have hf' : findReq u r.id = some r := by
      rw [findReq, hreqs]
      exact hf
    have hburst := burstReturns_clean (s := u) (c := c) (col := e.loc.col) hk hq hf' hd he (by rw [hdec, ha]) (by rw [hdec, hb]) hs'
    rw [hdec, hwords, hline, Nat.sub_self] at hburst
    have kb : Keeps [.clock, .chans, .reqs, .ecc, .tsv] s (burstReturns u c 0 0 e e.loc.col) := by
      rw [hburst]
      exact ((k.mono (by decide)).trans ((keeps_burstNoted u c e.loc.rank (decodeLine s c e.got)).mono (by decide))).lineDone
        (by decide)
    have kc : Keeps [.reqs, .ecc, .tsv] u (burstReturns u c 0 0 e e.loc.col) := by
      rw [hburst]
      exact ((keeps_burstNoted u c e.loc.rank (decodeLine s c e.got)).mono (by decide)).lineDone (by decide)
    have hr' := congrArg State.reqs hburst
    rw [lineDone_ok_reqs, (keeps_burstNoted u c e.loc.rank (decodeLine s c e.got)) .reqs (by decide), hreqs] at hr'
    have hv' : ((burstReturns u c 0 0 e e.loc.col).eccOf c).visit = 0 := by
      have h2 : ((burstReturns u c 0 0 e e.loc.col).eccOf c).visit = (u.eccOf c).visit := by
        rw [hburst]
        exact burstNoted_visit u c e.loc.rank (decodeLine s c e.got)
      rw [h2, k.eccOf_eq (by decide), hv]
    have hw' : ((burstReturns u c 0 0 e e.loc.col).tsvOf c).waits = [] := by
      have h2 : ((burstReturns u c 0 0 e e.loc.col).tsvOf c).waits = (u.tsvOf c).waits := by
        rw [hburst]
        exact burstNoted_waits u c e.loc.rank (decodeLine s c e.got)
      rw [h2, k.tsvOf_eq (by decide), hw]
    have hd' : ((burstReturns u c 0 0 e e.loc.col).trnOf c).checkDue = false := by
      rw [kb.trnOf_eq (by decide), hdue]
    rw [afterBurst hd' hw' hv'] at hexec
    refine ⟨_, hexec, ?_, hr', (kb.setChan (by decide)).fin⟩
    rw [fin_chan, modChan_def, chan_setChan, kc.chan_eq (by decide)]
    exact hrest
  · rw [exec_completionFormed hp hf hd hfat he, ho, sendCmp_active (by exact hst)]
    rfl

end Sys2Proof.Proofs

/-! Dispatch of the picked request, the first-touch fill and the write-back of an idle line (R134, R161, R169–R173, R230,
R231). -/

namespace Sys2Proof.Safety

open Sys2Proof.Machine

section Dispatch

variable {l : List Part} {s t : State} (h : Keeps l s t)
include h

theorem Keeps.lbFind_eq (hl : Part.chans ∉ l) (c line : Nat) : lbFind t c line = lbFind s c line := by
  rw [lbFind, h.chan_eq hl, lbFind]

theorem Keeps.canRead_eq (hl : Part.chans ∉ l) (c : Nat) (f : Bool) : canRead t c f = canRead s c f := by
  rw [canRead, h.chan_eq hl, canRead]

theorem Keeps.canWrite_eq (hl : Part.chans ∉ l) (c : Nat) (f : Bool) : canWrite t c f = canWrite s c f := by
  rw [canWrite, h.chan_eq hl, canWrite]

end Dispatch

end Sys2Proof.Safety

namespace Sys2Proof.Proofs

open Sys2Proof.Machine
open Sys2Proof.Safety

/-! ### What dispatch does with the request it picks -/

/-- The turn of the request's flow taken and its units counted as dispatched. -/
def dispatchCounted (s : State) (r : Req) : State :=
  (turnTaken s (group s r) r.flow).modFlowR r.flow (fun f => { f with dispatched := sat f.dispatched r.units })

theorem keeps_dispatchCounted (s : State) (r : Req) : Keeps [.flw, .flowRt] s (dispatchCounted s r) :=
  Keeps.setFlowR (Keeps.setFlw (Keeps.refl _ s) (by decide)) (by decide)

theorem dispatchCounted_dispatched (s : State) (r : Req) :
    ((dispatchCounted s r).flowR r.flow).dispatched = sat (s.flowR r.flow).dispatched r.units := by
  rw [dispatchCounted, modFlowR_def, flowR_setFlowR]
  rfl

theorem exec_requestDispatch {s : State} {r : Req} (hp : s.pins.pwrgood = true) (hm : migFirst s = false)
    (hr : pickReq s = some r) : exec .requestDispatch s = .next (fin s (serveReq (dispatchCounted s r) r)) := by
  refine answer_next hp ?_
  rw [if_neg (Bool.eq_false_iff.mp hm)]
  simp only [hr]
  rfl

theorem exec_requestDispatch_none {s : State} (hp : s.pins.pwrgood = true) (hm : migFirst s = false)
    (hr : pickReq s = none) : exec .requestDispatch s = .next (fin s s) := by
  refine answer_next hp ?_
  rw [if_neg (Bool.eq_false_iff.mp hm)]
  simp only [hr]

theorem reqLine_zero (r : Req) : reqLine r 0 = r.dpa / 64 := rfl

/-- A read of an uninked page counted at its channel. -/
def unwrittenCounted (s : State) (r : Req) : State :=
  perf (s.modEccOf (homeChan s (r.dpa / 64)) (fun e => { e with unwritten := e.unwritten + BitVec.ofNat 72 r.op.lines }))
    0x304 (homeChan s (r.dpa / 64)) r.op.lines

theorem serveReq_unwritten {s : State} {r : Req} (he : r.enc = false) (hr : r.op.isRead = true)
    (hi : inked s (r.dpa / 4096) = false) : serveReq s r = modReq (unwrittenCounted s r) r.id (fun x => { x with
      stage := .done, status := .unwritten, linesDue := 0, rdata := (List.range r.op.lines).map (fun i => (i, 0)) }) := by
  have hu : unwrittenRead s r = true := by
    rw [unwrittenRead, hr, Req.page, hi]
    rfl
  unfold serveReq
  simp only [he, hu, Bool.false_and, Bool.false_eq_true, if_false, if_true]
  rfl

/-- A plain read of an inked page in reach. -/
theorem serveReq_read {s : State} {r : Req} {loc : Loc} (he : r.enc = false) (hr : r.op.isRead = true)
    (hi : inked s (r.dpa / 4096) = true) (hl : locate s r.dpa = some loc) (hu : unreachable s loc = false) :
    serveReq s r = dispatchRead s r (homeChan s (r.dpa / 64)) loc := by
  have hw : unwrittenRead s r = false := by
    rw [unwrittenRead, Req.page, hi]
    exact Bool.and_false _
  unfold serveReq
  simp only [he, hw, hl, hu, hr, Bool.false_and, Bool.false_eq_true, if_false, if_true, reqLine_zero]

theorem unwrittenRead_of_write {s : State} {r : Req} (h : r.op.isRead = false) : unwrittenRead s r = false := by
  rw [unwrittenRead, h]
  rfl

theorem not_isRead_of_isWrite {o : Op} (h : o.isWrite = true) : o.isRead = false := by
  revert h
  cases o <;> decide

/-- A plain write to an uninked page in reach, where it would write something. -/
theorem serveReq_fill {s : State} {r : Req} {loc : Loc} (he : r.enc = false) (hw : r.op.isWrite = true)
    (hm : r.op ≠ .mwrite64 ∨ r.enables ≠ 0) (hi : inked s (r.dpa / 4096) = false) (hl : locate s r.dpa = some loc)
    (hu : unreachable s loc = false) : serveReq s r = startFill s r := by
  have hr := not_isRead_of_isWrite hw
  have hg : (!inked s r.page && !(decide (r.op = .mwrite64) && decide (r.enables = 0))) = true := by
    rw [Req.page, hi]
    obtain h | h := hm
    · rw [decide_eq_false h]
      rfl
    · rw [decide_eq_false h, Bool.and_false]
      rfl
  unfold serveReq
  simp only [he, unwrittenRead_of_write hr, hl, hu, hr, hg, Bool.false_and, Bool.false_eq_true, if_false, if_true]

/-- A plain full write to an inked page in reach. -/
theorem serveReq_write {s : State} {r : Req} {loc : Loc} (he : r.enc = false) (ho : r.op = .write64)
    (hi : inked s (r.dpa / 4096) = true) (hl : locate s r.dpa = some loc) (hu : unreachable s loc = false) :
    serveReq s r = writeLines s r (homeChan s (r.dpa / 64)) loc (reqData r) := by
  have hr : r.op.isRead = false := by rw [ho]; rfl
  have hg : (!inked s r.page) = false := by
    rw [Req.page, hi]
    rfl
  have hm : ¬ r.op = .mwrite64 := by rw [ho]; exact nofun
  unfold serveReq
  simp only [he, unwrittenRead_of_write hr, hl, hu, hr, hg, hm, Bool.false_and, Bool.false_eq_true, if_false, reqLine_zero]
  rfl

/-! ### Reads of one line -/

theorem missLines_hit {s : State} {c : Nat} {r : Req} {x : LbLine} (ho : r.op.lines = 1) (h : hitLine s c r 0 = some x) :
    missLines s c r = [] := by
  rw [missLines, ho, List.range_one]
  refine List.filter_eq_nil_iff.mpr fun i hi => ?_
  rw [List.mem_singleton.mp hi, h]
  exact Bool.false_ne_true

theorem missLines_miss {s : State} {c : Nat} {r : Req} (ho : r.op.lines = 1) (h : hitLine s c r 0 = none) :
    missLines s c r = [0] := by
  rw [missLines, ho, List.range_one, List.filter_cons_of_pos (by rw [h]; rfl), List.filter_nil]

theorem hitLine_plain {s : State} {c : Nat} {r : Req} {x : LbLine} (he : r.enc = false) (hx : x.enc = false)
    (hb : bypass s c = false) (hf : lbFind s c (r.dpa / 64) = some x) : hitLine s c r 0 = some x := by
  have hm : lbMatches s x r.enc r.slot = true := by
    rw [lbMatches, he, hx]
    rfl
  unfold hitLine
  rw [hb, reqLine_zero, hf, if_neg Bool.false_ne_true]
  exact if_pos hm

theorem hitLine_none {s : State} {c : Nat} {r : Req} (hf : lbFind s c (r.dpa / 64) = none) : hitLine s c r 0 = none := by
  unfold hitLine
  rw [reqLine_zero, hf]
  exact ite_self _

/-- A request that the buffer serves whole counted. -/
def hitCounted (s : State) (c : Nat) : State := perf (s.modChan c (fun ch => { ch with lbHits := ch.lbHits + 1 })) 0x205 c 1

theorem hitCounted_chan (s : State) (c : Nat) :
    (hitCounted s c).chan c = { s.chan c with lbHits := (s.chan c).lbHits + 1 } := by
  have e : (hitCounted s c).chan c = (s.modChan c (fun ch => { ch with lbHits := ch.lbHits + 1 })).chan c := rfl
  rw [e, modChan_def, chan_setChan]

theorem keeps_hitCounted (s : State) (c : Nat) : Keeps [.chans, .tel] s (hitCounted s c) :=
  Keeps.perf _ _ _ ((Keeps.refl _ s).setChan (by decide)) (by decide)

/-- A one-line read of a buffered plain line is served by the buffer. -/
theorem dispatchRead_hit {s : State} {c : Nat} {r : Req} {loc : Loc} {x : LbLine} (ho : r.op.lines = 1)
    (he : r.enc = false) (hx : x.enc = false) (hb : bypass s c = false) (hf : lbFind s c (r.dpa / 64) = some x) :
    dispatchRead s r c loc = lineDone (lbTouch (hitCounted s c) c x.dpaLine) r.id 0 .ok (some x.data) := by
  have hm := missLines_hit ho (hitLine_plain he hx hb hf)
  have hc : countHit s c r = hitCounted s c := if_pos hm
  have hh : hitLine (hitCounted s c) c r 0 = some x := by
    refine hitLine_plain he hx ?_ ?_
    · rw [(keeps_hitCounted s c).bypass_eq (by decide), hb]
    · rw [lbFind, hitCounted_chan]
      exact hf
  unfold dispatchRead
  simp only [hm, hc, ho, List.filter_nil, foldS, List.foldl_nil, List.range_one, List.foldl_cons, hh, if_true]
  rfl

/-- The entry of a one-line read that misses. -/
def readEntry (s : State) (r : Req) (loc : Loc) : Entry :=
  { mkEntry s .hostRead r.fixed loc [loc.col] (r.dpa / 64) with req := some r.id }

/-- A one-line read that misses queues its burst. -/
theorem dispatchRead_miss {s : State} {c : Nat} {r : Req} {loc : Loc} (ho : r.op.lines = 1) (hb : bypass s c = false)
    (hc : c = homeChan s (r.dpa / 64)) (hf : lbFind s c (r.dpa / 64) = none) :
    dispatchRead s r c loc = modReq (pushRead s (readEntry s r loc)) r.id
      (fun x => { x with stage := if x.stage = .done then .done else .channel }) := by
  have hh := hitLine_none hf
  have hm := missLines_miss ho hh
  have hcount : countHit s c r = s := if_neg (by rw [hm]; exact nofun)
  have hfw : forwardable s loc r 0 = false := by
    rw [forwardable, reqLine_zero, ← hc, hb]
    rfl
  have hdrop : dropMismatch s c r 0 = s := by
    unfold dropMismatch
    rw [reqLine_zero, hf]
  unfold dispatchRead
  simp only [hm, hcount, ho, hfw, hdrop, hh, hb, List.filter_cons, List.filter_nil, Bool.not_false, if_true, if_false,
    Bool.false_eq_true, foldS, List.foldl_nil, List.range_one, List.foldl_cons, reduceCtorEq]
  rfl

/-! ### Lines written into the buffer -/

theorem chan_modReq (s : State) (id : Nat) (g : Req → Req) (c : Nat) : (modReq s id g).chan c = s.chan c := rfl

theorem admitWrites_lb (s : State) (d c : Nat) : ((admitWrites s d).chan c).lb = (s.chan c).lb := by
  unfold admitWrites
  split
  · rfl
  · dsimp only
    refine foldS_induction (P := fun t => (t.chan c).lb = (s.chan c).lb) (g := fun s id => endReq s id .ok)
      (fun t n h => h) _ ?_
    by_cases e : c = d
    · subst e
      rw [chan_setChan]
    · rw [chan_setChan_ne _ _ _ _ e]

theorem pushWrite_lb (s : State) (e : Entry) (c : Nat) : ((pushWrite s e).chan c).lb = (s.chan c).lb := by
  rw [pushWrite, admitWrites_lb, modChan_def]
  by_cases h : c = e.loc.ch
  · subst h
    rw [chan_setChan]
  · rw [chan_setChan_ne _ _ _ _ h]

theorem chan_countEnc (s : State) (e : Bool) (c : Nat) : (countEnc s e).chan c = s.chan c := by
  unfold countEnc
  split
  · rfl
  · rfl

theorem queueWb_lb (s : State) (d : Nat) (x : LbLine) (c : Nat) : ((queueWb s d x).chan c).lb = (s.chan c).lb := by
  unfold queueWb
  split
  · rfl
  · split
    · rfl
    · dsimp only
      rw [pushWrite_lb]
      exact congrArg Chan.lb (chan_countEnc s x.enc c)

/-- The buffer of channel c holds a line with these data. -/
def Buffered (c line : Nat) (x : Line) (s : State) : Prop := ∃ l ∈ (s.chan c).lb, l.dpaLine = line ∧ l.data = x

/-- Every request of the number has its outcome. -/
def EndedReq (id : Nat) (s : State) : Prop := ∀ x ∈ s.reqs, x.id = id → x.stage = .done

/-- What a step changes of the buffers and the requests leaves a buffered line and an ended request what they are. -/
def Written (c line : Nat) (x : Line) (id : Nat) (s : State) : Prop := Buffered c line x s ∧ EndedReq id s

theorem EndedReq.map {id : Nat} {s t : State} (h : EndedReq id s) (g : Req → Req) (ht : t.reqs = s.reqs.map g)
    (hid : ∀ y, (g y).id = y.id) (hst : ∀ y, y.stage = .done → (g y).stage = .done) : EndedReq id t := by
  intro y hy hi
  rw [ht] at hy
  obtain ⟨z, hz, rfl⟩ := List.mem_map.mp hy
  exact hst z (h z hz ((hid z).symm.trans hi))

theorem EndedReq.endReq {id : Nat} {s : State} (h : EndedReq id s) (n : Nat) (st : Status) :
    EndedReq id (Sys2Proof.Machine.endReq s n st) := by
  refine h.map _ rfl (fun y => ?_) (fun y hy => ?_)
  · dsimp only
    split
    · rfl
    · rfl
  · dsimp only
    split
    · rfl
    · exact hy

theorem endedReq_endReq (s : State) (id : Nat) (st : Status) : EndedReq id (endReq s id st) := by
  intro y hy hi
  obtain ⟨z, -, rfl⟩ := List.mem_map.mp hy
  dsimp only at hi ⊢
  split
  · rfl
  · next hz =>
    rw [if_neg hz] at hi
    exact absurd hi hz

theorem EndedReq.admitWrites {id : Nat} {s : State} (h : EndedReq id s) (d : Nat) :
    EndedReq id (Sys2Proof.Machine.admitWrites s d) := by
  unfold Sys2Proof.Machine.admitWrites
  split
  · exact h
  · exact foldS_induction (P := EndedReq id) (fun t n k => k.endReq n .ok) _ h

theorem EndedReq.flushFenced {id : Nat} {s : State} (h : EndedReq id s) (c line : Nat) :
    EndedReq id (Sys2Proof.Machine.flushFenced s c line) := by
  refine h.map _ rfl (fun y => ?_) (fun y hy => ?_)
  · split
    · rfl
    · rfl
  · split
    · exact hy
    · exact hy

theorem EndedReq.awaitLine {id : Nat} {s : State} (h : EndedReq id s) (f n c line : Nat) :
    EndedReq id (Sys2Proof.Machine.awaitLine s f n c line) := by
  refine h.map _ rfl (fun y => ?_) (fun y hy => ?_)
  · split
    · rfl
    · rfl
  · split
    · exact hy
    · exact hy

theorem reqs_countEnc (s : State) (e : Bool) : (countEnc s e).reqs = s.reqs := by
  unfold countEnc
  split
  · rfl
  · rfl

theorem EndedReq.queueWb {id : Nat} {s : State} (h : EndedReq id s) (d : Nat) (x : LbLine) :
    EndedReq id (Sys2Proof.Machine.queueWb s d x) := by
  unfold Sys2Proof.Machine.queueWb
  split
  · exact h.flushFenced _ _
  · split
    · exact h.flushFenced _ _
    · refine EndedReq.admitWrites ?_ _
      intro y hy
      exact h y (by rwa [← reqs_countEnc s x.enc])

section Written

variable {c line id : Nat} {x : Line} {s : State} (h : Written c line x id s)
include h

theorem Written.cleanLine (d : Nat) (l : LbLine) : Written c line x id (Sys2Proof.Machine.cleanLine s d l) := by
  obtain ⟨⟨y, hy, hline, hdata⟩, hend⟩ := h
  refine ⟨?_, hend.queueWb d l⟩
  have hy' : y ∈ ((queueWb s d l).chan c).lb := by rwa [queueWb_lb]
  by_cases e : c = d
  · subst e
    refine ⟨if y.dpaLine = l.dpaLine then { y with dirty := false } else y, ?_, ?_⟩
    · rw [Sys2Proof.Machine.cleanLine, modChan_def, chan_setChan]
      exact List.mem_map.mpr ⟨y, hy', rfl⟩
    · split
      · exact ⟨hline, hdata⟩
      · exact ⟨hline, hdata⟩
  · refine ⟨y, ?_, hline, hdata⟩
    rw [Sys2Proof.Machine.cleanLine, modChan_def, chan_setChan_ne _ _ _ _ e]
    exact hy'

theorem Written.refillWbAux (d n : Nat) : Written c line x id (Sys2Proof.Machine.refillWbAux d n s) := by
  induction n generalizing s with
  | zero => exact h
  | succ n ih =>
    unfold Sys2Proof.Machine.refillWbAux
    split
    · split
      · exact ih (h.cleanLine d _)
      · exact h
    · exact h

theorem Written.awaitWrite (r : Req) (d : Nat) : Written c line x id (Sys2Proof.Machine.awaitWrite s r d) :=
  foldS_induction (P := Written c line x id) (g := fun s y => Sys2Proof.Machine.awaitLine s r.flow r.id d y)
    (fun _ _ k => ⟨k.1, k.2.awaitLine _ _ _ _⟩) _ h

end Written

theorem buffered_lbPut (s : State) (c : Nat) (l : LbLine) : Buffered c l.dpaLine l.data (lbPut s c l) := by
  refine ⟨l, ?_, rfl, rfl⟩
  unfold lbPut
  dsimp only
  rw [modChan_def, chan_setChan]
  exact List.mem_append_right _ (List.mem_singleton.mpr rfl)

/-- The line of a one-line write put into the buffer, and the write ended. -/
def lineWritten (s : State) (r : Req) (c : Nat) (x : Line) : State :=
  endReq (lbPut (dropMismatch s c r 0) c (dirtyLine s r 0 x)) r.id .ok

theorem writeLines_eq_one {s : State} {r : Req} {c : Nat} {loc : Loc} {data : Nat → Line} (ho : r.op.lines = 1)
    (hp : r.poison = 0) (hb : bypass s c = false) :
    writeLines s r c loc data = refillWb (awaitWrite (lineWritten (countHit s c r) r c (data 0)) r c) c := by
  have hpo : r.poison.getLsbD 0 = false := by
    rw [hp]
    rfl
  unfold writeLines
  dsimp only
  rw [hb, if_neg Bool.false_ne_true, ho, List.range_one, foldS, List.foldl_cons, List.foldl_nil, hpo,
    if_neg Bool.false_ne_true]
  rfl

theorem buffered_lineWritten (s : State) (r : Req) (c : Nat) (x : Line) : Buffered c (r.dpa / 64) x (lineWritten s r c x) :=
  buffered_lbPut _ c (dirtyLine s r 0 x)

/-- A write of one line enters the buffer and ends. -/
theorem writeLines_one {s : State} {r : Req} {c : Nat} {loc : Loc} {data : Nat → Line} (ho : r.op.lines = 1)
    (hp : r.poison = 0) (hb : bypass s c = false) :
    Written c (r.dpa / 64) (data 0) r.id (writeLines s r c loc data) := by
  rw [writeLines_eq_one ho hp hb, refillWb]
  have h : Written c (r.dpa / 64) (data 0) r.id (lineWritten (countHit s c r) r c (data 0)) :=
    ⟨buffered_lineWritten _ r c _, endedReq_endReq _ _ _⟩
  exact (h.awaitWrite r c).refillWbAux c 48

/-- Settles O26. -/
theorem dispatchServes : Obligations.DispatchServes := by
  refine ⟨fun s r hp hm hr he hrd hi => ?_, fun s r x loc hp hm hr he ho hi hl hu hb hf hx => ?_,
    fun s r loc hp hm hr he ho hi hl hu hb hf hc hbusy => ?_, fun s r loc hp hm hr he ho hpo hi hl hu hb => ?_,
    fun s r loc hp hm hr he hw hne hi hl hu => ?_, fun s hp hr hm => exec_requestDispatch_none hp hm hr⟩
  · have k := keeps_dispatchCounted s r
    have hexec := exec_requestDispatch hp hm hr
    rw [serveReq_unwritten he hrd (by rw [k.inked_eq (by decide), hi])] at hexec
    have ku : Keeps [.ecc, .tel] (dispatchCounted s r) (unwrittenCounted (dispatchCounted s r) r) :=
      Keeps.perf _ _ _ (Keeps.setEccOf (Keeps.refl _ _) (by decide)) (by decide)
    refine ⟨_, hexec, ?_, ?_, (Keeps.modReq ((k.mono (by decide)).trans (ku.mono (by decide))) (by decide)).fin⟩
    · rw [fin_reqs, modReq, ku .reqs (by decide), k .reqs (by decide)]
    · exact (congrArg FlowRt.dispatched (ku.flowR_eq (by decide) r.flow)).trans (dispatchCounted_dispatched s r)
  · have k := keeps_dispatchCounted s r
    have hexec := exec_requestDispatch hp hm hr
    have hrd : r.op.isRead = true := by rw [ho]; rfl
    have hln : r.op.lines = 1 := by rw [ho]; rfl
    rw [serveReq_read he hrd (by rw [k.inked_eq (by decide), hi]) (by rw [k.locate_eq (by decide), hl])
      (by rw [k.unreachable_eq (by decide), hu]), k.homeChan_eq (by decide),
      dispatchRead_hit hln he hx (by rw [k.bypass_eq (by decide), hb]) (by rw [k.lbFind_eq (by decide), hf])] at hexec
    have ku := keeps_hitCounted (dispatchCounted s r) (homeChan s (r.dpa / 64))
    refine ⟨_, hexec, ?_, ?_, ?_⟩
    · rw [fin_reqs, lineDone_ok_reqs]
      have e : (lbTouch (hitCounted (dispatchCounted s r) (homeChan s (r.dpa / 64))) (homeChan s (r.dpa / 64)) x.dpaLine).reqs =
          s.reqs := (ku .reqs (by decide)).trans (k .reqs (by decide))
      rw [e]
      rfl
    · rw [fin_chan, lineDone, chan_modReq, lbTouch, modChan_def, chan_setChan, hitCounted_chan, k.chan_eq (by decide)]
    · exact (Keeps.lineDone (Keeps.lbTouch ((k.mono (by decide)).trans (ku.mono (by decide))) (by decide)) (by decide)).fin
  · have k := keeps_dispatchCounted s r
    have hexec := exec_requestDispatch hp hm hr
    have hrd : r.op.isRead = true := by rw [ho]; rfl
    have hln : r.op.lines = 1 := by rw [ho]; rfl
    rw [serveReq_read he hrd (by rw [k.inked_eq (by decide), hi]) (by rw [k.locate_eq (by decide), hl])
      (by rw [k.unreachable_eq (by decide), hu]), dispatchRead_miss hln
      (by rw [k.homeChan_eq (by decide), k.bypass_eq (by decide), hb]) rfl
      (by rw [k.homeChan_eq (by decide), k.lbFind_eq (by decide), hf])] at hexec
    have hbusy' : (dispatchCounted s r).rst.chanBusy.contains loc.ch = false := by
      rw [k .rst (by decide), hbusy]
    have hq := pushRead_chan (s := dispatchCounted s r) (e := readEntry (dispatchCounted s r) r loc)
      (by rw [k.canRead_eq (by decide)]; exact hc) hbusy'
    have kp : Keeps [.chans] (dispatchCounted s r) (pushRead (dispatchCounted s r) (readEntry (dispatchCounted s r) r loc)) :=
      (Keeps.refl _ _).pushRead (by decide)
    have hnow : nowPs (dispatchCounted s r) = nowPs s := by
      rw [nowPs, k .clock (by decide), k .elapsed (by decide), nowPs]
    refine ⟨_, entered (dispatchCounted s r) (readEntry (dispatchCounted s r) r loc), hexec, ?_, rfl, rfl, rfl, rfl, rfl, rfl,
      hnow, ?_, (Keeps.modReq ((k.mono (by decide)).trans (kp.mono (by decide))) (by decide)).fin⟩
    · rw [fin_chan, chan_modReq, ← k.chan_eq (by decide)]
      exact congrArg Chan.rdq hq
    · rw [fin_reqs, modReq, kp .reqs (by decide), k .reqs (by decide)]
  · have k := keeps_dispatchCounted s r
    have hexec := exec_requestDispatch hp hm hr
    have hln : r.op.lines = 1 := by rw [ho]; rfl
    rw [serveReq_write he ho (by rw [k.inked_eq (by decide), hi]) (by rw [k.locate_eq (by decide), hl])
      (by rw [k.unreachable_eq (by decide), hu]), k.homeChan_eq (by decide)] at hexec
    obtain ⟨hbuf, hend⟩ := writeLines_one (s := dispatchCounted s r) (c := homeChan s (r.dpa / 64)) (loc := loc)
      (data := reqData r) hln hpo (by rw [k.bypass_eq (by decide), hb])
    exact ⟨_, hexec, hbuf, hend, (Keeps.writeLines (k.mono (by decide)) (by decide)).fin⟩
  · have k := keeps_dispatchCounted s r
    have hexec := exec_requestDispatch hp hm hr
    rw [serveReq_fill he hw hne (by rw [k.inked_eq (by decide), hi]) (by rw [k.locate_eq (by decide), hl])
      (by rw [k.unreachable_eq (by decide), hu])] at hexec
    refine ⟨_, hexec, ?_, (Keeps.modReq (Keeps.setFilling (k.mono (by decide)) (by decide)) (by decide)).fin⟩
    exact congrArg (· ++ [(r.dpa / 4096, r.id)]) (k .filling (by decide))

end Sys2Proof.Proofs

/-! The end of a first-touch fill and the write-back of an idle line (R161, R172, R175, R231). -/

namespace Sys2Proof.Proofs

open Sys2Proof.Machine
open Sys2Proof.Safety

/-! ### A write that finds room -/

/-- The channel of a write entry with the entry waiting for its place. -/
def writeWaits (s : State) (e : Entry) : State :=
  s.modChan e.loc.ch (fun c => { c with wrWait := c.wrWait ++ [{ e with id := c.nextEntry }], nextEntry := c.nextEntry + 1 })

/-- No request waits for the entries of a queue. -/
def Unasked (q : List Entry) : Prop := ∀ x ∈ q, x.req = none

theorem Unasked.map_none {q : List Entry} (h : Unasked q) : q.map (fun e => { e with req := none }) = q := by
  refine (List.map_congr_left fun x hx => ?_).trans (List.map_id q)
  show ({ x with req := none } : Entry) = x
  rw [← h x hx]

theorem Unasked.filterMap {q : List Entry} (h : Unasked q) : q.filterMap (·.req) = [] :=
  List.filterMap_eq_nil_iff.mpr h

/-- The channel with the entry in its write queue. -/
def writeQueued (s : State) (e : Entry) : State :=
  s.setChan e.loc.ch { s.chan e.loc.ch with
    wrq := (s.chan e.loc.ch).wrq ++ [entered s e], wrWait := [], nextEntry := (s.chan e.loc.ch).nextEntry + 1 }

theorem writeQueued_wrq (s : State) (e : Entry) :
    ((writeQueued s e).chan e.loc.ch).wrq = (s.chan e.loc.ch).wrq ++ [entered s e] := by
  rw [writeQueued, chan_setChan]

theorem writeQueued_lb (s : State) (e : Entry) : ((writeQueued s e).chan e.loc.ch).lb = (s.chan e.loc.ch).lb := by
  rw [writeQueued, chan_setChan]

theorem pushWrite_chan {s : State} {e : Entry} (hw : canWrite s e.loc.ch e.fixed = true)
    (hb : s.rst.chanBusy.contains e.loc.ch = false) (he : e.req = none) (hq : Unasked (s.chan e.loc.ch).wrq) :
    (pushWrite s e).chan e.loc.ch = (writeQueued s e).chan e.loc.ch ∧ Keeps [.chans] s (pushWrite s e) := by
  rw [canWrite, Bool.and_eq_true, decide_eq_true_eq] at hw
  obtain ⟨hwait, hroom⟩ := hw
  have hn : ¬ (s.rst.chanBusy.contains e.loc.ch) = true := (Bool.not_eq_true _).mpr hb
  have hroom' : roomFor (s.chan e.loc.ch).wrq 6 42 ({ e with id := (s.chan e.loc.ch).nextEntry } : Entry).fixed = true := hroom
  have hall : Unasked ((s.chan e.loc.ch).wrq ++ [entered s e]) := by
    intro x hx
    obtain hx | hx := List.mem_append.mp hx
    · exact hq x hx
    · rw [List.mem_singleton.mp hx]
      exact he
  have hc : (writeWaits s e).chan e.loc.ch = { s.chan e.loc.ch with
      wrWait := [{ e with id := (s.chan e.loc.ch).nextEntry }], nextEntry := (s.chan e.loc.ch).nextEntry + 1 } := by
    rw [writeWaits, modChan_def, chan_setChan, hwait, List.nil_append]
  have hadm : admitAux 6 42 (nowPs (writeWaits s e)) ((writeWaits s e).chan e.loc.ch).wrWait
      ((writeWaits s e).chan e.loc.ch).wrq [] = ((s.chan e.loc.ch).wrq ++ [entered s e], []) := by
    rw [hc]
    exact admitAux_one hroom'
  have h : pushWrite s e = (writeWaits s e).setChan e.loc.ch { (writeWaits s e).chan e.loc.ch with
      wrq := (s.chan e.loc.ch).wrq ++ [entered s e], wrWait := [] } := by
    refine (if_neg hn).trans ?_
    dsimp only
    rw [← writeWaits, hadm, hall.filterMap, hall.map_none]
    rfl
  rw [h]
  refine ⟨?_, Keeps.setChan (Keeps.setChan (Keeps.refl _ s) (by decide)) (by decide)⟩
  rw [chan_setChan, hc, writeQueued, chan_setChan]

/-! ### The write-back of an idle line -/

/-- The write-back of a plain line counted. -/
def wbCounted (s : State) (c : Nat) : State := perf s 0x206 c 1

/-- The entry of a plain line's write-back. -/
def wbEntry (s : State) (loc : Loc) (x : LbLine) : Entry :=
  { mkEntry s .writeBack false loc [loc.col] x.dpaLine with words := [(loc.col, encodeLine x.data)] }

theorem queueWb_plain {s : State} {c : Nat} {x : LbLine} {loc : Loc} (he : x.enc = false)
    (hl : locate s (x.dpaLine * 64) = some loc) (hu : unreachable s loc = false) :
    queueWb s c x = pushWrite (wbCounted s c) (wbEntry s loc x) := by
  have hc : countEnc s x.enc = s := by
    unfold countEnc
    rw [he]
    rfl
  have hs : storedForm s x.enc x.slot x.gen x.dpaLine x.data = x.data := by
    unfold storedForm
    rw [he]
    rfl
  unfold queueWb
  simp only [hl, hu, hc, hs, Bool.false_eq_true, if_false]
  rfl

theorem lbFind_line {s : State} {c line : Nat} {x : LbLine} (h : lbFind s c line = some x) : x.dpaLine = line :=
  of_decide_eq_true (p := x.dpaLine = line) (List.find?_some (p := fun y : LbLine => decide (y.dpaLine = line)) h)

theorem exec_lineIdleWriteback {s : State} {c line now : Nat} {x : LbLine} (hp : s.pins.pwrgood = true)
    (hf : lbFind s c line = some x) (hd : x.dirty = true) (hw : x.written + 100 ≤ s.elapsed)
    (hc : canWrite s c false = true) (hh : s.pwr.hold = false) (hfat : s.flt.fatal = false) :
    exec (.lineIdleWriteback ⟨c, now⟩ line) s = .next (fin s (cleanLine (atPs s now) c x)) := by
  have k := keeps_atPs s now
  have hf' : lbFind (atPs s now) c line = some x := by rw [k.lbFind_eq (by decide), hf]
  have hg : (x.dirty && decide (x.written + 100 ≤ (atPs s now).elapsed) && canWrite (atPs s now) c false &&
      !(atPs s now).pwr.hold && !stackDown (atPs s now)) = true := by
    rw [k .elapsed (by decide), k .pwr (by decide), k.canWrite_eq (by decide), stackDown, k .flt (by decide), hd, hc, hh, hfat,
      decide_eq_true hw]
    rfl
  refine answer_next hp ?_
  dsimp only
  rw [hf']
  exact if_pos hg

/-! ### The end of a first-touch fill -/

/-- The page's zero lines written and its triggering write performed. -/
def fillWritten (s : State) (page id : Nat) : State :=
  let t := foldS ((List.range 16).map (fun j => page * 64 + 4 * j)) zeroLines s
  match findReq t id with
  | some r => triggerWrite t r
  | none => t

/-- The parts that a fill's writes touch. -/
def fillParts : List Part := [.ecc, .chans, .reqs, .flowRt, .tel, .cip]

theorem keeps_fillWritten (s : State) (page id : Nat) : Keeps fillParts s (fillWritten s page id) := by
  have k : Keeps fillParts s (foldS ((List.range 16).map (fun j => page * 64 + 4 * j)) zeroLines s) :=
    Keeps.foldS (fun _ _ k => k.zeroLines (by decide) (by decide)) _ (Keeps.refl _ s)
  unfold fillWritten
  dsimp only
  split
  · exact k.triggerWrite (by decide) (by decide)
  · exact k

/-- The fill of a page over: its page inked, its requests released. -/
def touchEnded (s : State) (page : Nat) : State :=
  { s with filling := s.filling.filter (fun e => e.1 ≠ page), ink := tset s.inkAll s.ink page true }

theorem keeps_touchEnded (s : State) (page : Nat) : Keeps [.ink, .filling] s (touchEnded s page) :=
  (Keeps.refl _ s).setInk (by decide) (by decide)

theorem exec_firstTouchFillDone {s : State} {page id : Nat} (hp : s.pins.pwrgood = true)
    (h : s.filling.find? (fun e => e.1 = page) = some (page, id)) :
    exec (.firstTouchFillDone page) s = .next (fin s (touchEnded (fillWritten s page id) page)) := by
  refine answer_next hp ?_
  rw [h]
  rfl

theorem filling_found {s : State} {page : Nat} (h : ∃ e ∈ s.filling, e.1 = page) :
    ∃ id, s.filling.find? (fun e => e.1 = page) = some (page, id) := by
  obtain ⟨e, he, hpage⟩ := h
  cases hf : s.filling.find? (fun e => e.1 = page) with
  | none => exact absurd (decide_eq_true hpage) (List.find?_eq_none.mp hf e he)
  | some x =>
    have hx : x.1 = page := of_decide_eq_true (p := x.1 = page) (List.find?_some (p := fun e : Nat × Nat => decide (e.1 = page)) hf)
    exact ⟨x.2, by rw [← hx]⟩

theorem inked_touchEnded_self (s : State) (page : Nat) : inked (touchEnded s page) page = true := by
  have e : tget (touchEnded s page).inkAll (touchEnded s page).ink page = true := tget_tset_self _ _ _ _
  rw [inked, e, Bool.or_true]

theorem inked_touchEnded_ne (s : State) {page p : Nat} (h : p ≠ page) : inked (touchEnded s page) p = inked s p := by
  have e : tget (touchEnded s page).inkAll (touchEnded s page).ink p = tget s.inkAll s.ink p := tget_tset_ne _ _ _ _ _ h
  rw [inked, e]
  rfl

/-- Settles O27. -/
theorem inkAndIdleLines : Obligations.InkAndIdleLines := by
  refine ⟨fun s page hp hf => ?_, fun s c line now x loc hp hf hd he hw hc hh hfat hl hu hch hb hq => ?_⟩
  · obtain ⟨id, hid⟩ := filling_found hf
    have k := keeps_fillWritten s page id
    refine ⟨_, exec_firstTouchFillDone hp hid, (inked_touchEnded_self (fillWritten s page id) page :), fun p hne => ?_, ?_, ?_⟩
    · exact (inked_touchEnded_ne _ hne).trans (k.inked_eq (by decide) p)
    · exact congrArg (List.filter (fun e => decide (e.1 ≠ page))) (k .filling (by decide))
    · exact ((k.mono (by decide)).trans ((keeps_touchEnded _ page).mono (by decide))).fin
  · subst hch
    have hexec := exec_lineIdleWriteback (now := now) hp hf hd hw hc hh hfat
    have hline := lbFind_line hf
    have k : Keeps [.clock, .tel] s (wbCounted (atPs s now) loc.ch) :=
      Keeps.perf _ _ _ ((keeps_atPs s now).mono (by decide)) (by decide)
    have ka := keeps_atPs s now
    have hwb := queueWb_plain (s := atPs s now) (c := loc.ch) he
      (by rw [hline, ka.locate_eq (by decide), hl]) (by rw [ka.unreachable_eq (by decide), hu])
    have hentry : (wbEntry (atPs s now) loc x).fixed = false := rfl
    generalize wbCounted (atPs s now) loc.ch = u at k hwb
    have hcu : u.chan loc.ch = s.chan loc.ch := k.chan_eq (by decide) loc.ch
    obtain ⟨hchan, kp⟩ := pushWrite_chan (s := u) (e := wbEntry (atPs s now) loc x)
      (show canWrite u loc.ch false = true by rw [k.canWrite_eq (by decide), hc])
      (show u.rst.chanBusy.contains loc.ch = false by rw [k .rst (by decide), hb]) rfl
      (show Unasked (u.chan loc.ch).wrq by rw [hcu]; exact hq)
    have hclean : (cleanLine (atPs s now) loc.ch x).chan loc.ch = { (writeQueued u (wbEntry (atPs s now) loc x)).chan loc.ch with
        lb := (s.chan loc.ch).lb.map (fun y => if y.dpaLine = line then { y with dirty := false } else y) } := by
      have hlb : ((writeQueued u (wbEntry (atPs s now) loc x)).chan loc.ch).lb = (s.chan loc.ch).lb := by
        rw [← hcu]
        exact writeQueued_lb u _
      rw [cleanLine, hwb, modChan_def, chan_setChan, ← hline, ← hlb]
      exact congrArg (fun ch : Chan => { ch with
        lb := ch.lb.map (fun y : LbLine => if y.dpaLine = x.dpaLine then { y with dirty := false } else y) }) hchan
    have hwrq : ((writeQueued u (wbEntry (atPs s now) loc x)).chan loc.ch).wrq =
        (s.chan loc.ch).wrq ++ [entered u (wbEntry (atPs s now) loc x)] := by
      rw [← hcu]
      exact writeQueued_wrq u _
    refine ⟨_, entered u (wbEntry (atPs s now) loc x), hexec, ?_, rfl, rfl, hline, rfl, ?_, ?_⟩
    · rw [fin_chan, hclean]
      exact hwrq
    · rw [fin_chan, hclean]
    · rw [cleanLine, hwb]
      exact (Keeps.setChan ((k.mono (by decide)).trans (kp.mono (by decide))) (by decide)).fin

end Sys2Proof.Proofs

/-! What fences, lost channels and parking tiers leave of a channel's state and of its sparing state (R80–R83, R257–R260,
R343). -/

namespace Sys2Proof.Proofs

open Sys2Proof.Machine

/-- Channel d without the work of a migration. -/
def dropMigWork (s : State) (d : Nat) : State :=
  s.modChan d (fun ch => { ch.keepEntries (fun e => e.kind ≠ .migRead && e.kind ≠ .migWrite) with
    inflight := ch.inflight.filter (fun x => x.1.kind ≠ .migRead && x.1.kind ≠ .migWrite) })

theorem stopMig_eq (s : State) : stopMig s = { foldS (List.range 32) dropMigWork s with
    mig := { (foldS (List.range 32) dropMigWork s).mig with
      st := .idle, pointer := 0, readPos := 0, writePos := 0, staged := [] } } := rfl

end Sys2Proof.Proofs

namespace Sys2Proof.Safety

open Sys2Proof.Machine

/-- The channel's sparing state and its controller's state are what they were. -/
structure StKept (c : Nat) (s t : State) : Prop where
  spr : t.sprOf c = s.sprOf c
  st : (t.chan c).st = (s.chan c).st

theorem StKept.refl (c : Nat) (s : State) : StKept c s s := ⟨rfl, rfl⟩

theorem StKept.ite {c : Nat} {s t u : State} {p : Prop} [Decidable p] (h : StKept c s t) (k : StKept c s u) :
    StKept c s (if p then t else u) := by
  split
  · exact h
  · exact k

theorem StKept.foldl {α : Type} {c : Nat} {s : State} {g : State → α → State} (hg : ∀ u x, StKept c s u → StKept c s (g u x))
    (xs : List α) : ∀ {t : State}, StKept c s t → StKept c s (xs.foldl g t) := by
  induction xs with
  | nil => exact fun h => h
  | cons x xs ih => exact fun h => ih (hg _ x h)

theorem StKept.foldS {c : Nat} {s : State} {g : State → Nat → State} (hg : ∀ u i, StKept c s u → StKept c s (g u i))
    (xs : List Nat) {t : State} (h : StKept c s t) : StKept c s (Sys2Proof.Machine.foldS xs g t) := StKept.foldl hg xs h

section Kept

variable {c : Nat} {s t : State} (h : StKept c s t)
include h

theorem StKept.trans {u : State} (k : StKept c t u) : StKept c s u := ⟨k.spr.trans h.spr, k.st.trans h.st⟩

theorem StKept.keeps {l : List Part} {u : State} (k : Keeps l t u) (hs : Part.spr ∉ l) (hc : Part.chans ∉ l) : StKept c s u :=
  ⟨(k.sprOf_eq hs c).trans h.spr, (congrArg Chan.st (k.chan_eq hc c)).trans h.st⟩

theorem StKept.setChan {d : Nat} {v : Chan} (hv : v.st = (t.chan d).st) : StKept c s (t.setChan d v) := by
  refine ⟨h.spr, ?_⟩
  by_cases e : c = d
  · subst e
    rw [chan_setChan, hv, h.st]
  · rw [chan_setChan_ne _ _ _ _ e, h.st]

theorem StKept.modChan {d : Nat} {g : Chan → Chan} (hg : ∀ ch, (g ch).st = ch.st) : StKept c s (t.modChan d g) :=
  h.setChan (hg _)

theorem StKept.endReq {id : Nat} {v : Status} : StKept c s (Sys2Proof.Machine.endReq t id v) := ⟨h.spr, h.st⟩

theorem StKept.failReq {id : Nat} {v : Status} : StKept c s (Sys2Proof.Machine.failReq t id v) :=
  h.keeps ((Keeps.refl [.reqs, .flowRt] t).failReq (by decide) (by decide)) (by decide) (by decide)

theorem StKept.flushFenced {d line : Nat} : StKept c s (Sys2Proof.Machine.flushFenced t d line) := ⟨h.spr, h.st⟩

/-! ### Queues judged again -/

theorem StKept.admitReads {d : Nat} : StKept c s (Sys2Proof.Machine.admitReads t d) := StKept.ite h (h.setChan rfl)

theorem StKept.admitWrites {d : Nat} : StKept c s (Sys2Proof.Machine.admitWrites t d) :=
  StKept.ite h (StKept.foldS (fun _ _ k => k.endReq) _ (h.setChan rfl))

theorem StKept.pushRead {e : Entry} : StKept c s (Sys2Proof.Machine.pushRead t e) := by
  refine StKept.admitReads (StKept.setChan h ?_)
  rfl

theorem StKept.pushWrite {e : Entry} : StKept c s (Sys2Proof.Machine.pushWrite t e) := by
  refine StKept.admitWrites (StKept.setChan h ?_)
  rfl

theorem StKept.rerouteOne {wr : Bool} {e : Entry} : StKept c s (Sys2Proof.Machine.rerouteOne wr t e) := by
  have back : ∀ x : Entry, StKept c s (t.modChan x.loc.ch (fun ch =>
      if wr then { ch with wrWait := ch.wrWait ++ [x] } else { ch with rdWait := ch.rdWait ++ [x] })) := by
    refine fun x => h.modChan fun ch => ?_
    cases wr
    · rfl
    · rfl
  unfold Sys2Proof.Machine.rerouteOne
  dsimp only
  split
  · exact StKept.ite h (back e)
  split
  · split
    · exact h.failReq
    · exact StKept.ite (StKept.foldS (fun _ _ k => k.flushFenced) _ h) h
  · refine StKept.ite ?_ (StKept.ite (back _) (StKept.ite h.pushWrite h.pushRead))
    split
    · exact h.failReq
    · exact StKept.ite (StKept.foldS (fun _ _ k => k.flushFenced) _ h) h

theorem StKept.keepPlaces {d : Nat} {rd wr : List Nat} : StKept c s (Sys2Proof.Machine.keepPlaces t d rd wr) :=
  h.setChan rfl

/-- The entries of channel d judged again, before they take their places. -/
theorem StKept.rerouted {d : Nat} {rds wrs : List Entry} : StKept c s (wrs.foldl (Sys2Proof.Machine.rerouteOne true)
    (rds.foldl (Sys2Proof.Machine.rerouteOne false)
      (t.setChan d { t.chan d with rdq := [], wrq := [], rdWait := [], wrWait := [] }))) :=
  StKept.foldl (fun _ _ k => k.rerouteOne) wrs (StKept.foldl (fun _ _ k => k.rerouteOne) rds (h.setChan rfl))

theorem StKept.reroute {d : Nat} : StKept c s (Sys2Proof.Machine.reroute t d) := by
  unfold Sys2Proof.Machine.reroute
  dsimp only
  exact StKept.admitWrites (StKept.admitReads (StKept.keepPlaces h.rerouted))

theorem StKept.rerouteAll : StKept c s (Sys2Proof.Machine.rerouteAll t) := StKept.foldS (fun _ _ k => k.reroute) _ h

/-! ### Fences -/

theorem StKept.closeBanks {sel : Nat → Bool} {d : Nat} : StKept c s (Sys2Proof.Machine.closeBanks sel t d) :=
  h.setChan rfl

theorem StKept.setSr {d k : Nat} {v : Bool} : StKept c s (Sys2Proof.Machine.setSr t d k v) := by
  unfold Sys2Proof.Machine.setSr
  dsimp only
  refine StKept.ite ?_ (StKept.ite ?_ h)
  · have k := h.closeBanks (sel := fun key => key / 32 = k) (d := d)
    exact ⟨k.spr, k.st⟩
  · have k := h.modChan (d := d) (g := fun ch => { ch with wakeAt := tput ch.wakeAt k (nowPs t + tXS) }) fun _ => rfl
    exact ⟨k.spr, k.st⟩

theorem StKept.settleSpareSr {d : Nat} : StKept c s (Sys2Proof.Machine.settleSpareSr t d) := StKept.ite h.setSr h

theorem StKept.setRank {d k : Nat} {v : RankSp} : StKept c s (Sys2Proof.Machine.setRank t d k v) :=
  h.keeps ((Keeps.refl [.ranks, .log] t).setRank (by decide) (by decide)) (by decide) (by decide)

theorem StKept.raise {a b : Nat} {w : Word} : StKept c s (Sys2Proof.Machine.raise t a b w) := ⟨h.spr, h.st⟩

theorem StKept.setMig {v : Mig} : StKept c s { t with mig := v } := ⟨h.spr, h.st⟩

theorem StKept.setFlt {v : Flt} : StKept c s { t with flt := v } := ⟨h.spr, h.st⟩

theorem StKept.budgetDue : StKept c s (Sys2Proof.Machine.budgetDue t) := ⟨h.spr, h.st⟩

theorem StKept.dropMigWork {d : Nat} : StKept c s (Proofs.dropMigWork t d) := h.setChan rfl

theorem StKept.stopMig : StKept c s (Sys2Proof.Machine.stopMig t) := by
  have k : StKept c s (Sys2Proof.Machine.foldS (List.range 32) Proofs.dropMigWork t) :=
    StKept.foldS (fun _ _ k => k.dropMigWork) _ h
  rw [Proofs.stopMig_eq]
  generalize Sys2Proof.Machine.foldS (List.range 32) Proofs.dropMigWork t = u at k ⊢
  exact k.setMig

theorem StKept.clearOwed {d k : Nat} : StKept c s (Sys2Proof.Machine.clearOwed t d k) :=
  h.keeps (Keeps.catchupExit ((Keeps.refl [.rfr, .tiers] t).setRfrOf (by decide)) (by decide)) (by decide) (by decide)

theorem StKept.resetRankInsts {d k : Nat} : StKept c s (Sys2Proof.Machine.resetRankInsts t d k) :=
  StKept.foldS (fun _ _ k => k.setFlt) _ h

theorem StKept.postHoled {old : State} : StKept c s (Sys2Proof.Machine.postHoled old t) := by
  refine StKept.foldl (fun u e k => StKept.ite k (StKept.foldS (fun u f k => ?_) _ k)) _ h
  exact k.keeps ((Keeps.refl [.flowRt, .queues, .flt] u).postFlow (by decide) (by decide) (by decide)) (by decide) (by decide)

theorem StKept.fenceRank0 {d k : Nat} {why : BitVec 3} : StKept c s (Sys2Proof.Machine.fenceRank0 t d k why) := by
  refine StKept.ite h (StKept.budgetDue (StKept.rerouteAll (StKept.postHoled (StKept.resetRankInsts (StKept.clearOwed
    (StKept.settleSpareSr (StKept.ite (StKept.stopMig ?_) ?_)))))))
  · exact StKept.setMig h.setRank
  · exact StKept.setMig h.setRank

theorem StKept.targetFail : StKept c s (Sys2Proof.Machine.targetFail t) :=
  StKept.ite h (StKept.ite h.raise.fenceRank0 (StKept.ite h.raise.fenceRank0.setRank.settleSpareSr h.raise.fenceRank0))

/-! ### Tiers that park -/

theorem StKept.setDom {d : Nat} {v : Dom} : StKept c s (t.setDom d v) := ⟨h.spr, h.st⟩

theorem StKept.setTier {i : Nat} {v : Tier} : StKept c s (t.setTier i v) := ⟨h.spr, h.st⟩

theorem StKept.passedOver {d k : Nat} : StKept c s (notePassed (Sys2Proof.Machine.clearOwed t d k) d) :=
  h.clearOwed.keeps ((Keeps.refl [.ecc] _).notePassed (by decide)) (by decide) (by decide)

theorem StKept.tierLeavesOn {i : Nat} : StKept c s (Sys2Proof.Machine.tierLeavesOn t i) := by
  have k : StKept c s (Sys2Proof.Machine.foldS (chansOfTier i)
      (fun s d => notePassed (Sys2Proof.Machine.clearOwed s d (rankOfTier i)) d) t) :=
    StKept.foldS (fun _ _ k => k.passedOver) _ h
  unfold Sys2Proof.Machine.tierLeavesOn
  dsimp only
  exact StKept.ite k.targetFail k

theorem StKept.tierParkCheck {i : Nat} : StKept c s (Sys2Proof.Machine.tierParkCheck t i) :=
  StKept.ite (StKept.rerouteAll (StKept.tierLeavesOn (StKept.setDom (StKept.setFlt h.setTier)))) h

theorem StKept.tierParkChecks : StKept c s (Sys2Proof.Machine.tierParkChecks t) :=
  StKept.foldS (fun _ _ k => k.tierParkCheck) _ h

end Kept

end Sys2Proof.Safety

namespace Sys2Proof.Proofs

open Sys2Proof.Machine
open Sys2Proof.Safety

/-! ### A lost channel -/

/-- The channel LOST and its controller's work stopped. -/
def lostBegun (s : State) (c : Nat) : State := stopChanWork (s.modSprOf c (fun x => { x with st := .lost })) c

theorem stopChanWork_spr (s : State) (c d : Nat) : (stopChanWork s c).sprOf d = s.sprOf d :=
  (Keeps.stopChanWork (l := rescueParts) (Keeps.refl _ s) (by decide)).sprOf_eq (by decide) d

theorem lostBegun_spr (s : State) (c : Nat) : ((lostBegun s c).sprOf c).st = .lost := by
  rw [lostBegun, stopChanWork_spr, modSprOf_def, sprOf_setSprOf]

/-- The ranks of a lost channel that hold data fenced, and a migration into the channel failed where `hit` says so. -/
def lostRanks (s : State) (c : Nat) (hit : Bool) : State :=
  let t := foldS (ranksOf s.variant) (fun s k => if holdsData (s.rank c k) then fenceRank0 s c k 3 else s) s
  if hit then targetFail t else t

theorem stKept_lostRanks (s : State) (c : Nat) (hit : Bool) : StKept c s (lostRanks s c hit) := by
  have k := StKept.foldS (g := fun s k => if holdsData (s.rank c k) then fenceRank0 s c k 3 else s)
    (fun u k h => StKept.ite h.fenceRank0 h) (ranksOf s.variant) (StKept.refl c s)
  exact StKept.ite k.targetFail k

theorem channelLost_eq {s : State} {c : Nat} (h : chanFenced s c = false) : ∃ hit : Bool,
    channelLost s c = budgetDue (rerouteAll (tierParkChecks
      ((lostRanks (lostBegun s c) c hit).modChan c (fun ch => { ch with st := .fenced })))) :=
  ⟨(ranksOf (lostBegun s c).variant).any (fun k => migUses (lostBegun s c) c k) && (lostBegun s c).mig.ch ≠ c,
    if_neg (Bool.eq_false_iff.mp h)⟩

/-- A channel that is lost ends LOST, its controller fenced. -/
theorem channelLost_st {s : State} {c : Nat} (h : chanFenced s c = false) :
    ((channelLost s c).sprOf c).st = .lost ∧ ((channelLost s c).chan c).st = .fenced := by
  obtain ⟨hit, he⟩ := channelLost_eq h
  have hl := lostBegun_spr s c
  have k := stKept_lostRanks (lostBegun s c) c hit
  generalize lostRanks (lostBegun s c) c hit = u at he k
  have kc : StKept c (u.modChan c (fun ch => { ch with st := .fenced })) (channelLost s c) := by
    rw [he]
    exact (StKept.refl c _).tierParkChecks.rerouteAll.budgetDue
  rw [kc.spr, kc.st]
  refine ⟨?_, ?_⟩
  · exact (congrArg Spr.st k.spr).trans hl
  · rw [modChan_def, chan_setChan]

end Sys2Proof.Proofs

/-! Surveys: asked for, begun and ended; the rescue Survey (R258–R260, R386–R392). -/

namespace Sys2Proof.Safety

open Sys2Proof.Machine

section Survey

variable {l : List Part} {s t : State} (h : Keeps l s t)
include h

theorem Keeps.wakeRanks {c : Nat} (hr : Part.rfr ∈ l) : Keeps l s (Sys2Proof.Machine.wakeRanks t c) := h.setRfrOf hr

theorem Keeps.wakeStaging (hl : Part.doms ∈ l) : Keeps l s (Sys2Proof.Machine.wakeStaging t) :=
  Keeps.ite (h.setDom hl) (Keeps.ite (h.setDom hl) h)

theorem Keeps.makePending {c k : Nat} {cause : BitVec 3} (hr : Part.ranks ∈ l) (hl : Part.log ∈ l) (hm : Part.mig ∈ l) :
    Keeps l s (Sys2Proof.Machine.makePending t c k cause) := Keeps.setMig (h.setRank hr hl) hm

theorem Keeps.settleSpareSr {c : Nat} (hc : Part.chans ∈ l) (hr : Part.rfr ∈ l) :
    Keeps l s (Sys2Proof.Machine.settleSpareSr t c) := Keeps.ite (h.setSr hc hr) h

theorem Keeps.storeSurvey {old : State} {c : Nat} {eyes spares : List LaneEye} (ht : Part.trn ∈ l) (hl : Part.log ∈ l) :
    Keeps l s (Sys2Proof.Machine.storeSurvey old t c eyes spares) :=
  Keeps.ite ((h.setTrnOf ht).logSet _ hl) (h.setTrnOf ht)

theorem Keeps.endSurvey {c : Nat} {res : BitVec 2} (ht : Part.trn ∈ l) : Keeps l s (Sys2Proof.Machine.endSurvey t c res) :=
  h.setTrnOf ht

end Survey

end Sys2Proof.Safety

namespace Sys2Proof.Proofs

open Sys2Proof.Machine
open Sys2Proof.Safety

/-! ### A Survey asked for -/

theorem exec_surveyRequest {c : Nat} (hc : c < 32) (via : Via) (data : Word) (s : State) :
    exec (.surveyRequest via c data) s = answer s (mgmtWrite s via (.trn c) 0 data (trnCtrlWrite c data)) :=
  congrArg (answer s) (if_pos hc)

theorem trnCtrlWrite_fenced {s : State} {c : Nat} (h : chanFenced s c = true) :
    trnCtrlWrite c 0xC00000 s = (.refused, s) := by
  refine if_pos ?_
  rw [h]
  decide

/-- A Survey of channel c asked for, and to be logged. -/
def surveyAsked (t : Trn) : Trn := { t with log := true, restore := false, wanted := some 2 }

theorem trnCtrlWrite_survey {s : State} {c : Nat} (hf : chanFenced s c = false) (ha : (s.trnOf c).action = .idle)
    (hw : (s.trnOf c).wanted = none) (hl : laneBusy s c = false) :
    trnCtrlWrite c 0xC00000 s = (.ok, (s.modTrnOf c (fun t => { t with log := true, restore := false })).modTrnOf c
      (fun t => { t with wanted := some 2 })) := by
  have h23 : (0xC00000 : Word).getLsbD 23 = true := by decide
  have h22 : (0xC00000 : Word).getLsbD 22 = true := by decide
  have h21 : (0xC00000 : Word).getLsbD 21 = false := by decide
  have hb : ∀ u : State, Keeps [.trn] s u → laneBusy u c = false := fun u k => by rw [k.laneBusy_eq (by decide), hl]
  have k1 : Keeps [.trn] s (s.modTrnOf c (fun t => { t with log := true, restore := false })) :=
    (Keeps.refl _ s).setTrnOf (by decide)
  have h1 : (s.modTrnOf c (fun t => { t with log := true, restore := false })).trnOf c =
      { s.trnOf c with log := true, restore := false } := by rw [modTrnOf_def, trnOf_setTrnOf]
  unfold trnCtrlWrite
  simp only [h23, h22, h21, hf, Bool.true_and, Bool.false_eq_true, if_false]
  generalize s.modTrnOf c (fun t => { t with log := true, restore := false }) = u at k1 h1 ⊢
  have hw' : (u.trnOf c).wanted = none := by rw [h1]; exact hw
  have ha' : (u.trnOf c).action = .idle := by rw [h1]; exact ha
  have hwant : wantSurvey u c 2 = u.modTrnOf c (fun t => { t with wanted := some 2 }) := by
    simp only [wantSurvey, modTrnOf_def, hw']
  have hb' : laneBusy (u.modTrnOf c (fun t => { t with wanted := some 2 })) c = false := hb _ (k1.setTrnOf (by decide))
  simp only [ha', hb', reduceCtorEq, ne_eq, not_false_eq_true, decide_true, Bool.and_self, if_true, Bool.false_and,
    Bool.false_eq_true, if_false, hwant]

/-! ### A Survey begins -/

/-- The rows of a channel closed and the lanes that waited for a check left to the Survey. -/
def surveyReady (s : State) (c : Nat) : State := (closeRows s c).modTsvOf c (fun t => { t with waits := [] })

/-- A Survey begun. -/
def surveyBegun (s : State) (c : Nat) (why : BitVec 3) (temp : Int) : State :=
  spoilChan ((surveyReady s c).modTrnOf c (fun t => { t with
    action := if (s.rfrOf c).inSlot ≠ 0 then .suspended else .survey
    suspends := if (s.rfrOf c).inSlot ≠ 0 then sat t.suspends 1 else t.suspends
    work := 0
    since := s.elapsed
    trigger := why
    wanted := none
    startTemp := temp })) c

theorem keeps_surveyBegun (s : State) (c : Nat) (why : BitVec 3) (temp : Int) :
    Keeps [.trn, .tsv, .chans, .flowRt] s (surveyBegun s c why temp) :=
  Keeps.spoilChan (Keeps.setTrnOf (Keeps.setTsvOf ((Keeps.refl _ s).closeBanks (by decide)) (by decide)) (by decide))
    (by decide)

theorem surveyBegun_trnOf (s : State) (c : Nat) (why : BitVec 3) (temp : Int) :
    (surveyBegun s c why temp).trnOf c = { s.trnOf c with
      action := if (s.rfrOf c).inSlot = 0 then .survey else .suspended
      suspends := if (s.rfrOf c).inSlot = 0 then (s.trnOf c).suspends else sat (s.trnOf c).suspends 1
      work := 0
      since := s.elapsed
      trigger := why
      wanted := none
      startTemp := temp } := by
  have e : (surveyReady s c).trnOf c = s.trnOf c := rfl
  rw [surveyBegun, spoilChan_trnOf, modTrnOf_def, trnOf_setTrnOf, e]
  by_cases h : (s.rfrOf c).inSlot = 0
  · rw [if_neg (fun k => k h), if_neg (fun k => k h), if_pos h, if_pos h]
  · rw [if_pos h, if_pos h, if_neg h, if_neg h]

theorem surveyBegun_chan (s : State) (c : Nat) (why : BitVec 3) (temp : Int) :
    (surveyBegun s c why temp).chan c = (closeRows s c).chan c := by
  rw [surveyBegun, spoilChan_chan]
  rfl

theorem surveyBegun_waits (s : State) (c : Nat) (why : BitVec 3) (temp : Int) :
    ((surveyBegun s c why temp).tsvOf c).waits = [] := by
  rw [surveyBegun, spoilChan_tsvOf, modTrnOf_def, tsvOf_setTrnOf, surveyReady, modTsvOf_def, tsvOf_setTsvOf]

theorem trnBusy_surveyBegun (s : State) (c : Nat) (why : BitVec 3) (temp : Int) : trnBusy (surveyBegun s c why temp) c = true := by
  rw [trnBusy, surveyBegun_trnOf]
  by_cases h : (s.rfrOf c).inSlot = 0
  · rw [if_pos h, if_pos h]
    rfl
  · rw [if_neg h, if_neg h]
    rfl

theorem pausedNow_of_trnBusy {s : State} {c : Nat} (h : trnBusy s c = true) : pausedNow s c = true := by
  rw [pausedNow, h]
  simp

theorem surveyFree_not_fenced {s : State} {c : Nat} (h : surveyFree s c = true) : chanFenced s c = false := by
  unfold surveyFree at h
  simp only [Bool.and_eq_true] at h
  simpa using h.1.1.1.1.1.1.1.1.1.2

theorem exec_surveyStart {s : State} {c : Nat} {why : BitVec 3} {temp : Int} (hp : s.pins.pwrgood = true)
    (hw : (s.trnOf c).wanted = some why) (hf : surveyFree s c = true) (ht : (s.trnOf c).tCh = some temp) :
    exec (.surveyStart c) s = .next (fin s (settleChan (surveyBegun s c why temp) c)) := by
  have e : (closeRows s c).modTsvOf c (fun t => { t with waits := [] }) = surveyReady s c := rfl
  have ht' : ((surveyReady s c).trnOf c).tCh = some temp := ht
  refine answer_next hp ?_
  rw [hw]
  simp only [hf, Bool.not_true, Bool.false_eq_true, if_false, e, ht']
  rfl

/-! ### A Survey ends -/

/-- The channel at the point it went to, and awake if it was closed. -/
def channelWoken (s : State) (c : Nat) : State :=
  let t := if (s.chan c).seq = .check then s.setChan c { s.chan c with current := (s.chan c).goingTo, seq := .idle } else s
  if (s.chan c).st = .closed then (wakeRanks t c).modChan c (fun ch => { ch with st := .paused }) else t

theorem openChan_eq (s : State) (c : Nat) :
    openChan s c = budgetDue (settleChan (settlePoint (testPointed (channelWoken s c) c) c) c) := rfl

theorem keeps_channelWoken (s : State) (c : Nat) : Keeps [.chans, .rfr] s (channelWoken s c) := by
  have k : Keeps [.chans, .rfr] s (if (s.chan c).seq = .check then
      s.setChan c { s.chan c with current := (s.chan c).goingTo, seq := .idle } else s) :=
    Keeps.ite ((Keeps.refl _ s).setChan (by decide)) (Keeps.refl _ s)
  exact Keeps.ite ((k.wakeRanks (by decide)).setChan (by decide)) k

theorem keeps_testPointed (s : State) (c : Nat) : Keeps [.chans, .bst] s (testPointed s c) :=
  Keeps.ite (Keeps.ite ((Keeps.refl _ s).setBstOf (by decide)) ((Keeps.refl _ s).setChan (by decide))) (Keeps.refl _ s)

/-- With no check due or waiting, opening a channel starts none. -/
theorem keeps_openChan {s : State} {c : Nat} (hd : (s.trnOf c).checkDue = false) (hw : (s.tsvOf c).waits = []) :
    Keeps [.chans, .rfr, .bst, .flw] s (openChan s c) := by
  have k : Keeps [.chans, .rfr, .bst] s (settlePoint (testPointed (channelWoken s c) c) c) :=
    Keeps.settlePoint (((keeps_channelWoken s c).mono (by decide)).trans ((keeps_testPointed _ c).mono (by decide)))
      (by decide)
  rw [openChan_eq]
  generalize settlePoint (testPointed (channelWoken s c) c) c = u at k
  have hn := startWaiting_of_none (s := u) (c := c) (by rw [k.trnOf_eq (by decide), hd]) (by rw [k.tsvOf_eq (by decide), hw])
  rw [settleChan_of_no_wait hn]
  exact Keeps.budgetDue (Keeps.setChan (k.mono (by decide)) (by decide)) (by decide)

/-- The set of a Survey. -/
def surveySet (old s : State) (c : Nat) (eyes spares : List LaneEye) : DelaySet :=
  { source := 2
    trained := (s.trnOf c).startTemp
    lanes := ((List.range 86).filter (fun l => 72 ≤ l || !isErased s c l)).map
      (fun l => (l, eyeSet l (finalEye old s c eyes spares l))) ++ spareSets s c spares }

/-- What a Survey's set stored leaves of a channel's training state. -/
theorem storeSurvey_trnOf (old s : State) (c : Nat) (eyes spares : List LaneEye) :
    (storeSurvey old s c eyes spares).trnOf c = { s.trnOf c with
      sets := tput (s.trnOf c).sets (surveyPoint s c) (surveySet old s c eyes spares)
      valid := (s.trnOf c).valid ||| bit3 (surveyPoint s c)
      stale := false
      noSet := false
      surveys := sat (s.trnOf c).surveys 1 } := by
  unfold storeSurvey
  dsimp only
  split
  · exact trnOf_setTrnOf _ _ _
  · exact trnOf_setTrnOf _ _ _

theorem judgeLanes_good {s : State} {c : Nat} {eyes : List LaneEye} (h : badLanes s c eyes = []) (spares : List LaneEye) :
    judgeLanes s c eyes spares = (s, false) := by
  rw [judgeLanes, h, List.foldl_nil]

theorem exec_surveyDone {s : State} {c : Nat} {eyes : List LaneEye} (hp : s.pins.pwrgood = true)
    (ha : (s.trnOf c).action = .survey) (ht : (s.trnOf c).trigger ≠ 5) (hr : sweepRuns s c = true)
    (hf : chanFenced s c = false) (hb : badLanes s c eyes = []) (spares : List LaneEye) :
    exec (.surveyDone c eyes spares) s =
      .next (fin s (openChan (endSurvey (storeSurvey s s c eyes spares) c 1) c)) := by
  refine answer_next hp ?_
  simp only [ha, ht, hr, hf, hb, judgeLanes_good hb spares, decide_true, ne_eq, not_false_eq_true, Bool.not_false,
    Bool.and_self, if_true, Bool.false_eq_true, if_false]

/-! ### A rescue Survey that passes -/

theorem rank_setRankRaw_ne (s : State) (c : Nat) {k j : Nat} (v : RankSp) (h : j ≠ k) :
    (s.setRankRaw c k v).rank c j = s.rank c j := by
  have hne : rankKey c j ≠ rankKey c k := by
    unfold rankKey
    omega
  unfold State.setRankRaw State.rank
  dsimp only
  unfold tset
  split
  · exact tget_tdel_ne _ _ _ _ hne
  · exact tget_tput_ne _ _ _ _ _ hne

theorem rank_setRankRaw (s : State) (c k : Nat) (v : RankSp) : (s.setRankRaw c k v).rank c k = v := tget_tset_self _ _ _ _

theorem rank_setRank (s : State) (c k : Nat) (v : RankSp) (d j : Nat) :
    (setRank s c k v).rank d j = (s.setRankRaw c k v).rank d j := by
  unfold setRank
  dsimp only
  split
  · rfl
  · rfl

/-- Rank 0 of a channel, and the migration engine at rest. -/
structure RankZero (c : Nat) (v : RankSp) (s : State) : Prop where
  rank : s.rank c 0 = v
  idle : s.mig.st = .idle

theorem RankZero.setRank {c k : Nat} {v w : RankSp} {s : State} (h : RankZero c v s) (hk : k ≠ 0) :
    RankZero c v (Sys2Proof.Machine.setRank s c k w) := by
  refine ⟨?_, ?_⟩
  · rw [rank_setRank, rank_setRankRaw_ne _ _ _ hk.symm, h.rank]
  · exact (congrArg Mig.st ((Keeps.setRank (l := [.ranks, .log]) (Keeps.refl _ s) (by decide) (by decide)) .mig
      (by decide))).trans h.idle

theorem RankZero.keeps {c : Nat} {v : RankSp} {l : List Part} {s t : State} (h : RankZero c v s) (k : Keeps l s t)
    (hr : Part.ranks ∉ l) (hm : Part.mig ∉ l) : RankZero c v t :=
  ⟨(k.rank_eq hr c 0).trans h.rank, (congrArg Mig.st (k .mig hm)).trans h.idle⟩

theorem RankZero.makePending {c k : Nat} {v : RankSp} {cause : BitVec 3} {s : State} (h : RankZero c v s) (hk : k ≠ 0) :
    RankZero c v (Sys2Proof.Machine.makePending s c k cause) := by
  have k := h.setRank (w := { s.rank c k with st := .pending, cause := cause }) hk
  exact ⟨k.rank, k.idle⟩

theorem migUses_of_idle {s : State} (h : s.mig.st = .idle) (c k : Nat) : migUses s c k = false := by
  rw [migUses, h]
  rfl

/-- A trigger for another rank of the channel, with no migration under way. -/
theorem RankZero.retireRank {c k : Nat} {v : RankSp} {cause : BitVec 3} {s : State} (h : RankZero c v s) (hk : k ≠ 0) :
    RankZero c v (Sys2Proof.Machine.retireRank s c k cause) := by
  have hp : RankZero c v (wakeStaging (Sys2Proof.Machine.makePending s c k cause)) :=
    (h.makePending hk).keeps (Keeps.wakeStaging (l := [.doms]) (Keeps.refl _ _) (by decide)) (by decide) (by decide)
  unfold Sys2Proof.Machine.retireRank
  split
  · exact h
  dsimp only
  split
  · exact hp
  · exact hp
  · rw [migUses_of_idle h.idle, if_neg Bool.false_ne_true]
    exact (h.setRank (by decide)).keeps (Keeps.settleSpareSr (l := [.chans, .rfr]) (Keeps.refl _ _) (by decide) (by decide))
      (by decide) (by decide)
  · exact h

/-- The parts that a trigger touches while no migration runs. -/
def retireParts : List Part := [.ranks, .log, .mig, .doms, .chans, .rfr]

theorem keeps_retireRank {s : State} (h : s.mig.st = .idle) (c k : Nat) (cause : BitVec 3) :
    Keeps retireParts s (retireRank s c k cause) := by
  have hp : Keeps retireParts s (wakeStaging (makePending s c k cause)) :=
    Keeps.wakeStaging ((Keeps.refl _ s).makePending (by decide) (by decide) (by decide)) (by decide)
  unfold retireRank
  split
  · exact Keeps.refl _ s
  dsimp only
  split
  · exact hp
  · exact hp
  · rw [migUses_of_idle h, if_neg Bool.false_ne_true]
    exact Keeps.settleSpareSr ((Keeps.refl _ s).setRank (by decide) (by decide)) (by decide) (by decide)
  · exact Keeps.refl _ s

theorem ranksOf_cons (v : Variant) : ∃ ks, ranksOf v = 0 :: ks ∧ ∀ k ∈ ks, k ≠ 0 := by
  cases h : hasSpare v with
  | true => exact ⟨[1, 2, 3, 4], by rw [ranksOf, if_pos h], by decide⟩
  | false => exact ⟨[1, 2, 3], by rw [ranksOf, if_neg (Bool.eq_false_iff.mp h)], by decide⟩

/-- Triggers for the other ranks, in turn. -/
theorem retireOthers {c : Nat} {v : RankSp} {s : State} (h : RankZero c v s) (ks : List Nat) (hk : ∀ k ∈ ks, k ≠ 0) :
    RankZero c v (foldS ks (fun s k => retireRank s c k 5) s) ∧
      Keeps retireParts s (foldS ks (fun s k => retireRank s c k 5) s) := by
  induction ks generalizing s with
  | nil => exact ⟨h, Keeps.refl _ s⟩
  | cons k ks ih =>
    have h1 := h.retireRank (cause := 5) (hk k (List.mem_cons_self ..))
    obtain ⟨hz, hkeep⟩ := ih h1 (fun j hj => hk j (List.mem_cons_of_mem _ hj))
    exact ⟨hz, (keeps_retireRank h.idle c k 5).trans hkeep⟩

/-- Every rank of the channel called for retirement with cause 5: rank 0, in service, is PENDING. -/
theorem retireAll {c : Nat} {s : State} (hs : (s.rank c 0).st = .inService) (hm : s.mig.st = .idle) :
    RankZero c { s.rank c 0 with st := .pending, cause := 5 }
      (foldS (ranksOf s.variant) (fun s k => retireRank s c k 5) s) ∧
      Keeps retireParts s (foldS (ranksOf s.variant) (fun s k => retireRank s c k 5) s) := by
  obtain ⟨ks, hks, hne⟩ := ranksOf_cons s.variant
  have h0 : retireRank s c 0 5 = wakeStaging (makePending s c 0 5) := by
    unfold retireRank
    simp only [hs]
    rfl
  have hz : RankZero c { s.rank c 0 with st := .pending, cause := 5 } (retireRank s c 0 5) := by
    rw [h0]
    refine RankZero.keeps (s := makePending s c 0 5) ⟨?_, ?_⟩
      (Keeps.wakeStaging (l := [.doms]) (Keeps.refl _ _) (by decide)) (by decide) (by decide)
    · exact (rank_setRank s c 0 _ c 0).trans (rank_setRankRaw s c 0 _)
    · exact (congrArg Mig.st ((Keeps.setRank (l := [.ranks, .log]) (Keeps.refl _ s) (by decide) (by decide)) .mig
        (by decide))).trans hm
  obtain ⟨hz', k⟩ := retireOthers hz ks hne
  rw [hks]
  exact ⟨hz', (keeps_retireRank hm c 0 5).trans k⟩

end Sys2Proof.Proofs

/-! The verdict of a rescue Survey on the control lanes, and the obligation on Surveys (R258–R260, R390). -/

namespace Sys2Proof.Proofs

open Sys2Proof.Machine
open Sys2Proof.Safety

/-! ### A control lane that is bad with no spare left -/

theorem tsvOf_setSprOf (s : State) (i : Nat) (v : Spr) (d : Nat) : (s.setSprOf i v).tsvOf d = s.tsvOf d := rfl
theorem sprOf_setTsvOf (s : State) (i : Nat) (v : Tsv) (d : Nat) : (s.setTsvOf i v).sprOf d = s.sprOf d := rfl

/-- The channel is in rescue, and the spare of lane `l` of its control group is gone. -/
structure RescueGone (c l : Nat) (s : State) : Prop where
  rescue : (s.sprOf c).st = .rescue
  gone : spareGone s c l = true

theorem spareGone_control {s : State} {c l : Nat} (hl : 72 ≤ l) :
    spareGone s c l = if l < 84 then (s.tsvOf c).caUsed else (s.tsvOf c).clkUsed := by
  rw [spareGone, if_neg (by omega)]

theorem RescueGone.of_tsv {c l : Nat} {s t : State} (h : RescueGone c l s) (hl : 72 ≤ l) (hs : t.sprOf c = s.sprOf c)
    (hca : (s.tsvOf c).caUsed = true → (t.tsvOf c).caUsed = true)
    (hclk : (s.tsvOf c).clkUsed = true → (t.tsvOf c).clkUsed = true) : RescueGone c l t := by
  obtain ⟨hr, hg⟩ := h
  refine ⟨(congrArg Spr.st hs).trans hr, ?_⟩
  rw [spareGone_control hl] at hg ⊢
  split at hg
  · next h84 => rw [if_pos h84, hca hg]
  · next h84 => rw [if_neg h84, hclk hg]

theorem useSpare_tsvOf (s : State) (c lane : Nat) :
    ((s.tsvOf c).caUsed = true → ((useSpare s c lane).tsvOf c).caUsed = true) ∧
      ((s.tsvOf c).clkUsed = true → ((useSpare s c lane).tsvOf c).clkUsed = true) := by
  rw [useSpare, modTsvOf_def, tsvOf_setTsvOf]
  split
  · exact ⟨id, id⟩
  split
  · exact ⟨fun _ => rfl, id⟩
  · exact ⟨id, fun _ => rfl⟩

theorem RescueGone.spareBad {c l : Nat} {s : State} (h : RescueGone c l s) (hl : 72 ≤ l) (lane : Nat) :
    RescueGone c l (Sys2Proof.Machine.spareBad s c lane) := by
  obtain ⟨hca, hclk⟩ := useSpare_tsvOf s c lane
  refine h.of_tsv hl ?_ hca hclk
  rw [Sys2Proof.Machine.spareBad, sprOf_laneRecord]
  rfl

theorem standIn_used (s : State) (c lane : Nat) :
    ((s.tsvOf c).caUsed = true → ((standIn s c lane).tsvOf c).caUsed = true) ∧
      ((s.tsvOf c).clkUsed = true → ((standIn s c lane).tsvOf c).clkUsed = true) := by
  have e : ((standIn s c lane).tsvOf c).caUsed = ((useSpare s c lane).tsvOf c).caUsed ∧
      ((standIn s c lane).tsvOf c).clkUsed = ((useSpare s c lane).tsvOf c).clkUsed := by
    rw [standIn, modTsvOf_def, tsvOf_setTsvOf]
    split
    · exact ⟨rfl, rfl⟩
    split
    · exact ⟨rfl, rfl⟩
    · exact ⟨rfl, rfl⟩
  rw [e.1, e.2]
  exact useSpare_tsvOf s c lane

theorem RescueGone.steerLane {c l : Nat} {s : State} (h : RescueGone c l s) (hl : 72 ≤ l) (lane : Nat) :
    RescueGone c l (Sys2Proof.Machine.steerLane s c lane) := by
  obtain ⟨hca, hclk⟩ := standIn_used s c lane
  have e : (Sys2Proof.Machine.steerLane s c lane).tsvOf c = (standIn s c lane).tsvOf c := by
    rw [Sys2Proof.Machine.steerLane, tsvOf_laneRecord, tsvOf_raise, spareTrims_tsvOf]
  exact h.of_tsv hl ((keeps_steerLane s c lane).sprOf_eq (by decide) c) (fun k => by rw [e]; exact hca k)
    (fun k => by rw [e]; exact hclk k)

/-- A lane erased: the lane joins its half, a channel that was normal is degraded, and the rest is only told. -/
def laneErased (s : State) (c lane : Nat) : State :=
  (s.modTsvOf c (fun t =>
    if lane < 36 then { t with erasedA := t.erasedA ++ [lane] } else { t with erasedB := t.erasedB ++ [lane - 36] })).modSprOf c
      (fun x => { x with st := if x.st = .normal then .laneDegraded else x.st })

theorem eraseLane_cases (s : State) (c lane : Nat) :
    (eraseLane s c lane).1 = s ∨
      (eraseLane s c lane).1 = laneRecord (raise (laneErased s c lane) 0x13 c (BitVec.ofNat 24 lane)) c lane 1 := by
  unfold eraseLane
  dsimp only
  split
  · exact .inl rfl
  generalize (if lane < 36 then (s.tsvOf c).erasedA else (s.tsvOf c).erasedB) = mine
  split
  · exact .inl rfl
  · exact .inr rfl

theorem RescueGone.eraseLane {c l : Nat} {s : State} (h : RescueGone c l s) (hl : 72 ≤ l) (lane : Nat) :
    RescueGone c l (Sys2Proof.Machine.eraseLane s c lane).1 := by
  obtain e | e := eraseLane_cases s c lane
  · rw [e]
    exact h
  rw [e]
  have hu : ((laneErased s c lane).tsvOf c).caUsed = (s.tsvOf c).caUsed ∧
      ((laneErased s c lane).tsvOf c).clkUsed = (s.tsvOf c).clkUsed := by
    rw [laneErased, modSprOf_def, tsvOf_setSprOf, modTsvOf_def, tsvOf_setTsvOf]
    split
    · exact ⟨rfl, rfl⟩
    · exact ⟨rfl, rfl⟩
  have hr := h.rescue
  have hst : ((laneErased s c lane).sprOf c).st = .rescue := by
    have e' : ((laneErased s c lane).sprOf c).st =
        if ((s.sprOf c).st = .normal) then .laneDegraded else (s.sprOf c).st := by
      rw [laneErased, modSprOf_def, sprOf_setSprOf, modTsvOf_def, sprOf_setTsvOf]
    rw [e', hr]
    exact if_neg nofun
  have hgone : spareGone (laneErased s c lane) c l = true := by
    rw [spareGone_control hl, hu.1, hu.2, ← spareGone_control hl, h.gone]
  generalize laneErased s c lane = u at hst hgone
  have hg : RescueGone c l u := ⟨hst, hgone⟩
  refine hg.of_tsv hl (by rw [sprOf_laneRecord, sprOf_raise]) (fun k => ?_) (fun k => ?_)
  · rw [tsvOf_laneRecord, tsvOf_raise, k]
  · rw [tsvOf_laneRecord, tsvOf_raise, k]

/-- A confirmed bad lane leaves the rescue and the lost spare what they were, and a Survey that has failed failed. -/
theorem surveyLane_gone {c l : Nat} {acc : State × Bool} (h : RescueGone c l acc.1) (hl : 72 ≤ l) (spares : List LaneEye)
    (x : Nat) : RescueGone c l (surveyLane spares c acc x).1 ∧ (acc.2 = true → (surveyLane spares c acc x).2 = true) := by
  have herase : ∀ u : State, RescueGone c l u → RescueGone c l (eraseLane u c x).1 ∧
      (acc.2 = true → (acc.2 || (eraseLane u c x).2) = true) := fun u k =>
    ⟨k.eraseLane hl x, fun e => by rw [e, Bool.true_or]⟩
  unfold surveyLane
  dsimp only
  split
  · split
    · exact herase _ h
    · exact ⟨h, fun _ => rfl⟩
  generalize findEye spares (if x < 72 then x / 18 else if x < 84 then 4 else 5) = sp
  split
  · exact ⟨h.steerLane hl x, id⟩
  split
  · exact herase _ (h.spareBad hl x)
  · exact ⟨h.spareBad hl x, fun _ => rfl⟩

/-- The lane itself fails the Survey. -/
theorem surveyLane_fails {c l : Nat} {acc : State × Bool} (h : RescueGone c l acc.1) (hl : 72 ≤ l) (spares : List LaneEye) :
    (surveyLane spares c acc l).2 = true := by
  have hn : ¬ l < 72 := by omega
  unfold surveyLane
  simp only [h.gone, hn, if_true, if_false]

theorem surveyLanes_fail {c l : Nat} (hl : 72 ≤ l) (spares : List LaneEye) (xs : List Nat) {acc : State × Bool}
    (h : RescueGone c l acc.1) (hx : acc.2 = true ∨ l ∈ xs) :
    RescueGone c l (xs.foldl (surveyLane spares c) acc).1 ∧ (xs.foldl (surveyLane spares c) acc).2 = true := by
  induction xs generalizing acc with
  | nil =>
    obtain hx | hx := hx
    · exact ⟨h, hx⟩
    · exact absurd hx (List.not_mem_nil)
  | cons x xs ih =>
    obtain ⟨h', hmono⟩ := surveyLane_gone h hl spares x
    refine ih h' ?_
    obtain hx | hx := hx
    · exact .inl (hmono hx)
    obtain rfl | hx := List.mem_cons.mp hx
    · exact .inl (surveyLane_fails h hl spares)
    · exact .inr hx

theorem mem_badLanes {c l : Nat} (s : State) {eyes : List LaneEye} (h72 : 72 ≤ l) (h86 : l < 86)
    (hb : eyeGood l (findEye eyes l) = false) : l ∈ badLanes s c eyes := by
  refine List.mem_append_left _ (List.mem_filter.mpr ⟨?_, ?_⟩)
  · refine List.mem_map.mpr ⟨l - 72, List.mem_range.mpr (by omega), by omega⟩
  · rw [hb]
    rfl

/-! ### The rescue Survey -/

/-- The conditions under which a rescue Survey's end counts. -/
theorem exec_rescueSurveyDone {s : State} {c : Nat} (hp : s.pins.pwrgood = true) (hs : (s.sprOf c).st = .rescue)
    (ha : (s.trnOf c).action = .survey) (ht : (s.trnOf c).trigger = 5) (hr : sweepRuns s c = true)
    (eyes spares : List LaneEye) :
    exec (.rescueSurveyDone c ⟨eyes, spares⟩) s = .next (fin s (
      let u := reuseLanes s c eyes
      let r := judgeLanes u c eyes spares
      if r.2 then channelLost (endSurvey r.1 c 3) c
      else evacuate (endSurvey (storeSurvey u r.1 c eyes spares) c (if badLanes u c eyes = [] then 1 else 2)) c)) := by
  refine answer_next hp (if_pos ?_)
  simp only [hs, ha, ht, hr, decide_true, Bool.and_self]

theorem badLanes_good {s : State} {c : Nat} {eyes : List LaneEye} (h : ∀ l < 86, eyeGood l (findEye eyes l) = true) :
    badLanes s c eyes = [] := by
  refine List.append_eq_nil_iff.mpr ⟨List.filter_eq_nil_iff.mpr fun l hl => ?_, List.filter_eq_nil_iff.mpr fun l hl => ?_⟩
  · obtain ⟨i, hi, rfl⟩ := List.mem_map.mp hl
    rw [h _ (by have := List.mem_range.mp hi; omega)]
    exact Bool.false_ne_true
  · rw [h l (by have := List.mem_range.mp hl; omega), Bool.not_true, Bool.and_false]
    exact Bool.false_ne_true

/-- Every lane used again where every lane has an eye. -/
theorem reuseLanes_tsvOf {s : State} {c : Nat} {eyes : List LaneEye} (h : ∀ l < 86, eyeGood l (findEye eyes l) = true)
    (he : ∀ i ∈ (s.tsvOf c).erasedA ++ (s.tsvOf c).erasedB, i < 36) :
    (reuseLanes s c eyes).tsvOf c = { s.tsvOf c with erasedA := [], erasedB := [] } := by
  have ha : (s.tsvOf c).erasedA.filter (fun i => !eyeGood i (findEye eyes i)) = [] :=
    List.filter_eq_nil_iff.mpr fun i hi => by
      have := he i (List.mem_append_left _ hi)
      rw [h i (by omega)]
      exact Bool.false_ne_true
  have hb : (s.tsvOf c).erasedB.filter (fun i => !eyeGood (36 + i) (findEye eyes (36 + i))) = [] :=
    List.filter_eq_nil_iff.mpr fun i hi => by
      have := he i (List.mem_append_right _ hi)
      rw [h (36 + i) (by omega)]
      exact Bool.false_ne_true
  rw [reuseLanes, modTsvOf_def, tsvOf_setTsvOf, ha, hb]

/-- The evacuation begun, before the channel opens. -/
def evacuating (s : State) (c : Nat) : State :=
  (s.modSprOf c (fun x => { x with st := .evacuating })).modTsvOf c (fun t => { t with action := .idle })

theorem evacuate_eq (s : State) (c : Nat) : evacuate s c = evacDone (openChan
    (foldS (ranksOf (evacuating s c).variant) (fun s k => retireRank s c k 5) (evacuating s c)) c) c := rfl

theorem evacDone_of_held {s : State} {c : Nat} (h : holdsData (s.rank c 0) = true) : evacDone s c = s := by
  obtain ⟨ks, hks, -⟩ := ranksOf_cons s.variant
  refine if_neg ?_
  rw [hks, List.all_cons, h]
  simp

/-- An evacuation with rank 0 in service: the channel is EVACUATING, rank 0 PENDING with cause 5. -/
theorem evacuate_ends {s : State} {c : Nat} (hr : (s.rank c 0).st = .inService) (hm : s.mig.st = .idle)
    (hd : (s.trnOf c).checkDue = false) (hw : (s.tsvOf c).waits = []) :
    ((evacuate s c).sprOf c).st = .evacuating ∧ (evacuate s c).tsvOf c = { s.tsvOf c with action := .idle } ∧
      (evacuate s c).rank c 0 = { s.rank c 0 with st := .pending, cause := 5 } ∧ (evacuate s c).trnOf c = s.trnOf c := by
  have hspr : ((evacuating s c).sprOf c).st = .evacuating := by
    rw [evacuating, modTsvOf_def, sprOf_setTsvOf, modSprOf_def, sprOf_setSprOf]
  have htsv : (evacuating s c).tsvOf c = { s.tsvOf c with action := .idle } := by
    rw [evacuating, modTsvOf_def, tsvOf_setTsvOf, modSprOf_def, tsvOf_setSprOf]
  have k0 : Keeps [.spr, .tsv] s (evacuating s c) := ((Keeps.refl _ s).setSprOf (by decide)).setTsvOf (by decide)
  have hrank : (evacuating s c).rank c 0 = s.rank c 0 := k0.rank_eq (by decide) c 0
  have hmig : (evacuating s c).mig.st = .idle := (congrArg Mig.st (k0 .mig (by decide))).trans hm
  have htrn : (evacuating s c).trnOf c = s.trnOf c := k0.trnOf_eq (by decide) c
  rw [evacuate_eq]
  generalize evacuating s c = u at hspr htsv hrank hmig htrn
  obtain ⟨hz, kz⟩ := retireAll (s := u) (c := c) (by rw [hrank, hr]) hmig
  have hzr := hz.rank
  generalize foldS (ranksOf u.variant) (fun s k => retireRank s c k 5) u = v at hzr kz
  have kv := keeps_openChan (s := v) (c := c) (by rw [kz.trnOf_eq (by decide), htrn, hd])
    (by rw [kz.tsvOf_eq (by decide), htsv]; exact hw)
  have kw := (kz.mono (k := .bst :: .flw :: retireParts) (by decide)).trans (kv.mono (by decide))
  have hwr : (openChan v c).rank c 0 = { s.rank c 0 with st := .pending, cause := 5 } := by
    rw [kv.rank_eq (by decide), hzr, hrank]
  rw [evacDone_of_held (by rw [hwr]; rfl)]
  exact ⟨(congrArg Spr.st (kw.sprOf_eq (by decide) c)).trans hspr, (kw.tsvOf_eq (by decide) c).trans htsv, hwr,
    (kw.trnOf_eq (by decide) c).trans htrn⟩

theorem fin_spr (s t : State) : (fin s t).spr = t.spr := rfl
theorem fin_tsv (s t : State) : (fin s t).tsv = t.tsv := rfl

theorem fin_rank (s t : State) (c k : Nat) : (fin s t).rank c k = t.rank c k := rfl

theorem endSurvey_sprOf (s : State) (c : Nat) (res : BitVec 2) (d : Nat) : (endSurvey s c res).sprOf d = s.sprOf d := rfl

/-- Settles O43. -/
theorem surveys : Obligations.Surveys := by
  refine ⟨fun s via c hc h hf ha hw hl => ?_, fun s via c hc h hf => ?_, fun s c why temp hp hw hf hst ht => ?_,
    fun s c eyes spares hp ha ht hr hf hb hq hd hw => ?_,
    fun s c eyes spares hp hs ha ht hr hm hg he hk hd hw => ?_, fun s c l eyes spares hp hs ha ht hr h72 h86 hb hg => ?_⟩
  · refine ⟨_, (exec_surveyRequest hc via _ s).trans (answer_mgmtWrite h (trnCtrlWrite_survey hf ha hw hl)), ?_, ?_⟩
    · rw [fin_trnOf, respond_trnOf, modTrnOf_def, trnOf_setTrnOf, modTrnOf_def, trnOf_setTrnOf]
    · exact (Keeps.respond (((Keeps.refl _ s).setTrnOf (by decide)).setTrnOf (by decide)) (by decide)).fin
  · exact (exec_surveyRequest hc via _ s).trans (answer_mgmtWrite h (trnCtrlWrite_fenced hf))
  · have k := keeps_surveyBegun s c why temp
    have hset := settleChan_paused (pausedNow_of_trnBusy (trnBusy_surveyBegun s c why temp))
      (by rw [k.chanFenced_eq (by decide), surveyFree_not_fenced hf])
      (by rw [surveyBegun_chan, closeRows_st, hst]; exact nofun)
    have hexec := exec_surveyStart hp hw hf ht
    rw [hset] at hexec
    have htrn := surveyBegun_trnOf s c why temp
    have hwait := surveyBegun_waits s c why temp
    have hchan := surveyBegun_chan s c why temp
    generalize surveyBegun s c why temp = u at k hexec htrn hwait hchan
    refine ⟨_, hexec, ?_, ?_, ?_, ?_, (k.setChan (by decide)).fin⟩
    · rw [fin_trnOf, modChan_def, trnOf_setChan, htrn]
    · rw [fin_chan, modChan_def, chan_setChan]
    · rw [fin_tsvOf, modChan_def, tsvOf_setChan, hwait]
    · rw [fin_chan, modChan_def, chan_setChan, hchan]
      exact closeRows_banks s c
  · have hexec := exec_surveyDone hp ha ht hr hf hb spares
    have k : Keeps [.trn, .log] s (endSurvey (storeSurvey s s c eyes spares) c 1) :=
      Keeps.endSurvey (Keeps.storeSurvey (Keeps.refl _ s) (by decide) (by decide)) (by decide)
    have hp' : surveyPoint s c = (s.chan c).current.toNat := if_neg (by rw [hq]; exact nofun)
    have htrn : (endSurvey (storeSurvey s s c eyes spares) c 1).trnOf c =
        { (storeSurvey s s c eyes spares).trnOf c with action := .idle, lastResult := 1 } := by
      rw [endSurvey, modTrnOf_def, trnOf_setTrnOf]
    rw [storeSurvey_trnOf, hp'] at htrn
    generalize endSurvey (storeSurvey s s c eyes spares) c 1 = u at hexec k htrn
    have ko := keeps_openChan (s := u) (c := c) (by rw [htrn]; exact hd) (by rw [k.tsvOf_eq (by decide), hw])
    have hto := (ko.trnOf_eq (by decide) c).trans htrn
    refine ⟨_, surveySet s s c eyes spares, hexec, ?_⟩
    rw [fin_trnOf, fin_flt, fin_spr, fin_tsv, hto]
    exact ⟨rfl, rfl, rfl, tfind_tput_self _ _ _, rfl, rfl, rfl, (ko .flt (by decide)).trans (k .flt (by decide)),
      (ko .spr (by decide)).trans (k .spr (by decide)), (ko .tsv (by decide)).trans (k .tsv (by decide))⟩
  · have hexec := exec_rescueSurveyDone hp hs ha ht hr eyes spares
    have ktsv := reuseLanes_tsvOf hg he
    have k : Keeps [.tsv] s (reuseLanes s c eyes) := (Keeps.refl _ s).setTsvOf (by decide)
    dsimp only at hexec
    generalize reuseLanes s c eyes = u at hexec ktsv k
    rw [judgeLanes_good (badLanes_good hg) spares, if_neg Bool.false_ne_true, if_pos (badLanes_good hg)] at hexec
    have ke : Keeps [.tsv, .trn, .log] s (endSurvey (storeSurvey u u c eyes spares) c 1) :=
      Keeps.endSurvey (Keeps.storeSurvey (k.mono (by decide)) (by decide) (by decide)) (by decide)
    have kt : Keeps [.trn, .log] u (endSurvey (storeSurvey u u c eyes spares) c 1) :=
      Keeps.endSurvey (Keeps.storeSurvey (Keeps.refl _ u) (by decide) (by decide)) (by decide)
    have htrn : (endSurvey (storeSurvey u u c eyes spares) c 1).trnOf c =
        { (storeSurvey u u c eyes spares).trnOf c with action := .idle, lastResult := 1 } := by
      rw [endSurvey, modTrnOf_def, trnOf_setTrnOf]
    rw [storeSurvey_trnOf, k.trnOf_eq (by decide)] at htrn
    have htsv := (kt.tsvOf_eq (by decide) c).trans ktsv
    generalize endSurvey (storeSurvey u u c eyes spares) c 1 = v at hexec ke htrn htsv
    obtain ⟨hst, htsv', hrank, htrn'⟩ := evacuate_ends (s := v) (c := c) (by rw [ke.rank_eq (by decide), hk])
      ((congrArg Mig.st (ke .mig (by decide))).trans hm) (by rw [htrn]; exact hd) (by rw [htsv]; exact hw)
    refine ⟨_, hexec, ?_⟩
    rw [fin_sprOf, fin_tsvOf, fin_trnOf, hst, htsv', htrn', htsv, htrn]
    rw [fin_rank, hrank]
    exact ⟨rfl, rfl, rfl, rfl, rfl, rfl⟩
  · have hexec := exec_rescueSurveyDone hp hs ha ht hr eyes spares
    have hu : RescueGone c l (reuseLanes s c eyes) := by
      refine RescueGone.of_tsv (s := s) ⟨hs, hg⟩ h72 rfl (fun k => ?_) (fun k => ?_)
      · rw [reuseLanes, modTsvOf_def, tsvOf_setTsvOf, k]
      · rw [reuseLanes, modTsvOf_def, tsvOf_setTsvOf, k]
    dsimp only at hexec
    generalize reuseLanes s c eyes = u at hexec hu
    obtain ⟨hj, hfail⟩ := surveyLanes_fail h72 spares (badLanes u c eyes) (acc := (u, false)) hu
      (.inr (mem_badLanes u h72 h86 hb))
    rw [← judgeLanes] at hj hfail
    rw [hfail, if_pos rfl] at hexec
    have hnf : chanFenced (endSurvey (judgeLanes u c eyes spares).1 c 3) c = false := by
      rw [chanFenced, endSurvey_sprOf, hj.rescue]
      rfl
    obtain ⟨hlost, hfen⟩ := channelLost_st hnf
    generalize channelLost (endSurvey (judgeLanes u c eyes spares).1 c 3) c = v at hexec hlost hfen
    refine ⟨_, hexec, ?_, ?_⟩
    · rw [fin_sprOf, hlost]
    · rw [fin_chan, hfen]

end Sys2Proof.Proofs

/-! Frames of judged queues, fences and parks while no migration runs (R80–R83, R249–R254, R343). -/

namespace Sys2Proof.Safety

open Sys2Proof.Machine

/-- The parts that queues judged again touch. -/
def rerouteParts : List Part := [.chans, .reqs, .flowRt]

section Reroute

variable {l : List Part} {s t : State} (h : Keeps l s t)
include h

theorem Keeps.rerouteOne {wr : Bool} {e : Entry} (hl : rerouteParts ⊆ l) :
    Keeps l s (Sys2Proof.Machine.rerouteOne wr t e) := by
  have hc : Part.chans ∈ l := hl (by decide)
  have hr : Part.reqs ∈ l := hl (by decide)
  have hf : Part.flowRt ∈ l := hl (by decide)
  unfold Sys2Proof.Machine.rerouteOne
  dsimp only
  split
  · exact Keeps.ite h (h.setChan hc)
  split
  · split
    · exact h.failReq hr hf
    · exact Keeps.ite (Keeps.foldS (fun _ _ k => k.flushFenced hr) _ h) h
  · refine Keeps.ite ?_ (Keeps.ite (h.setChan hc) (Keeps.ite (h.pushWrite hc hr) (h.pushRead hc)))
    split
    · exact h.failReq hr hf
    · exact Keeps.ite (Keeps.foldS (fun _ _ k => k.flushFenced hr) _ h) h

theorem Keeps.reroutedQueues {d : Nat} {v : Chan} {rds wrs : List Entry} (hl : rerouteParts ⊆ l) :
    Keeps l s (wrs.foldl (Sys2Proof.Machine.rerouteOne true) (rds.foldl (Sys2Proof.Machine.rerouteOne false)
      (t.setChan d v))) :=
  Keeps.foldl (fun _ _ k => k.rerouteOne hl) wrs (Keeps.foldl (fun _ _ k => k.rerouteOne hl) rds (h.setChan (hl (by decide))))

theorem Keeps.keepPlaces {d : Nat} {rd wr : List Nat} (hl : Part.chans ∈ l) :
    Keeps l s (Sys2Proof.Machine.keepPlaces t d rd wr) := h.setChan hl

theorem Keeps.reroute {d : Nat} (hl : rerouteParts ⊆ l) : Keeps l s (Sys2Proof.Machine.reroute t d) := by
  have hc : Part.chans ∈ l := hl (by decide)
  unfold Sys2Proof.Machine.reroute
  dsimp only
  exact (((h.reroutedQueues hl).keepPlaces hc).admitReads hc).admitWrites hc (hl (by decide))

theorem Keeps.rerouteAll (hl : rerouteParts ⊆ l) : Keeps l s (Sys2Proof.Machine.rerouteAll t) :=
  Keeps.foldS (fun _ _ k => k.reroute hl) _ h

theorem Keeps.clearOwed {c k : Nat} (hr : Part.rfr ∈ l) (ht : Part.tiers ∈ l) :
    Keeps l s (Sys2Proof.Machine.clearOwed t c k) := (h.setRfrOf hr).catchupExit ht

theorem Keeps.resetRankInsts {c k : Nat} (hl : Part.flt ∈ l) : Keeps l s (Sys2Proof.Machine.resetRankInsts t c k) :=
  Keeps.foldS (fun _ _ k => k.setFlt hl) _ h

theorem Keeps.postHoled {old : State} (hf : Part.flowRt ∈ l) (hq : Part.queues ∈ l) (hl : Part.flt ∈ l) :
    Keeps l s (Sys2Proof.Machine.postHoled old t) :=
  Keeps.foldl (fun _ _ k => Keeps.ite k (Keeps.foldS (fun _ _ k => k.postFlow hq hl hf) _ k)) _ h

theorem Keeps.stopMig (hc : Part.chans ∈ l) (hm : Part.mig ∈ l) : Keeps l s (Sys2Proof.Machine.stopMig t) := by
  have k : Keeps l s (Sys2Proof.Machine.foldS (List.range 32) Proofs.dropMigWork t) :=
    Keeps.foldS (fun _ _ k => k.setChan hc) _ h
  rw [Proofs.stopMig_eq]
  generalize Sys2Proof.Machine.foldS (List.range 32) Proofs.dropMigWork t = u at k ⊢
  exact k.setMig hm

theorem Keeps.evacDone {c : Nat} (hl : .spr :: .flw :: rescueParts ++ rerouteParts ⊆ l) :
    Keeps l s (Sys2Proof.Machine.evacDone t c) := by
  have hc : Part.chans ∈ l := hl (by decide)
  have k : Keeps l s (Sys2Proof.Machine.stopChanWork (t.modSprOf c (fun x => { x with st := .fenced })) c) :=
    (h.setSprOf (hl (by decide))).stopChanWork (fun p hp => hl (List.mem_append_left _
      (List.mem_cons_of_mem _ (List.mem_cons_of_mem _ hp))))
  unfold Sys2Proof.Machine.evacDone
  dsimp only
  exact Keeps.ite (Keeps.budgetDue ((k.setChan hc).rerouteAll (fun p hp => hl (List.mem_append_right _ hp))) (hl (by decide))) h

end Reroute

end Sys2Proof.Safety

namespace Sys2Proof.Proofs

open Sys2Proof.Machine
open Sys2Proof.Safety

/-! ### Parks while no migration runs -/

/-- The parts that a tier's park touches while no migration runs. -/
def parkParts : List Part := [.tiers, .flt, .doms, .rfr, .ecc, .chans, .reqs, .flowRt]

theorem keeps_tierLeavesOn {s : State} (h : s.mig.st = .idle) (t : Nat) : Keeps parkParts s (tierLeavesOn s t) := by
  have k : Keeps parkParts s (foldS (chansOfTier t) (fun s c => notePassed (clearOwed s c (rankOfTier t)) c) s) :=
    Keeps.foldS (fun _ _ k => (k.clearOwed (by decide) (by decide)).notePassed (by decide)) _ (Keeps.refl _ s)
  unfold tierLeavesOn
  dsimp only
  generalize foldS (chansOfTier t) (fun s c => notePassed (clearOwed s c (rankOfTier t)) c) s = u at k ⊢
  have hu : u.mig.st = .idle := (congrArg Mig.st (k .mig (by decide))).trans h
  have hn : ¬ ((chansOfTier t).any fun c => migUses u c (rankOfTier t)) = true := by
    simp [migUses_of_idle hu]
  rw [if_neg hn]
  exact k

theorem keeps_tierParkCheck {s : State} (h : s.mig.st = .idle) (t : Nat) : Keeps parkParts s (tierParkCheck s t) := by
  unfold tierParkCheck
  split
  · dsimp only
    generalize hu : startPark _ (52 + t) true = u
    have k : Keeps parkParts s u := by
      rw [← hu]
      exact Keeps.setDom (Keeps.setFlt ((Keeps.refl _ s).setTier (by decide)) (by decide)) (by decide)
    have hm : u.mig.st = .idle := (congrArg Mig.st (k .mig (by decide))).trans h
    exact (k.trans (keeps_tierLeavesOn hm t)).rerouteAll (by decide)
  · exact Keeps.refl _ s

theorem keeps_tierParkChecks {s : State} (h : s.mig.st = .idle) : Keeps parkParts s (tierParkChecks s) := by
  have hall : ∀ (ts : List Nat) (u : State), u.mig.st = .idle → Keeps parkParts u (foldS ts tierParkCheck u) := by
    intro ts
    induction ts with
    | nil => exact fun u _ => Keeps.refl _ u
    | cons t ts ih =>
      intro u hu
      have k := keeps_tierParkCheck hu t
      exact k.trans (ih _ ((congrArg Mig.st (k .mig (by decide))).trans hu))
  exact hall (List.range 20) s h

/-! ### A fence while no migration runs -/

/-- A rank FENCED for a reason and counted. -/
def rankFenced (s : State) (c k : Nat) (why : BitVec 3) : State :=
  let t := setRank s c k { s.rank c k with st := .fenced, why := why, oldPtr := 0, fillOnly := false }
  { t with mig := { t.mig with fences := sat t.mig.fences 1, order := t.mig.order.filter (· ≠ rankKey c k) } }

/-- The parts that follow a fence, beside the rank. -/
def fenceParts : List Part := [.chans, .rfr, .tiers, .flt, .flowRt, .queues, .reqs, .flw]

theorem fenceRank0_eq {s : State} {c k : Nat} (h : (s.rank c k).st ≠ .fenced) (hm : s.mig.st = .idle) (why : BitVec 3) :
    fenceRank0 s c k why = budgetDue (rerouteAll (postHoled s (resetRankInsts (clearOwed
      (settleSpareSr (rankFenced s c k why) c) c k) c k))) := by
  unfold fenceRank0
  dsimp only
  rw [if_neg h]
  simp only [hm, ne_eq, not_true_eq_false, decide_false, Bool.false_and, Bool.false_eq_true, if_false]
  rfl

theorem keeps_fenceRank0 {s : State} {c k : Nat} (h : (s.rank c k).st ≠ .fenced) (hm : s.mig.st = .idle) (why : BitVec 3) :
    Keeps fenceParts (rankFenced s c k why) (fenceRank0 s c k why) := by
  rw [fenceRank0_eq h hm]
  have k1 : Keeps fenceParts (rankFenced s c k why) (settleSpareSr (rankFenced s c k why) c) :=
    (Keeps.refl _ _).settleSpareSr (by decide) (by decide)
  exact ((((k1.clearOwed (by decide) (by decide)).resetRankInsts (by decide)).postHoled (by decide) (by decide)
    (by decide)).rerouteAll (by decide)).budgetDue (by decide)

end Sys2Proof.Proofs

/-! The migration engine: its start, its turns of dispatch, its pointer and its end (R249–R254). -/

namespace Sys2Proof.Safety

open Sys2Proof.Machine

section Readers

variable {l : List Part} {s t : State} (h : Keeps l s t)
include h

theorem Keeps.chooseGrans_eq (hl : ∀ p ∈ [Part.tables, .ranks, .spr], p ∉ l) (c k : Nat) :
    chooseGrans t c k = chooseGrans s c k := by
  have e1 : t.tables = s.tables := h .tables (hl _ (by decide))
  have e2 : t.ranks = s.ranks := h .ranks (hl _ (by decide))
  have hg : granFits t c k = granFits s c k := by
    funext g
    simp only [granFits, takenGrans, e1, e2, h.sprOf_eq (hl _ (by decide)), h.rank_eq (hl _ (by decide))]
  rw [chooseGrans, hg, chooseGrans]

theorem Keeps.takerOf_eq (hl : Part.ranks ∉ l) (g : Nat) : takerOf t g = takerOf s g := by
  have e : t.ranks = s.ranks := h .ranks hl
  rw [takerOf, e, takerOf]

theorem Keeps.dpaOfLoc_eq (hl : ∀ p ∈ routeParts, p ∉ l) (n : Nat) (x : Loc) : dpaOfLoc t n x = dpaOfLoc s n x := by
  have e1 : t.tables = s.tables := h .tables (hl _ (by decide))
  have e2 : t.mig = s.mig := h .mig (hl _ (by decide))
  induction n generalizing x with
  | zero => rfl
  | succ n ih =>
    simp only [dpaOfLoc, e1, e2, h.rank_eq (hl _ (by decide)),
      h.takerOf_eq (hl _ (by decide)), ih]

theorem Keeps.locInked_eq (hl : ∀ p ∈ [Part.tables, .ranks, .mig, .inkAll, .ink], p ∉ l) (x : Loc) :
    locInked t x = locInked s x := by
  rw [locInked, h.dpaOfLoc_eq (fun p hp => hl p (by revert hp; revert p; decide)), locInked]
  simp only [h.inked_eq (fun p hp => hl p (by revert hp; revert p; decide))]

theorem Keeps.copyTarget_eq (hl : ∀ p ∈ routeParts, p ∉ l) (i : Nat) : copyTarget t i = copyTarget s i := by
  have e2 : t.mig = s.mig := h .mig (hl _ (by decide))
  simp only [copyTarget, e2, h.targetOf_eq (fun p hp => hl p (by revert hp; revert p; decide)), h.route_eq hl]

theorem Keeps.takesDispatch_eq (hl : ∀ p ∈ [Part.chans, .bst, .spr, .rst], p ∉ l) (c : Nat) :
    takesDispatch t c = takesDispatch s c := by
  have e : t.rst = s.rst := h .rst (hl _ (by decide))
  rw [takesDispatch, bstStops, h.chan_eq (hl _ (by decide)), h.bstOf_eq (hl _ (by decide)), h.sprOf_eq (hl _ (by decide)), e,
    takesDispatch, bstStops]

theorem Keeps.drainCan_eq (hl : ∀ p ∈ [Part.chans, .bst, .spr, .rst, .tables, .ranks, .mig], p ∉ l) :
    drainCan t = drainCan s := by
  have e : t.mig = s.mig := h .mig (hl _ (by decide))
  have ht : ∀ c, takesDispatch t c = takesDispatch s c :=
    h.takesDispatch_eq (fun p hp => hl p (by revert hp; revert p; decide))
  have hw : toWrite t = toWrite s := by rw [toWrite, e, toWrite]
  have hr : ∀ i, chunkReading t i = chunkReading s i := fun i => by
    rw [chunkReading, h.chan_eq (hl _ (by decide)), e, chunkReading]
  simp only [drainCan, e, hw, hr, ht, h.canWrite_eq (hl _ (by decide)),
    h.copyTarget_eq (fun p hp => hl p (by revert hp; revert p; decide))]

theorem Keeps.batchBlank_eq (hl : ∀ p ∈ [Part.tables, .ranks, .mig, .inkAll, .ink], p ∉ l) :
    batchBlank t = batchBlank s := by
  have e : t.mig = s.mig := h .mig (hl _ (by decide))
  simp only [batchBlank, migFills, copySource, e, h.rank_eq (hl _ (by decide)), h.locInked_eq hl]

end Readers

end Sys2Proof.Safety

namespace Sys2Proof.Proofs

open Sys2Proof.Machine
open Sys2Proof.Safety

/-! ### The engine takes a rank -/

theorem rankKey_split {c k : Nat} (h : k < 5) : rankKey c k / 5 = c ∧ rankKey c k % 5 = k := by
  unfold rankKey
  omega

/-- The order of triggers without the rank that the engine takes. -/
def orderTaken (s : State) (c k : Nat) : State :=
  { s with mig := { s.mig with order := s.mig.order.filter (· ≠ rankKey c k) } }

theorem keeps_orderTaken (s : State) (c k : Nat) : Keeps [.mig] s (orderTaken s c k) := (Keeps.refl _ s).setMig (by decide)

/-- What the engine does with the rank that comes first. -/
def startRank (s : State) (c k : Nat) : State :=
  if spareFits s c k then takeRank s c k false []
  else match chooseGrans s c k with
    | some gs => takeRank s c k true gs
    | none => evacDone (tierParkChecks (fenceRank s c k 1)) c

theorem exec_migrationStart {s : State} {c k : Nat} (hp : s.pins.pwrgood = true) (hi : engineIdle s = true)
    (hn : nextPending s = some (rankKey c k)) (hk : k < 5) (hb : mbistOn s c k = false)
    (ha : spareFits s c k = true → spareAway s c = false) :
    exec .migrationStart s = .next (fin s (startRank (orderTaken s c k) c k)) := by
  obtain ⟨hc, hk5⟩ := rankKey_split (c := c) hk
  have hg : (mbistOn s c k || (spareFits s c k && spareAway s c)) = false := by
    rw [hb, Bool.false_or]
    cases hf : spareFits s c k with
    | false => rfl
    | true => rw [ha hf]; rfl
  refine answer_next hp ?_
  rw [if_pos hi, hn]
  dsimp only
  rw [hc, hk5, if_neg (Bool.eq_false_iff.mp hg), ← orderTaken]
  generalize orderTaken s c k = u
  unfold startRank
  generalize chooseGrans u c k = g
  rfl

theorem spareFits_orderTaken (s : State) (c k d j : Nat) : spareFits (orderTaken s c k) d j = spareFits s d j := rfl

/-- The rank MIGRATING and the copy at its start. -/
def rankTaken (s : State) (c k : Nat) (toRes : Bool) (gs : List Nat) : State :=
  let t := setRank s c k { s.rank c k with st := .migrating, toRes := toRes, grans := if toRes then gs else (s.rank c k).grans }
  { t with mig := { t.mig with
    st := .start, ch := c, rank := k, toRes := toRes, pointer := 0, readPos := 0, writePos := 0, staged := [] } }

theorem takeRank_eq (s : State) (c k : Nat) (toRes : Bool) (gs : List Nat) : takeRank s c k toRes gs =
    budgetDue (rerouteAll (if toRes then rankTaken s c k toRes gs else setSr (rankTaken s c k toRes gs) c 4 false)) := rfl

theorem setRank_mig (s : State) (c k : Nat) (v : RankSp) : (setRank s c k v).mig = s.mig :=
  (Keeps.setRank (l := [.ranks, .log]) (Keeps.refl _ s) (by decide) (by decide)) .mig (by decide)

theorem rankTaken_rank (s : State) (c k : Nat) (toRes : Bool) (gs : List Nat) : (rankTaken s c k toRes gs).rank c k =
    { s.rank c k with st := .migrating, toRes := toRes, grans := if toRes then gs else (s.rank c k).grans } :=
  (rank_setRank s c k _ c k).trans (rank_setRankRaw s c k _)

theorem rankTaken_mig (s : State) (c k : Nat) (toRes : Bool) (gs : List Nat) : (rankTaken s c k toRes gs).mig =
    { s.mig with st := .start, ch := c, rank := k, toRes := toRes, pointer := 0, readPos := 0, writePos := 0, staged := [] } :=
  congrArg (fun m : Mig => { m with
    st := .start, ch := c, rank := k, toRes := toRes, pointer := 0, readPos := 0, writePos := 0, staged := [] })
    (setRank_mig s c k _)

theorem keeps_rankTaken (s : State) (c k : Nat) (toRes : Bool) (gs : List Nat) :
    Keeps [.ranks, .log, .mig] s (rankTaken s c k toRes gs) :=
  Keeps.setMig ((Keeps.refl _ s).setRank (by decide) (by decide)) (by decide)

/-- The parts that follow once the engine has taken a rank. -/
def takeParts : List Part := [.chans, .rfr, .reqs, .flowRt, .flw]

theorem keeps_takeRank (s : State) (c k : Nat) (toRes : Bool) (gs : List Nat) :
    Keeps takeParts (rankTaken s c k toRes gs) (takeRank s c k toRes gs) := by
  rw [takeRank_eq]
  have k1 : Keeps takeParts (rankTaken s c k toRes gs)
      (if toRes then rankTaken s c k toRes gs else setSr (rankTaken s c k toRes gs) c 4 false) :=
    Keeps.ite (Keeps.refl _ _) ((Keeps.refl _ _).setSr (by decide) (by decide))
  exact (k1.rerouteAll (by decide)).budgetDue (by decide)

theorem setSr_left_inSr (s : State) (c : Nat) : ((setSr s c 4 false).rfrOf c).inSr.getLsbD 4 = false := by
  unfold setSr
  dsimp only
  rw [if_neg Bool.false_ne_true]
  by_cases h : inSelfRefresh s c 4 = true
  · rw [if_pos h, modRfrOf_def, rfrOf_setRfrOf, BitVec.getLsbD_and]
    simp
  · rw [if_neg h]
    exact Bool.eq_false_iff.mpr h

theorem takeRank_spare_inSr (s : State) (c k : Nat) : ((takeRank s c k false []).rfrOf c).inSr.getLsbD 4 = false := by
  rw [takeRank_eq, if_neg Bool.false_ne_true]
  generalize rankTaken s c k false [] = u
  have kr : Keeps takeParts (setSr u c 4 false) (budgetDue (rerouteAll (setSr u c 4 false))) :=
    ((Keeps.refl _ _).rerouteAll (by decide)).budgetDue (by decide)
  have hr : (budgetDue (rerouteAll (setSr u c 4 false))).rfrOf c = (setSr u c 4 false).rfrOf c :=
    Keeps.rfrOf_eq (l := [.chans, .reqs, .flowRt, .flw]) (((Keeps.refl _ _).rerouteAll (by decide)).budgetDue (by decide))
      (by decide) c
  rw [hr]
  exact setSr_left_inSr u c

/-! ### A rank with no target -/

theorem rankFenced_rank (s : State) (c k : Nat) (why : BitVec 3) : (rankFenced s c k why).rank c k =
    { s.rank c k with st := .fenced, why := why, oldPtr := 0, fillOnly := false } :=
  (rank_setRank s c k _ c k).trans (rank_setRankRaw s c k _)

theorem rankFenced_mig (s : State) (c k : Nat) (why : BitVec 3) : (rankFenced s c k why).mig =
    { s.mig with fences := sat s.mig.fences 1, order := s.mig.order.filter (· ≠ rankKey c k) } :=
  congrArg (fun m : Mig => { m with fences := sat m.fences 1, order := m.order.filter (· ≠ rankKey c k) })
    (setRank_mig s c k _)

theorem fenceRank_of_idle {s : State} (hm : s.mig.st = .idle) (c k : Nat) (why : BitVec 3) :
    fenceRank s c k why = fenceRank0 s c k why := by
  unfold fenceRank
  dsimp only
  rw [migUses_of_idle hm, if_neg Bool.false_ne_true]

/-- The parts that the fence of a rank touches beside the rank, with the parks and the end of an evacuation that follow. -/
def strandParts : List Part :=
  [.chans, .rfr, .tiers, .flt, .flowRt, .queues, .reqs, .flw, .doms, .ecc, .spr, .bst, .trn, .tsv]

theorem keeps_stranded {s : State} {c k : Nat} (h : (s.rank c k).st ≠ .fenced) (hm : s.mig.st = .idle) :
    Keeps strandParts (rankFenced s c k 1) (evacDone (tierParkChecks (fenceRank s c k 1)) c) := by
  have kf : Keeps strandParts (rankFenced s c k 1) (fenceRank s c k 1) := by
    rw [fenceRank_of_idle hm]
    exact (keeps_fenceRank0 h hm 1).mono (by decide)
  have hm' : (fenceRank s c k 1).mig.st = .idle := by
    rw [kf .mig (by decide), rankFenced_mig]
    exact hm
  exact (kf.trans ((keeps_tierParkChecks hm').mono (by decide))).evacDone (by decide)

/-! ### The engine's turns of dispatch -/

theorem takesDispatch_not_busy {s : State} {c : Nat} (h : takesDispatch s c = true) : s.rst.chanBusy.contains c = false := by
  unfold takesDispatch at h
  simp only [Bool.and_eq_true] at h
  simpa using h.2

/-- A turn of dispatch taken by the migration. -/
def migTurn (s : State) : State := turnTaken s ((migGroup s).getD 1) 16384

theorem keeps_migTurn (s : State) : Keeps [.flw] s (migTurn s) := (Keeps.refl _ s).setFlw (by decide)

theorem exec_requestDispatch_mig {s : State} (hp : s.pins.pwrgood = true) (h : migFirst s = true) :
    exec .requestDispatch s = .next (fin s (migStep (migTurn s))) :=
  answer_next hp (if_pos h)

theorem copyRuns_of_migFirst {s : State} (h : migFirst s = true) : (copyRuns s && (readCan s || drainCan s)) = true := by
  cases hg : (copyRuns s && (readCan s || drainCan s)) with
  | true => rfl
  | false =>
    have hn : migGroup s = none := if_neg (Bool.eq_false_iff.mp hg)
    rw [migFirst, hn] at h
    exact absurd h Bool.false_ne_true

theorem readCan_of_migFirst {s : State} (h : migFirst s = true) (hd : drainCan s = false) : readCan s = true := by
  have h2 := copyRuns_of_migFirst h
  rw [hd, Bool.or_false, Bool.and_eq_true] at h2
  exact h2.2

theorem migUsed_migTurn (s : State) : migUsed (migTurn s) = migUsed s := rfl

theorem copySource_ch (s : State) (i : Nat) : (copySource s i).ch = s.mig.ch := rfl

/-- The engine with four lines of the source asked for. -/
def linesAsked (s : State) : State :=
  { s with mig := { s.mig with
    readPos := s.mig.readPos + 4
    st := if rankLines ≤ s.mig.readPos + 4 then .finish else .copy
    win := s.elapsed / 64
    used := migUsed s + 4 } }

/-- The entry of a migration's read. -/
def migReadEntry (s : State) : Entry :=
  let src := copySource s s.mig.readPos
  mkEntry (linesAsked s) .migRead false src ((List.range 4).map (src.col + ·))
    (match dpaOfLoc (linesAsked s) routeFuel src with | some x => x / 64 | none => dpaNone)

theorem migRead_asks {s : State} (hf : migFills s = false) (hb : batchBlank s = false) :
    migRead s = pushRead (linesAsked s) (migReadEntry s) := by
  unfold migRead
  simp only [hf, hb, Bool.false_eq_true, if_false]
  rfl

theorem readCan_room {s : State} (h : readCan s = true) (hf : migFills s = false) (hb : batchBlank s = false) :
    canRead s s.mig.ch false = true ∧ s.rst.chanBusy.contains s.mig.ch = false := by
  unfold readCan at h
  simp only [hf, hb, Bool.false_or, Bool.and_eq_true] at h
  obtain ⟨-, ht, hc⟩ := h
  exact ⟨hc, takesDispatch_not_busy ht⟩

end Sys2Proof.Proofs

/-! Reads and writes of a migration, its pointer and its end, and the obligation on migrations (R252–R254). -/

namespace Sys2Proof.Proofs

open Sys2Proof.Machine
open Sys2Proof.Safety

/-! ### Four lines to the target -/

/-- The engine with four lines of the target sent. -/
def linesSent (s : State) : State := { s with mig := { s.mig with writePos := s.mig.writePos + 4 } }

theorem hop_linesSent (s : State) (x : Loc) : hop (linesSent s) x = hop s x := rfl

theorem route_linesSent (s : State) (n : Nat) (x : Loc) : route (linesSent s) n x = route s n x := by
  induction n generalizing x with
  | zero => rfl
  | succ n ih => simp only [route, hop_linesSent, ih]

theorem copyTarget_linesSent (s : State) (i : Nat) : copyTarget (linesSent s) i = copyTarget s i := by
  have e : targetOf (linesSent s) (locOfIndex s.mig.ch s.mig.rank i) s.mig.toRes =
      targetOf s (locOfIndex s.mig.ch s.mig.rank i) s.mig.toRes := rfl
  have e1 : (linesSent s).mig.ch = s.mig.ch := rfl
  have e2 : (linesSent s).mig.rank = s.mig.rank := rfl
  have e3 : (linesSent s).mig.toRes = s.mig.toRes := rfl
  simp only [copyTarget, e1, e2, e3, e, route_linesSent]

/-- The entry of a migration's write. -/
def migWriteEntry (s : State) (x : Loc) : Entry :=
  mkEntry (linesSent s) .migWrite false x ((toWrite s).map (fun j => x.col + (j - s.mig.writePos))) s.mig.writePos

theorem migDrain_sends {s : State} {x : Loc} (hw : toWrite s ≠ []) (ht : copyTarget s s.mig.writePos = some x) :
    migDrain s = pushWrite (linesSent s) (migWriteEntry s x) := by
  have ht' : copyTarget (linesSent s) s.mig.writePos = some x := (copyTarget_linesSent s _).trans ht
  have e : ({ s with mig := { s.mig with writePos := s.mig.writePos + 4 } } : State) = linesSent s := rfl
  unfold migDrain
  dsimp only
  rw [e, ht']
  exact if_neg hw

theorem drainCan_room {s : State} {x : Loc} (h : drainCan s = true) (hw : toWrite s ≠ [])
    (ht : copyTarget s s.mig.writePos = some x) :
    canWrite s x.ch false = true ∧ s.rst.chanBusy.contains x.ch = false := by
  unfold drainCan at h
  simp only [ht, hw, decide_false, Bool.false_or, Bool.and_eq_true] at h
  obtain ⟨-, hd, hc⟩ := h
  exact ⟨hc, takesDispatch_not_busy hd⟩

/-! ### The pointer -/

/-- The pointer a chunk further. -/
def pointerMoved (s : State) : State := { s with mig := { s.mig with pointer := s.mig.pointer + 65536 } }

/-- The pointer a chunk further, with the budgets due where the targets change. -/
def chunkMoved (s : State) : State :=
  if migTargets (pointerMoved s) = migTargets s then pointerMoved s else budgetDue (pointerMoved s)

theorem keeps_chunkMoved (s : State) : Keeps [.flw] (pointerMoved s) (chunkMoved s) :=
  Keeps.ite (Keeps.refl _ _) ((Keeps.refl _ _).budgetDue (by decide))

theorem exec_pointerAdvance {s : State} (hp : s.pins.pwrgood = true) (hr : copyRuns s = true) (hc : chunkDone s = true) :
    exec .migrationPointerAdvance s = .next (fin s (rerouteAll
      (if rankLines ≤ (chunkMoved s).mig.pointer then migrationComplete (chunkMoved s) else chunkMoved s))) := by
  refine answer_next hp (if_neg ?_)
  rw [hr, hc]
  exact Bool.false_ne_true

theorem exec_pointerAdvance_not {s : State} (hp : s.pins.pwrgood = true) (h : copyRuns s = false ∨ chunkDone s = false) :
    exec .migrationPointerAdvance s = .next (fin s s) := by
  refine answer_next hp (if_pos ?_)
  obtain h | h := h
  · rw [h]
    rfl
  · rw [h, Bool.not_false, Bool.or_true]

/-! ### The end of a migration to the spare -/

/-- The source retired to rank 4, which holds it. -/
def spareHolds (s : State) (c k : Nat) : State :=
  let t := setRank s c k { s.rank c k with
    st := if k = 4 then .spareUnusable else if false then .retiredReserve else .retiredSpare, oldPtr := 0, fillOnly := false }
  setRank t c 4 { t.rank c 4 with st := .spareHolding, holder := BitVec.ofNat 3 k }

theorem spareHolds_ranks (s : State) (c : Nat) {k : Nat} (hk : k < 4) :
    ((spareHolds s c k).rank c k).st = .retiredSpare ∧ ((spareHolds s c k).rank c 4).st = .spareHolding ∧
      ((spareHolds s c k).rank c 4).holder = BitVec.ofNat 3 k := by
  have hne : k ≠ 4 := by omega
  unfold spareHolds
  dsimp only
  rw [rank_setRank, rank_setRankRaw_ne _ _ _ hne, rank_setRank, rank_setRankRaw, rank_setRank, rank_setRankRaw, if_neg hne]
  exact ⟨rfl, rfl, rfl⟩

theorem spareHolds_mig (s : State) (c k : Nat) : (spareHolds s c k).mig = s.mig :=
  (setRank_mig _ c 4 _).trans (setRank_mig s c k _)

theorem stopMig_mig (s : State) : (stopMig s).mig =
    { s.mig with st := .idle, pointer := 0, readPos := 0, writePos := 0, staged := [] } := by
  have k : Keeps [.chans] s (foldS (List.range 32) dropMigWork s) :=
    Keeps.foldS (fun _ _ k => k.setChan (by decide)) _ (Keeps.refl _ s)
  have e : (foldS (List.range 32) dropMigWork s).mig = s.mig := k .mig (by decide)
  rw [stopMig_eq, e]

/-- The engine at rest, with one migration more. -/
def migEnded (s : State) : State :=
  { stopMig s with mig := { (stopMig s).mig with migrations := sat (stopMig s).mig.migrations 1 } }

theorem migEnded_mig (s : State) : (migEnded s).mig =
    { s.mig with st := .idle, pointer := 0, readPos := 0, writePos := 0, staged := [], migrations := sat s.mig.migrations 1 } := by
  have e : (migEnded s).mig = { (stopMig s).mig with migrations := sat (stopMig s).mig.migrations 1 } := rfl
  rw [e, stopMig_mig]

theorem migEnded_rank (s : State) (c k : Nat) : (migEnded s).rank c k = s.rank c k :=
  Keeps.rank_eq (l := [.chans, .mig]) (((Keeps.refl _ s).stopMig (by decide) (by decide)).setMig (by decide)) (by decide) c k

/-- What follows once the engine is at rest: remap entries, instances, self-refresh, parks, the end of an evacuation. -/
def rankRested (s : State) (c k : Nat) : State :=
  let t := s.modEccOf c (fun e => { e with remap := e.remap.filter (fun x => x.2.loc.rank ≠ k) })
  let t := setSr (resetRankInsts (clearOwed t c k) c k) c k true
  evacDone (tierParkChecks (budgetDue (settleSpareSr t c))) c

theorem migrationComplete_spare {s : State} (h : s.mig.toRes = false) :
    migrationComplete s = rankRested (migEnded (spareHolds s s.mig.ch s.mig.rank)) s.mig.ch s.mig.rank := by
  unfold migrationComplete
  rw [h]
  rfl

theorem keeps_rankRested {s : State} (hm : s.mig.st = .idle) (c k : Nat) : Keeps strandParts s (rankRested s c k) := by
  unfold rankRested
  dsimp only
  have k1 : Keeps strandParts s (s.modEccOf c (fun e => { e with remap := e.remap.filter (fun x => x.2.loc.rank ≠ k) })) :=
    (Keeps.refl _ s).setEccOf (by decide)
  generalize s.modEccOf c (fun e => { e with remap := e.remap.filter (fun x => x.2.loc.rank ≠ k) }) = u at k1
  have k2 : Keeps strandParts s (budgetDue (settleSpareSr (setSr (resetRankInsts (clearOwed u c k) c k) c k true) c)) :=
    ((((k1.clearOwed (by decide) (by decide)).resetRankInsts (by decide)).setSr (by decide) (by decide)).settleSpareSr
      (by decide) (by decide)).budgetDue (by decide)
  generalize budgetDue (settleSpareSr (setSr (resetRankInsts (clearOwed u c k) c k) c k true) c) = v at k2
  have hm' : v.mig.st = .idle := (congrArg Mig.st (k2 .mig (by decide))).trans hm
  exact (k2.trans ((keeps_tierParkChecks hm').mono (by decide))).evacDone (by decide)

theorem fin_mig (s t : State) : (fin s t).mig = t.mig := rfl

theorem engineIdle_st {s : State} (h : engineIdle s = true) : s.mig.st = .idle := by
  unfold engineIdle at h
  simp only [Bool.and_eq_true, decide_eq_true_eq] at h
  exact h.1.1.1.1.1

theorem chunkMoved_mig (s : State) : (chunkMoved s).mig = { s.mig with pointer := s.mig.pointer + 65536 } :=
  keeps_chunkMoved s .mig (by decide)

theorem keeps_pointerMoved (s : State) : Keeps [.mig] s (pointerMoved s) := (Keeps.refl _ s).setMig (by decide)

/-- Settles O38. -/
theorem migration : Obligations.Migration := by
  refine ⟨fun s c k hp hi hn hk hb hf ha => ?_, fun s c k gs hp hi hn hk hb hf hg => ?_,
    fun s c k hp hi hn hk hb hf hg hst => ?_, fun s hp hm hd hf hb => ?_, fun s x hp hm hd hw ht hq => ?_,
    fun s hp hr hc hl => ?_, fun s hp h => exec_pointerAdvance_not hp h, fun s hp hr hc hl ht hk hch => ?_⟩
  · have hexec := exec_migrationStart hp hi hn (by omega) hb (fun _ => ha)
    have ko := keeps_orderTaken s c k
    have hord : (orderTaken s c k).mig = { s.mig with order := s.mig.order.filter (· ≠ rankKey c k) } := rfl
    have hstart : startRank (orderTaken s c k) c k = takeRank (orderTaken s c k) c k false [] :=
      if_pos ((spareFits_orderTaken s c k c k).trans hf)
    rw [hstart] at hexec
    generalize orderTaken s c k = u at hexec ko hord
    have kt := keeps_takeRank u c k false []
    have hrank := (kt.rank_eq (by decide) c k).trans (rankTaken_rank u c k false [])
    have hmig := (kt .mig (by decide)).trans (rankTaken_mig u c k false [])
    have kall : Keeps [.mig, .ranks, .log, .chans, .rfr, .reqs, .flowRt, .flw] s (takeRank u c k false []) :=
      ((ko.mono (by decide)).trans ((keeps_rankTaken u c k false []).mono (by decide))).trans (kt.mono (by decide))
    have hsr := takeRank_spare_inSr u c k
    generalize takeRank u c k false [] = v at hexec hrank hmig kall hsr
    refine ⟨_, hexec, ?_⟩
    rw [fin_rank, fin_mig, fin_rfrOf, hrank, hmig, hord]
    exact ⟨rfl, rfl, rfl, rfl, rfl, rfl, rfl, rfl, hsr, kall .mem (by decide), kall .tables (by decide), kall .flt (by decide)⟩
  · have hexec := exec_migrationStart hp hi hn hk hb (fun h => absurd (hf ▸ h) Bool.false_ne_true)
    have ko := keeps_orderTaken s c k
    have hstart : startRank (orderTaken s c k) c k = takeRank (orderTaken s c k) c k true gs := by
      have hg' : chooseGrans (orderTaken s c k) c k = some gs := (ko.chooseGrans_eq (by decide) c k).trans hg
      unfold startRank
      rw [spareFits_orderTaken, hf, if_neg Bool.false_ne_true, hg']
    rw [hstart] at hexec
    generalize orderTaken s c k = u at hexec ko
    have kt := keeps_takeRank u c k true gs
    have hrank := (kt.rank_eq (by decide) c k).trans (rankTaken_rank u c k true gs)
    have hmig := (kt .mig (by decide)).trans (rankTaken_mig u c k true gs)
    have kall : Keeps [.mig, .ranks, .log, .chans, .rfr, .reqs, .flowRt, .flw] s (takeRank u c k true gs) :=
      ((ko.mono (by decide)).trans ((keeps_rankTaken u c k true gs).mono (by decide))).trans (kt.mono (by decide))
    generalize takeRank u c k true gs = v at hexec hrank hmig kall
    refine ⟨_, hexec, ?_⟩
    rw [fin_rank, fin_mig, hrank, hmig]
    exact ⟨rfl, rfl, rfl, rfl, rfl, rfl, kall .mem (by decide)⟩
  · have hexec := exec_migrationStart hp hi hn hk hb (fun h => absurd (hf ▸ h) Bool.false_ne_true)
    have ko := keeps_orderTaken s c k
    have hidle : (orderTaken s c k).mig.st = .idle := engineIdle_st hi
    have hfences : (orderTaken s c k).mig.fences = s.mig.fences := rfl
    have hstart : startRank (orderTaken s c k) c k = evacDone (tierParkChecks (fenceRank (orderTaken s c k) c k 1)) c := by
      have hg' : chooseGrans (orderTaken s c k) c k = none := (ko.chooseGrans_eq (by decide) c k).trans hg
      unfold startRank
      rw [spareFits_orderTaken, hf, if_neg Bool.false_ne_true, hg']
    rw [hstart] at hexec
    generalize orderTaken s c k = u at hexec ko hidle hfences
    have hnf : (u.rank c k).st ≠ .fenced := by
      rw [ko.rank_eq (by decide), hst]
      exact nofun
    have ks := keeps_stranded hnf hidle
    have hrank := (ks.rank_eq (by decide) c k).trans (rankFenced_rank u c k 1)
    have hmig := (ks .mig (by decide)).trans (rankFenced_mig u c k 1)
    have hmem : (rankFenced u c k 1).mem = s.mem :=
      (Keeps.setMig (Keeps.setRank (l := [.ranks, .log, .mig]) (Keeps.refl _ u) (by decide) (by decide)) (by decide) .mem
        (by decide)).trans (ko .mem (by decide))
    have hmem' := (ks .mem (by decide)).trans hmem
    generalize evacDone (tierParkChecks (fenceRank u c k 1)) c = v at hexec hrank hmig hmem'
    refine ⟨_, hexec, ?_⟩
    rw [fin_rank, fin_mig, hrank, hmig]
    exact ⟨rfl, rfl, hidle, by rw [hfences], hmem'⟩
  · have hexec := exec_requestDispatch_mig hp hm
    have hcan := readCan_room (readCan_of_migFirst hm hd) hf hb
    have k := keeps_migTurn s
    have hmig : (migTurn s).mig = s.mig := k .mig (by decide)
    have hused := migUsed_migTurn s
    have hsrc : copySource (migTurn s) (migTurn s).mig.readPos = copySource s s.mig.readPos := by
      rw [hmig, copySource, hmig, k.rank_eq (by decide), copySource]
    have hf' : migFills (migTurn s) = false := by rw [migFills, hmig, k.rank_eq (by decide), ← migFills, hf]
    have hb' : batchBlank (migTurn s) = false := by rw [k.batchBlank_eq (by decide), hb]
    rw [migStep, k.drainCan_eq (by decide), hd, if_neg Bool.false_ne_true, migRead_asks hf' hb'] at hexec
    generalize migTurn s = u at hexec k hmig hused hsrc
    have kl : Keeps [.mig] u (linesAsked u) := (Keeps.refl _ u).setMig (by decide)
    have hloc : (migReadEntry u).loc = copySource s s.mig.readPos := hsrc
    have hch : (migReadEntry u).loc.ch = s.mig.ch := (congrArg Loc.ch hloc).trans (copySource_ch s _)
    have hq := pushRead_chan (s := linesAsked u) (e := migReadEntry u)
      (by rw [kl.canRead_eq (by decide), k.canRead_eq (by decide), hch]; exact hcan.1)
      (by rw [kl .rst (by decide), k .rst (by decide), hch]; exact hcan.2)
    rw [hch] at hq
    have kp : Keeps [.chans] (linesAsked u) (pushRead (linesAsked u) (migReadEntry u)) :=
      (Keeps.refl _ _).pushRead (by decide)
    have hpm : (pushRead (linesAsked u) (migReadEntry u)).mig = { s.mig with
        readPos := s.mig.readPos + 4
        st := if rankLines ≤ s.mig.readPos + 4 then .finish else .copy
        win := s.elapsed / 64
        used := migUsed s + 4 } := by
      rw [kp .mig (by decide), linesAsked, hmig, hused, k .elapsed (by decide)]
    have hcu : (linesAsked u).chan s.mig.ch = s.chan s.mig.ch :=
      (kl.chan_eq (by decide) _).trans (k.chan_eq (by decide) _)
    refine ⟨_, entered (linesAsked u) (migReadEntry u), hexec, ?_⟩
    rw [fin_mig, hpm, fin_chan, hq, hcu]
    exact ⟨rfl, rfl, rfl, rfl, rfl, rfl, hloc, rfl, rfl,
      ((k.mono (by decide)).trans ((kl.mono (by decide)).trans (kp.mono (by decide)))).fin⟩
  · have hexec := exec_requestDispatch_mig hp hm
    have hcan := drainCan_room hd hw ht
    have k := keeps_migTurn s
    have hmig : (migTurn s).mig = s.mig := k .mig (by decide)
    have htw : toWrite (migTurn s) = toWrite s := by rw [toWrite, hmig, ← toWrite]
    rw [migStep, k.drainCan_eq (by decide), hd, if_pos rfl, migDrain_sends (by rw [htw]; exact hw)
      (by rw [hmig, k.copyTarget_eq (by decide)]; exact ht)] at hexec
    generalize migTurn s = u at hexec k hmig htw
    have kl : Keeps [.mig] u (linesSent u) := (Keeps.refl _ u).setMig (by decide)
    have hcu : (linesSent u).chan x.ch = s.chan x.ch := (kl.chan_eq (by decide) _).trans (k.chan_eq (by decide) _)
    obtain ⟨hc, kp⟩ := pushWrite_chan (s := linesSent u) (e := migWriteEntry u x)
      (show canWrite (linesSent u) x.ch false = true by
        rw [kl.canWrite_eq (by decide), k.canWrite_eq (by decide)]; exact hcan.1)
      (show (linesSent u).rst.chanBusy.contains x.ch = false by
        rw [kl .rst (by decide), k .rst (by decide)]; exact hcan.2) rfl
      (show Unasked ((linesSent u).chan x.ch).wrq by rw [hcu]; exact hq)
    have hwq : ((writeQueued (linesSent u) (migWriteEntry u x)).chan x.ch).wrq =
        (s.chan x.ch).wrq ++ [entered (linesSent u) (migWriteEntry u x)] := by
      rw [← hcu]
      exact writeQueued_wrq (linesSent u) (migWriteEntry u x)
    have hpm : (pushWrite (linesSent u) (migWriteEntry u x)).mig = { s.mig with writePos := s.mig.writePos + 4 } := by
      rw [kp .mig (by decide), linesSent, hmig]
    refine ⟨_, entered (linesSent u) (migWriteEntry u x), hexec, ?_⟩
    rw [fin_mig, hpm, fin_chan]
    refine ⟨rfl, rfl, (congrArg Chan.wrq hc).trans hwq, rfl, rfl, congrArg Mig.writePos hmig, ?_,
      ((k.mono (by decide)).trans ((kl.mono (by decide)).trans (kp.mono (by decide)))).fin⟩
    show (toWrite u).map (fun j => x.col + (j - u.mig.writePos)) = _
    rw [htw, hmig]
  · have hexec := exec_pointerAdvance hp hr hc
    have hm := chunkMoved_mig s
    have k := ((keeps_pointerMoved s).mono (k := [.mig, .flw]) (by decide)).trans ((keeps_chunkMoved s).mono (by decide))
    generalize chunkMoved s = u at hexec hm k
    have hpt : u.mig.pointer = s.mig.pointer + 65536 := by rw [hm]
    have hn : ¬ rankLines ≤ u.mig.pointer := by
      rw [hpt, rankLines]
      omega
    rw [if_neg hn] at hexec
    have kr : Keeps rerouteParts u (rerouteAll u) := (Keeps.refl _ u).rerouteAll (by decide)
    generalize rerouteAll u = v at hexec kr
    refine ⟨_, hexec, ?_, ((k.mono (by decide)).trans (kr.mono (by decide))).fin⟩
    rw [fin_mig, kr .mig (by decide), hm]
  · have hexec := exec_pointerAdvance hp hr hc
    have hm := chunkMoved_mig s
    generalize chunkMoved s = u at hexec hm
    have hpt : u.mig.pointer = s.mig.pointer + 65536 := by rw [hm]
    have hend : rankLines ≤ u.mig.pointer := by
      rw [hpt, rankLines]
      omega
    have h1 : u.mig.ch = s.mig.ch := by rw [hm]
    have h2 : u.mig.rank = s.mig.rank := by rw [hm]
    have h3 : u.mig.toRes = false := by rw [hm]; exact ht
    have h4 : u.mig.migrations = s.mig.migrations := by rw [hm]
    obtain ⟨hsrc, hsp, hho⟩ := spareHolds_ranks u s.mig.ch hk
    rw [if_pos hend, migrationComplete_spare h3, h1, h2] at hexec
    have hmm := migEnded_mig (spareHolds u s.mig.ch s.mig.rank)
    have hmr := migEnded_rank (spareHolds u s.mig.ch s.mig.rank) s.mig.ch
    rw [spareHolds_mig, h4] at hmm
    generalize spareHolds u s.mig.ch s.mig.rank = v at hexec hsrc hsp hho hmm hmr
    generalize migEnded v = w at hexec hmm hmr
    have kr := ((keeps_rankRested (s := w) (by rw [hmm]) s.mig.ch s.mig.rank).rerouteAll (by decide))
    generalize rerouteAll (rankRested w s.mig.ch s.mig.rank) = z at hexec kr
    refine ⟨_, hexec, ?_⟩
    rw [fin_mig, fin_rank, fin_rank, kr .mig (by decide), kr.rank_eq (by decide), kr.rank_eq (by decide), hmm, hmr, hmr]
    exact ⟨rfl, rfl, rfl, hsrc, hsp, hho⟩

end Sys2Proof.Proofs

/-! The copy of a repaired row into its spare row (R239). -/

namespace Sys2Proof.Safety

open Sys2Proof.Machine

section Repair

variable {l : List Part} {s t : State} (h : Keeps l s t)
include h

theorem Keeps.monitorHalf {c : Nat} {lanes : List Nat} (hl : Part.tsv ∈ l) :
    Keeps l s (Sys2Proof.Machine.monitorHalf t c lanes) := by
  unfold Sys2Proof.Machine.monitorHalf
  split
  · exact h
  · dsimp only
    exact Keeps.ite (h.setTsvOf hl) (Proofs.keeps_suspect (h.setTsvOf hl) hl)

theorem Keeps.monitorLine {c : Nat} {d : Decoded} (hl : Part.tsv ∈ l) : Keeps l s (Sys2Proof.Machine.monitorLine t c d) := by
  have k : Keeps l s (if d.a = .corrected then Sys2Proof.Machine.monitorHalf t c d.symsA else t) :=
    Keeps.ite (h.monitorHalf hl) h
  exact Keeps.ite (k.monitorHalf hl) k

theorem Keeps.countErase {c : Nat} {d : Decoded} (hl : Part.ecc ∈ l) : Keeps l s (Sys2Proof.Machine.countErase t c d) :=
  h.setEccOf hl

/-- The parts that what a decode finds is counted in. -/
def countParts : List Part := [.ecc, .flt, .tel, .log]

theorem Keeps.countCe {x : Loc} {d : Decoded} {f : BitVec 2} (hl : countParts ⊆ l) :
    Keeps l s (Sys2Proof.Machine.countCe t x d f) :=
  ((h.setEccOf (hl (by decide))).raise _ _ _ (hl (by decide))).perf _ _ _ (hl (by decide))

theorem Keeps.countUe {x : Loc} {d : Decoded} {f : BitVec 2} {p : Option (Nat × Nat)} (hl : countParts ⊆ l) :
    Keeps l s (Sys2Proof.Machine.countUe t x d f p) :=
  (((h.setEccOf (hl (by decide))).raise _ _ _ (hl (by decide))).perf _ _ _ (hl (by decide))).logJournal (hl (by decide))

theorem Keeps.countPoison {c : Nat} (hl : countParts ⊆ l) : Keeps l s (Sys2Proof.Machine.countPoison t c) :=
  (h.setEccOf (hl (by decide))).perf _ _ _ (hl (by decide))

theorem Keeps.placeWaiting {c : Nat} (he : Part.ecc ∈ l) (hc : Part.chans ∈ l) (hf : Part.flt ∈ l) :
    Keeps l s (Sys2Proof.Machine.placeWaiting t c) :=
  Keeps.foldl (fun _ _ k => k.raise _ _ _ hf) _ (Keeps.foldl (fun _ _ k => k.pushRead hc) _ (h.setEccOf he))

end Repair

end Sys2Proof.Safety

namespace Sys2Proof.Proofs

open Sys2Proof.Machine
open Sys2Proof.Safety

/-! ### What counting leaves of a channel -/

/-- The rest of a channel's remap state, beside its counts, and its erased lanes are what they were. -/
structure RowRead (c : Nat) (s t : State) : Prop where
  mem : t.mem = s.mem
  remap : (t.eccOf c).remap = (s.eccOf c).remap
  rows : (t.eccOf c).rows = (s.eccOf c).rows
  rowsBusy : (t.eccOf c).rowsBusy = (s.eccOf c).rowsBusy
  erased : erasedOf t c = erasedOf s c

theorem RowRead.refl (c : Nat) (s : State) : RowRead c s s := ⟨rfl, rfl, rfl, rfl, rfl⟩

theorem RowRead.ite {c : Nat} {s t u : State} {p : Prop} [Decidable p] (h : RowRead c s t) (k : RowRead c s u) :
    RowRead c s (if p then t else u) := by
  split
  · exact h
  · exact k

section Counted

variable {c : Nat} {s t : State} (h : RowRead c s t)
include h

theorem RowRead.setEccOf {v : Ecc} (hv : v.remap = (t.eccOf c).remap ∧ v.rows = (t.eccOf c).rows ∧
    v.rowsBusy = (t.eccOf c).rowsBusy) : RowRead c s (t.setEccOf c v) := by
  obtain ⟨hm, hr, hb⟩ := hv
  refine ⟨h.mem, ?_, ?_, ?_, h.erased⟩
  · rw [eccOf_setEccOf, hm, h.remap]
  · rw [eccOf_setEccOf, hr, h.rows]
  · rw [eccOf_setEccOf, hb, h.rowsBusy]

theorem RowRead.setTsvOf {v : Tsv} (hv : v.erasedA = (t.tsvOf c).erasedA ∧ v.erasedB = (t.tsvOf c).erasedB) :
    RowRead c s (t.setTsvOf c v) := by
  obtain ⟨ha, hb⟩ := hv
  refine ⟨h.mem, h.remap, h.rows, h.rowsBusy, ?_⟩
  rw [erasedOf, tsvOf_setTsvOf, ha, hb]
  exact h.erased

theorem RowRead.keeps {l : List Part} {u : State} (k : Keeps l t u) (hm : Part.mem ∉ l) (he : Part.ecc ∉ l)
    (ht : Part.tsv ∉ l) : RowRead c s u := by
  have e := k.eccOf_eq he c
  refine ⟨(k .mem hm).trans h.mem, ?_, ?_, ?_, ?_⟩
  · rw [e, h.remap]
  · rw [e, h.rows]
  · rw [e, h.rowsBusy]
  · rw [erasedOf, k.tsvOf_eq ht]
    exact h.erased

theorem RowRead.countSuspect : RowRead c s (Sys2Proof.Machine.countSuspect t c) := by
  refine RowRead.setTsvOf h ?_
  exact ⟨rfl, rfl⟩

theorem RowRead.askCheck {w : CheckWait} : RowRead c s (Sys2Proof.Machine.askCheck t c w) := by
  refine RowRead.setTsvOf h ?_
  exact ⟨rfl, rfl⟩

theorem RowRead.suspect {w : CheckWait} : RowRead c s (Sys2Proof.Machine.suspect t c w) :=
  RowRead.ite h.countSuspect h.countSuspect.askCheck

theorem RowRead.runMarked {lane : BitVec 7} {n : Nat} :
    RowRead c s (t.modTsvOf c (fun t => { t with runLane := lane, runCount := n })) := by
  refine RowRead.setTsvOf h ?_
  exact ⟨rfl, rfl⟩

theorem RowRead.monitorHalf {lanes : List Nat} : RowRead c s (Sys2Proof.Machine.monitorHalf t c lanes) := by
  unfold Sys2Proof.Machine.monitorHalf
  split
  · exact h
  · dsimp only
    exact RowRead.ite h.runMarked h.runMarked.suspect

theorem RowRead.monitorLine {d : Decoded} : RowRead c s (Sys2Proof.Machine.monitorLine t c d) := by
  have k : RowRead c s (if d.a = .corrected then Sys2Proof.Machine.monitorHalf t c d.symsA else t) :=
    RowRead.ite h.monitorHalf h
  exact RowRead.ite k.monitorHalf k

theorem RowRead.countErase {d : Decoded} : RowRead c s (Sys2Proof.Machine.countErase t c d) := by
  refine RowRead.setEccOf h ?_
  exact ⟨rfl, rfl, rfl⟩

theorem RowRead.perf {ev i n : Nat} : RowRead c s (Sys2Proof.Machine.perf t ev i n) :=
  ⟨h.mem, h.remap, h.rows, h.rowsBusy, h.erased⟩

theorem RowRead.raise {a b : Nat} {w : Word} : RowRead c s (Sys2Proof.Machine.raise t a b w) :=
  ⟨h.mem, h.remap, h.rows, h.rowsBusy, h.erased⟩

theorem RowRead.logJournal {r : LogRec} : RowRead c s (Sys2Proof.Machine.logJournal t r) :=
  h.keeps ((Keeps.refl [.log] t).logJournal (by decide)) (by decide) (by decide) (by decide)

theorem RowRead.countCe {x : Loc} (hx : x.ch = c) {d : Decoded} {f : BitVec 2} :
    RowRead c s (Sys2Proof.Machine.countCe t x d f) := by
  subst hx
  refine RowRead.perf (RowRead.raise (RowRead.setEccOf h ?_))
  exact ⟨rfl, rfl, rfl⟩

theorem RowRead.countUe {x : Loc} (hx : x.ch = c) {d : Decoded} {f : BitVec 2} {p : Option (Nat × Nat)} :
    RowRead c s (Sys2Proof.Machine.countUe t x d f p) := by
  subst hx
  refine RowRead.logJournal (RowRead.perf (RowRead.raise (RowRead.setEccOf h ?_)))
  exact ⟨rfl, rfl, rfl⟩

theorem RowRead.countPoison : RowRead c s (Sys2Proof.Machine.countPoison t c) := by
  refine RowRead.perf (RowRead.setEccOf h ?_)
  exact ⟨rfl, rfl, rfl⟩

/-! ### What a line of the row is copied as -/

theorem RowRead.remapAt_eq {x : Loc} (hx : x.ch = c) : remapAt t x = remapAt s x := by
  subst hx
  rw [remapAt, h.remap, remapAt]

theorem RowRead.memRead_eq (x : Loc) : memRead t x = memRead s x := by
  have e : ∀ i, t.rmem i = s.rmem i := fun i => by rw [State.rmem, h.mem, State.rmem]
  rw [memRead, e, memRead]

theorem RowRead.cellRead_eq {x : Loc} (hx : x.ch = c) : cellRead t x = cellRead s x := by
  have e : (t.eccOf x.ch).remap = (s.eccOf x.ch).remap := by
    subst hx
    exact h.remap
  simp only [cellRead, h.remapAt_eq hx, e, h.memRead_eq]

theorem RowRead.decodeLine_eq (w : Half × Half) : decodeLine t c w = decodeLine s c w := by
  rw [decodeLine, h.erased, decodeLine]

end Counted

/-- What a line of a row under repair is copied as. -/
def lineKept (s : State) (x : Loc) (err : Half × Half) : Half × Half :=
  let w := cellRead s x
  let d := decodeLine s x.ch (w.1 ^^^ err.1, w.2 ^^^ err.2)
  if (remapAt s x).isSome = true then w else if d.out = .clean ∨ d.out = .corrected then d.words else poisonWords

theorem RowRead.lineKept_eq {c : Nat} {s t : State} (h : RowRead c s t) {x : Loc} (hx : x.ch = c) (err : Half × Half) :
    lineKept t x err = lineKept s x err := by
  subst hx
  simp only [lineKept, h.cellRead_eq rfl, h.remapAt_eq rfl, h.decodeLine_eq]

/-- The parts that a row's lines are counted in. -/
def rowParts : List Part := [.ecc, .flt, .tel, .tsv, .log]

/-- A line of the row: what it is copied as, and what its read leaves. -/
theorem repairLine_spec (s : State) (x : Loc) (err : Half × Half) : (repairLine s x err).2 = lineKept s x err ∧
    RowRead x.ch s (repairLine s x err).1 ∧ Keeps rowParts s (repairLine s x err).1 := by
  unfold repairLine lineKept
  dsimp only
  by_cases hr : (remapAt s x).isSome = true
  · rw [if_pos hr, if_pos hr]
    exact ⟨rfl, .refl _ s, Keeps.refl _ s⟩
  rw [if_neg hr, if_neg hr]
  generalize decodeLine s x.ch ((cellRead s x).1 ^^^ err.1, (cellRead s x).2 ^^^ err.2) = d
  have h : RowRead x.ch s (monitorLine (countErase s x.ch d) x.ch d) := (RowRead.refl _ s).countErase.monitorLine
  have k : Keeps rowParts s (monitorLine (countErase s x.ch d) x.ch d) :=
    ((Keeps.refl _ s).countErase (by decide)).monitorLine (by decide)
  generalize monitorLine (countErase s x.ch d) x.ch d = u at h k
  cases d.out with
  | clean => exact ⟨(if_pos (.inl rfl)).symm, h, k⟩
  | corrected => exact ⟨(if_pos (.inr rfl)).symm, h.countCe rfl, k.countCe (by decide)⟩
  | uncorrectable => exact ⟨(if_neg (by rintro (h | h) <;> exact nomatch h)).symm, h.countUe rfl, k.countUe (by decide)⟩
  | poison => exact ⟨(if_neg (by rintro (h | h) <;> exact nomatch h)).symm, h.countPoison, k.countPoison (by decide)⟩

end Sys2Proof.Proofs

/-! The lines of a repaired row in its spare row, and the end of the repair (R239). -/

namespace Sys2Proof.Proofs

open Sys2Proof.Machine
open Sys2Proof.Safety

/-! ### The row read -/

/-- A line of a row. -/
def rowLine (c k b row col : Nat) : Loc := { ch := c, rank := k, bank := b, row := row, col := col }

/-- Lines of a row read in turn: the state and what each is copied as. -/
def readCols (c k b row : Nat) (errs : List (Nat × Half × Half)) (acc : State × List (Half × Half)) (col : Nat) :
    State × List (Half × Half) :=
  let x := repairLine acc.1 (rowLine c k b row col) ((tfind errs col).getD (0, 0))
  (x.1, acc.2 ++ [x.2])

/-- What a line of a row is copied as. -/
def colKept (s : State) (c k b row : Nat) (errs : List (Nat × Half × Half)) (col : Nat) : Half × Half :=
  lineKept s (rowLine c k b row col) ((tfind errs col).getD (0, 0))

theorem readCols_spec (c k b row : Nat) (errs : List (Nat × Half × Half)) (cols : List Nat) {s u : State}
    (ws : List (Half × Half)) (h : RowRead c s u) (kp : Keeps rowParts s u) :
    (cols.foldl (readCols c k b row errs) (u, ws)).2 = ws ++ cols.map (colKept s c k b row errs) ∧
      RowRead c s (cols.foldl (readCols c k b row errs) (u, ws)).1 ∧
      Keeps rowParts s (cols.foldl (readCols c k b row errs) (u, ws)).1 := by
  induction cols generalizing u ws with
  | nil => exact ⟨(List.append_nil ws).symm, h, kp⟩
  | cons x xs ih =>
    obtain ⟨hw, hr, hk⟩ := repairLine_spec u (rowLine c k b row x) ((tfind errs x).getD (0, 0))
    have hr' : RowRead c s (repairLine u (rowLine c k b row x) ((tfind errs x).getD (0, 0))).1 :=
      ⟨hr.mem.trans h.mem, hr.remap.trans h.remap, hr.rows.trans h.rows, hr.rowsBusy.trans h.rowsBusy,
        hr.erased.trans h.erased⟩
    obtain ⟨h1, h2, h3⟩ := ih (ws ++ [colKept s c k b row errs x]) hr' (kp.trans hk)
    rw [List.foldl_cons]
    have e : readCols c k b row errs (u, ws) x =
        ((repairLine u (rowLine c k b row x) ((tfind errs x).getD (0, 0))).1, ws ++ [colKept s c k b row errs x]) := by
      rw [readCols, hw, h.lineKept_eq rfl]
      rfl
    rw [e]
    refine ⟨h1.trans ?_, h2, h3⟩
    rw [List.append_assoc, List.map_cons]
    rfl

/-! ### The row written -/

theorem memWrite_repair (s : State) (x : Loc) (w : Half × Half) (rk : Nat) :
    ((memWrite s x w).rmem rk).repair = (s.rmem rk).repair := by
  rw [memWrite]
  by_cases h : rk = rankKey x.ch x.rank
  · subst h
    rw [rmem_modRmem_self]
    rfl
  · rw [rmem_modRmem_ne _ _ _ _ h]

theorem key_of_repair {m n : RankMem} (h : m.repair = n.repair) (x : Loc) : m.key x = n.key x := by
  rw [RankMem.key, h, RankMem.key]

theorem key_rowLine_ne (m : RankMem) (c k b row : Nat) {i j : Nat} (h : i ≠ j) :
    m.key (rowLine c k b row i) ≠ m.key (rowLine c k b row j) := by
  have e : ∀ col, m.key (rowLine c k b row col) = m.key (rowLine c k b row 0) + col := fun _ => rfl
  rw [e i, e j]
  omega

/-- The lines of a row written. -/
def writeCols (c k b row : Nat) (f : Nat → Half × Half) (s : State) (col : Nat) : State :=
  memWrite s (rowLine c k b row col) (f col)

theorem writeCols_spec (c k b row : Nat) (f : Nat → Half × Half) (cols : List Nat) (s : State) :
    (cols.Nodup → ∀ col ∈ cols, memRead (cols.foldl (writeCols c k b row f) s) (rowLine c k b row col) = f col) ∧
      (∀ col, col ∉ cols →
        memRead (cols.foldl (writeCols c k b row f) s) (rowLine c k b row col) = memRead s (rowLine c k b row col)) ∧
      (∀ rk, ((cols.foldl (writeCols c k b row f) s).rmem rk).repair = (s.rmem rk).repair) := by
  induction cols generalizing s with
  | nil => exact ⟨fun _ _ h => absurd h List.not_mem_nil, fun _ _ => rfl, fun _ => rfl⟩
  | cons x xs ih =>
    obtain ⟨hin, hout, hrep⟩ := ih (writeCols c k b row f s x)
    refine ⟨fun hn col hc => ?_, fun col hc => ?_, fun rk => (hrep rk).trans (memWrite_repair s _ _ rk)⟩
    · obtain ⟨hx, hxs⟩ := List.nodup_cons.mp hn
      obtain rfl | hc := List.mem_cons.mp hc
      · exact (hout _ hx).trans (memRead_memWrite s _ _)
      · exact hin hxs col hc
    · obtain ⟨hx, hxs⟩ := not_or.mp (fun h => hc (List.mem_cons.mpr h))
      exact (hout col hxs).trans (memRead_memWrite_ne s _ _ _ (.inr (key_rowLine_ne _ c k b row hx)))

theorem keeps_writeCols (c k b row : Nat) (f : Nat → Half × Half) (cols : List Nat) (s : State) :
    Keeps [.mem] s (cols.foldl (writeCols c k b row f) s) :=
  Keeps.foldl (fun _ _ h => h.setRmem (by decide)) cols (Keeps.refl _ s)

/-! ### The repair of a row -/

/-- The row's entries FREE, the row counted, and its spare row in its place. -/
def rowSpared (s : State) (c k b row i : Nat) : State :=
  (s.modEccOf c (fun e => { e with
    remap := e.remap.filter (fun r => rowOf r.2.loc ≠ (k, b, row))
    rows := sat e.rows 1
    rowsBusy := e.rowsBusy.drop 1 })).modRmem (rankKey c k) (fun m => { m with repair := tput m.repair (b * 16384 + row) i })

theorem repairRow_eq (s : State) (c k b row i : Nat) (errs : List (Nat × Half × Half)) :
    repairRow s c k b row i errs = (List.range 16).foldl
      (writeCols c k b row (fun col => ((List.range 16).foldl (readCols c k b row errs) (s, [])).2.getD col poisonWords))
      (rowSpared ((List.range 16).foldl (readCols c k b row errs) (s, [])).1 c k b row i) := rfl

theorem rowSpared_ecc (s : State) (c k b row i : Nat) : (rowSpared s c k b row i).eccOf c = { s.eccOf c with
    remap := (s.eccOf c).remap.filter (fun r => rowOf r.2.loc ≠ (k, b, row))
    rows := sat (s.eccOf c).rows 1
    rowsBusy := (s.eccOf c).rowsBusy.drop 1 } := by
  have e : ∀ (u : State) (j : Nat) (g : RankMem → RankMem), (u.modRmem j g).eccOf c = u.eccOf c := fun _ _ _ => rfl
  rw [rowSpared, e, modEccOf_def, eccOf_setEccOf]

theorem rowSpared_repair (s : State) (c k b row i : Nat) :
    tfind ((rowSpared s c k b row i).rmem (rankKey c k)).repair (b * 16384 + row) = some i := by
  rw [rowSpared, rmem_modRmem_self]
  exact tfind_tput_self _ _ _

theorem keeps_rowSpared (s : State) (c k b row i : Nat) : Keeps [.ecc, .mem] s (rowSpared s c k b row i) :=
  Keeps.setRmem (Keeps.setEccOf (Keeps.refl _ s) (by decide)) (by decide)

/-- What a row's repair leaves, before the channel goes on. -/
structure RowRepaired (c k b row i : Nat) (rest : List (Nat × Nat × Nat × Nat)) (s : State) (f : Nat → Half × Half)
    (t : State) : Prop where
  spare : tfind (t.rmem (rankKey c k)).repair (b * 16384 + row) = some i
  rows : (t.eccOf c).rows = sat (s.eccOf c).rows 1
  rowsBusy : (t.eccOf c).rowsBusy = rest
  lines : ∀ col < 16, memRead t (rowLine c k b row col) = f col
  free : ∀ e ∈ (t.eccOf c).remap, rowOf e.2.loc ≠ (k, b, row)

theorem rowRepaired_repairRow {s : State} {c k b row i : Nat} {rest : List (Nat × Nat × Nat × Nat)}
    (hb : (s.eccOf c).rowsBusy = (k, b, row, i) :: rest) (errs : List (Nat × Half × Half)) :
    RowRepaired c k b row i rest s (colKept s c k b row errs) (repairRow s c k b row i errs) ∧
      Keeps (.mem :: rowParts) s (repairRow s c k b row i errs) := by
  obtain ⟨hws, hr, hk⟩ := readCols_spec c k b row errs (List.range 16) [] (RowRead.refl c s) (Keeps.refl rowParts s)
  rw [repairRow_eq]
  generalize (List.range 16).foldl (readCols c k b row errs) (s, []) = acc at hws hr hk
  rw [List.nil_append] at hws
  rw [hws]
  have he := rowSpared_ecc acc.1 c k b row i
  have hsp := rowSpared_repair acc.1 c k b row i
  have ks := keeps_rowSpared acc.1 c k b row i
  generalize rowSpared acc.1 c k b row i = u at he hsp ks
  obtain ⟨hin, -, hrep⟩ := writeCols_spec c k b row
    (fun col => ((List.range 16).map (colKept s c k b row errs)).getD col poisonWords) (List.range 16) u
  have kw := keeps_writeCols c k b row
    (fun col => ((List.range 16).map (colKept s c k b row errs)).getD col poisonWords) (List.range 16) u
  generalize (List.range 16).foldl (writeCols c k b row
    (fun col => ((List.range 16).map (colKept s c k b row errs)).getD col poisonWords)) u = t at hin hrep kw
  have hte : t.eccOf c = u.eccOf c := kw.eccOf_eq (by decide) c
  refine ⟨⟨?_, ?_, ?_, fun col hc => ?_, fun e hm => ?_⟩,
    (hk.mono (by decide)).trans ((ks.mono (by decide)).trans (kw.mono (by decide)))⟩
  · rw [hrep, hsp]
  · rw [hte, he, hr.rows]
  · rw [hte, he, hr.rowsBusy, hb]
    rfl
  · refine (hin List.nodup_range col (List.mem_range.mpr hc)).trans ?_
    rw [List.getD_eq_getElem?_getD, List.getElem?_map, List.getElem?_range hc]
    rfl
  · rw [hte, he] at hm
    exact of_decide_eq_true (List.mem_filter.mp hm).2

end Sys2Proof.Proofs

/-! Commit points, their end, retirement by command, and the obligation on commits and retirement (R235–R239, R244, R248,
R269). -/

namespace Sys2Proof.Proofs

open Sys2Proof.Machine
open Sys2Proof.Safety

/-! ### Commit points -/

/-- A commit of channel c asked for and queued. -/
def commitQueued (s : State) (c : Nat) : State :=
  (s.setEccOf c { s.eccOf c with busy := true }).setFus { s.fus with queue := queueJob s.fus.queue (.commit c) }

theorem requestCommit_queued {s : State} {c : Nat} (hb : (s.eccOf c).busy = false) (hl : s.sec.lc ≠ 3)
    (hbad : bankBad s.fus 4 = false) (ho : s.fus.op.isSome = true) : requestCommit s c = commitQueued s c := by
  have hn : ¬ (decide (s.sec.lc = 3) || bankBad s.fus 4) = true := by
    rw [decide_eq_false hl, hbad]
    exact Bool.false_ne_true
  have hs : startNext (commitQueued s c) = commitQueued s c := if_pos ho
  unfold requestCommit
  rw [if_neg (Bool.eq_false_iff.mp hb), if_neg hn]
  exact hs

theorem requestCommit_refused {s : State} {c : Nat} (hb : (s.eccOf c).busy = false)
    (h : s.sec.lc = 3 ∨ bankBad s.fus 4 = true) :
    requestCommit s c = s.setEccOf c { s.eccOf c with result := 2, noAuto := true, commitAt := none } := by
  have hp : (decide (s.sec.lc = 3) || bankBad s.fus 4) = true := by
    obtain h | h := h
    · rw [decide_eq_true h]
      rfl
    · rw [h, Bool.or_true]
  unfold requestCommit
  rw [if_neg (Bool.eq_false_iff.mp hb), if_pos hp, refuseCommit, modEccOf_def, ← hb]

theorem exec_commitPointTimer {s : State} {c t : Nat} (hp : s.pins.pwrgood = true) (hc : (s.eccOf c).commitAt = some t)
    (ht : t ≤ s.elapsed) (hn : (s.eccOf c).noAuto = false) (hr : (s.eccOf c).rowsBusy = []) :
    exec (.commitPointTimer c) s = .next (fin s (requestCommit s c)) := by
  refine answer_next hp ?_
  simp only [hc, ht, hn, hr, decide_true, Bool.not_false, Bool.and_self, if_true]

theorem exec_remapCommitWrite {c : Nat} (hc : c < 32) (via : Via) (data : Word) (s : State) :
    exec (.remapCommitWrite via c data) s = answer s (mgmtWrite s via (.ecc c) 9 data (remapCtrlWrite c data)) :=
  congrArg (answer s) (if_pos hc)

/-- The entry that a write of ECC_REMAP_CTRL selects. -/
def entrySelected (s : State) (c : Nat) (data : Word) : State :=
  s.setEccOf c { s.eccOf c with sel := data.extractLsb' 19 4 }

theorem entrySelected_ecc (s : State) (c : Nat) (data : Word) :
    (entrySelected s c data).eccOf c = { s.eccOf c with sel := data.extractLsb' 19 4 } := eccOf_setEccOf _ _ _

theorem remapCtrlWrite_commit {s : State} {c : Nat} {data : Word} (hd : data.getLsbD 23 = true)
    (hr : (s.eccOf c).rowsBusy = []) : remapCtrlWrite c data s = (.ok, requestCommit (entrySelected s c data) c) := by
  have hr' : ((entrySelected s c data).eccOf c).rowsBusy = [] := by
    rw [entrySelected_ecc]
    exact hr
  have h : (data.getLsbD 23 && decide (((entrySelected s c data).eccOf c).rowsBusy = [])) = true := by
    rw [hd, hr']
    rfl
  exact congrArg (Prod.mk Status.ok) (if_pos h)

theorem commitQueued_ecc (s : State) (c : Nat) : (commitQueued s c).eccOf c = { s.eccOf c with busy := true } := by
  have e : ∀ (u : State) (f : Fus), (u.setFus f).eccOf c = u.eccOf c := fun _ _ => rfl
  rw [commitQueued, e, eccOf_setEccOf]

theorem keeps_commitQueued (s : State) (c : Nat) : Keeps [.ecc, .fus] s (commitQueued s c) :=
  Keeps.setFus (Keeps.setEccOf (Keeps.refl _ s) (by decide)) (by decide)

/-! ### The end of a commit -/

theorem placeWaiting_none {s : State} {c : Nat} (h : (s.eccOf c).waitLines = []) :
    placeWaiting s c = s.modEccOf c (fun e => { e with waitLines := [] }) := by
  unfold placeWaiting
  dsimp only
  rw [h, List.take_nil, List.drop_nil]
  rfl

/-- A commit of channel c ended with its result. -/
def commitEnded (s : State) (c : Nat) (r : BitVec 3) : State := s.modEccOf c (fun e => { e with busy := false, result := r })

theorem commitEnded_ecc (s : State) (c : Nat) (r : BitVec 3) :
    (commitEnded s c r).eccOf c = { s.eccOf c with busy := false, result := r } := by
  rw [commitEnded, modEccOf_def, eccOf_setEccOf]

theorem keeps_commitEnded (s : State) (c : Nat) (r : BitVec 3) : Keeps [.ecc] s (commitEnded s c r) :=
  (Keeps.refl _ s).setEccOf (by decide)

/-- The end of a commit told where its result is not 1. -/
def commitTold (s : State) (c : Nat) (r : BitVec 3) : State := if r = 1 then s else raise s 0x1B c

theorem commitTold_eccOf (s : State) (c : Nat) (r : BitVec 3) (d : Nat) : (commitTold s c r).eccOf d = s.eccOf d := by
  unfold commitTold
  split
  · rfl
  · rfl

theorem keeps_commitTold (s : State) (c : Nat) (r : BitVec 3) : Keeps [.flt] s (commitTold s c r) :=
  Keeps.ite (Keeps.refl _ s) ((Keeps.refl _ s).raise _ _ _ (by decide))

theorem commitTold_flt (s : State) (c : Nat) (r : BitVec 3) : (commitTold s c r).flt =
    { s.flt with detected := s.flt.detected ++ (if r = 1 then [] else [{ src := 0x1B, inst := c, detail := 0 }]) } := by
  unfold commitTold
  split
  · rw [List.append_nil]
  · rfl

theorem exec_repairCommitDone {s : State} {c : Nat} (hp : s.pins.pwrgood = true) (h : commitFinished s c = true)
    (hr : (s.eccOf c).rowsBusy = []) (r : BitVec 3) (hres : r = if s.fus.recRes = 0 then 1 else s.fus.recRes) :
    exec (.repairCommitDone c) s =
      .next (fin s (startNext (clearOp (placeWaiting (commitTold (commitEnded s c r) c r) c)))) := by
  have hb : ((commitTold (commitEnded s c r) c r).eccOf c).rowsBusy = [] := by
    rw [commitTold_eccOf, commitEnded_ecc]
    exact hr
  refine answer_next hp ((if_pos h).trans ?_)
  dsimp only
  rw [← hres]
  exact congrArg (fun u => startNext (clearOp u)) (if_pos hb)

/-! ### The end of a row's repair -/

/-- What a step leaves of the repaired row. -/
theorem RowRepaired.of_read {c k b row i : Nat} {rest : List (Nat × Nat × Nat × Nat)} {s t u : State}
    {f : Nat → Half × Half} (h : RowRepaired c k b row i rest s f t) (hm : u.mem = t.mem)
    (he : (u.eccOf c).remap = (t.eccOf c).remap ∧ (u.eccOf c).rows = (t.eccOf c).rows ∧
      (u.eccOf c).rowsBusy = (t.eccOf c).rowsBusy) : RowRepaired c k b row i rest s f u := by
  obtain ⟨hremap, hrows, hbusy⟩ := he
  have hr : ∀ j, u.rmem j = t.rmem j := fun j => by rw [State.rmem, hm, State.rmem]
  refine ⟨by rw [hr, h.spare], by rw [hrows, h.rows], by rw [hbusy, h.rowsBusy], fun col hc => ?_, ?_⟩
  · rw [memRead, hr, ← memRead, h.lines col hc]
  · rw [hremap]
    exact h.free

theorem placeWaiting_ecc (s : State) (c : Nat) : (placeWaiting s c).eccOf c = { s.eccOf c with waitLines := [] } := by
  have k : Keeps [.chans, .flt] (s.modEccOf c (fun e => { e with waitLines := [] })) (placeWaiting s c) :=
    Keeps.foldl (fun _ _ k => k.raise _ _ _ (by decide)) _ (Keeps.foldl (fun _ _ k => k.pushRead (by decide)) _ (Keeps.refl _ _))
  rw [k.eccOf_eq (by decide), modEccOf_def, eccOf_setEccOf]

/-- The channel goes on once a row of it is repaired: lines that waited are placed after the last. -/
def repairGoesOn (s : State) (c : Nat) : State :=
  if decide ((s.eccOf c).rowsBusy = []) && !(s.eccOf c).busy then placeWaiting s c else s

theorem repairGoesOn_ecc (s : State) (c : Nat) : ((repairGoesOn s c).eccOf c).remap = (s.eccOf c).remap ∧
    ((repairGoesOn s c).eccOf c).rows = (s.eccOf c).rows ∧
      ((repairGoesOn s c).eccOf c).rowsBusy = (s.eccOf c).rowsBusy := by
  unfold repairGoesOn
  split
  · rw [placeWaiting_ecc]
    exact ⟨rfl, rfl, rfl⟩
  · exact ⟨rfl, rfl, rfl⟩

theorem keeps_repairGoesOn (s : State) (c : Nat) : Keeps [.ecc, .chans, .flt] s (repairGoesOn s c) :=
  Keeps.ite ((Keeps.refl _ s).placeWaiting (by decide) (by decide) (by decide)) (Keeps.refl _ s)

theorem exec_rowRepairDone {s : State} {c k b row i : Nat} {rest : List (Nat × Nat × Nat × Nat)}
    (hp : s.pins.pwrgood = true) (hb : (s.eccOf c).rowsBusy = (k, b, row, i) :: rest) (errs : List (Nat × Half × Half)) :
    exec (.rowRepairDone ⟨c, errs⟩) s =
      .next (fin s (settleChan (repairGoesOn (repairRow s c k b row i errs) c) c)) := by
  refine answer_next hp ?_
  dsimp only
  rw [hb]
  rfl

theorem cellRead_of_free {s : State} {x : Loc} (h : ∀ e ∈ (s.eccOf x.ch).remap, e.2.loc ≠ x) : cellRead s x = memRead s x := by
  have hn : remapAt s x = none := by
    rw [remapAt, List.find?_eq_none.mpr (fun e he => by simpa using h e he), Option.map_none]
  unfold cellRead
  rw [hn]

/-! ### Retirement by command -/

theorem exec_sprRetire (via : Via) (data : Word) (s : State) :
    exec (.sprRetire via data) s = answer s (mgmtWrite s via .mig 0 data (sprCtrlWrite data)) := rfl

/-- What a write of SPR_CTRL with its start bit answers. -/
theorem sprCtrlWrite_eq {data : Word} (hd : data.getLsbD 23 = true) (s : State) {c k : Nat}
    (hc : c = (data.extractLsb' 18 5).toNat) (hk : k = (data.extractLsb' 15 3).toNat) : sprCtrlWrite data s =
      if 4 < k then (.refused, s)
      else if rankPresent s.variant k = false then (.absent, s)
      else if (s.rank c k).st ≠ .inService ∧ (s.rank c k).st ≠ .spareHolding then (.refused, s)
      else (.ok, retireRank s c k 4) := by
  subst hc hk
  unfold sprCtrlWrite
  simp only [hd, Bool.not_true, Bool.false_eq_true, if_false]
  refine ite_congr rfl (fun _ => rfl) (fun _ => ite_congr (by simp) (fun _ => rfl) (fun _ => ?_))
  generalize (s.rank (data.extractLsb' 18 5).toNat (data.extractLsb' 15 3).toNat).st = st
  by_cases h1 : st = .inService
  · simp [h1]
  · by_cases h2 : st = .spareHolding
    · simp [h2]
    · simp [h1, h2]

/-- A rank in service made PENDING. -/
def pendingRank (s : State) (c k : Nat) (cause : BitVec 3) : RankSp := { s.rank c k with st := .pending, cause := cause }

theorem retireRank_inService {s : State} {c k : Nat} (hp : rankPresent s.variant k = true) (h : (s.rank c k).st = .inService)
    (cause : BitVec 3) : retireRank s c k cause = wakeStaging (makePending s c k cause) := by
  unfold retireRank
  simp only [hp, h, Bool.not_true, Bool.false_eq_true, if_false]

/-- A rank in service made PENDING behind the others, with the record of it due. -/
def pendingMade (s : State) (c k : Nat) (cause : BitVec 3) : State :=
  { logMap (s.setRankRaw c k (pendingRank s c k cause)) (.rank (rankKey c k) (pendingRank s c k cause)) with
    mig := { s.mig with order := s.mig.order ++ [rankKey c k] } }

theorem makePending_eq {s : State} {c k : Nat} (h : (s.rank c k).st = .inService) (cause : BitVec 3) :
    makePending s c k cause = pendingMade s c k cause := by
  have hn : ¬ (pendingRank s c k cause).st = (s.rank c k).st := by
    rw [h]
    exact nofun
  have hs : setRank s c k (pendingRank s c k cause) =
      logMap (s.setRankRaw c k (pendingRank s c k cause)) (.rank (rankKey c k) (pendingRank s c k cause)) := if_neg hn
  unfold makePending
  dsimp only
  rw [← pendingRank, hs]
  rfl

theorem pendingMade_rank (s : State) (c k : Nat) (cause : BitVec 3) :
    (pendingMade s c k cause).rank c k = pendingRank s c k cause := rank_setRankRaw s c k _

theorem pendingMade_mig (s : State) (c k : Nat) (cause : BitVec 3) :
    (pendingMade s c k cause).mig = { s.mig with order := s.mig.order ++ [rankKey c k] } := rfl

theorem pendingMade_waitMap (s : State) (c k : Nat) (cause : BitVec 3) : (pendingMade s c k cause).log.waitMap =
    s.log.waitMap ++ [(.rank (rankKey c k) (pendingRank s c k cause), s.mer.count)] := rfl

theorem keeps_pendingMade (s : State) (c k : Nat) (cause : BitVec 3) :
    Keeps [.ranks, .log, .mig] s (pendingMade s c k cause) :=
  Keeps.setMig (Keeps.logMap _ ((Keeps.refl _ s).setRankRaw (by decide)) (by decide)) (by decide)

/-- Settles O37. -/
theorem commitsAndRetirement : Obligations.CommitsAndRetirement := by
  refine ⟨fun s c t hp hc ht hn hr hb hl hbad ho => ?_, fun s via c data hc h hd hr hb hl hbad ho => ?_,
    fun s c t hp hc ht hn hr hb h => ?_, fun s c hp hf hr hw hq => ?_, fun s c k b row i rest errs hp hb => ?_,
    fun s via data c k h hd hc hk hk4 hp hst => ?_, fun s via data c k h hd hc hk => ?_⟩
  · rw [exec_commitPointTimer hp hc ht hn hr, requestCommit_queued hb hl hbad ho, commitQueued]
  · have ks : Keeps [.ecc] s (entrySelected s c data) := (Keeps.refl _ s).setEccOf (by decide)
    have he := entrySelected_ecc s c data
    have hexec := (exec_remapCommitWrite hc via data s).trans (answer_mgmtWrite h (remapCtrlWrite_commit hd hr))
    have hfus : (entrySelected s c data).fus = s.fus := ks .fus (by decide)
    rw [requestCommit_queued (by rw [he]; exact hb) (by rw [ks .sec (by decide)]; exact hl) (by rw [hfus, hbad])
      (by rw [hfus, ho])] at hexec
    generalize entrySelected s c data = u at hexec ks he hfus
    have kq := keeps_commitQueued u c
    have kr : Keeps [.ports] (commitQueued u c) (respond (commitQueued u c) via true (addrOf (.ecc c) 9) .ok 0) :=
      (Keeps.refl _ _).respond (by decide)
    refine ⟨_, hexec, ?_, ?_, ((ks.mono (by decide)).trans ((kq.mono (by decide)).trans (kr.mono (by decide)))).fin⟩
    · rw [fin_eccOf, kr.eccOf_eq (by decide), commitQueued_ecc, he]
    · have e : (commitQueued u c).fus = { u.fus with queue := queueJob u.fus.queue (.commit c) } := rfl
      exact (kr .fus (by decide)).trans (by rw [e, hfus])
  · rw [exec_commitPointTimer hp hc ht hn hr, requestCommit_refused hb h]
  · have hexec := exec_repairCommitDone hp hf hr _ rfl
    have hr1 : ∀ x : BitVec 3, ((if x = 0 then 1 else x) = 1 ↔ (x = 0 ∨ x = 1)) := by decide
    have hcond := hr1 s.fus.recRes
    generalize hres : (if s.fus.recRes = 0 then (1 : BitVec 3) else s.fus.recRes) = r at hexec hcond
    have ke := keeps_commitEnded s c r
    have he := commitEnded_ecc s c r
    generalize commitEnded s c r = u at hexec ke he
    have kt := keeps_commitTold u c r
    have hte := commitTold_eccOf u c r c
    have hflt := commitTold_flt u c r
    generalize commitTold u c r = v at hexec kt hte hflt
    have kv : Keeps [.ecc, .flt] s v := (ke.mono (by decide)).trans (kt.mono (by decide))
    have hvw : (v.eccOf c).waitLines = [] := by
      rw [hte, he]
      exact hw
    have hvf : v.fus = s.fus := kv .fus (by decide)
    have kp : Keeps [.ecc] v (placeWaiting v c) := by
      rw [placeWaiting_none hvw]
      exact (Keeps.refl _ v).setEccOf (by decide)
    have hpe := placeWaiting_ecc v c
    have hpf := (kp .fus (by decide)).trans hvf
    have hpflt : (placeWaiting v c).flt = v.flt := kp .flt (by decide)
    have kpv := (kv.mono (k := [.ecc, .fus, .flt]) (by decide)).trans (kp.mono (by decide))
    generalize placeWaiting v c = z at hexec hpe hpf hpflt kpv
    have hnone : startNext (clearOp z) = clearOp z :=
      startNext_of_no_job (show z.fus.queue = [] by rw [hpf, hq])
    have hce : (clearOp z).eccOf c = z.eccOf c := rfl
    have hcf : (clearOp z).fus = { z.fus with op := none, busy := false } := rfl
    have hcflt : (clearOp z).flt = z.flt := rfl
    rw [hnone] at hexec
    have kall : Keeps [.ecc, .fus, .flt] s (clearOp z) := kpv.clearOp (by decide)
    generalize clearOp z = y at hexec hce hcf hcflt kall
    refine ⟨_, hexec, ?_⟩
    rw [fin_eccOf, hce, hpe, hte, he, fin_fus, hcf, hpf, fin_flt, hcflt, hpflt, hflt, ke .flt (by decide)]
    refine ⟨rfl, rfl, rfl, rfl, rfl, ?_, kall.fin⟩
    rw [ite_congr (propext hcond) (fun _ => rfl) (fun _ => rfl)]
  · have hexec := exec_rowRepairDone hp hb errs
    obtain ⟨hrr, kr⟩ := rowRepaired_repairRow hb errs
    generalize repairRow s c k b row i errs = u at hexec hrr kr
    have kg := keeps_repairGoesOn u c
    have hrg := hrr.of_read (kg .mem (by decide)) (repairGoesOn_ecc u c)
    generalize repairGoesOn u c = v at hexec kg hrg
    have ks : Keeps settleParts v (settleChan v c) := (Keeps.refl _ v).settleChan (by decide)
    have hes : (settleChan v c).eccOf c = v.eccOf c := ks.eccOf_eq (by decide) c
    have hrt := hrg.of_read (ks .mem (by decide)) ⟨by rw [hes], by rw [hes], by rw [hes]⟩
    have kall : Keeps [.ecc, .mem, .chans, .flt, .tel, .tsv, .trn, .flowRt, .log] s (settleChan v c) :=
      (kr.mono (by decide)).trans ((kg.mono (by decide)).trans (ks.mono (by decide)))
    generalize settleChan v c = t at hexec hrt kall
    refine ⟨_, hexec, hrt.spare, hrt.rows, hrt.rowsBusy, ?_, hrt.free, kall.fin⟩
    intro col hcol l hl w e d hw he hd
    subst hl hw he hd
    have hfree : ∀ x ∈ (t.eccOf c).remap, x.2.loc ≠ rowLine c k b row col := by
      intro x hx hloc
      refine hrt.free x hx ?_
      rw [hloc]
      rfl
    rw [cellRead_fin]
    exact (cellRead_of_free hfree).trans (hrt.lines col hcol)
  · have hs : sprCtrlWrite data s = (.ok, retireRank s c k 4) := by
      rw [sprCtrlWrite_eq hd s hc hk, if_neg (by omega), if_neg (by rw [hp]; exact nofun), if_neg (by rw [hst]; simp)]
    have hexec := (exec_sprRetire via data s).trans (answer_mgmtWrite h hs)
    rw [retireRank_inService hp hst, makePending_eq hst] at hexec
    have k1 := keeps_pendingMade s c k 4
    have hrank := pendingMade_rank s c k 4
    have hmig := pendingMade_mig s c k 4
    have hlog := pendingMade_waitMap s c k 4
    generalize pendingMade s c k 4 = u at hexec k1 hrank hmig hlog
    have k2 : Keeps [.doms, .ports] u (respond (wakeStaging u) via true (addrOf .mig 0) .ok 0) :=
      ((Keeps.refl _ u).wakeStaging (by decide)).respond (by decide)
    generalize respond (wakeStaging u) via true (addrOf .mig 0) .ok 0 = v at hexec k2
    refine ⟨_, hexec, ?_, ?_, ?_, ((k1.mono (by decide)).trans (k2.mono (by decide))).fin⟩
    · rw [fin_rank, k2.rank_eq (by decide), hrank, pendingRank]
    · rw [fin_mig, k2 .mig (by decide), hmig]
    · rw [fin_log, k2 .log (by decide), hlog, pendingRank]
  · have ha : ∀ (st : Status) (u : State), sprCtrlWrite data s = (st, u) →
        exec (.sprRetire via data) s = .next (fin s (respond u via true (addrOf .mig 0) st 0)) :=
      fun st u hs => (exec_sprRetire via data s).trans (answer_mgmtWrite h hs)
    have hw := sprCtrlWrite_eq hd s hc hk
    by_cases h1 : 4 < k
    · rw [if_pos h1] at hw ⊢
      exact ha _ _ hw
    rw [if_neg h1] at hw ⊢
    by_cases h2 : rankPresent s.variant k = false
    · rw [if_pos h2] at hw ⊢
      exact ha _ _ hw
    rw [if_neg h2] at hw ⊢
    by_cases h3 : (s.rank c k).st ≠ .inService ∧ (s.rank c k).st ≠ .spareHolding
    · rw [if_pos h3] at hw ⊢
      exact ha _ _ hw
    · rw [if_neg h3] at hw ⊢
      exact ha _ _ hw

end Sys2Proof.Proofs

/-! What the parts of a command slot leave alone: the state of a channel, its line buffer, the bursts under way and their
counts, and the other channels (R163, R166). -/

namespace Sys2Proof.Proofs

open Sys2Proof.Machine
open Sys2Proof.Safety

/-- What queue work and the marks of a command leave alone of a channel. -/
def steady (ch : Chan) : ChanSt × List LbLine × List (Entry × Nat) × W72 × W72 × W72 :=
  (ch.st, ch.lb, ch.inflight, ch.rdBursts, ch.wrBursts, ch.actsCnt)

/-- A step that touches the parts `l`, leaves the other channels alone and of channel c what is steady. -/
structure Steady (c : Nat) (l : List Part) (s t : State) : Prop where
  keeps : Keeps l s t
  chan : steady (t.chan c) = steady (s.chan c)
  others : ∀ d, d ≠ c → t.chan d = s.chan d

namespace Steady

variable {c : Nat} {l : List Part} {s t : State}

theorem refl (c : Nat) (l : List Part) (s : State) : Steady c l s s := ⟨Keeps.refl l s, rfl, fun _ _ => rfl⟩

theorem of_keeps (k : Keeps l s t) (hl : Part.chans ∉ l) : Steady c l s t :=
  ⟨k, congrArg steady (k.chan_eq hl c), fun d _ => k.chan_eq hl d⟩

theorem trans {u : State} (h : Steady c l s t) (k : Steady c l t u) : Steady c l s u :=
  ⟨h.keeps.trans k.keeps, k.chan.trans h.chan, fun d hd => (k.others d hd).trans (h.others d hd)⟩

theorem mono {k : List Part} (h : Steady c l s t) (hl : l ⊆ k) : Steady c k s t :=
  ⟨h.keeps.mono hl, h.chan, h.others⟩

theorem setChan {v : Chan} (h : Steady c l s t) (hl : Part.chans ∈ l) (hv : steady v = steady (t.chan c)) :
    Steady c l s (t.setChan c v) :=
  ⟨h.keeps.setChan hl, (congrArg steady (chan_setChan t c v)).trans (hv.trans h.chan),
    fun d hd => (chan_setChan_ne t c d v hd).trans (h.others d hd)⟩

theorem perf (h : Steady c l s t) (hl : Part.tel ∈ l) (ev i k : Nat) : Steady c l s (Machine.perf t ev i k) :=
  ⟨h.keeps.perf ev i k hl, h.chan, h.others⟩

theorem ite {u : State} {p : Prop} [Decidable p] (h : Steady c l s t) (k : Steady c l s u) :
    Steady c l s (if p then t else u) := by
  split
  · exact h
  · exact k

theorem endReq (h : Steady c l s t) (hl : Part.reqs ∈ l) (id : Nat) (st : Status) :
    Steady c l s (Machine.endReq t id st) :=
  ⟨h.keeps.endReq hl, h.chan, h.others⟩

theorem promote (h : Steady c l s t) (hl : Part.chans ∈ l) (now : Nat) (sel : Entry → Bool) :
    Steady c l s (Machine.promote t c now sel) := by
  unfold Machine.promote
  dsimp only
  split
  · exact h
  · refine h.setChan hl ?_
    rfl

theorem setMode (h : Steady c l s t) (hc : Part.chans ∈ l) (ht : Part.tel ∈ l) (m : Bool × Option Bool) :
    Steady c l s (Machine.setMode t c m) := by
  have hm : Steady c l s (t.setChan c { t.chan c with wmode := m.1, turnedFrom := m.2 }) := h.setChan hc rfl
  unfold Machine.setMode
  dsimp only
  split
  · exact hm
  · refine perf (hm.setChan hc ?_) ht _ _ _
    rfl

theorem noteWait (h : Steady c l s t) (hc : Part.chans ∈ l) (now : Nat) (e : Entry) :
    Steady c l s (Machine.noteWait t c now e) := by
  unfold Machine.noteWait
  split
  · exact h
  · refine h.setChan hc ?_
    dsimp only
    split
    · rfl
    · rfl

theorem putEntry (h : Steady c l s t) (hc : Part.chans ∈ l) (e : Entry) : Steady c l s (Machine.putEntry t c e) :=
  h.setChan hc rfl

theorem admitReads (h : Steady c l s t) (hc : Part.chans ∈ l) : Steady c l s (Machine.admitReads t c) := by
  unfold Machine.admitReads
  split
  · exact h
  · exact h.setChan hc rfl

theorem admitWrites (h : Steady c l s t) (hc : Part.chans ∈ l) (hr : Part.reqs ∈ l) :
    Steady c l s (Machine.admitWrites t c) := by
  unfold Machine.admitWrites
  split
  · exact h
  · exact foldS_induction (P := Steady c l s) (fun u id hu => hu.endReq hr id .ok) _ (h.setChan hc rfl)

theorem dropEntry (h : Steady c l s t) (hc : Part.chans ∈ l) (hr : Part.reqs ∈ l) (id : Nat) :
    Steady c l s (Machine.dropEntry t c id) :=
  admitWrites (admitReads (h.setChan (v := (t.chan c).keepEntries _) hc rfl) hc) hc hr

theorem advanceEntry (h : Steady c l s t) (hc : Part.chans ∈ l) (hr : Part.reqs ∈ l) (e : Entry) :
    Steady c l s (Machine.advanceEntry t c e) := by
  unfold Machine.advanceEntry
  split
  · exact h.dropEntry hc hr _
  · exact h.dropEntry hc hr _
  · exact h.putEntry hc _

theorem markCol (h : Steady c l s t) (hc : Part.chans ∈ l) (ht : Part.tel ∈ l) (now : Nat) (wr : Bool) (e : Entry)
    (col : Nat) : Steady c l s (Machine.markCol t c now wr e col) := by
  have hm : ∀ v, steady v = steady (t.chan c) → Steady c l s (t.setChan c v) := fun v hv => h.setChan hc hv
  unfold Machine.markCol
  dsimp only
  refine ite (perf (hm _ ?_) ht _ _ _) (hm _ ?_)
  · rfl
  · rfl

end Steady

end Sys2Proof.Proofs

/-! A command slot of an open channel: what an activate and a column command do (R163–R167). -/

namespace Sys2Proof.Proofs

open Sys2Proof.Machine
open Sys2Proof.Safety

/-! ### The slot -/

/-- The state in which a slot of channel c at a time chooses its command: aged entries promoted, the bus turned. -/
def slotState (s : State) (c now : Nat) : State :=
  setMode (promote (atPs s now) c (nowPs (atPs s now)) (fun _ => true)) c
    (busMode (promote (atPs s now) c (nowPs (atPs s now)) (fun _ => true)) c (nowPs (atPs s now)))

/-- A slot of channel c may issue now, and no write-back and no visit follows. -/
structure Serves (s : State) (c now : Nat) : Prop where
  powered : s.pins.pwrgood = true
  on : chanOn s c = true
  beat : now / 1000000 = s.elapsed
  opened : (s.chan c).st = .opened
  clean : dirtyLines s c = []
  visit : (s.eccOf c).visit = 0

theorem steady_slotState (s : State) (c now : Nat) : Steady c [.clock, .chans, .tel] s (slotState s c now) :=
  (((Steady.of_keeps (keeps_atPs s now) (by decide)).mono (by decide)).promote (by decide) _ _).setMode (by decide)
    (by decide) _

theorem inBeat_atPs {s : State} {now : Nat} (h : now / 1000000 = s.elapsed) : inBeat (atPs s now) now = true := by
  have e : (atPs s now).elapsed = s.elapsed := keeps_atPs s now .elapsed (by decide)
  rw [inBeat, e, h]
  exact decide_eq_true rfl

theorem issue_best {s : State} {c now : Nat} {x : Cand} (h : (s.chan c).st = .opened)
    (hb : best (cands (slotState s c now) c (nowPs (atPs s now)) (some ((slotState s c now).chan c).wmode)) = some x) :
    issue (atPs s now) c (nowPs (atPs s now)) = perform (slotState s c now) c (nowPs (atPs s now)) x.cmd := by
  have k : Steady c [.clock, .chans] s (promote (atPs s now) c (nowPs (atPs s now)) (fun _ => true)) :=
    ((Steady.of_keeps (keeps_atPs s now) (by decide)).mono (by decide)).promote (by decide) _ _
  have hq : servesQueue (promote (atPs s now) c (nowPs (atPs s now)) (fun _ => true)) c = true :=
    decide_eq_true ((congrArg Prod.fst k.chan).trans h)
  unfold slotState at hb ⊢
  unfold issue
  simp only [hq, if_true, hb]

/-- A slot's command is all that the slot does, where the line buffer and the visit stay as they are. -/
theorem exec_commandIssue {s : State} {c now : Nat} {x : Cand} (h : Serves s c now)
    (hb : best (cands (slotState s c now) c (nowPs (atPs s now)) (some ((slotState s c now).chan c).wmode)) = some x)
    (hlb : ((perform (slotState s c now) c (nowPs (atPs s now)) x.cmd).chan c).lb = (s.chan c).lb)
    (hv : (perform (slotState s c now) c (nowPs (atPs s now)) x.cmd).eccOf c = s.eccOf c) :
    exec (.commandIssue c now) s = .next (fin s (perform (slotState s c now) c (nowPs (atPs s now)) x.cmd)) := by
  have hon : chanOn (atPs s now) c = true := ((keeps_atPs s now).chanOn_eq (by decide) c).trans h.on
  refine answer_next h.powered ?_
  dsimp only
  rw [hon, inBeat_atPs h.beat, Bool.and_self, if_pos rfl, issue_best h.opened hb]
  have hd : dirtyLines (perform (slotState s c now) c (nowPs (atPs s now)) x.cmd) c = [] := by
    rw [dirtyLines, hlb, ← dirtyLines, h.clean]
  rw [refillWb_of_clean hd]
  exact endVisit_of_none ((congrArg Ecc.visit hv).trans h.visit)

/-! ### An activate -/

/-- The channel whose row an activate opens. -/
def activated (ch : Chan) (now : Nat) (e : Entry) : Chan :=
  { ch with
    banks := tset {} ch.banks (bankKey e.loc.rank e.loc.bank)
      { ch.bank e.loc.rank e.loc.bank with openRow := some e.loc.row, lastAct := some now }
    acts := if e.kind = .corrWb then ch.acts else ch.acts + 1
    actTimes := (now, e.loc.rank, e.loc.bank) :: ch.actTimes.take 19
    actsCnt := ch.actsCnt + 1 }

/-- The channel whose entry has begun. -/
def entryBegun (s : State) (c now : Nat) (e : Entry) : State := putEntry (noteWait s c now e) c { e with begun := true }

theorem doAct_eq (s : State) (c now : Nat) (e : Entry) : doAct s c now e =
    drawNrf (perf ((entryBegun s c now e).setChan c (activated ((entryBegun s c now e).chan c) now e)) 0x202 c 1) c
      e.loc.rank e.loc.bank e.loc.row := rfl

theorem steady_entryBegun (s : State) (c now : Nat) (e : Entry) : Steady c [.chans] s (entryBegun s c now e) :=
  ((Steady.refl c [.chans] s).noteWait (by decide) now e).putEntry (by decide) _

theorem bank_tset (ch : Chan) (k b : Nat) (x : Bank) :
    ({ ch with banks := tset {} ch.banks (bankKey k b) x } : Chan).bank k b = x := tget_tset_self _ _ _ _

theorem steady_drawNrf (s : State) (c k b row : Nat) : Steady c [.chans, .freeIdx] s (drawNrf s c k b row) := by
  have h : Steady c [.chans, .freeIdx] s (takeFree s).2 :=
    ⟨(Keeps.refl _ s).setFreeIdx (by decide), rfl, fun _ _ => rfl⟩
  exact h.setChan (by decide) rfl

/-- The draw of an activate leaves the bank's row and its time as they are. -/
theorem drawNrf_bank (s : State) (c k b row : Nat) :
    (((drawNrf s c k b row).chan c).bank k b).openRow = ((s.chan c).bank k b).openRow ∧
      (((drawNrf s c k b row).chan c).bank k b).lastAct = ((s.chan c).bank k b).lastAct := by
  unfold drawNrf
  dsimp only
  rw [modChan_def, chan_setChan]
  unfold Chan.bank
  dsimp only
  rw [tget_tset_self]
  exact ⟨rfl, rfl⟩

theorem doAct_spec (s : State) (c now : Nat) (e : Entry) :
    (((doAct s c now e).chan c).bank e.loc.rank e.loc.bank).openRow = some e.loc.row ∧
      (((doAct s c now e).chan c).bank e.loc.rank e.loc.bank).lastAct = some now ∧
      steady ((doAct s c now e).chan c) = steady { s.chan c with actsCnt := (s.chan c).actsCnt + 1 } ∧
      Keeps [.chans, .tel, .freeIdx] s (doAct s c now e) ∧ ∀ d, d ≠ c → (doAct s c now e).chan d = s.chan d := by
  have h := steady_entryBegun s c now e
  rw [doAct_eq]
  generalize entryBegun s c now e = w at h
  have hch : (perf (w.setChan c (activated (w.chan c) now e)) 0x202 c 1).chan c = activated (w.chan c) now e :=
    chan_setChan _ _ _
  have hot : ∀ d, d ≠ c → (perf (w.setChan c (activated (w.chan c) now e)) 0x202 c 1).chan d = s.chan d := fun d hd =>
    (chan_setChan_ne w c d _ hd).trans (h.others d hd)
  have hk : Keeps [.chans, .tel, .freeIdx] s (perf (w.setChan c (activated (w.chan c) now e)) 0x202 c 1) :=
    ((h.keeps.mono (by decide)).setChan (by decide)).perf _ _ _ (by decide)
  generalize perf (w.setChan c (activated (w.chan c) now e)) 0x202 c 1 = v at hch hot hk
  obtain ⟨hrow, hact⟩ := drawNrf_bank v c e.loc.rank e.loc.bank e.loc.row
  have hd := steady_drawNrf v c e.loc.rank e.loc.bank e.loc.row
  have hbank : (v.chan c).bank e.loc.rank e.loc.bank = { (w.chan c).bank e.loc.rank e.loc.bank with
      openRow := some e.loc.row, lastAct := some now } := by
    rw [hch]
    exact bank_tset (w.chan c) e.loc.rank e.loc.bank _
  refine ⟨hrow.trans (congrArg Bank.openRow hbank), hact.trans (congrArg Bank.lastAct hbank), ?_,
    hk.trans (hd.keeps.mono (by decide)), fun d h => (hd.others d h).trans (hot d h)⟩
  rw [hd.chan, hch]
  have hs := h.chan
  simp only [steady, Prod.mk.injEq] at hs
  obtain ⟨h1, h2, h3, h4, h5, h6⟩ := hs
  simp only [steady, activated, h1, h2, h3, h4, h5, h6]

/-! ### A column read -/

/-- The state in which a column command of an entry has its marks. -/
def colMarked (s : State) (c now : Nat) (wr : Bool) (e : Entry) (col : Nat) : State :=
  markCol (noteWait s c now e) c now wr e col

/-- A burst of a read on its way: the words of its cell. -/
def readBurst (s : State) (e : Entry) (col : Nat) : Entry :=
  { e with
    cols := [col]
    got := cellRead s { e.loc with col := col }
    fromEntry := (remapAt s { e.loc with col := col }).isSome }

theorem steady_colMarked (s : State) (c now : Nat) (wr : Bool) (e : Entry) (col : Nat) :
    Steady c [.chans, .tel] s (colMarked s c now wr e col) :=
  ((Steady.refl c _ s).noteWait (by decide) now e).markCol (by decide) (by decide) now wr e col

theorem cellRead_of_keeps {l : List Part} {s t : State} (h : Keeps l s t) (he : Part.ecc ∉ l) (hm : Part.mem ∉ l)
    (x : Loc) : cellRead t x = cellRead s x := by
  have e : t.mem = s.mem := h .mem hm
  unfold cellRead remapAt memRead State.rmem
  rw [h.eccOf_eq he, e]

theorem remapAt_of_keeps {l : List Part} {s t : State} (h : Keeps l s t) (he : Part.ecc ∉ l) (x : Loc) :
    remapAt t x = remapAt s x := by
  rw [remapAt, h.eccOf_eq he, remapAt]

theorem doRead_eq (s : State) (c now : Nat) (e : Entry) (col : Nat) : doRead s c now e col =
    perf ((advanceEntry (colMarked s c now false e col) c e).modChan c (fun ch => { ch with
      inflight := ch.inflight ++ [(readBurst (colMarked s c now false e col) e col, col)]
      rdBursts := ch.rdBursts + 1 })) 0x200 c 1 := rfl

theorem doRead_spec (s : State) (c now : Nat) (e : Entry) (col : Nat) :
    steady ((doRead s c now e col).chan c) = steady { s.chan c with
        inflight := (s.chan c).inflight ++ [(readBurst (colMarked s c now false e col) e col, col)]
        rdBursts := (s.chan c).rdBursts + 1 } ∧
      (readBurst (colMarked s c now false e col) e col).got = cellRead s { e.loc with col := col } ∧
      Keeps [.chans, .tel, .reqs] s (doRead s c now e col) := by
  have hm := steady_colMarked s c now false e col
  rw [doRead_eq]
  generalize colMarked s c now false e col = w at hm
  have ha := (hm.mono (k := [.chans, .tel, .reqs]) (by decide)).advanceEntry (by decide) (by decide) e
  generalize advanceEntry w c e = v at ha
  refine ⟨?_, cellRead_of_keeps hm.keeps (by decide) (by decide) _, (ha.keeps.setChan (by decide)).perf _ _ _ (by decide)⟩
  have hs := ha.chan
  simp only [steady, Prod.mk.injEq] at hs
  obtain ⟨h1, h2, h3, h4, h5, h6⟩ := hs
  refine (congrArg steady (chan_setChan v c _)).trans ?_
  simp only [steady, h1, h2, h3, h4, h5, h6]

end Sys2Proof.Proofs

/-! What a column write does, what the age cap and an idle row do, and the obligation on a channel's commands (R163–R168). -/

namespace Sys2Proof.Safety

open Sys2Proof.Machine

theorem Keeps.mirrorOf_eq {l : List Part} {s t : State} (h : Keeps l s t) (hl : ∀ p ∈ routeParts, p ∉ l) (x : Loc) :
    mirrorOf t x = mirrorOf s x := by
  have e : t.mig = s.mig := h .mig (hl _ (by decide))
  unfold mirrorOf
  simp only [e, h.rank_eq (hl _ (by decide)), h.route_eq hl,
    h.targetOf_eq (fun p hp => hl p (by revert hp; revert p; decide))]

end Sys2Proof.Safety

namespace Sys2Proof.Proofs

open Sys2Proof.Machine
open Sys2Proof.Safety

/-! ### A column write -/

/-- The words of a line after a masked write. -/
def maskedOver (mask : Bool × Bool) (w old : Half × Half) : Half × Half :=
  (if mask.1 then w.1 else old.1, if mask.2 then w.2 else old.2)

theorem burst_of_no_mirror {s : State} {x : Loc} {mask : Bool × Bool} {w : Half × Half} {me : Nat}
    (h : mirrorOf (burstAt s x mask w me) x = none) : burst s x mask w me = burstAt s x mask w me := by
  unfold burst
  dsimp only
  rw [h]

theorem burstAt_eq {s : State} {x : Loc} {mask : Bool × Bool} {w : Half × Half} {me : Nat} (h : remapAt s x = none) :
    burstAt s x mask w me = countWr (markStale (memWrite s x (maskedOver mask w (cellRead s x))) x me) x.ch := by
  have e : ∀ v, cellWrite s x v = memWrite s x v := fun v => by rw [cellWrite, h]
  exact congrArg (fun u => countWr (markStale u x me) x.ch) (e _)

/-- What a write of a column leaves: the cell as the mask has it, no other cell, and one burst more. -/
structure Wrote (s t : State) (c : Nat) (x : Loc) (w : Half × Half) : Prop where
  cell : cellRead t x = w
  others : ∀ y : Loc, (rankKey y.ch y.rank ≠ rankKey x.ch x.rank ∨
    (s.rmem (rankKey y.ch y.rank)).key y ≠ (s.rmem (rankKey y.ch y.rank)).key x) → memRead t y = memRead s y
  lb : (t.chan c).lb = (s.chan c).lb
  bursts : (t.chan c).wrBursts = (s.chan c).wrBursts + 1
  keeps : Keeps [.chans, .tel, .mem, .reqs] s t

theorem memRead_of_mem {s t : State} (h : t.mem = s.mem) (x : Loc) : memRead t x = memRead s x := by
  unfold memRead State.rmem
  rw [h]

theorem memRead_memWrite_other (s : State) (x y : Loc) (w : Half × Half)
    (h : rankKey y.ch y.rank ≠ rankKey x.ch x.rank ∨
      (s.rmem (rankKey y.ch y.rank)).key y ≠ (s.rmem (rankKey y.ch y.rank)).key x) :
    memRead (memWrite s x w) y = memRead s y := by
  refine memRead_memWrite_ne s x y w ?_
  by_cases e : rankKey y.ch y.rank = rankKey x.ch x.rank
  · refine .inr ?_
    rw [← e]
    exact h.resolve_left (fun n => n e)
  · exact .inl e

theorem wrote_burstAt {s : State} {x : Loc} {mask : Bool × Bool} {w : Half × Half} {me : Nat} (h : remapAt s x = none) :
    Wrote s (burstAt s x mask w me) x.ch x (maskedOver mask w (cellRead s x)) := by
  rw [burstAt_eq h]
  generalize maskedOver mask w (cellRead s x) = m
  have km : Keeps [.mem] s (memWrite s x m) := (Keeps.refl _ s).setRmem (by decide)
  have hself := memRead_memWrite s x m
  have hother := memRead_memWrite_other s x
  have hch : (memWrite s x m).chan x.ch = s.chan x.ch := km.chan_eq (by decide) _
  have hw := fun y hy => hother y m hy
  generalize memWrite s x m = u at km hself hch hw
  have kt : Keeps [.chans, .tel] u (countWr (markStale u x me) x.ch) :=
    (((Keeps.refl _ u).setChan (by decide)).setChan (by decide)).perf _ _ _ (by decide)
  have hmem : (countWr (markStale u x me) x.ch).mem = u.mem := kt .mem (by decide)
  have hchan : (countWr (markStale u x me) x.ch).chan x.ch = { (markStale u x me).chan x.ch with
      wrBursts := ((markStale u x me).chan x.ch).wrBursts + 1 } := chan_setChan _ _ _
  have hst : ((markStale u x me).chan x.ch).lb = (u.chan x.ch).lb ∧
      ((markStale u x me).chan x.ch).wrBursts = (u.chan x.ch).wrBursts := by
    unfold markStale
    rw [modChan_def, chan_setChan]
    exact ⟨rfl, rfl⟩
  obtain ⟨hlb, hwr⟩ := hst
  have k : Keeps [.chans, .tel, .mem] s (countWr (markStale u x me) x.ch) := (km.mono (by decide)).trans (kt.mono (by decide))
  generalize countWr (markStale u x me) x.ch = t at hmem hchan k
  refine ⟨?_, fun y hy => (memRead_of_mem hmem y).trans (hw y hy), ?_, ?_, k.mono (by decide)⟩
  · rw [cellRead, remapAt_of_keeps k (by decide), h]
    exact (memRead_of_mem hmem x).trans hself
  · rw [hchan]
    exact hlb.trans (congrArg Chan.lb hch)
  · rw [hchan]
    dsimp only
    rw [hwr, hch]

theorem Wrote.flushed {s t : State} {c : Nat} {x : Loc} {w : Half × Half} (h : Wrote s t c x w) (d line : Nat) :
    Wrote s (Machine.flushed t d line) c x w := by
  have k : Keeps [.reqs] t (Machine.flushed t d line) := (Keeps.refl _ t).flushed (by decide)
  have hm : (Machine.flushed t d line).mem = t.mem := k .mem (by decide)
  have hc : (Machine.flushed t d line).chan c = t.chan c := k.chan_eq (by decide) c
  exact ⟨(cellRead_of_keeps k (by decide) (by decide) x).trans h.cell, fun y hy => (memRead_of_mem hm y).trans (h.others y hy),
    (congrArg Chan.lb hc).trans h.lb, (congrArg Chan.wrBursts hc).trans h.bursts, h.keeps.trans (k.mono (by decide))⟩

/-- A write of a host or of the line buffer, at one location and without a mirror. -/
theorem wrote_applyCol {s : State} {c col : Nat} {e : Entry} {w : Half × Half} (hk : isRewrite e = false)
    (hm : e.kind ≠ .migWrite) (hw : e.words = [(col, w)]) (hch : e.loc.ch = c)
    (hr : remapAt s { e.loc with col := col } = none) (hmi : mirrorOf s { e.loc with col := col } = none) :
    Wrote s (applyCol s c e col) c { e.loc with col := col }
      (maskedOver e.mask w (cellRead s { e.loc with col := col })) := by
  have hwords : e.wordsAt s col = w := by
    rw [Entry.wordsAt, if_neg hm, hw]
    simp
  have hb := wrote_burstAt (mask := e.mask) (w := w) (me := e.id) hr
  have hbe : burst s { e.loc with col := col } e.mask w e.id = burstAt s { e.loc with col := col } e.mask w e.id :=
    burst_of_no_mirror ((hb.keeps.mirrorOf_eq (by decide) _).trans hmi)
  have hb' : Wrote s (burstAt s { e.loc with col := col } e.mask w e.id) c { e.loc with col := col }
      (maskedOver e.mask w (cellRead s { e.loc with col := col })) := by
    subst hch
    exact hb
  unfold applyCol
  dsimp only
  rw [if_neg hm, hwords, hbe, hk, if_neg Bool.false_ne_true]
  split
  · exact hb'
  · exact hb'.flushed _ _

theorem doWrite_plain {s : State} {c now col : Nat} {e : Entry} (hk : isRewrite e = false) :
    doWrite s c now e col = applyCol (advanceEntry (colMarked s c now true e col) c e) c e col := by
  have hc : ¬ e.kind = .corrWb := fun h => by
    rw [isRewrite, decide_eq_true h] at hk
    exact Bool.noConfusion hk
  unfold doWrite
  rw [hk, Bool.false_and, if_neg Bool.false_ne_true]
  dsimp only
  rw [decide_eq_false hc, Bool.false_and, if_neg Bool.false_ne_true]
  rfl

theorem doWrite_wrote {s : State} {c now col : Nat} {e : Entry} {w : Half × Half} (hk : isRewrite e = false)
    (hm : e.kind ≠ .migWrite) (hw : e.words = [(col, w)]) (hch : e.loc.ch = c)
    (hr : remapAt s { e.loc with col := col } = none) (hmi : mirrorOf s { e.loc with col := col } = none) :
    Wrote s (doWrite s c now e col) c { e.loc with col := col }
      (maskedOver e.mask w (cellRead s { e.loc with col := col })) := by
  have h : Steady c [.chans, .tel, .reqs] s (advanceEntry (colMarked s c now true e col) c e) :=
    ((steady_colMarked s c now true e col).mono (by decide)).advanceEntry (by decide) (by decide) e
  rw [doWrite_plain hk]
  generalize advanceEntry (colMarked s c now true e col) c e = u at h
  have hw' := wrote_applyCol (s := u) hk hm hw hch ((remapAt_of_keeps h.keeps (by decide) _).trans hr)
    ((h.keeps.mirrorOf_eq (by decide) _).trans hmi)
  rw [cellRead_of_keeps h.keeps (by decide) (by decide)] at hw'
  have hmem : u.mem = s.mem := h.keeps .mem (by decide)
  have hs := h.chan
  simp only [steady, Prod.mk.injEq] at hs
  obtain ⟨-, hlb, -, -, hwr, -⟩ := hs
  refine ⟨hw'.cell, fun y hy => (hw'.others y ?_).trans (memRead_of_mem hmem y), hw'.lb.trans hlb, ?_,
    (h.keeps.mono (by decide)).trans hw'.keeps⟩
  · unfold State.rmem at hy ⊢
    rw [hmem]
    exact hy
  · rw [hw'.bursts, hwr]

/-! ### The age cap and the idle row -/

/-- The entry of that number has waited for the age cap. -/
def dueEntry (id now : Nat) (x : Entry) : Bool :=
  !x.fixed && !x.aged && decide (x.id = id) && decide (x.since + 2000000 ≤ now)

/-- An entry promoted where it is due. -/
def agedIfDue (id now : Nat) (x : Entry) : Entry := if dueEntry id now x then { x with aged := true } else x

theorem dueEntry_other {id now : Nat} {x : Entry} (h : x.id ≠ id) : dueEntry id now x = false := by
  simp [dueEntry, h]

theorem filter_dueEntry_other {id now : Nat} {q : List Entry} (h : ∀ x ∈ q, x.id ≠ id) :
    q.filter (dueEntry id now) = [] :=
  List.filter_eq_nil_iff.mpr fun x hx => by simp [dueEntry_other (h x hx)]

theorem map_agedIfDue_other {id now : Nat} {q : List Entry} (h : ∀ x ∈ q, x.id ≠ id) : q.map (agedIfDue id now) = q :=
  (List.map_congr_left fun x hx => by rw [agedIfDue, dueEntry_other (h x hx), if_neg Bool.false_ne_true, id_eq]).trans
    (List.map_id q)

/-- With one entry due, the entry is promoted in its place and counted. -/
theorem promote_one {s : State} {c now : Nat} {e : Entry} {a b : List Entry} (hq : (s.chan c).rdq = a ++ e :: b)
    (hid : ∀ x ∈ a ++ b ++ (s.chan c).wrq, x.id ≠ e.id) (hd : dueEntry e.id now e = true) :
    promote s c now (fun x => x.id = e.id) = s.setChan c { s.chan c with
      rdq := a ++ { e with aged := true } :: b
      aged := (s.chan c).aged + 1 } := by
  have ha : ∀ x ∈ a, x.id ≠ e.id := fun x hx => hid x (by simp [hx])
  have hb : ∀ x ∈ b, x.id ≠ e.id := fun x hx => hid x (by simp [hx])
  have hw : ∀ x ∈ (s.chan c).wrq, x.id ≠ e.id := fun x hx => hid x (by simp [hx])
  have hcount : (((s.chan c).rdq ++ (s.chan c).wrq).filter (dueEntry e.id now)).length = 1 := by
    rw [hq, List.filter_append, List.filter_append, List.filter_cons, if_pos hd, filter_dueEntry_other ha,
      filter_dueEntry_other hb, filter_dueEntry_other hw]
    rfl
  have hrdq : (s.chan c).rdq.map (agedIfDue e.id now) = a ++ { e with aged := true } :: b := by
    rw [hq, List.map_append, List.map_cons, map_agedIfDue_other ha, map_agedIfDue_other hb, agedIfDue, if_pos hd]
  have hp : promote s c now (fun x => x.id = e.id) =
      if (((s.chan c).rdq ++ (s.chan c).wrq).filter (dueEntry e.id now)).length = 0 then s
      else s.setChan c { s.chan c with
        rdq := (s.chan c).rdq.map (agedIfDue e.id now)
        wrq := (s.chan c).wrq.map (agedIfDue e.id now)
        aged := (s.chan c).aged +
          BitVec.ofNat 72 (((s.chan c).rdq ++ (s.chan c).wrq).filter (dueEntry e.id now)).length } := rfl
  rw [hp, hcount, hrdq, map_agedIfDue_other hw]
  rfl

theorem le_nowPs_atPs {s : State} {now : Nat} (h : now / 1000000 = s.elapsed) : now ≤ nowPs (atPs s now) := by
  rw [nowPs, atPs, if_pos (show inBeat s now = true from decide_eq_true h)]
  exact Nat.le_trans (Nat.le_max_right s.clock now) (Nat.le_max_left _ _)

theorem exec_ageCapReached {s : State} {c now : Nat} {e : Entry} {a b : List Entry} (hp : s.pins.pwrgood = true)
    (hn : now / 1000000 = s.elapsed) (hq : (s.chan c).rdq = a ++ e :: b)
    (hid : ∀ x ∈ a ++ b ++ (s.chan c).wrq, x.id ≠ e.id) (hf : e.fixed = false) (ha : e.aged = false)
    (hs : e.since + 2000000 ≤ now) :
    exec (.ageCapReached c e.id now) s = .next (fin s ((atPs s now).setChan c { s.chan c with
      rdq := a ++ { e with aged := true } :: b
      aged := (s.chan c).aged + 1 })) := by
  have hd : dueEntry e.id (nowPs (atPs s now)) e = true := by
    simp [dueEntry, hf, ha, Nat.le_trans hs (le_nowPs_atPs hn)]
  have hch : (atPs s now).chan c = s.chan c := (keeps_atPs s now).chan_eq (by decide) c
  rw [← hch] at hq hid ⊢
  refine answer_next hp ?_
  dsimp only
  rw [if_pos (inBeat_atPs hn)]
  exact promote_one hq hid hd

theorem exec_pageIdleClose {s : State} {c k b now : Nat} (hp : s.pins.pwrgood = true) (hc : chanOn s c = true)
    (hn : now / 1000000 = s.elapsed) (ho : (s.chan c).st = .opened) (hf : s.flt.fatal = false)
    (hi : (s.chan c).pageIdle ≠ 0) (hh : ((s.chan c).bank k b).hits < (s.chan c).hitThresh.toNat)
    (hidle : ((s.chan c).bank k b).idleFrom + (s.chan c).pageIdle.toNat * 10000 ≤ nowPs (atPs s now))
    (hl : preLegal (s.chan c) k b (nowPs (atPs s now)) = true) :
    exec (.pageIdleClose c k b now) s = .next (fin s (doPre (atPs s now) c k b (nowPs (atPs s now)) false)) := by
  have ka := keeps_atPs s now
  have hch : (atPs s now).chan c = s.chan c := ka.chan_eq (by decide) c
  have hflt : (atPs s now).flt = s.flt := ka .flt (by decide)
  have hr : servesRefresh (atPs s now) c = true := by
    simp [servesRefresh, hch, ho, stackDown, hflt, hf]
  refine answer_next hp (if_pos ?_)
  simp only [(ka.chanOn_eq (by decide) c).trans hc, inBeat_atPs hn, hr, hch, hi, hh, hidle, hl, ne_eq,
    not_false_eq_true, decide_true, Bool.or_true, Bool.and_self]

/-! ### The obligation -/

/-- The slot issues the command `x`: the best of the candidates. -/
def Chooses (s : State) (c now : Nat) (x : Cmd) : Prop :=
  ∃ g a, best (cands (slotState s c now) c (nowPs (atPs s now)) (some ((slotState s c now).chan c).wmode)) = some ⟨g, a, x⟩

theorem chooses_of {s v u : State} {c now n g a : Nat} {x : Cmd} (en : n = nowPs (atPs s now))
    (ev : v = promote (atPs s now) c n (fun _ => true)) (eu : u = setMode v c (busMode v c n))
    (hb : best (cands u c n (some (u.chan c).wmode)) = some ⟨g, a, x⟩) : Chooses s c now x := by
  have e : u = slotState s c now := by
    rw [eu, ev, en]
    rfl
  rw [e, en] at hb
  exact ⟨g, a, hb⟩

theorem exec_slot {s t : State} {c now : Nat} {x : Cmd} (h : Serves s c now) (hx : Chooses s c now x)
    (ht : perform (slotState s c now) c (nowPs (atPs s now)) x = t) (hlb : (t.chan c).lb = ((slotState s c now).chan c).lb)
    (hv : t.eccOf c = (slotState s c now).eccOf c) : exec (.commandIssue c now) s = .next (fin s t) := by
  subst ht
  obtain ⟨g, a, hb⟩ := hx
  have k := steady_slotState s c now
  exact exec_commandIssue h hb (hlb.trans (congrArg (·.2.1) k.chan)) (hv.trans (k.keeps.eccOf_eq (by decide) c))

theorem exec_slot_act {s : State} {c now : Nat} {wr : Bool} {e : Entry} (h : Serves s c now)
    (hx : Chooses s c now (.act wr e)) :
    ∃ t, exec (.commandIssue c now) s = .next t ∧
      ((t.chan c).bank e.loc.rank e.loc.bank).openRow = some e.loc.row ∧
      ((t.chan c).bank e.loc.rank e.loc.bank).lastAct = some (nowPs (atPs s now)) ∧
      (t.chan c).actsCnt = (s.chan c).actsCnt + 1 ∧
      (t.chan c).inflight = (s.chan c).inflight ∧ Keeps [.clock, .chans, .tel, .freeIdx] s t ∧
      ∀ d, d ≠ c → t.chan d = s.chan d := by
  have k := steady_slotState s c now
  obtain ⟨hrow, hact, hst, hk, hot⟩ := doAct_spec (slotState s c now) c (nowPs (atPs s now)) e
  have hperf : perform (slotState s c now) c (nowPs (atPs s now)) (.act wr e) =
      doAct (slotState s c now) c (nowPs (atPs s now)) e := rfl
  have he := exec_slot h hx hperf
  clear hperf
  generalize doAct (slotState s c now) c (nowPs (atPs s now)) e = t at hrow hact hst hk hot he
  generalize slotState s c now = u at k hst hk hot he
  have hs := k.chan
  simp only [steady, Prod.mk.injEq] at hst hs
  obtain ⟨-, hlb, hfl, -, -, hac⟩ := hst
  obtain ⟨-, -, hfl', -, -, hac'⟩ := hs
  refine ⟨_, he hlb (hk.eccOf_eq (by decide) c), hrow, hact, hac.trans (congrArg (· + 1) hac'), hfl.trans hfl',
    ((k.keeps.mono (by decide)).trans (hk.mono (by decide))).fin, fun d hd => (hot d hd).trans (k.others d hd)⟩

theorem exec_slot_read {s : State} {c now col : Nat} {e : Entry} {more : List Nat} (h : Serves s c now)
    (hx : Chooses s c now (.col false e)) (hcols : e.cols = col :: more) :
    ∃ t x, exec (.commandIssue c now) s = .next t ∧ (t.chan c).inflight = (s.chan c).inflight ++ [(x, col)] ∧
      x.got = cellRead s { e.loc with col := col } ∧ x.req = e.req ∧ x.loc = e.loc ∧
      (t.chan c).rdBursts = (s.chan c).rdBursts + 1 ∧ Keeps [.clock, .chans, .tel, .reqs] s t := by
  have k := steady_slotState s c now
  obtain ⟨hst, hgot, hk⟩ := doRead_spec (slotState s c now) c (nowPs (atPs s now)) e col
  have hperf : perform (slotState s c now) c (nowPs (atPs s now)) (.col false e) =
      doRead (slotState s c now) c (nowPs (atPs s now)) e col := by
    simp only [perform, hcols, Bool.false_eq_true, if_false]
  have he := exec_slot h hx hperf
  clear hperf
  have hreq : (readBurst (colMarked (slotState s c now) c (nowPs (atPs s now)) false e col) e col).req = e.req := rfl
  have hloc : (readBurst (colMarked (slotState s c now) c (nowPs (atPs s now)) false e col) e col).loc = e.loc := rfl
  generalize readBurst (colMarked (slotState s c now) c (nowPs (atPs s now)) false e col) e col = x at hst hgot hreq hloc
  generalize doRead (slotState s c now) c (nowPs (atPs s now)) e col = t at hst hk he
  generalize slotState s c now = u at k hst hk hgot he
  have hs := k.chan
  simp only [steady, Prod.mk.injEq] at hst hs
  obtain ⟨-, hlb, hfl, hrd, -, -⟩ := hst
  obtain ⟨-, -, hfl', hrd', -, -⟩ := hs
  refine ⟨_, x, he hlb (hk.eccOf_eq (by decide) c), hfl.trans (congrArg (· ++ _) hfl'),
    hgot.trans (cellRead_of_keeps k.keeps (by decide) (by decide) _), hreq, hloc, hrd.trans (congrArg (· + 1) hrd'),
    ((k.keeps.mono (by decide)).trans (hk.mono (by decide))).fin⟩

theorem hostWrite_plain {e : Entry} (h : e.kind = .writeBack ∨ e.kind = .bypassWrite ∨ e.kind = .maskedBurst) :
    isRewrite e = false ∧ e.kind ≠ .migWrite := by
  obtain h | h | h := h
  · simp [isRewrite, h]
  · simp [isRewrite, h]
  · simp [isRewrite, h]

theorem exec_slot_write {s : State} {c now col : Nat} {e : Entry} {w : Half × Half} (h : Serves s c now)
    (hx : Chooses s c now (.col true e)) (hcols : e.cols = [col])
    (hkind : e.kind = .writeBack ∨ e.kind = .bypassWrite ∨ e.kind = .maskedBurst) (hw : e.words = [(col, w)])
    (hch : e.loc.ch = c) (hr : remapAt s { e.loc with col := col } = none)
    (hmi : mirrorOf s { e.loc with col := col } = none) :
    ∃ t, exec (.commandIssue c now) s = .next t ∧
      cellRead t { e.loc with col := col } = maskedOver e.mask w (cellRead s { e.loc with col := col }) ∧
      (∀ y : Loc, (rankKey y.ch y.rank ≠ rankKey e.loc.ch e.loc.rank ∨
          (s.rmem (rankKey y.ch y.rank)).key y ≠ (s.rmem (rankKey y.ch y.rank)).key { e.loc with col := col }) →
        memRead t y = memRead s y) ∧
      (t.chan c).wrBursts = (s.chan c).wrBursts + 1 ∧ Keeps [.clock, .chans, .tel, .mem, .reqs] s t := by
  have k := steady_slotState s c now
  obtain ⟨hrew, hmig⟩ := hostWrite_plain hkind
  have hwr := doWrite_wrote (s := slotState s c now) (now := nowPs (atPs s now)) hrew hmig hw hch
    ((remapAt_of_keeps k.keeps (by decide) _).trans hr) ((k.keeps.mirrorOf_eq (by decide) _).trans hmi)
  rw [cellRead_of_keeps k.keeps (by decide) (by decide)] at hwr
  have hperf : perform (slotState s c now) c (nowPs (atPs s now)) (.col true e) =
      doWrite (slotState s c now) c (nowPs (atPs s now)) e col := by
    simp only [perform, hcols, if_true]
  have he := exec_slot h hx hperf
  clear hperf
  generalize doWrite (slotState s c now) c (nowPs (atPs s now)) e col = t at hwr he
  generalize slotState s c now = u at k hwr he
  have hmem : u.mem = s.mem := k.keeps .mem (by decide)
  have hs := k.chan
  simp only [steady, Prod.mk.injEq] at hs
  obtain ⟨-, -, -, -, hwb, -⟩ := hs
  refine ⟨_, he hwr.lb (hwr.keeps.eccOf_eq (by decide) c), hwr.cell,
    fun y hy => (hwr.others y ?_).trans (memRead_of_mem hmem y), hwr.bursts.trans (congrArg (· + 1) hwb),
    ((k.keeps.mono (by decide)).trans (hwr.keeps.mono (by decide))).fin⟩
  unfold State.rmem at hy ⊢
  rw [hmem]
  exact hy

/-- Settles O34. -/
theorem channelCommands : Obligations.ChannelCommands := by
  refine ⟨fun s v u c now n g a wr e hp hc hn ho hd hv en ev eu hb => ?_,
    fun s v u c now n g a col e more hp hc hn ho hd hv en ev eu hb hcols => ?_,
    fun s v u c now n g a col e w hp hc hn ho hd hv en ev eu hb hcols hkind hw hch hr hmi => ?_,
    fun s u c now e a b hp hn hq hid hf ha hs eu => ?_,
    fun s u c k b now n hp hc hn ho hf hi hh eu en hidle hl => ?_⟩
  · have hx := chooses_of en ev eu hb
    rw [en]
    exact exec_slot_act ⟨hp, hc, hn, ho, hd, hv⟩ hx
  · exact exec_slot_read ⟨hp, hc, hn, ho, hd, hv⟩ (chooses_of en ev eu hb) hcols
  · have h := exec_slot_write ⟨hp, hc, hn, ho, hd, hv⟩ (chooses_of en ev eu hb) hcols hkind hw hch hr hmi
    rw [hch] at h
    exact h
  · rw [eu]
    exact exec_ageCapReached hp hn hq hid hf ha hs
  · rw [en, eu] at hidle hl ⊢
    rw [exec_pageIdleClose hp hc hn ho hf hi hh hidle hl, doPre, setBank, modChan_def,
      (keeps_atPs s now).chan_eq (by decide)]
    rfl

end Sys2Proof.Proofs
